-- ==== Sys2Proof/Word.lean ====
section
/-! DEFINITION. The word types of the Relvex Y2 (spec/00_scope.md R5, R6: little-endian, bit 0 least significant). -/

namespace Sys2Proof

/-- One byte of a scratchpad, of global memory or of a register image. -/
abbrev Byte := BitVec 8

/-- A 32-bit word: a scalar register, a plane cell, a leaf, a slot word. -/
abbrev Word := BitVec 32

/-- A 64-bit value: a scalar pair, CYCLE, a completion word. -/
abbrev Dword := BitVec 64

end Sys2Proof
end

