-- ==== Sys2Proof/Syntax.lean ====
section
/-! DEFINITION. The instruction type: one constructor for every row of the spec's table of operations and events.
The slot instructions carry the operand fields of spec/02_formats_and_opcode_map.md R57, R58, R77; the stop bit S frames
bundles (R55) and is no part of an instruction. The events carry what the outside world, or the order in which the
agents move, decides. -/

namespace Sys2Proof

/-- A scalar register s0-s63 (R14). -/
abbrev SReg := BitVec 6
/-- A special register k0-k63 (R24). -/
abbrev KReg := BitVec 6
/-- A lane mask m0-m7 (R22). -/
abbrev MaskReg := BitVec 3

/-- The direction of a plane line (R16). -/
inductive Dir where
  | row | col | diag | anti
  deriving DecidableEq, Repr

/-- A plane line: a direction and an index (R16). -/
structure Line where
  dir : Dir
  idx : BitVec 6
  deriving DecidableEq, Repr

/-- The element types of R98, in code order 0-13. -/
inductive ElemType where
  | f32 | f64 | bf16 | f16 | e4m3 | e5m2 | i32 | i16 | i8 | n32 | n16 | n8 | e2m1 | p32
  deriving DecidableEq, Repr

/-- The conditions of VCMP, 0-6 (R156). -/
inductive VCond where
  | eq | ne | lt | le | gt | ge | un
  deriving DecidableEq, Repr

/-- The operations of VSCAN, 0-2 (R163). -/
inductive ScanOp where
  | sum | max | min
  deriving DecidableEq, Repr

/-- The operations of VRED, 0-6 (R164). -/
inductive RedOp where
  | sum | max | min | and | or | xor | argmax
  deriving DecidableEq, Repr

/-- The atomic operations, 0-13 (R79, R178). -/
inductive AtomOp where
  | add | sub | and | or | xor | xch | smin | smax | umin | umax | fmin | fmax | fadd | cas
  deriving DecidableEq, Repr

/-- The address space of an ATOM (R177). -/
inductive AtomSpace where
  | loc | crew
  deriving DecidableEq, Repr

/-- The coded release scope of an SPOST (R183). -/
inductive PostScope where
  | tile | crew | die
  deriving DecidableEq, Repr

/-- What a FENCE waits for (R186). -/
inductive FenceKind where
  | sp | cp | all
  deriving DecidableEq, Repr

/-- The memory-model scopes, codes 0-4 (R255). -/
inductive MemScope where
  | tile | crew | die | pkg | sys
  deriving DecidableEq, Repr

/-- One tile: its compute die and its site index y * 10 + x (R29). -/
structure TileId where
  die  : Fin 8
  site : Fin 80
  deriving DecidableEq, Repr

/-- Why a copy or a stream fails at execution (R198, R225, R372). -/
inductive CopyFailCause where
  /-- a translation fault that the host fails, PROT, BADTTE or PAERR -/
  | translation
  /-- an import window revoked, refused or timed out -/
  | window
  /-- a tensor id, coordinate, alignment, width or footprint invalid against the tensor table -/
  | tensor
  /-- a page in a fenced stack, or a route through fenced dies -/
  | fencedStack
  /-- an uncorrectable memory error, or a line that no mapping region holds any more -/
  | memory
  /-- the peer of a CREW copy has stopped -/
  | peerStopped
  /-- an invalid DTAB image -/
  | image
  /-- a stream the decoder cannot finish (R225) -/
  | decode
  /-- not complete 10 us after a cut, a kill or a fault (R300) -/
  | cut
  deriving DecidableEq, Repr

/-- One window of the test kernel in a sweep (R342): its replays, and whether a third flag was found. -/
structure TestWindow where
  replays : Nat
  third   : Bool
  deriving DecidableEq, Repr

/-- What a write to the Margin Record Store that power was lost in was for (R348, R351): the header or a site's record. -/
inductive StoreWrite where
  | header
  | site (t : TileId)
  deriving DecidableEq, Repr

/-- Where a write to the Margin Record Store stood when power was lost: in copy A, between the copies, or in copy B (R351, R353). -/
inductive TornStage where
  | inA | between | inB
  deriving DecidableEq, Repr

/-- Where a host write goes: control space (R388) or host memory. Aperture writes are aperture accesses. -/
inductive HostDest where
  | control | hostMem
  deriving DecidableEq, Repr

/-- One host access of the aperture (R390). -/
inductive ApertureOp where
  | read (len : Nat)
  | write (data : List Byte)
  deriving DecidableEq, Repr

/-- Import or export window (R400). -/
inductive WindowKind where
  | imp | exp
  deriving DecidableEq, Repr

/-- The PLDM sensors of the sideband port but for the energy accumulators (R403). -/
inductive PldmSensor where
  /-- the highest tile temperature of a die -/
  | dieTemp (d : Fin 8)
  | power
  /-- the high or the low rail of a die -/
  | rail (d : Fin 8) (high : Bool)
  | fstat
  | viral
  deriving DecidableEq, Repr

/-- The two readers of the energy accumulators, each with its own snapshots (R420). -/
inductive EnergyPort where
  | host | sideband
  deriving DecidableEq, Repr

/-- What is read: an energy accumulator, or another sensor (R403, R420). -/
inductive EnergySource where
  | counter (i : Fin 19)
  | sensor (x : PldmSensor)
  deriving DecidableEq, Repr

/-- A flit group as it arrives: the port of the peer that sent it, and its bytes (R395). -/
structure ArrivingGroup where
  sender : Fin 12
  bytes  : List Byte
  deriving DecidableEq, Repr

/-- A peer packet (R396). -/
structure Packet where
  ptype  : Byte
  status : Byte
  owntag : BitVec 16
  node   : BitVec 16
  rid    : BitVec 16
  xw     : Byte
  aop    : Byte
  zeros  : Bool
  len    : Nat
  offset : Nat
  data   : List Byte
  deriving DecidableEq, Repr

/-- The operations and events of the machine. -/
inductive Instr where
  /-- NOP (R78): No operation; changes only PC, CYCLE and SEGCNT and is fed to SEGSIG. -/
  | nop
  /-- ADD (R117): Writes s[A] + s[B] to s[D]. -/
  | add (sd sa sb : SReg)
  /-- SUB (R117): Writes s[A] - s[B] to s[D]. -/
  | sub (sd sa sb : SReg)
  /-- MUL (R117): Writes the low 32 bits of the product. -/
  | mul (sd sa sb : SReg)
  /-- MULH (R117): Writes the high 32 bits of the signed product. -/
  | mulh (sd sa sb : SReg)
  /-- MULHU (R117): Writes the high 32 bits of the unsigned product. -/
  | mulhu (sd sa sb : SReg)
  /-- DIV (R118): Signed division truncating toward zero, with fixed results for divide by zero and overflow. -/
  | div (sd sa sb : SReg)
  /-- DIVU (R118): Unsigned division truncating toward zero. -/
  | divu (sd sa sb : SReg)
  /-- REM (R118): Signed remainder of the truncating division. -/
  | rem (sd sa sb : SReg)
  /-- REMU (R118): Unsigned remainder. -/
  | remu (sd sa sb : SReg)
  /-- AND (R117): Bitwise AND of two scalars. -/
  | and (sd sa sb : SReg)
  /-- OR (R117): Bitwise OR of two scalars. -/
  | or (sd sa sb : SReg)
  /-- XOR (R117): Bitwise XOR of two scalars. -/
  | xor (sd sa sb : SReg)
  /-- SHL (R117): Shifts left by s[B][4:0]. -/
  | shl (sd sa sb : SReg)
  /-- SHR (R117): Logical shift right by s[B][4:0]. -/
  | shr (sd sa sb : SReg)
  /-- SRA (R117): Arithmetic shift right by s[B][4:0]. -/
  | sra (sd sa sb : SReg)
  /-- ADDI (R117): Adds a sign-extended imm8. -/
  | addi (sd sa : SReg) (imm : BitVec 8)
  /-- ANDI (R117): ANDs a zero-extended imm8. -/
  | andi (sd sa : SReg) (imm : BitVec 8)
  /-- ORI (R117): ORs a zero-extended imm8. -/
  | ori (sd sa : SReg) (imm : BitVec 8)
  /-- SHLI (R117): Shifts left by an immediate amount. -/
  | shli (sd sa : SReg) (amt : BitVec 5)
  /-- SHRI (R117): Logical shift right by an immediate amount. -/
  | shri (sd sa : SReg) (amt : BitVec 5)
  /-- SRAI (R117): Arithmetic shift right by an immediate amount. -/
  | srai (sd sa : SReg) (amt : BitVec 5)
  /-- SETLO (R119): Writes the zero-extended imm16 to s[D]. -/
  | setlo (sd : SReg) (imm : BitVec 16)
  /-- SETHI (R119): Writes imm16 shifted left by 16 to s[D]. -/
  | sethi (sd : SReg) (imm : BitVec 16)
  /-- SEQ (R117): Writes 1 if the operands are equal, else 0. -/
  | seq (sd sa sb : SReg)
  /-- SLT (R117): Signed less-than comparison. -/
  | slt (sd sa sb : SReg)
  /-- SLTU (R117): Unsigned less-than comparison. -/
  | sltu (sd sa sb : SReg)
  /-- MIN (R117): Signed minimum. -/
  | min (sd sa sb : SReg)
  /-- MAX (R117): Signed maximum. -/
  | max (sd sa sb : SReg)
  /-- SEL (R120): Writes s[A] to s[D] if s[D] is non-zero, else s[B]. -/
  | sel (sd sa sb : SReg)
  /-- CLZ (R121): Counts the leading zero bits. -/
  | clz (sd sa : SReg)
  /-- POPC (R121): Counts the one bits. -/
  | popc (sd sa : SReg)
  /-- BREV (R121): Reverses the bit order. -/
  | brev (sd sa : SReg)
  /-- SEXTB (R121): Sign-extends the low byte. -/
  | sextb (sd sa : SReg)
  /-- SEXTH (R121): Sign-extends the low half. -/
  | sexth (sd sa : SReg)
  /-- ZEXTB (R121): Zero-extends the low byte. -/
  | zextb (sd sa : SReg)
  /-- ZEXTH (R121): Zero-extends the low half. -/
  | zexth (sd sa : SReg)
  /-- ABS (R121): Writes the absolute value. -/
  | abs (sd sa : SReg)
  /-- NOT (R121): Writes the bitwise complement. -/
  | not (sd sa : SReg)
  /-- BR (R123): Unconditional relative branch. -/
  | br (off : BitVec 16)
  /-- BRZ (R123): Branches if the register is zero. -/
  | brz (sr : SReg) (off : BitVec 16)
  /-- BRNZ (R123): Branches if the register is non-zero. -/
  | brnz (sr : SReg) (off : BitVec 16)
  /-- BRLZ (R123): Branches if the register is negative. -/
  | brlz (sr : SReg) (off : BitVec 16)
  /-- JR (R123): Jumps to the word address in s[A][15:0]. -/
  | jr (sa : SReg)
  /-- CALL (R123): Writes the return address to s63 and branches relative. -/
  | call (off : BitVec 16)
  /-- CALLR (R123): Writes the return address to s63 and jumps through s[A]. -/
  | callr (sa : SReg)
  /-- LOOP (R126): Pushes a hardware loop with the count from a register, or skips the body on zero. -/
  | loop (sc : SReg) (off : BitVec 16)
  /-- LOOPI (R126): Pushes a hardware loop with an immediate count, or skips the body on zero. -/
  | loopi (count : BitVec 8) (off : BitVec 16)
  /-- LBRK (R128): Pops the innermost loop entry and continues after its body. -/
  | lbrk
  /-- LIDX (R129): Reads the index of a loop entry into s[D]. -/
  | lidx (sd : SReg) (level : Fin 6)
  /-- PEND (R131): Ends the member's part of a point, or the prologue, once queue and scoreboard are empty. -/
  | pend
  /-- PEND_COMMIT (R131): A held PEND commits when the copy queue and scoreboard become empty, emptying the loop stack. -/
  | pendCommit (t : TileId)
  /-- SEGCHK (R134): Compares expected count and signature with SEGCNT and SEGSIG, restarting the segment or trapping 0x0A. -/
  | segchk (sa sb : SReg)
  /-- TRAP (R136): Commits its bundle and enters a trap with cause 0x0B at the next boundary. -/
  | trap (imm : BitVec 16)
  /-- RTE (R137): Settles the scoreboard, clears TRAPPED and re-enters the trapped bundle at TPC and SR. -/
  | rte
  /-- BKPT (R136): Commits its bundle and enters a trap with cause 0x0C at the next boundary. -/
  | bkpt (imm : BitVec 16)
  /-- MOVK (R139): Reads a k-register into s[D], snapshotting CYCLE[63:32] for k5. -/
  | movk (sd : SReg) (k : KReg)
  /-- KMOV (R140): Writes s[A] to a writable k-register under its access rule, or traps 0x03. -/
  | kmov (k : KReg) (sa : SReg)
  /-- TSTAMP (R141): Writes the 64-bit TIME into an even/odd scalar pair. -/
  | tstamp (pair : BitVec 5)
  /-- VADD (R151): Element-wise addition of two lines. -/
  | vadd (pd pa pb : Line)
  /-- VSUB (R151): Element-wise subtraction. -/
  | vsub (pd pa pb : Line)
  /-- VMUL (R151): Element-wise multiplication. -/
  | vmul (pd pa pb : Line)
  /-- VFMA (R152): Fused d + a*b, rounded once. -/
  | vfma (pd pa pb : Line)
  /-- VFMS (R152): Fused d - a*b, rounded once. -/
  | vfms (pd pa pb : Line)
  /-- VFNMA (R152): Fused a*b - d, rounded once. -/
  | vfnma (pd pa pb : Line)
  /-- VMIN (R151): Element-wise minimum under minimumNumber rules. -/
  | vmin (pd pa pb : Line)
  /-- VMAX (R151): Element-wise maximum under maximumNumber rules. -/
  | vmax (pd pa pb : Line)
  /-- VABS (R153): Element-wise absolute value. -/
  | vabs (pd pa : Line)
  /-- VNEG (R153): Element-wise negation. -/
  | vneg (pd pa : Line)
  /-- VRCP (R154): Correctly rounded reciprocal. -/
  | vrcp (pd pa : Line)
  /-- VRSQ (R154): Correctly rounded reciprocal square root. -/
  | vrsq (pd pa : Line)
  /-- VEXP2 (R154): Correctly rounded power of two. -/
  | vexp2 (pd pa : Line)
  /-- VLOG2 (R154): Correctly rounded base-2 logarithm. -/
  | vlog2 (pd pa : Line)
  /-- VCVT (R162): Converts elements between two types named by the conversion code. -/
  | vcvt (pd pa : Line) (src dst : ElemType)
  /-- VCMP (R156): Compares elements and writes the results into a mask. -/
  | vcmp (cond : VCond) (md : MaskReg) (pa pb : Line)
  /-- VSEL (R157): Selects each element from A or B by the current mask. -/
  | vsel (pd pa pb : Line)
  /-- VAND (R158): Element-wise bitwise AND. -/
  | vand (pd pa pb : Line)
  /-- VOR (R158): Element-wise bitwise OR. -/
  | vor (pd pa pb : Line)
  /-- VXOR (R158): Element-wise bitwise XOR. -/
  | vxor (pd pa pb : Line)
  /-- VSHL (R158): Element-wise shift left. -/
  | vshl (pd pa pb : Line)
  /-- VSHR (R158): Element-wise logical shift right. -/
  | vshr (pd pa pb : Line)
  /-- VSRA (R158): Element-wise arithmetic shift right. -/
  | vsra (pd pa pb : Line)
  /-- VADDS (R155): Adds a scalar to every element. -/
  | vadds (pd pa : Line) (sb : SReg)
  /-- VMULS (R155): Multiplies every element by a scalar. -/
  | vmuls (pd pa : Line) (sb : SReg)
  /-- VFMAS (R155): Fused d + a*s with a scalar s. -/
  | vfmas (pd pa : Line) (sb : SReg)
  /-- VBCAST (R159): Broadcasts a scalar into every active element. -/
  | vbcast (pd : Line) (sa : SReg)
  /-- VIOTA (R160): Writes each active element's index. -/
  | viota (pd : Line)
  /-- VSHUF (R161): Permutes elements of A by the indices in B. -/
  | vshuf (pd pa pb : Line)
  /-- VSCAN (R163): Inclusive scan over active elements. -/
  | vscan (pd pa : Line) (op : ScanOp)
  /-- VRED (R164): Reduces the active elements over a fixed pairwise tree into a scalar. -/
  | vred (sd : SReg) (pa : Line) (op : RedOp)
  /-- VCFG (R142): Writes type, mask, rounding and overflow options to k8, or traps 0x16. -/
  | vcfg (imm : BitVec 16)
  /-- LDL (R171): Loads a 256-byte line from the scratchpad into a plane line. -/
  | ldl (pd : Line) (sa : SReg) (imm : BitVec 8)
  /-- STL (R171): Stores a plane line to the scratchpad. -/
  | stl (ps : Line) (sa : SReg) (imm : BitVec 8)
  /-- LDLX (R171): Loads a line at a register-indexed address. -/
  | ldlx (pd : Line) (sa sb : SReg)
  /-- STLX (R171): Stores a line at a register-indexed address. -/
  | stlx (ps : Line) (sa sb : SReg)
  /-- LDW (R171): Loads a scratchpad word into a scalar. -/
  | ldw (sd sa : SReg) (imm : BitVec 8)
  /-- STW (R171): Stores a scalar to a scratchpad word. -/
  | stw (ss sa : SReg) (imm : BitVec 8)
  /-- LDC (R175): Loads a line from a crew member's scratchpad through the scoreboard. -/
  | ldc (pd : Line) (sa : SReg)
  /-- STC (R175): Sends a line store to a crew member's scratchpad. -/
  | stc (ps : Line) (sa : SReg)
  /-- LDG (R172): Gathers 64 scratchpad words into a line through the scoreboard. -/
  | ldg (pd : Line) (sa : SReg) (pb : Line)
  /-- STG (R172): Scatters a line to 64 scratchpad words through the scoreboard. -/
  | stg (ps : Line) (sa : SReg) (pb : Line)
  /-- ATOM (R177): Atomic read-modify-write of a local or crew scratchpad word. -/
  | atom (op : AtomOp) (sd sa : SReg) (space : AtomSpace) (sb : SReg)
  /-- LDM (R171): Loads a mask from 32 scratchpad bytes. -/
  | ldm (m : MaskReg) (sa : SReg) (imm : BitVec 8)
  /-- STM (R171): Stores a mask to 32 scratchpad bytes. -/
  | stm (m : MaskReg) (sa : SReg) (imm : BitVec 8)
  /-- MMUL (R213): Queues a matrix multiply of M A rows into an accumulator. -/
  | mmul (acc : BitVec 4) (sa : SReg) (rows : BitVec 4) (lay : BitVec 2)
  /-- MMULZ (R213): Zero-first matrix multiply into an accumulator. -/
  | mmulz (acc : BitVec 4) (sa : SReg) (rows : BitVec 4) (lay : BitVec 2)
  /-- MMULD (R213): Queues an FP64 matrix multiply into an accumulator pair. -/
  | mmuld (accPair : BitVec 3) (sa : SReg) (rows : BitVec 4) (lay : BitVec 2)
  /-- MMULDZ (R213): Zero-first FP64 matrix multiply into an accumulator pair. -/
  | mmuldz (accPair : BitVec 3) (sa : SReg) (rows : BitVec 4) (lay : BitVec 2)
  /-- MSTREAM (R222): Issues a copy command that fills a macro from global memory through the weight decoder. -/
  | mstream (mac : BitVec 3) (sa : SReg) (sem : BitVec 6)
  /-- MLDW (R219): Queues a fill of a macro from a scratchpad weight image. -/
  | mldw (mac : BitVec 3) (sa : SReg)
  /-- MVA (R226): Copies half an accumulator row into a plane line. -/
  | mva (pd : Line) (half : BitVec 1) (acc row : BitVec 4)
  /-- MVAZ (R226): Copies half an accumulator row into a line and zeroes it. -/
  | mvaz (pd : Line) (half : BitVec 1) (acc row : BitVec 4)
  /-- MACZ (R227): Zeroes all rows of an accumulator. -/
  | macz (acc : BitVec 4)
  /-- MLAY (R207): Loads a 32-byte layout record into a layout slot. -/
  | mlay (lay : BitVec 2) (sa : SReg)
  /-- MCFG (R210): Writes A and B format overrides to k29, or traps 0x16. -/
  | mcfg (imm : BitVec 16)
  /-- MWAIT (R228): Holds at K until a macro's earlier work has finished. -/
  | mwait (mac : BitVec 3)
  /-- MWAIT_COMMIT (R228): A held MWAIT commits once every earlier work item on its macro has finished. -/
  | mwaitCommit (t : TileId)
  /-- TRISE (R239): Checks a shape and queues the upward pass of a subtree on the forest. -/
  | trise (shp : BitVec 6) (sa sb : SReg)
  /-- TFALL (R239): Checks a shape and queues the upward and gradient passes of a subtree. -/
  | tfall (shp : BitVec 6) (sa sb : SReg)
  /-- TLD (R245): Reads 256 scratchpad bytes into a leaf block through the scoreboard. -/
  | tld (blk : BitVec 4) (sa : SReg)
  /-- TST (R245): Stores a leaf block to the scratchpad. -/
  | tst (blk : BitVec 4) (sa : SReg)
  /-- TMVP (R245): Copies a leaf block into a plane line. -/
  | tmvp (pd : Line) (blk : BitVec 4)
  /-- TMVN (R245): Copies a plane line into a leaf block. -/
  | tmvn (blk : BitVec 4) (pa : Line)
  /-- TSHP (R237): Loads a 32-byte shape descriptor into a shape slot. -/
  | tshp (shp : BitVec 6) (sa : SReg)
  /-- TCFG (R232): Writes Trellis mode and gradient offset to k9, or traps 0x16. -/
  | tcfg (imm : BitVec 16)
  /-- SPOST (R183): Sends a semaphore post, a release at its scope. -/
  | spost (scope : PostScope) (sem : BitVec 6) (sa sb : SReg)
  /-- SWAIT (R184): Waits at K until a semaphore holds a count. -/
  | swait (sem : BitVec 6) (sb : SReg)
  /-- SWAIT_SATISFIED (R184): A held SWAIT commits when the count suffices, subtracting it, or traps 0x07 on a saturated semaphore. -/
  | swaitSatisfied (t : TileId)
  /-- SPOLL (R185): Reads a semaphore count without subtracting. -/
  | spoll (sd : SReg) (sem : BitVec 6)
  /-- FENCE (R186): Holds at K until earlier scratchpad accesses and/or copies are performed. -/
  | fence (kind : FenceKind) (scope : MemScope)
  /-- FENCE_COMMIT (R186): A held FENCE commits once every condition of its kind is met. -/
  | fenceCommit (t : TileId)
  /-- CPY (R187): Snapshots, validates and queues a copy descriptor. -/
  | cpy (sa : SReg)
  /-- CPY_QUEUE_SLOT_FREE (R187): A CPY or MSTREAM held on a full copy queue commits when an entry frees. -/
  | cpyQueueSlotFree (t : TileId)
  /-- CPYQ (R188): Reads the number of free copy-queue entries. -/
  | cpyq (sd : SReg)
  /-- SPRINT_CLAIM (R201): Marks the tile as asking for the sprint clock. -/
  | sprintClaim
  /-- SPRINT_RELEASE (R201): Withdraws the tile's sprint request. -/
  | sprintRelease
  /-- BUNDLE_ISSUE (R68): A bundle passes D after its holds clear and is checked before any slot executes. -/
  | bundleIssue (t : TileId) (stall : Nat)
  /-- REPLAY_REISSUE (R328): After a drain cycle the flagged bundle reissues at half or quarter rate. -/
  | replayReissue (t : TileId)
  /-- TILE_SLEEP (R20): After 4,096 cycles in one SWAIT the tile sleeps with the plane at retention. -/
  | tileSleep (t : TileId)
  /-- TILE_WAKE (R21): A sleeping tile restarts its clock on a waking event. -/
  | tileWake (t : TileId)
  /-- SEMAPHORE_POST_ARRIVAL (R183): A post arrives and adds to or saturates the target semaphore. -/
  | semaphorePostArrival (i : Nat)
  /-- CREW_ACCESS_ARRIVAL (R175): A crew-space load, store or atomic is performed at the target scratchpad. -/
  | crewAccessArrival (i : Nat)
  /-- CREW_ATOM_RETURN (R179): The old value of a sent CREW ATOM returns and its bundle commits. -/
  | crewAtomReturn (t : TileId)
  /-- LDC_WRITEBACK (R175): An LDC entry writes its line and frees its scoreboard entry. -/
  | ldcWriteback (t : TileId) (e : BitVec 4)
  /-- LDG_WRITEBACK (R431): A gather completes its four groups and writes its line. -/
  | ldgWriteback (t : TileId) (e : BitVec 4)
  /-- STG_WRITEBACK (R431): A scatter completes its writes and frees its entry. -/
  | stgWriteback (t : TileId) (e : BitVec 4)
  /-- MMUL_WRITEBACK (R428): A macro finishes the array steps of an MMUL or MMULD and writes the accumulator. -/
  | mmulWriteback (t : TileId) (e : BitVec 4)
  /-- MLDW_FILL_DONE (R219): A scratchpad fill places all weights and sets the macro's tag. -/
  | mldwFillDone (t : TileId) (e : BitVec 4)
  /-- TRISE_WRITEBACK (R242): The forest writes the subtree root and sets TSTAT and TCONF. -/
  | triseWriteback (t : TileId) (e : BitVec 4)
  /-- TFALL_WRITEBACK (R244): The forest adds every gradient and sets TSTAT and TCONF. -/
  | tfallWriteback (t : TileId) (e : BitVec 4)
  /-- TLD_WRITEBACK (R245): A TLD writes its block of leaves. -/
  | tldWriteback (t : TileId) (e : BitVec 4)
  /-- COPY_START (R197): A queued copy begins its accesses once ORD allows. -/
  | copyStart (t : TileId) (id : Nat)
  /-- COPY_COMPLETE (R197): A copy's accesses are performed and it sends its completion post. -/
  | copyComplete (t : TileId) (id : Nat)
  /-- COPY_FAIL (R198): A copy fails at execution, still completes and posts with the CERR bit. -/
  | copyFail (t : TileId) (id : Nat) (cause : CopyFailCause) (landed : List Nat)
  /-- MSTREAM_START (R224): A stream starts once ORD and earlier DTABs allow and decodes by mode. -/
  | mstreamStart (t : TileId) (id : Nat)
  /-- MSTREAM_COMPLETE (R429): The last weight is placed, the tag is set and the post is sent. -/
  | mstreamComplete (t : TileId) (id : Nat)
  /-- MSTREAM_FAIL (R225): A stream fails, tags the macro INVALID and posts with CERR. -/
  | mstreamFail (t : TileId) (id : Nat) (cause : CopyFailCause)
  /-- POINT_DEADLINE (R318): PDEADLINE expires and the member takes trap 0x0D. -/
  | pointDeadline (t : TileId)
  /-- TILE_HANG_TIMEOUT (R319): A tile that neither commits nor is held for 1 ms is a Tile-class error. -/
  | tileHangTimeout (t : TileId)
  /-- HALF_WIDTH_END (R416): 64 cycles after a droop STATUS.HW returns to 0. -/
  | halfWidthEnd (t : TileId)
  /-- STRETCH_END (R416): Six stretched cycles after a droop the stretcher stops. -/
  | stretchEnd (t : TileId)
  /-- DROOP (R416): The droop detector fires, stretches cycles and starts half-width issue. -/
  | droop (t : TileId)
  /-- ROW_OPEN (R282): The Harrow opens the next row of the frontier when a point of it is ready. -/
  | rowOpen (d : Fin 8) (h : BitVec 16)
  /-- POINT_FIRE (R286): The Harrow fires the lowest eligible point into a free rectangle. -/
  | pointFire (d : Fin 8)
  /-- POINT_START (R286): Once all members have entered the launch the Harrow starts them with the point values. -/
  | pointStart (d : Fin 8) (h : BitVec 16) (serial : Nat)
  /-- POINT_COMPLETION (R267): After the last PEND the Harrow releases the point and updates the frontier. -/
  | pointCompletion (d : Fin 8) (h : BitVec 16) (serial : Nat)
  /-- MIRROR_UPDATE (R288): Another die's frontier change reaches this die's mirror. -/
  | mirrorUpdate (d : Fin 8) (h : BitVec 16) (src : Fin 8)
  /-- PRIORITY_AGE (R296): Each 1 ms without firing raises a launch's effective priority. -/
  | priorityAge (d : Fin 8) (h : BitVec 16)
  /-- RECTANGLE_RESERVATION (R297): After 100 us at priority 3 without a rectangle the Harrow reserves one. -/
  | rectangleReservation (d : Fin 8) (h : BitVec 16)
  /-- LAUNCH_COMPLETION (R289): All named blocks complete and the completion word is stored. -/
  | launchCompletion (h : BitVec 16)
  /-- QTAIL_WRITE (R291): A write of QTAIL exposes commands, or is ignored and sets TAILERR. -/
  | qtailWrite (q : Fin 16) (v : Word)
  /-- QCTL_WRITE (R291): A QCTL write; setting EN resets QHEAD and QTAIL. -/
  | qctlWrite (q : Fin 16) (v : Word)
  /-- QSTAT_ERR_CLEAR (R293): Writing 1 to ERR passes over the stopped command and resumes reading. -/
  | qstatErrClear (q : Fin 16)
  /-- COMMAND_FETCH (R294): The front-end reads the next command at QHEAD when its queue may proceed. -/
  | commandFetch (q : Fin 16)
  /-- LAUNCH (R277): Admits a launch record, code image and argument block. -/
  | launch (q : Fin 16)
  /-- LAUNCH_RESIDENT (R279): A launch waiting for resident slots becomes resident on all its dies. -/
  | launchResident (h : BitVec 16)
  /-- WAIT (R295): Waits until a completion word reaches a value or has bit 63 set. -/
  | wait (q : Fin 16)
  /-- WAIT_POLL (R295): The front-end rereads a WAIT's word on a store or each 1 us. -/
  | waitPoll (q : Fin 16)
  /-- SIGNAL (R295): A release store of VALUE at SCOPE. -/
  | signal (q : Fin 16)
  /-- PREEMPT (R299): Stops firing a launch and drains it for a save. -/
  | preempt (q : Fin 16)
  /-- PREEMPT_DRAIN_END (R299): When the drain ends each die writes its frontier record and the save-area header. -/
  | preemptDrainEnd (h : BitVec 16)
  /-- PREEMPT_DEADLINE (R299): The PREEMPT deadline passes and in-flight points are hard-cut. -/
  | preemptDeadline (h : BitVec 16)
  /-- HARD_CUT_STOP (R300): A cut member stops issuing at its first stopping event. -/
  | hardCutStop (t : TileId)
  /-- CUT_CYCLE_LIMIT (R300): 16,384 cycles after the cut decision the tile stops at the next boundary. -/
  | cutCycleLimit (t : TileId)
  /-- CUT_COPY_TIMEOUT (R300): A started copy not complete 10 us after the cut decision fails. -/
  | cutCopyTimeout (t : TileId) (id : Nat)
  /-- CONTEXT_SAVE (R301): After all tiles stopped and posts arrived, semaphores and context images are saved. -/
  | contextSave (h : BitVec 16)
  /-- RESUME (R304): Reads a save area and admits the launch under a new handle. -/
  | resume (q : Fin 16)
  /-- KILL (R302): Stops a launch without saving and writes its completion word with bits 63 and 62. -/
  | kill (q : Fin 16)
  /-- BARRIER (R295): Completes when every earlier command of its queue has completed. -/
  | barrier (q : Fin 16)
  /-- DIE_FENCE (R321): A Die-class error stops the die, blocks its ports and faults its launches. -/
  | dieFence (d : Fin 8)
  /-- DIE_FENCE_TIMEOUT (R321): If ports are not blocked within 1 ms the error becomes package-fatal. -/
  | dieFenceTimeout (d : Fin 8)
  /-- VIRAL_ENTRY (R322): A package-fatal error stops every tile and link and dumps state. -/
  | viralEntry
  /-- COX_WINDOW_END (R340): At a window's last bundle the Cox raises, lowers, bars or holds the offset. -/
  | coxWindowEnd (t : TileId) (canaries : Nat)
  /-- AGEING_READ (R341): Each hour firmware reads the ageing monitor and updates AGE. -/
  | ageingRead (t : TileId) (slowdown : Nat)
  /-- CHARACTERISATION (R342): In a maintenance window firmware sweeps each bin to find FFV. -/
  | characterisation (t : TileId) (windows : List TestWindow)
  /-- TIMING_VERIFICATION (R343): Within 100 ms of a timing fence a test window decides re-enable or retire. -/
  | timingVerification (t : TileId) (replays : Nat) (third : Bool)
  /-- MRS_FALL_WRITE (R351): A fall held 10 ms makes a record write due. -/
  | mrsFallWrite (t : TileId)
  /-- MRS_DEFERRED_WRITE (R351): A due write deferred by the 60 s rule is made with live values. -/
  | mrsDeferredWrite (t : TileId)
  /-- LLAST_WRITE (R348): At least every 60 s the header records LLAST. -/
  | llastWrite
  /-- COLD_RESET (R385): Power is applied and the package resets. -/
  | coldReset
  /-- PACKAGE_RESET (R385): A package reset from the adapter reset line clears memory, fences and viral state. -/
  | packageReset
  /-- HOST_LINK_RESET (R385): The adapter retrains the link; host accesses in flight fail. -/
  | hostLinkReset
  /-- HOST_READ (R391): A host read of the control space is performed after earlier host writes. -/
  | hostRead (off : Nat) (size : Nat)
  /-- HOST_WRITE (R391): A host write is performed at PKG in arrival order. -/
  | hostWrite (dst : HostDest) (addr : Nat) (data : List Byte)
  /-- APERTURE_ACCESS (R390): A host aperture access through a device memory window. -/
  | apertureAccess (off : Nat) (acc : ApertureOp)
  /-- REGISTER_WRITE (R7): A write to a register with no behaviour of its own, under its access code. -/
  | registerWrite (off : Nat) (v : Word)
  /-- VECTOR_UNMASK (R392): Clearing MASK with PEND set sends one held message. -/
  | vectorUnmask (v : Fin 32)
  /-- MAPROW_STORE (R357): A MAPROW_HI write stores a shadow row and increments ROW. -/
  | maprowStore (v : Word)
  /-- MAP_ACTIVATE (R358): Writing ACT starts a rank check of a shadow matrix. -/
  | mapActivate (v : Word)
  /-- MAP_CHECK_DONE (R358): The rank check ends, installing the mapping or setting MAPERR. -/
  | mapCheckDone
  /-- EBSTAT_CLEAR (R360): Writing 1 to VALID clears VALID, UE and OVF. -/
  | ebstatClear (n : Fin 8)
  /-- SCRUB_READ (R362): The scrubber reads a line and writes back a corrected one. -/
  | scrubRead (n : Fin 8) (line : Nat)
  /-- SCORE_HALVING (R363): Each 24 h every hot-row score is halved. -/
  | scoreHalving
  /-- FAULT_RETRY (R373): FRACT RETRY makes waiting accesses walk again. -/
  | faultRetry
  /-- FAULT_FAIL (R373): FRACT FAIL fails the waiting accesses. -/
  | faultFail
  /-- INVALIDATE (R374): Writing GO starts a TLB invalidation. -/
  | invalidate
  /-- INVALIDATE_DONE (R374): BUSY falls once TLBs dropped the range and old accesses are performed. -/
  | invalidateDone
  /-- GRAFT_REQUEST (R376): Writing GO starts a graft of 32 frames into one 2 MiB page. -/
  | graftRequest (n : Fin 8)
  /-- GRAFT_DONE (R376): After in-flight counts drain the graft copies, rewrites the entry and ends. -/
  | graftDone (n : Fin 8)
  /-- FLIT_GROUP_RECEIVE (R399): A peer flit group arrives and is checked for tag, GCM and count. -/
  | flitGroupReceive (p : Fin 12) (g : ArrivingGroup)
  /-- VIRAL_FLIT_RECEIVE (R394): A viral flit sets VIRALIN and fences the port. -/
  | viralFlitReceive (p : Fin 12)
  /-- RD (R397): A peer read request arrives and is answered with RDRSP. -/
  | rd (p : Fin 12) (pkt : Packet)
  /-- WR (R397): A peer write request is performed at SYS and answered with WRACK. -/
  | wr (p : Fin 12) (pkt : Packet)
  /-- AMO (R397): A peer atomic request is performed at SYS and answered with AMORSP. -/
  | amo (p : Fin 12) (pkt : Packet)
  /-- RDRSP (R397): A read response returns data to the importing copy. -/
  | rdrsp (p : Fin 12) (pkt : Packet)
  /-- WRACK (R397): A write response completes an importing request. -/
  | wrack (p : Fin 12) (pkt : Packet)
  /-- AMORSP (R397): An atomic response returns the old value. -/
  | amorsp (p : Fin 12) (pkt : Packet)
  /-- PEER_REQUEST_TIMEOUT (R399): A request unanswered for 20 us fails with TIMEOUT. -/
  | peerRequestTimeout (p : Fin 12) (rid : BitVec 12)
  /-- LINK_DOWN (R394): A peer link goes down and requests in flight fail. -/
  | linkDown (p : Fin 12)
  /-- LINK_UP (R397): A port trains and each side grants 64 request credits. -/
  | linkUp (p : Fin 12)
  /-- KEY_EXHAUSTED (R393): A key reaches 2^48 groups and the port stops sending under it. -/
  | keyExhausted (p : Fin 12) (slot : Fin 8)
  /-- WINDOW_EN_CLEAR (R402): Clearing a window's EN revokes it and fails requests in flight within 10 us. -/
  | windowEnClear (kind : WindowKind) (w : Fin 32)
  /-- WINDOW_DRAINED (R402): The last request of a revoked window ends and DRAINED is set. -/
  | windowDrained (kind : WindowKind) (w : Fin 32)
  /-- STICKY_READ (R404): Returns the over-current sticky cause. -/
  | stickyRead
  /-- STICKY_CLEAR (R404): Clears the over-current sticky cause and allows sprint again. -/
  | stickyClear
  /-- MRS_READ (R404): Returns bytes of the Margin Record Store copy in use. -/
  | mrsRead (off len : Nat)
  /-- SITE_SET (R404): Enables or fences a site and writes its record. -/
  | siteSet (die site state : Byte)
  /-- MAINT (R404): Opens or closes a die's maintenance window. -/
  | maint (die : Byte) (isOpen : Bool)
  /-- POWER_SET (R404): Sets nominal and sprint limits and sprint slots per die. -/
  | powerSet (nominal sprint zones : Nat)
  /-- DUMP_TRIGGER (R404): Takes a snapshot dump or declares package-fatal. -/
  | dumpTrigger (what : Byte)
  /-- DUMP_READ (R404): Returns dump bytes. -/
  | dumpRead (off len : Nat)
  /-- REG_READ (R404): Reads a 4-byte control-space register over the sideband. -/
  | regRead (off : Nat)
  /-- ERRLOG_READ (R404): Returns a 64-byte error-log slot. -/
  | errlogRead (idx : Nat)
  /-- PKG_RESET (R404): Answers OK and then resets the package. -/
  | pkgReset
  /-- OWNER_SET (R398): Sets owner tag and node id, clearing keys, windows, memory and error log. -/
  | ownerSet (secured : Bool) (tag node : BitVec 16)
  /-- KEY_LOAD (R404): Loads or clears a key slot and restarts its group counts. -/
  | keyLoad (secured : Bool) (slot : Nat) (tag : BitVec 16) (mask : BitVec 12) (key : Option (BitVec 256))
  /-- PORT_SET (R404): Enables or fences a peer port. -/
  | portSet (port : Nat) (enable : Bool)
  /-- WINDOW_REVOKE (R404): Revokes an import or export window and answers once drained. -/
  | windowRevoke (kind : WindowKind) (num : Nat)
  /-- UNKNOWN_VENDOR_COMMAND (R404): An unassigned vendor command code answers completion code 1. -/
  | unknownVendorCommand (code : Byte)
  /-- VOLTAGE_STEP (R409): The V/F sequencer moves the voltage one 5 mV step. -/
  | voltageStep (t : TileId)
  /-- FREQUENCY_CHANGE (R409): A frequency change completes at a cycle boundary. -/
  | frequencyChange (t : TileId)
  /-- SPRINT_INTERVAL_END (R412): At an interval end one permit is charged if the zone ran above nominal. -/
  | sprintIntervalEnd (d : Fin 8) (z : Fin 4)
  /-- PERMIT_REFILL (R412): Each 20 us without sprint refills one permit. -/
  | permitRefill (d : Fin 8) (z : Fin 4)
  /-- SPRINT_SLOT_GRANT (R413): A zone's claim is granted a sprint slot. -/
  | sprintSlotGrant (d : Fin 8) (z : Fin 4)
  /-- MIDPOINT_HOLD_END (R414): After 10 us at the midpoint bin the zone requests bin 1. -/
  | midpointHoldEnd (d : Fin 8) (z : Fin 4)
  /-- POWER_MEASURE (R415): Each 1 ms firmware compares package power with the limit and may end a sprint. -/
  | powerMeasure (watts : Nat)
  /-- OVERCURRENT_ALARM (R417): An alarm sets OCSTICKY and drops every sprinting zone to bin 1. -/
  | overcurrentAlarm (bit : Fin 19)
  /-- OVERCURRENT_PERSIST (R417): An alarm still asserted after 10 us puts the affected tiles in bin 0. -/
  | overcurrentPersist (bit : Fin 19)
  /-- OCSTICKY_CLEAR (R417): A host write of 1s clears OCSTICKY bits. -/
  | ocstickyClear (v : Word)
  /-- THERMAL_CROSSING (R418): A temperature reaches a sprint, throttle or critical threshold. -/
  | thermalCrossing (t : TileId) (temp : Int)
  /-- THERMAL_RELEASE (R418): After a 2 ms dwell 3 C below, a crossed threshold is released. -/
  | thermalRelease (t : TileId) (temp : Int)
  /-- ENERGY_READ (R420): Reading ENLO returns the low half and snapshots the high half. -/
  | energyRead (port : EnergyPort) (what : EnergySource) (high : Bool)
  /-- OVERCURRENT_ALARM_END (R417): An over-current alarm de-asserts and the tiles held in bin 0 by it return to their requested bins. -/
  | overcurrentAlarmEnd (bit : Fin 19)
  /-- POWER_REMOVAL (R385): Power is removed from the package, losing all state except the Margin Record Store, possibly between the
  writes of copy A and copy B. -/
  | powerRemoval (torn : Option (StoreWrite × TornStage))
  /-- FQHEAD_WRITE (R373): A host write of FQHEAD frees ring space so that a held NOTPRESENT fault record is written and its accesses go
  on waiting for an answer. -/
  | fqheadWrite (v : Word)
  /-- INVALID_FLIT (R394): A flit that begins outside a flit group with frame type 0x03-0xFF is dropped and AUTHDROP increases by one. -/
  | invalidFlit (p : Fin 12) (ftype : Byte)
  deriving DecidableEq, Repr

end Sys2Proof
end

