-- ==== Sys2Proof/Config.lean ====
section
/-! DEFINITION. What the implementation fixes and the free values of the model: constants with no body, of which no proof
can see the value. Each is named in notes/assumptions. -/

namespace Sys2Proof.Config

/-- The TIME in ns that passes before the n-th reading of TIME by a program (R54 gives no bound). -/
opaque elapsed : Nat → Nat

/-- The cycles after which the n-th bundle passes D where no rule fixes the cycle: the first of a point or after a stop of the clock. -/
opaque stall : Nat → Nat

/-- The cycles that pass before the n-th event whose cycle is not fixed (R423). -/
opaque waited : Nat → Nat

/-- When the k-th element of the n-th read that races with writes is read, among the states between these writes (R217: old or new). -/
opaque readsAt : Nat → Nat → Nat

/-- The cycles that the n-th access of a tile's scratchpad loses to accesses of other agents in the same cycles: all in all (0), and for
each pending access that meets it (R35, R431; which accesses meet in a cycle is not fixed). -/
opaque clashes : TileId → Nat → Nat → Nat

/-- The A row whose fetch the n-th conflict with another access delayed, for the operation of a place in a tile's issue order (R209). -/
opaque lateRow : Nat → Nat → Nat

/-- The cycles by which a tile's n-th forest operation waits for leaf banks that others use (R249). -/
opaque forestWait : TileId → Nat → Nat

/-- The cycles that pass on a tile before its n-th write-back whose cycle is not fixed (R75, R175). -/
opaque tileWait : TileId → Nat → Nat

/-- Whether the n-th choice between two courses that the spec leaves open takes the second. -/
opaque chance : Nat → Bool

/-- How many of the newest writes that an agent need not see yet the n-th read hides in the granule g (R254, R256, R262). -/
opaque unseen : Nat → Nat → Nat

/-- Whether the n-th use of a tensor entry that a die holds takes what it holds, and reads memory else (R366, R374). -/
opaque tensorHeld : Nat → Bool

/-- The value of the k-th weight cell after the n-th failed stream (R225 leaves them undefined). -/
opaque failedWeight : Nat → Nat → Word

/-- KIND of the fault record of the n-th read of a stream that failed on a memory error, a fenced stack or a window (R381 names none). -/
opaque streamFault : Nat → BitVec 8

/-- FCAUSE of a fence that no trap caused (R319, R349: only trap causes and management fences have a code). -/
opaque hangCause : Nat → BitVec 8

/-- The near-miss canaries that a tile's Cox window raised, where the window ends with no count given (R339). -/
opaque canaries : Nat → Nat

/-- The detail bytes of the n-th error-log entry that no trap record fills (R405 gives none). -/
opaque logDetail : Nat → BitVec 416

/-- The source byte of the n-th error-log entry of a Die-class or package-fatal error (R319 names several sources). -/
opaque errorSource : Nat → BitVec 8

/-- The energy in uJ that accumulator i gained before the n-th reading of one (R420). -/
opaque energyUsed : Nat → Nat → Nat

/-- The dies whose UCIe module fails training at the n-th bring-up (R384, R386 give no cause). -/
opaque untrained : Nat → BitVec 8

/-- The die in whose log the n-th watched write outside device memory is recorded (R379 watches such a write, R380 gives it no log). -/
opaque watchDie : Nat → BitVec 3

/-- The TIME in ns that the n-th dump takes to be written, within its second (R406). -/
opaque dumpTime : Nat → Nat

/-- V_REF_b in mV as manufacturing wrote it (R347, R348 give no figure). -/
def vrefMv (b : Nat) : Nat := 680 + 20 * b

/-- Enabled tiles of a compute die in the manufacturing image: 576 over eight dies (R4); the others are spares. -/
def enabledPerDie : Nat := 72

end Sys2Proof.Config
end

