-- ==== Sys2Proof/Machine/State.lean ====
section
/-! DEFINITION. The state of one Relvex Y2 package as plain data, the reasons a step can stop, and the state after reset.
INVENTORY.md lists every field with the rule that names it. Large files are sparse lists of (index, value) with rising
indexes and no entry equal to what an unlisted index reads as (Machine/Store.lean). -/

namespace Sys2Proof.Machine

/-- A sparse file: (index, value), indexes rising, no entry at the file's default value. -/
abbrev Cells (α : Type) := List (Nat × α)

/-! ## One tile -/

/-- A loop-stack entry (R12). -/
structure LoopEntry where
  count : Word
  index : Word
  start : BitVec 16
  stop  : BitVec 16
  deriving DecidableEq, Repr

/-- The stored special registers of a tile (R24, R28). Views (k16, k19-k25) are computed. -/
structure KRegs where
  numv     : BitVec 2
  trapped  : Bool
  hw       : Bool
  sr       : BitVec 3
  tpc      : BitVec 16
  tcause   : Word
  tmask    : Byte
  tsb      : BitVec 16
  cycle    : Dword
  cycleHi  : Word
  vflags   : BitVec 5
  vcfg     : BitVec 16
  tcfg     : BitVec 16
  tstat    : BitVec 5
  tconf    : Word
  bconf    : Word
  aconf    : Word
  segcnt   : Word
  segsig   : Word
  launchId : BitVec 16
  pointSer : Word
  replays  : Word
  flagInj  : Word
  semErr   : Dword
  cerr     : Dword
  mcfg     : BitVec 16
  regions  : Vector Word 16
  deriving DecidableEq, Repr

/-- A layout record: strides in 16-byte chunks and extents; all extents 0 is empty (R206). -/
structure LayoutRec where
  strides : Vector Word 4
  extents : Vector (BitVec 16) 4
  deriving DecidableEq, Repr

/-- A macro's format tag: NONE, INVALID or a B format by its region code (R202). -/
inductive MacroTag where
  | none
  | invalid
  | fmt (code : BitVec 4)
  deriving DecidableEq, Repr

/-- A macro: weight cells by 128 * row + column, block scales by scale number, the VQ2 tensor scale, the tag (R202), and the place in
the issue order of a fill that has failed while earlier work of the macro is pending (R203, R300). -/
structure MacroState where
  cells  : Cells Word
  scales : Cells Byte
  tscale : Word
  tag    : MacroTag
  fails  : Option Nat
  deriving DecidableEq, Repr

/-- A decoder table slot's image (R220). -/
structure DTable where
  maxlen  : Nat
  code    : Bool
  book    : Bool
  lcnt    : List Nat
  syms    : List Nat
  entries : List Word
  deriving DecidableEq, Repr

/-- What a scoreboard entry will write, with the operands it took at commit (R73, R75). -/
inductive SbWork where
  /-- MMUL or MMULD: accumulator, double, zero-first, rows, A format code, layout snapshot, base, and the place in the tile's record of
  overwritten bytes at issue (R217) -/
  | mmul (acc : BitVec 4) (double zeroFirst : Bool) (rows : Nat) (afmt : BitVec 4) (lay : LayoutRec) (base : Word)
      (since : Nat)
  /-- MLDW: macro, B format code, address, the place in the record of overwritten bytes at issue -/
  | mldw (mac : BitVec 3) (fmt : BitVec 4) (addr since : Nat)
  | trise (shape : BitVec 256) (base dest : Nat) (tcfg : BitVec 16)
  | tfall (shape : BitVec 256) (base grad : Nat) (tcfg : BitVec 16)
  | tld (blk : BitVec 4) (data : List Word)
  /-- LDC: the line, and the 64 words once the access was performed at its target -/
  | ldc (pd : Line) (data : Option (List Word))
  /-- LDG: the line, the addresses, and the lanes whose word is read already, because a later slot of the tile overwrites it -/
  | ldg (pd : Line) (addrs : List Nat) (taken : List (Option Word))
  /-- STG: the words to be written, lane by lane, with their addresses; a lane that a later slot overwrites has none left -/
  | stg (data : List (Option Word)) (addrs : List Nat)
  deriving DecidableEq, Repr

/-- Bytes of the scratchpad that a write replaced while matrix work was pending (R217): where, what they held, and the place in the
issue order of the STG that wrote, if one did. -/
structure RaceRec where
  addr : Nat
  old  : List Byte
  stg  : Option Nat
  deriving DecidableEq, Repr

/-- A pending scoreboard entry: its number, its place in the issue order, its commit cycle, its work, whether an RTE or a
resume has released it, so that it writes back in order of issue (R75), the conflict cycles of its own accesses counted so far (R41,
R209, R431), and the cycles that it has lost to accesses of others (R35). -/
structure SbEntry where
  num      : BitVec 4
  seqNo    : Nat
  cycle    : Nat
  work     : SbWork
  settling : Bool
  paid     : Nat
  late     : List Nat
  deriving DecidableEq, Repr

/-- The virtual page of a leaf: its base and its size (R368). -/
structure VPage where
  base : Nat
  size : Nat
  deriving DecidableEq, Repr

/-- Where elements of a copy land; a global write names the leaf it was translated through, and its page if that leaf is watched. -/
inductive WriteDest where
  | spad (t : TileId) (addr : Nat)
  | dev (pa : Nat) (page : Option Nat) (leaf : VPage)
  | hostMem (addr : Nat) (page : Option Nat) (leaf : VPage)
  deriving DecidableEq, Repr

/-! ## Writes that not every agent sees yet (R255, R256) -/

/-- An agent that reads global memory (R252): a tile's copy engine, the front-end, the host, a peer package. -/
inductive Agent where
  | tile (t : TileId)
  | front
  | host
  | peer (p : Fin 12)
  deriving DecidableEq, Repr

/-- Who makes a global write: a copy of a tile, with its number and the launch and point that it was issued for, or without a tile the
front-end; the context it is translated in, the tiles of its crew, and the scope at which the write is performed (R255, R263). -/
structure Writer where
  tile   : Option TileId
  copy   : Nat
  handle : BitVec 16
  serial : Nat
  ctx    : BitVec 16
  crew   : List TileId
  scope  : Nat
  deriving DecidableEq, Repr

/-- A write of at most 8 aligned bytes of device or host memory that is performed at a scope below SYS: its number in the order of these
writes, its location, the bytes there before it, the leaf it was translated through, the ORD of its page, whether a point's completion
has covered it, and the agents outside its scope that have read it (R254, R256, R262-R264). -/
structure NarrowWrite where
  no      : Nat
  host    : Bool
  addr    : Nat
  old     : List Byte
  by'     : Writer
  leaf    : VPage
  ord     : Nat
  covered : Bool
  seen    : List Agent
  deriving DecidableEq, Repr

/-- Consecutive elements that a started copy will write, the bytes of one element, and the ORD of the page they lie in, 0 in a
scratchpad (R197, R263). -/
structure ElemWrite where
  dest : WriteDest
  data : List Byte
  unit : Nat
  ord  : Nat
  deriving DecidableEq, Repr

/-- The stage of a queued copy (R197, R198, R372). -/
inductive CopyStage where
  | queued
  | waiting (token : Nat)
  | started
  | failing (cause : CopyFailCause)
  deriving DecidableEq, Repr

/-- A copy-queue command: its issue number, the cycle in which it was issued, the 64 descriptor bytes, (mac, sem) for an MSTREAM, the
stage, and once started the writes to come, the bytes it has read in element order, the (offset, length) parts of these that a peer
has not yet sent (R187, R222, R397), and the element size of the tensor it reads (R366). -/
structure CopyCmd where
  id     : Nat
  cycle  : Nat
  desc   : List Byte
  stream : Option (BitVec 3 × BitVec 6)
  stage  : CopyStage
  writes : List ElemWrite
  image  : List Byte
  gaps   : List (Nat × Nat)
  esize  : Nat
  deriving DecidableEq, Repr

/-- Why a bundle is held at K (R80, R327). -/
inductive HoldKind where
  | swait | fence | pend | mwait | queueFull
  deriving DecidableEq, Repr

/-- A bundle that has passed D (R55, R61, R65, R328): its first word, its words, the slot its execution began at and the slot
to run next, the special registers at D, its depth and D cycle, the cycles replays added, the forced flags still due and
the flags taken, why it is held at K and the TIME since when, the cycle by which the event that ends the hold has come, whether it has
passed K (R51, R80) with SEMERR as it stood then and the cycle in which its last hold released, a CREW ATOM's wait, the banks and rows its
slots accessed, and the cycles that these took beyond one (R35). -/
structure Inflight where
  first     : BitVec 16
  words     : List Word
  start     : Nat
  next      : Nat
  snap      : KRegs
  depth     : Nat
  dCycle    : Nat
  extra     : Nat
  flagsDue  : Nat
  flags     : Nat
  injected  : Bool
  hold      : Option HoldKind
  waitFrom  : Nat
  freeAt    : Nat
  passed    : Bool
  errAtK    : Dword
  heldTo    : Nat
  atomSent  : Bool
  atomBack  : Option Word
  accs      : List (Nat × Nat)
  lost      : Nat
  deriving DecidableEq, Repr

/-- What a tile is doing. -/
inductive Activity where
  | idle
  | entering
  | prologue
  | point
  /-- the member's PEND has committed; it still serves its crew (R176) -/
  | pended
  /-- stopped under R311 -/
  | stopped
  /-- stopped for a hard cut, still serving (R181, R312) -/
  | cut
  deriving DecidableEq, Repr

/-- The point a tile runs (R275, R276, R286). -/
structure PointCtx where
  handle    : BitVec 16
  serial    : Nat
  coord     : Vector Word 3
  rank      : Nat
  crewSize  : Nat
  shape     : Nat
  corner    : Nat
  fireTime  : Nat
  deadlineTaken : Bool
  deriving DecidableEq, Repr

/-- The Cox policy registers of a die (R338). -/
structure CoxRegs where
  wn     : Nat
  floor  : Nat
  limit  : Nat
  quiet  : Nat
  canlim : Nat
  ceil   : Int
  deriving DecidableEq, Repr

/-- The Cox's window of a tile (R338-R340): bundles and replays so far, when it began, since when the tile is quiet, the policy in
force, whether the tile has committed no bundle since reset (R425), and the core cycle in which the window before it ended with a rise
(R353). -/
structure CoxWindow where
  bundles  : Nat
  replays  : Nat
  begun    : Nat
  quietAt  : Option Nat
  pol      : CoxRegs
  fresh    : Bool
  roseAt   : Option Nat
  deriving DecidableEq, Repr

/-- The V/F sequencer of a tile: its present voltage and the bin of its present frequency (R409). What it is asked for follows
from the state of its zone and its record (R410). -/
structure VfState where
  mv       : Int
  bin      : Fin 8
  deriving DecidableEq, Repr

/-- A register for checks 4 and 5 (R69). -/
inductive RegRef where
  | scal (r : SReg)
  | line (l : Line)
  | mask (m : MaskReg)
  | vcfg
  | kreg (k : KReg)
  deriving DecidableEq, Repr

/-- Pipeline timing of a tile: cycles of the last D and of the last commit, the earliest next D, register writes with their
commit cycles, finished entries with their write-back cycles, the last D of a bundle that held a V slot, for each macro the
cycle in which it finished its last work (R423, R424, R432, R416, R428), whether no rule fixes the next D, the accesses of the last bundle
(R35), the cycles in which BCONF and ACONF rose and by how much (R139), and the windows of half-width issue before the present one
(R416). -/
structure PipeTiming where
  lastD    : Nat
  lastC    : Nat
  nextD    : Nat
  writes   : List (RegRef × Nat)
  backs    : List (SbEntry × Nat)
  lastV    : Nat
  macEnd   : Vector Nat 8
  loose    : Bool
  lastAccs : List (Nat × Nat)
  bcounts  : List (Nat × Nat)
  acounts  : List (Nat × Nat)
  hwOld    : List (Nat × Nat)
  deriving DecidableEq, Repr

/-- A TLB entry: context, virtual page base, page size, and the leaf (R369, R371). -/
structure TlbEntry where
  ctx  : BitVec 16
  va   : Nat
  size : Nat
  tte  : Dword
  deriving DecidableEq, Repr

/-- A context entry: root, tensor table and its count (R365). -/
structure CtxEntry where
  root    : Nat
  ttBase  : Nat
  ttCount : Nat
  deriving DecidableEq, Repr

/-- A tensor entry that a die holds: its context, its id and its 128 bytes (R366, R374). -/
structure TensorHeld where
  ctx   : BitVec 16
  id    : Nat
  bytes : List Byte
  deriving DecidableEq, Repr

/-- One tile. `woken` says that an event has come that wakes it from sleep (R21); `hwFrom` and `hwEnd` bound the cycles of half-width
issue (R416); `raced` records, while matrix work is pending, the bytes that writes to the scratchpad replaced (R217); `movedAt` is the
TIME at which it last committed or ceased to be held (R319); `dueLate` says that its point's deadline passed in a handler (R318);
`meets` counts the free values that its scratchpad and its forest have taken (R35, R249); `aged` the hours at which its ageing monitor
was read (R341); `sweep` is the bin that a characterisation comes to next (R342); `temp` is its sensor in degrees Celsius (R418). -/
structure Tile where
  act      : Activity
  pt       : PointCtx
  pc       : BitVec 16
  resume   : Nat
  loops    : List LoopEntry
  scal     : Vector Word 64
  plane    : Cells Word
  planeBad : List Nat
  masks    : Vector (BitVec 256) 8
  k        : KRegs
  spad     : Cells Byte
  istore   : Cells Word
  sems     : Vector Word 64
  acc      : Cells Word
  accBad   : List Nat
  macros   : Vector MacroState 8
  lays     : Vector LayoutRec 4
  dts      : Vector (Option DTable) 2
  leaves   : Cells Word
  leafBad  : List Nat
  shapes   : Vector (BitVec 256) 64
  copyq    : List CopyCmd
  sb       : List SbEntry
  inflight : Option Inflight
  asleep   : Bool
  woken    : Bool
  hwFrom   : Nat
  hwEnd    : Nat
  stretchEnd : Nat
  pipe     : PipeTiming
  bundleNo : Nat
  sameNo   : Bool
  injBase  : Nat
  issueNo  : Nat
  leafTrap : Option Nat
  stopReq  : Bool
  cutReq   : Option (Nat × Nat)
  cutHere  : Bool
  retiring : Bool
  entered  : Nat
  claim    : Bool
  raced    : List RaceRec
  movedAt  : Nat
  dueLate  : Bool
  meets    : Nat
  cox      : CoxWindow
  vf       : VfState
  aged     : Nat
  sweep    : Option (Fin 8)
  temp     : Int
  tlb      : List TlbEntry
  deriving DecidableEq, Repr

/-! ## Sites, dies and stacks -/

/-- A site's state (R349). -/
inductive SiteState where
  | enabled | spare | fenced | retired
  deriving DecidableEq, Repr

/-- The STATE byte of a site state. -/
def SiteState.code : SiteState → Byte
  | .enabled => 0 | .spare => 1 | .fenced => 2 | .retired => 3

/-- A bin entry (R350). -/
structure BinRec where
  offset  : Int
  ffv     : Int
  bar     : Bool
  age     : Nat
  rate    : Nat
  bwrites : Nat
  deriving DecidableEq, Repr

/-- A site record of the Margin Record Store (R349), its STATE byte as it stands. -/
structure SiteRec where
  stByte   : Byte
  fcause   : Byte
  holdfail : Nat
  rseq     : Nat
  tfence   : Nat
  segt0    : Nat
  segt1    : Nat
  bins     : Vector BinRec 8
  deriving DecidableEq, Repr

/-- The site's state: a byte of 4 to 255 is read as fenced (R349). -/
def SiteRec.state (r : SiteRec) : SiteState := if r.stByte = 0 then .enabled else if r.stByte = 1 then .spare else if r.stByte = 3 then .retired else .fenced

/-- A record with a site state. -/
def SiteRec.setState (r : SiteRec) (x : SiteState) : SiteRec := { r with stByte := x.code }

@[simp] theorem SiteRec.setState_state (r : SiteRec) (x : SiteState) : (r.setState x).state = x := by cases x <;> rfl

/-- A site: its live record, the two stored copies with their CRC marks, and the write rules' bookkeeping (R351, R352). `verify` says
that a timing fence's verification is to come (R343); `tear` holds the TIME of the last write and what copy B held before it, with
its CRC mark: power lost at that TIME is lost in the write (R353). -/
structure Site where
  live      : SiteRec
  copyA     : SiteRec
  copyB     : SiteRec
  badA      : Bool
  badB      : Bool
  lastWrite : Option Nat
  due       : Bool
  fallAt    : Option Nat
  verify    : Bool
  tear      : Option (Nat × SiteRec × Bool)
  deriving DecidableEq, Repr

/-- One copy of the Margin Record Store's header (R348). -/
structure MrsHeader where
  hseq  : Nat
  vref  : Vector Nat 8
  lbase : Nat
  llast : Nat
  bad   : Bool
  deriving DecidableEq, Repr

/-- An open row of a frontier (R280). -/
structure RowState where
  c      : Nat
  full   : Bool
  window : Dword
  deriving DecidableEq, Repr

/-- The frontier of a launch on one die: rows B to T - 1 are open (R280). -/
structure Frontier where
  b    : Nat
  t    : Nat
  rows : List RowState
  deriving DecidableEq, Repr

/-- A cut point to restore: its die, serial, coordinates, corner, and the images of its members in rank order (R290, R305). -/
structure CutPoint where
  die    : Fin 8
  serial : Nat
  coord  : Vector Word 3
  corner : Nat
  images : List (List Byte)
  deriving DecidableEq, Repr

/-- A point in flight: its serial, its crew's corner, whether its members have started, when it was fired, and the cut
point that it was restored from, if it was (R283, R286, R305). -/
structure PointRun where
  serial   : Nat
  corner   : Nat
  started  : Bool
  fired    : Nat
  cut      : Option CutPoint
  deriving DecidableEq, Repr

/-- A launch's part on one die: frontier, block bounds, points in flight, mirrors of other dies' frontiers (own launch and
CHAIN predecessor), since when it has held an eligible point without firing one, and by how much that has raised its
priority (R288, R296). -/
structure DieLaunch where
  die     : Fin 8
  fr      : Frontier
  rowLo   : Nat
  rowHi   : Nat
  runs    : List PointRun
  mirrors : List (Nat × Frontier)
  chain   : List (Nat × Frontier)
  waiting : Option Nat
  boost   : Nat
  deriving DecidableEq, Repr

/-- Whether a launch waits for resident slots, runs, drains for a PREEMPT, or has faulted or been killed and its completion word
is still to be stored (R279, R299, R302, R315). -/
inductive LaunchPhase where
  | waiting | resident | draining | faulted | killed
  deriving DecidableEq, Repr

/-- A PREEMPT in progress: queue, command index, save area, length, deadline, whether it has cut (R299), and the TIME at which it came
(R427). -/
structure PreemptRun where
  queue    : Fin 16
  index    : Nat
  save     : Nat
  len      : Nat
  deadline : Nat
  late     : Bool
  since    : Nat
  deriving DecidableEq, Repr

/-- A launch known to the front-end: waiting, resident or faulted. Its number tells one admission of a handle from another.
`preempts` are the PREEMPTs that drain it (R299); `records` the trap records captured and not yet written, `tfence` whether a tile of it
was fenced and `kills` the KILLs that wait, by queue and index, until its completion word is stored (R295, R315, R324). -/
structure Launch where
  uid      : Nat
  handle   : BitVec 16
  phase    : LaunchPhase
  seqVal   : Nat
  ctx      : BitVec 16
  queue    : Fin 16
  record   : List Byte
  code     : List Word
  arg      : List Byte
  parts    : List DieLaunch
  chained  : Bool
  nrec     : Nat
  lost     : Nat
  worst    : Nat
  tfirst   : Nat
  preempts : List PreemptRun
  restores : List CutPoint
  records  : List (List Byte)
  tfence   : Bool
  kills    : List (Fin 16 × Nat)
  deriving DecidableEq, Repr

/-- A ghost: the frontiers of a preempted launch that others chain to (R299). -/
structure Ghost where
  handle : BitVec 16
  record : List Byte
  seqVal : Nat
  ctx    : BitVec 16
  queue  : Fin 16
  parts  : List DieLaunch
  deriving DecidableEq, Repr

/-- A post on its way (R183, R197): its sender, target, semaphore and count, whether a failed copy sent it, the launch and
point it belongs to, whether any point of the launch takes it (MODE 0b10), its place in the sender's commit order, 0 for a
copy's post, and for a stream's post the core cycle in which it arrives (R429). -/
structure Post where
  src    : TileId
  dst    : TileId
  sem    : BitVec 6
  count  : Word
  cerr   : Bool
  handle : BitVec 16
  serial : Nat
  pro    : Bool
  wide   : Bool
  seqNo  : Nat
  due    : Option Nat
  deriving DecidableEq, Repr

/-- What a crew-space access does at its target (R175, R179). -/
inductive CrewOp where
  | store (addr : Nat) (data : List Word)
  | load (addr : Nat) (entry : BitVec 4)
  | atom (addr : Nat) (op : AtomOp) (v c : Word)
  deriving DecidableEq, Repr

/-- A crew-space access on its way, with its launch and its place in the sender's commit order. -/
structure CrewAccess where
  src    : TileId
  dst    : TileId
  op     : CrewOp
  handle : BitVec 16
  seqNo  : Nat
  deriving DecidableEq, Repr

/-- The fall of a sprinting zone (R414). -/
inductive FallStage where
  | none | midpoint (since : Option Nat) | toNominal
  deriving DecidableEq, Repr

/-- A power zone (R411-R414, R418): permits, its sprint and how it ends, the thermal states and the TIMEs of their last changes, the
TIMEs since which its temperature has been low enough to release each, the TIME from which the next refill counts, whether a tile of
it has run above nominal since the last interval end, and the TIME of that end. -/
structure Zone where
  permits   : Nat
  sprinting : Bool
  fall      : FallStage
  sprT      : Bool
  thrT      : Bool
  sprChange : Option Nat
  thrChange : Option Nat
  sprCool   : Option Nat
  thrCool   : Option Nat
  lastAbove : Nat
  ranAbove  : Bool
  ivlEnd    : Nat
  deriving DecidableEq, Repr

/-- One compute die. `served` is the launch in whose slot service last stood, none before the first slot (R296); `reserve` lists the
launches that hold a reservation with the corners of their rectangles (R297); `tlb`, `ctxs` and `tensors` are what its translations
hold of leaves, context entries and tensor entries (R371, R374); `decided` is the TIME of its last firing decision (R284); `fencing` says
that the fence of the die still has to be told and recorded (R321 steps 5 and 6). -/
structure Die where
  fenced   : Bool
  slots    : List (BitVec 16)
  served   : Option (BitVec 16)
  reserve  : List (BitVec 16 × Nat)
  cox      : CoxRegs
  maint    : Bool
  zones    : Vector Zone 4
  rr       : Bool
  crit     : Bool
  critCool : Option Nat
  droopCnt : Nat
  dth      : BitVec 5
  tlb      : List TlbEntry
  ctxs     : List (BitVec 16 × CtxEntry)
  tensors  : List TensorHeld
  decided  : Option Nat
  fencing  : Bool
  deriving DecidableEq, Repr

/-- A hot row of a stack: row key and score, oldest first (R362, R363). -/
structure HotRow where
  row   : Nat
  score : Nat
  deriving DecidableEq, Repr

/-- A watch range (R379). -/
structure WatchRange where
  lo : Word
  hi : Word
  deriving DecidableEq, Repr

/-- What a running graft was asked for (R376). -/
structure GraftJob where
  va    : Dword
  dst   : Word
  ctx   : BitVec 16
  force : Bool
  deriving DecidableEq, Repr

/-- One HBM4 stack with its registers; `job` is the running graft's request. -/
structure Stack where
  ebValid  : Bool
  ebUe     : Bool
  ebOvf    : Bool
  ueCnt    : BitVec 16
  ceCnt    : BitVec 16
  ebPa     : Nat
  ebSrc    : BitVec 2
  ebSym    : Byte
  ebTime   : Dword
  pth      : Byte
  prune    : Bool
  scrubEn  : Bool
  spares   : Nat
  passes   : BitVec 16
  scrubPos : Nat
  hot      : List HotRow
  spareUse : List (Nat × Nat)
  remapped : List Nat
  grVa     : Dword
  grDst    : Word
  grCtx    : BitVec 16
  grForce  : Bool
  grBusy   : Bool
  grWait   : Nat
  grResult : BitVec 2
  job      : GraftJob
  watch    : Vector WatchRange 8
  wlBase   : Dword
  wlSize   : BitVec 5
  wlHead   : Word
  wlTail   : Word
  wlLost   : Word
  wlIrq    : Bool
  wlEn     : Bool
  deriving DecidableEq, Repr

/-- A line with a stored error: one bad symbol, or uncorrectable (R359). -/
structure LineError where
  line   : Nat
  symbol : Option Byte
  deriving DecidableEq, Repr

/-- A mapping region: enable, bounds in GiB, the 33 rows of its matrix (R355). -/
structure MapRegion where
  en    : Bool
  base  : Nat
  limit : Nat
  rows  : Vector (BitVec 33) 33
  deriving DecidableEq, Repr

/-- A waiting NOTPRESENT: token, context, 64 KiB page, its record, and whether the record still waits for ring space (R372, R373). -/
structure WaitingFault where
  token : Nat
  ctx   : BitVec 16
  page  : Nat
  record : List Byte
  held  : Bool
  deriving DecidableEq, Repr

/-! ## The front-end, links and package registers -/

/-- A command queue (R291-R295): its registers; the command read at QHEAD and whether it has begun to act; the
number of commands read; and the PREEMPTs still running, by that number. -/
structure Queue where
  base     : Dword
  size     : Nat
  ctx      : BitVec 16
  diagOk   : Bool
  irq      : Bool
  en       : Bool
  head     : Nat
  tail     : Nat
  errCode  : Byte
  tailErr  : Bool
  adm      : Bool
  err      : Bool
  admInfo  : Word
  fetched  : Option (List Byte)
  begun    : Bool
  index    : Nat
  running  : List (Nat × List Byte)
  deriving DecidableEq, Repr

/-- A device memory window (R390). -/
structure DmWindow where
  base : Dword
  en   : Bool
  mode : Bool
  size : Nat
  ctx  : BitVec 16
  deriving DecidableEq, Repr

/-- An entry of the vector table (R392). -/
structure VecEntry where
  addr : Dword
  data : Word
  mask : Bool
  pend : Bool
  deriving DecidableEq, Repr

/-- A key slot (R398): tag, key, port mask, and per port the groups sent and the last group count accepted (R395). -/
structure KeySlot where
  tag     : BitVec 16
  key     : BitVec 256
  ports   : BitVec 12
  sent    : Vector Nat 12
  lastIn  : Vector (Option Nat) 12
  deriving DecidableEq, Repr

/-- A request of a copy to a peer (R397): whether it was sent and when, its RID, the copy, the import window, the request as a
packet, the leaf it was translated through, the place in the copy's image that it is for, and whether it waits for the copy's
earlier requests, and its page if its leaf is watched. -/
structure PeerRequest where
  sent   : Bool
  at'    : Nat
  rid    : BitVec 12
  tile   : TileId
  copy   : Nat
  win    : Fin 32
  pkt    : Packet
  leaf   : VPage
  off    : Nat
  serial : Bool
  page   : Option Nat
  deriving DecidableEq, Repr

/-- A response to a peer that its key slot has not yet sent: slot, node, packet. -/
structure PeerReply where
  slot : Fin 8
  node : BitVec 16
  pkt  : Packet
  deriving DecidableEq, Repr

/-- What a port sent, but for idle flits: a flit group's bytes, or the viral flits that it sends on (R394, R395). -/
inductive SentFlits where
  | group (bytes : List Byte)
  | viral
  deriving DecidableEq, Repr

/-- A peer-link port (R393-R401): its registers, the request credits it has and owes, the packets it accepted and has not yet
served with the key slot they came under, what it sent, its requests, the responses it has to send, and the ids of requests that
failed with TIMEOUT and whose responses may still come. -/
structure Port where
  en       : Bool
  keyExh   : Bool
  viralIn  : Bool
  fenced   : Bool
  up       : Bool
  tagDrop  : Word
  authDrop : Word
  timeouts : Word
  credits  : Nat
  owed     : Nat
  rx       : List (Fin 8 × Packet)
  tx       : List SentFlits
  pending  : List PeerRequest
  replies  : List PeerReply
  stale    : List (BitVec 12)
  deriving DecidableEq, Repr

/-- An import window (R400, R401). -/
structure ImportWin where
  en      : Bool
  drained : Bool
  slot    : BitVec 4
  port    : BitVec 4
  node    : BitVec 16
  xw      : BitVec 5
  size    : Nat
  deriving DecidableEq, Repr

/-- An export window (R400, R401). -/
structure ExportWin where
  en      : Bool
  drained : Bool
  w       : Bool
  slot    : BitVec 4
  base    : Nat
  size    : Nat
  deriving DecidableEq, Repr

/-- How the package last came out of reset (R387). -/
inductive ResetKind where
  | cold | package | hostLink
  deriving DecidableEq, Repr

/-- The range of an invalidation: every context or one, the first address, 64 KiB pages (R374). -/
structure InvRange where
  all : Bool
  ctx : BitVec 16
  va  : Dword
  len : Word
  deriving DecidableEq, Repr

/-- The package-wide registers that stand alone. `invJob` is the range of the running invalidation. `halvings` counts the multiples of
24 hours at which the scores were halved (R363); `headTear` the TIME of the last header write and what copy B held before it (R348,
R353); `watts` the package power last measured (R403, R415); `dumpEnd` is the TIME by which the dump is written and `dumpDie` the
stack that keeps room for it (R406); `revoking` is a WINDOW_REVOKE that has not yet answered (R404); `ocSince` holds when each alarm
rose (R417). -/
structure PkgRegs where
  powered   : Bool
  lastRst   : ResetKind
  ready     : Bool
  viral     : Bool
  dump      : Option (List Byte)
  dumpEnd   : Nat
  dumpDie   : Fin 8
  linkErr   : Word
  tfence    : Bool
  pfault    : Bool
  dfence    : Bool
  corr      : Bool
  fctl      : BitVec 4
  mapSel    : BitVec 2
  mapBusy   : Option (BitVec 2)
  mapRank   : BitVec 6
  mapErr    : Bool
  mapDone   : Bool
  mapRowSel : BitVec 6
  mapRowLo  : Word
  mapRowHi  : Bool
  ctxBase   : Nat
  ctxCount  : Nat
  fqBase    : Dword
  fqSize    : Nat
  fqHead    : Word
  fqTail    : Word
  fqLost    : Word
  frTok     : Word
  invAll    : Bool
  invCtx    : BitVec 16
  invVa     : Dword
  invLen    : Word
  invBusy   : Bool
  invJob    : InvRange
  ownTag    : BitVec 16
  nodeId    : BitVec 16
  logNext   : Nat
  spl       : Nat
  noml      : Nat
  rearm     : Nat
  ivl       : Nat
  spz       : Nat
  ocSticky  : BitVec 19
  ocAlarm   : BitVec 19
  ocPersist : BitVec 19
  ocSince   : Vector Nat 19
  thresh    : Word
  refuseTil : Nat
  halvings  : Nat
  revoking  : Option (WindowKind × Fin 32)
  headTear  : Option (Nat × MrsHeader)
  watts     : Nat
  snapHost  : Vector (Option Word) 19
  snapSide  : Vector (Option Word) 19
  deriving DecidableEq, Repr

/-- What the package last returned to a reader: a completion code (0 for a host access) and bytes (R391, R404). -/
structure Reply where
  code : Byte
  data : List Byte
  deriving DecidableEq, Repr

/-- What happens next, as the inbox says: an event at a TIME, or a turn of a tile to move. -/
inductive Input where
  | event (time : Nat) (op : Instr)
  | turn (t : TileId)
  deriving DecidableEq, Repr

/-- The machine: one package, with the host memory it writes to. -/
structure State where
  time    : Nat
  tiles   : Vector Tile 640
  sites   : Vector Site 640
  headers : Vector MrsHeader 2
  dies    : Vector Die 8
  hbm     : Vector Stack 8
  gmem    : Cells Byte
  lineErr : List LineError
  narrow  : List NarrowWrite
  maps    : Vector MapRegion 4
  shadows : Vector MapRegion 4
  hostMem : Cells Byte
  queues  : Vector Queue 16
  launches : List Launch
  ghosts  : List Ghost
  posts   : List Post
  crew    : List CrewAccess
  faults  : List WaitingFault
  dmws    : Vector DmWindow 16
  vecs    : Vector VecEntry 32
  keys    : Vector (Option KeySlot) 8
  ports   : Vector Port 12
  imps    : Vector ImportWin 32
  exps    : Vector ExportWin 32
  errLog  : Cells (BitVec 512)
  energy  : Vector Dword 19
  regs    : PkgRegs
  reply   : Option Reply
  inbox   : List Input
  focus   : TileId
  draws   : Nat
  nextId  : Nat
  deriving DecidableEq, Repr

/-! ## How a step can stop -/

/-- A fault of the machine. -/
inductive Fault where
  /-- The package has no power (R385): raised by step for everything but COLD_RESET after POWER_REMOVAL. Safe: the machine does
  nothing. -/
  | powerOff
  deriving DecidableEq, Repr

/-- A refusal: there is no such step in this state. -/
inductive Refusal where
  /-- An instruction that has no meaning in this model yet. Safe. -/
  | notModelled (mnemonic : String)
  /-- The event or slot cannot happen in this state: what the spec requires before it does not hold. Raised by the events and
  by a slot instruction when the focus tile has no bundle at that point. Safe: nothing is claimed of a step that cannot be. -/
  | notEnabled (mnemonic : String)
  /-- The head of the inbox is a slot instruction, which only a tile's own bundle can hold; raised by step. Safe. -/
  | notAnInput
  deriving DecidableEq, Repr

/-- The three outcomes of a step of this machine. -/
abbrev Result := Host.Outcome State Fault Refusal

/-! ## The state after reset -/

/-- No special register holds anything; NUMV is the default rule set 2 (R3). DESIGN CHOICE, notes/assumptions/1.md. -/
def KRegs.reset : KRegs where
  numv := 2
  trapped := false
  hw := false
  sr := 0
  tpc := 0
  tcause := 0
  tmask := 0
  tsb := 0
  cycle := 0
  cycleHi := 0
  vflags := 0
  vcfg := 0
  tcfg := 0
  tstat := 0
  tconf := 0
  bconf := 0
  aconf := 0
  segcnt := 0
  segsig := 0
  launchId := 0
  pointSer := 0
  replays := 0
  flagInj := 0
  semErr := 0
  cerr := 0
  mcfg := 0
  regions := Vector.replicate 16 0

/-- An empty layout slot (R206). -/
def LayoutRec.empty : LayoutRec := ⟨Vector.replicate 4 0, Vector.replicate 4 0⟩

/-- A macro after launch entry: zero weights, tag NONE (R202). -/
def MacroState.empty : MacroState := ⟨[], [], 0, .none, none⟩

/-- No point. -/
def PointCtx.none : PointCtx := ⟨0, 0, Vector.replicate 3 0, 0, 1, 0, 0, 0, false⟩

/-- The Cox policy registers at reset (R338). -/
def CoxRegs.reset : CoxRegs := ⟨20, 2, 64, 1000, 4096, 20⟩

/-- The timing of a tile that has run nothing. -/
def PipeTiming.reset : PipeTiming := ⟨0, 0, 0, [], [], 0, Vector.replicate 8 0, true, [], [], [], []⟩

/-- A tile that has run nothing. DESIGN CHOICE, notes/assumptions/1.md. -/
def Tile.reset : Tile where
  act := .idle
  pt := PointCtx.none
  pc := 0
  resume := 0
  loops := []
  scal := Vector.replicate 64 0
  plane := []
  planeBad := []
  masks := Vector.replicate 8 0
  k := KRegs.reset
  spad := []
  istore := []
  sems := Vector.replicate 64 0
  acc := []
  accBad := []
  macros := Vector.replicate 8 MacroState.empty
  lays := Vector.replicate 4 LayoutRec.empty
  dts := Vector.replicate 2 none
  leaves := []
  leafBad := []
  shapes := Vector.replicate 64 0
  copyq := []
  sb := []
  inflight := none
  asleep := false
  woken := false
  hwFrom := 0
  hwEnd := 0
  stretchEnd := 0
  pipe := PipeTiming.reset
  bundleNo := 0
  sameNo := false
  injBase := 0
  issueNo := 0
  leafTrap := none
  stopReq := false
  cutReq := none
  cutHere := false
  retiring := false
  entered := 0
  claim := false
  raced := []
  movedAt := 0
  dueLate := false
  meets := 0
  cox := ⟨0, 0, 0, none, CoxRegs.reset, true, none⟩
  vf := ⟨Config.vrefMv 1, 1⟩
  aged := 0
  sweep := none
  temp := 0
  tlb := []

/-- The bin entry of the manufacturing image. DESIGN CHOICE, notes/assumptions/2.md. -/
def BinRec.made : BinRec := ⟨0, -4, false, 0, 0, 0⟩

/-- The site record of the manufacturing image. -/
def SiteRec.made (st : SiteState) : SiteRec := ⟨st.code, 0, 0, 0, 0, 0, 0, Vector.replicate 8 BinRec.made⟩

/-- A site whose two copies agree. -/
def Site.ofRec (r : SiteRec) : Site := ⟨r, r, r, false, false, none, false, none, false, none⟩

/-- The site of a tile number in the manufacturing image. DESIGN CHOICE, notes/assumptions/2.md. -/
def Site.made (n : Nat) : Site :=
  Site.ofRec (SiteRec.made (if n % 80 < Config.enabledPerDie then .enabled else .spare))

/-- The header after the first bring-up has written LBASE (R348). DESIGN CHOICE, notes/assumptions/2.md. -/
def MrsHeader.made : MrsHeader := ⟨1, Vector.ofFn fun b => Config.vrefMv b.val, 0, 0, false⟩

/-- A zone at package reset (R412, R421). -/
def Zone.reset : Zone := ⟨64, false, .none, false, false, none, none, none, none, 0, false, 0⟩

/-- A die after bring-up. DESIGN CHOICE, notes/assumptions/2.md. -/
def Die.reset : Die :=
  ⟨false, [], none, [], CoxRegs.reset, false, Vector.replicate 4 Zone.reset, false, false, none, 0, 6, [], [], [], none, false⟩

/-- A stack after bring-up (R360-R380). -/
def Stack.reset : Stack where
  ebValid := false
  ebUe := false
  ebOvf := false
  ueCnt := 0
  ceCnt := 0
  ebPa := 0
  ebSrc := 0
  ebSym := 0
  ebTime := 0
  pth := 16
  prune := true
  scrubEn := true
  spares := 4096
  passes := 0
  scrubPos := 0
  hot := []
  spareUse := []
  remapped := []
  grVa := 0
  grDst := 0
  grCtx := 0
  grForce := false
  grBusy := false
  grWait := 0
  grResult := 0
  job := ⟨0, 0, 0, false⟩
  watch := Vector.replicate 8 ⟨0, 0⟩
  wlBase := 0
  wlSize := 6
  wlHead := 0
  wlTail := 0
  wlLost := 0
  wlIrq := false
  wlEn := false

/-- Row j of the default matrix, as a mask of line-number bits L = PA[38:6] (R356). -/
def defaultRow (j : Nat) : BitVec 33 :=
  let bit (pa : Nat) : BitVec 33 := BitVec.twoPow 33 (pa - 6)
  if j < 15 then bit (21 + j)
  else if j = 15 then bit 6
  else if j < 20 then bit (17 + (j - 16))
  else if j < 22 then bit (15 + (j - 20))
  else if j < 24 then bit (13 + (j - 22))
  else if j = 24 then bit 7
  else if j < 30 then bit (8 + (j - 25)) ^^^ bit (21 + (j - 25))
  else bit (36 + (j - 30))

/-- The default matrix (R356). -/
def defaultRows : Vector (BitVec 33) 33 := Vector.ofFn fun j => defaultRow j.val

/-- Region n at reset: region 0 covers all of device memory, the others are off (R356, R357). -/
def MapRegion.reset (n : Nat) : MapRegion := ⟨n == 0, 0, if n = 0 then 511 else 0, defaultRows⟩

/-- A queue at reset (R291). -/
def Queue.reset : Queue := ⟨0, 4, 0, false, false, false, 0, 0, 0, false, false, false, 0, none, false, 0, []⟩

/-- A port at reset (R401). -/
def Port.reset : Port := ⟨false, false, false, false, false, 0, 0, 0, 0, 0, [], [], [], [], []⟩

/-- The package registers after a cold reset's bring-up. DESIGN CHOICE, notes/assumptions/5.md. -/
def PkgRegs.reset : PkgRegs where
  powered := true
  lastRst := .cold
  ready := true
  viral := false
  dump := none
  dumpEnd := 0
  dumpDie := 0
  linkErr := 0
  tfence := false
  pfault := false
  dfence := false
  corr := false
  fctl := 0
  mapSel := 0
  mapBusy := none
  mapRank := 33
  mapErr := false
  mapDone := false
  mapRowSel := 0
  mapRowLo := 0
  mapRowHi := false
  ctxBase := 0
  ctxCount := 0
  fqBase := 0
  fqSize := 7
  fqHead := 0
  fqTail := 0
  fqLost := 0
  frTok := 0
  invAll := false
  invCtx := 0
  invVa := 0
  invLen := 0
  invBusy := false
  invJob := ⟨false, 0, 0, 0⟩
  ownTag := 0
  nodeId := 0
  logNext := 1
  spl := 2600
  noml := 1900
  rearm := 16
  ivl := 4
  spz := 2
  ocSticky := 0
  ocAlarm := 0
  ocPersist := 0
  ocSince := Vector.replicate 19 0
  thresh := 0x0073695F
  refuseTil := 0
  halvings := 0
  revoking := none
  headTear := none
  watts := 0
  snapHost := Vector.replicate 19 none
  snapSide := Vector.replicate 19 none

/-- The machine right after a cold reset has brought the package up (R385, R386): READY is set, memory is zero, no queue is
enabled and no launch is known. DESIGN CHOICE, notes/assumptions/4.md. -/
def State.reset : State where
  time := 0
  tiles := Vector.replicate 640 Tile.reset
  sites := Vector.ofFn fun n => Site.made n.val
  headers := Vector.replicate 2 MrsHeader.made
  dies := Vector.replicate 8 Die.reset
  hbm := Vector.replicate 8 Stack.reset
  gmem := []
  lineErr := []
  narrow := []
  maps := Vector.ofFn fun n => MapRegion.reset n.val
  shadows := Vector.ofFn fun n => MapRegion.reset n.val
  hostMem := []
  queues := Vector.replicate 16 Queue.reset
  launches := []
  ghosts := []
  posts := []
  crew := []
  faults := []
  dmws := Vector.replicate 16 ⟨0, false, false, 21, 0⟩
  vecs := Vector.replicate 32 ⟨0, 0, true, false⟩
  keys := Vector.replicate 8 none
  ports := Vector.replicate 12 Port.reset
  imps := Vector.replicate 32 ⟨false, true, 0, 0, 0, 0, 0⟩
  exps := Vector.replicate 32 ⟨false, true, false, 0, 0, 0⟩
  errLog := []
  energy := Vector.replicate 19 0
  regs := PkgRegs.reset
  reply := none
  inbox := []
  focus := ⟨0, 0⟩
  draws := 0
  nextId := 0

end Sys2Proof.Machine
end

