-- ==== Sys2Proof/Machine/Store.lean ====
section
/-! DEFINITION. Sparse files (`Cells`): one canonical list of (index, value) pairs per file, and how bytes make words
(spec/00_scope.md R5: little-endian). -/

namespace Sys2Proof.Machine

/-- The value at an index: that of the first entry there, else the file's default. -/
def Cells.get {α : Type} (d : α) : Cells α → Nat → α
  | [], _ => d
  | (k, v) :: xs, i => if k = i then v else Cells.get d xs i

/-- A list of pairs with one more pair, in front of the first higher index. -/
def Cells.insert {α : Type} (i : Nat) (v : α) : Cells α → Cells α
  | [] => [(i, v)]
  | (k, w) :: xs => if i < k then (i, v) :: (k, w) :: xs else (k, w) :: Cells.insert i v xs

/-- The file without an entry at an index. -/
def Cells.erase {α : Type} (i : Nat) : Cells α → Cells α
  | [] => []
  | (k, w) :: xs => if k = i then Cells.erase i xs else (k, w) :: Cells.erase i xs

/-- The file with one value written; writing the default removes the entry. -/
def Cells.set {α : Type} [DecidableEq α] (d : α) (c : Cells α) (i : Nat) (v : α) : Cells α :=
  if v = d then Cells.erase i c else Cells.insert i v (Cells.erase i c)

/-- Indexes rise above a bound and no entry holds the default. -/
def Cells.wfFrom {α : Type} [DecidableEq α] (d : α) : Nat → Cells α → Bool
  | _, [] => true
  | b, (k, v) :: xs => decide (b ≤ k) && decide (v ≠ d) && Cells.wfFrom d (k + 1) xs

/-- The canonical form: indexes strictly rising, no entry equal to the default. -/
def Cells.wf {α : Type} [DecidableEq α] (d : α) (c : Cells α) : Bool := Cells.wfFrom d 0 c

/-- Consecutive values from an index on. -/
def Cells.getRange {α : Type} (d : α) (c : Cells α) (i n : Nat) : List α :=
  (List.range n).map fun j => c.get d (i + j)

/-- Consecutive values written from an index on. -/
def Cells.setRange {α : Type} [DecidableEq α] (d : α) (c : Cells α) (i : Nat) : List α → Cells α
  | [] => c
  | v :: vs => Cells.setRange d (Cells.set d c i v) (i + 1) vs

/-- Values written at given indexes, in order. -/
def Cells.setAll {α : Type} [DecidableEq α] (d : α) (c : Cells α) : List (Nat × α) → Cells α
  | [] => c
  | (i, v) :: ps => Cells.setAll d (Cells.set d c i v) ps

/-- A file built from the list of its values from index 0 on. -/
def Cells.ofList {α : Type} [DecidableEq α] (d : α) (xs : List α) : Cells α := Cells.setRange d [] 0 xs

/-- The file that holds f at the indexes below n. -/
def Cells.tabulate {α : Type} [DecidableEq α] (d : α) (n : Nat) (f : Nat → α) : Cells α :=
  (List.range n).filterMap fun i => if f i = d then none else some (i, f i)

/-- The values of a canonical file at n indexes from i on, where no listed index is below i. -/
def Cells.dense {α : Type} (d : α) : Nat → Nat → Cells α → List α
  | _, 0, _ => []
  | i, n + 1, (k, v) :: xs => if k = i then v :: Cells.dense d (i + 1) n xs else d :: Cells.dense d (i + 1) n ((k, v) :: xs)
  | i, n + 1, [] => d :: Cells.dense d (i + 1) n []

/-! ## Bytes and words -/

/-- The number that little-endian bytes stand for. -/
def natOfBytes : List Byte → Nat
  | [] => 0
  | b :: bs => b.toNat + 256 * natOfBytes bs

/-- The n little-endian bytes of a number. -/
def bytesOfNat : Nat → Nat → List Byte
  | 0, _ => []
  | n + 1, v => BitVec.ofNat 8 v :: bytesOfNat n (v / 256)

/-- The number in bytes o to o + n - 1 of a list; bytes past its end are 0. -/
def field (bs : List Byte) (o n : Nat) : Nat := natOfBytes ((bs.drop o).take n)

/-- Bits lo to lo + n - 1 of a number. -/
def bits (v lo n : Nat) : Nat := v / 2 ^ lo % 2 ^ n

/-- One bit of a number. -/
def bit (v i : Nat) : Bool := v / 2 ^ i % 2 == 1

/-- The words of little-endian bytes. -/
def wordsOfBytes : List Byte → List Word
  | a :: b :: c :: d :: bs => BitVec.ofNat 32 (natOfBytes [a, b, c, d]) :: wordsOfBytes bs
  | [] => []
  | bs => [BitVec.ofNat 32 (natOfBytes bs)]

/-- The little-endian bytes of words. -/
def bytesOfWords (ws : List Word) : List Byte := ws.flatMap fun w => bytesOfNat 4 w.toNat

/-- A number as a two's-complement n-bit integer. -/
def sext (v n : Nat) : Int := if bit v (n - 1) then (bits v 0 n : Int) - 2 ^ n else bits v 0 n

/-- The n low bits of an integer's two's-complement form. -/
def wrap (v : Int) (n : Nat) : Nat := (v % 2 ^ n).toNat

/-- A value held between two bounds. -/
def sat (x lo hi : Int) : Int := if x < lo then lo else if hi < x then hi else x

/-- Addition that stops at 0xFFFF_FFFF (R26). -/
def satAdd32 (w : Word) (n : Nat) : Word := BitVec.ofNat 32 (Nat.min (w.toNat + n) 0xFFFFFFFF)

/-- The list with the element at an index replaced. -/
def listSet {α : Type} (xs : List α) (i : Nat) (v : α) : List α := xs.set i v

end Sys2Proof.Machine
end

