-- ==== Sys2Proof/Machine/Numbers.lean ====
section
/-! DEFINITION. Number formats, exact values and rounding (spec/03_number_formats.md R88-R107). A finite value is
(-1)^neg * m * 2^e; a result is rounded once from such a value, with a mark that says whether the exact result lies
strictly above m * 2^e in magnitude. -/

namespace Sys2Proof.Machine

/-- A decoded value (R89). -/
inductive FVal where
  | nan (signalling : Bool)
  | inf (neg : Bool)
  | fin (neg : Bool) (m : Nat) (e : Int)
  deriving DecidableEq, Repr

/-- How a format uses the all-ones exponent (R88). -/
inductive Specials where
  /-- infinities and NaNs -/
  | ieee
  /-- one NaN pattern of each sign, no infinity (E4M3) -/
  | nanOnly
  /-- none (E2M1) -/
  | none
  deriving DecidableEq, Repr

/-- A floating-point format: exponent and fraction widths, bias, specials (R88). -/
structure FloatFmt where
  ebits : Nat
  fbits : Nat
  bias  : Nat
  sp    : Specials
  deriving DecidableEq, Repr

/-- FP64. -/
def fmtF64 : FloatFmt := ⟨11, 52, 1023, .ieee⟩
/-- FP32. -/
def fmtF32 : FloatFmt := ⟨8, 23, 127, .ieee⟩
/-- FP16. -/
def fmtF16 : FloatFmt := ⟨5, 10, 15, .ieee⟩
/-- BF16. -/
def fmtBF16 : FloatFmt := ⟨8, 7, 127, .ieee⟩
/-- E4M3. -/
def fmtE4M3 : FloatFmt := ⟨4, 3, 7, .nanOnly⟩
/-- E5M2. -/
def fmtE5M2 : FloatFmt := ⟨5, 2, 15, .ieee⟩
/-- E2M1. -/
def fmtE2M1 : FloatFmt := ⟨2, 1, 1, .none⟩

/-- The bits of an encoding. -/
def FloatFmt.width (f : FloatFmt) : Nat := 1 + f.ebits + f.fbits
/-- The exponent of the least significant fraction bit of a subnormal. -/
def FloatFmt.qmin (f : FloatFmt) : Int := 1 - (f.bias : Int) - f.fbits
/-- The significand of the largest finite value. -/
def FloatFmt.maxM (f : FloatFmt) : Nat :=
  match f.sp with
  | .nanOnly => 2 ^ (f.fbits + 1) - 2
  | _ => 2 ^ (f.fbits + 1) - 1
/-- The largest exponent field of a finite value. -/
def FloatFmt.maxE (f : FloatFmt) : Nat :=
  match f.sp with
  | .ieee => 2 ^ f.ebits - 2
  | _ => 2 ^ f.ebits - 1
/-- The exponent of the least significant bit of the largest finite value. -/
def FloatFmt.maxQ (f : FloatFmt) : Int := (f.maxE : Int) - 1 + f.qmin
/-- The encoding of the largest finite value, sign aside. -/
def FloatFmt.maxBits (f : FloatFmt) : Nat := (f.maxE - 1) * 2 ^ f.fbits + f.maxM
/-- The encoding of infinity, sign aside, or of the largest finite value where there is none. -/
def FloatFmt.infBits (f : FloatFmt) : Nat :=
  match f.sp with
  | .ieee => (2 ^ f.ebits - 1) * 2 ^ f.fbits
  | _ => f.maxBits
/-- The canonical NaN (R90). E2M1 has none; R106 writes 0 there. -/
def FloatFmt.canonNaN (f : FloatFmt) : Nat :=
  match f.sp with
  | .ieee => (2 ^ f.ebits - 1) * 2 ^ f.fbits + 2 ^ (f.fbits - 1)
  | .nanOnly => 2 ^ (f.ebits + f.fbits) - 1
  | .none => 0
/-- The sign bit of an encoding. -/
def FloatFmt.signBit (f : FloatFmt) (neg : Bool) : Nat := if neg then 2 ^ (f.ebits + f.fbits) else 0

/-- The value of an encoding (R89). -/
def FloatFmt.decode (f : FloatFmt) (v : Nat) : FVal :=
  let neg := bit v (f.ebits + f.fbits)
  let e := bits v f.fbits f.ebits
  let m := bits v 0 f.fbits
  let ones := e == 2 ^ f.ebits - 1
  if ones && f.sp == .ieee then
    if m = 0 then .inf neg else .nan (!bit m (f.fbits - 1))
  else if ones && f.sp == .nanOnly && m == 2 ^ f.fbits - 1 then .nan false
  else if e = 0 then .fin neg m f.qmin
  else .fin neg (2 ^ f.fbits + m) ((e : Int) - 1 + f.qmin)

/-- Rounding modes in code order (R99). -/
inductive RMode where
  | rne | rtz | rup | rdn
  deriving DecidableEq, Repr

/-- The mode of a VCFG[8:7] code. -/
def RMode.ofCode (c : Nat) : RMode :=
  match c with
  | 0 => .rne | 1 => .rtz | 2 => .rup | _ => .rdn

/-- m * 2^e (with more below it if `sticky`) as a whole number of 2^q, rounded, and whether that is exact (R99). -/
def roundTo (mode : RMode) (neg : Bool) (m : Nat) (e : Int) (sticky : Bool) (q : Int) : Nat × Bool :=
  if q ≤ e then (m * 2 ^ (e - q).toNat, !sticky)
  else
    let d := (q - e).toNat
    let fl := m / 2 ^ d
    let rem := m % 2 ^ d
    let half := 2 ^ (d - 1)
    let exact := rem == 0 && !sticky
    let up := match mode with
      | .rne => decide (half < rem) || (rem == half && (sticky || fl % 2 == 1))
      | .rtz => false
      | .rup => !neg && !exact
      | .rdn => neg && !exact
    (if up then fl + 1 else fl, exact)

/-- The exception flags of one result (R101). -/
structure FpFlags where
  inv : Bool := false
  dz  : Bool := false
  ovf : Bool := false
  unf : Bool := false
  inx : Bool := false
  deriving DecidableEq, Repr

/-- No flag. -/
def FpFlags.none : FpFlags := {}
/-- The flags of two results together. -/
def FpFlags.or (x y : FpFlags) : FpFlags :=
  ⟨x.inv || y.inv, x.dz || y.dz, x.ovf || y.ovf, x.unf || y.unf, x.inx || y.inx⟩
/-- The bits of k7 (R101). -/
def FpFlags.toBits (x : FpFlags) : BitVec 5 :=
  BitVec.ofBool x.inv ++ BitVec.ofBool x.dz ++ BitVec.ofBool x.ovf ++ BitVec.ofBool x.unf ++ BitVec.ofBool x.inx

/-- An encoding and the flags its making raised. -/
structure Res where
  v  : Nat
  fl : FpFlags := {}
  deriving DecidableEq, Repr

/-- The result of an overflow (R100): infinity, or the largest finite value when the mode or the format asks for it. -/
def overflowBits (f : FloatFmt) (mode : RMode) (satE5M2 neg : Bool) : Nat :=
  let toMax := (f == fmtE5M2 && satE5M2) || match mode with
    | .rne => false
    | .rtz => true
    | .rup => neg
    | .rdn => !neg
  f.signBit neg + if toMax then f.maxBits else f.infBits

/-- A non-zero or zero finite value rounded to a format (R99-R101). `sticky` values must carry more bits than the format. -/
def roundFin (f : FloatFmt) (mode : RMode) (satE5M2 neg : Bool) (m : Nat) (e : Int) (sticky : Bool) : Res :=
  if m = 0 then ⟨f.signBit neg, {}⟩
  else
    let top : Int := (Nat.log2 m : Int) + e
    let q := top - f.fbits
    let (ru, _) := roundTo mode neg m e sticky q
    if f.maxQ < q ∨ (q = f.maxQ ∧ f.maxM < ru) then
      ⟨overflowBits f mode satE5M2 neg, { ovf := true, inx := true }⟩
    else
      let tiny := decide (q < f.qmin) && !(ru == 2 ^ (f.fbits + 1) && q + 1 == f.qmin)
      let qf := max q f.qmin
      let (r, exact) := roundTo mode neg m e sticky qf
      ⟨f.signBit neg + (qf - f.qmin).toNat * 2 ^ f.fbits + r, { unf := tiny && !exact, inx := !exact }⟩

/-- A value rounded to a format, infinities and NaNs included (R90, R100, R107). -/
def roundVal (f : FloatFmt) (mode : RMode) (satE5M2 : Bool) (v : FVal) : Res :=
  match v with
  | .nan _ => ⟨f.canonNaN, {}⟩
  | .inf neg =>
    if f.sp == .ieee && !(f == fmtE5M2 && satE5M2) then ⟨f.signBit neg + f.infBits, {}⟩
    else ⟨f.signBit neg + f.maxBits, { ovf := true, inx := true }⟩
  | .fin neg m e => roundFin f mode satE5M2 neg m e false

/-! ## Exact arithmetic -/

/-- Whether a value is a NaN. -/
def FVal.isNaN : FVal → Bool
  | .nan _ => true
  | _ => false
/-- Whether a value is a signalling NaN. -/
def FVal.isSNaN : FVal → Bool
  | .nan s => s
  | _ => false
/-- Whether a value is an infinity. -/
def FVal.isInf : FVal → Bool
  | .inf _ => true
  | _ => false
/-- Whether a value is a zero. -/
def FVal.isZero : FVal → Bool
  | .fin _ m _ => m == 0
  | _ => false
/-- The sign of a value. -/
def FVal.neg : FVal → Bool
  | .nan _ => false
  | .inf n => n
  | .fin n _ _ => n
/-- The value with its sign turned over. -/
def FVal.negate : FVal → FVal
  | .nan s => .nan s
  | .inf n => .inf (!n)
  | .fin n m e => .fin (!n) m e

/-- A signed significand. -/
def signed (neg : Bool) (m : Nat) : Int := if neg then -(m : Int) else m

/-- A signed significand and exponent as a value; zero takes the given sign. -/
def FVal.ofInt (z : Int) (e : Int) (zeroNeg : Bool) : FVal :=
  if z = 0 then .fin zeroNeg 0 e else .fin (decide (z < 0)) z.natAbs e

/-- The exact product; 0 times an infinity is a NaN. -/
def FVal.mul (x y : FVal) : FVal :=
  match x, y with
  | .nan s, _ => .nan s
  | _, .nan s => .nan s
  | .inf a, .inf b => .inf (a != b)
  | .inf a, .fin b m _ => if m = 0 then .nan false else .inf (a != b)
  | .fin a m _, .inf b => if m = 0 then .nan false else .inf (a != b)
  | .fin a m e, .fin b n f => .fin (a != b) (m * n) (e + f)

/-- The exact sum; infinities of opposite signs give a NaN; an exact zero from unlike signs is -0 only in mode RDN (IEEE 754). -/
def FVal.add (mode : RMode) (x y : FVal) : FVal :=
  match x, y with
  | .nan s, _ => .nan s
  | _, .nan s => .nan s
  | .inf a, .inf b => if a = b then .inf a else .nan false
  | .inf a, .fin _ _ _ => .inf a
  | .fin _ _ _, .inf b => .inf b
  | .fin a m e, .fin b n f =>
    let q := min e f
    let z := signed a (m * 2 ^ (e - q).toNat) + signed b (n * 2 ^ (f - q).toNat)
    FVal.ofInt z q (if a = b then a else mode == .rdn)

/-- The exact difference: one that is zero is -0 in mode RDN and +0 in the others. R148 says so where the operands are not both zeros of
the same sign; of two such zeros it names no difference, and the model takes the same. DEDUCED, notes/assumptions/75.md. -/
def FVal.sub (mode : RMode) (x y : FVal) : FVal :=
  match x.add mode y.negate with
  | .fin _ 0 e => .fin (mode == .rdn) 0 e
  | z => z

/-- The order of two values that are no NaN, zeros being equal. -/
def FVal.compare (x y : FVal) : Ordering :=
  match x, y with
  | .inf a, .inf b => if a = b then .eq else if a then .lt else .gt
  | .inf a, _ => if a then .lt else .gt
  | _, .inf b => if b then .gt else .lt
  | .fin a m e, .fin b n f =>
    let q := min e f
    Ord.compare (signed a (m * 2 ^ (e - q).toNat)) (signed b (n * 2 ^ (f - q).toNat))
  | _, _ => .eq

/-- The order that minimumNumber and maximumNumber use: -0 is below +0 (R103). -/
def FVal.lessNum (x y : FVal) : Bool :=
  match x.compare y with
  | .lt => true
  | .gt => false
  | .eq => x.isZero && y.isZero && x.neg && !y.neg

/-- The exact value of an integer. -/
def FVal.ofNum (z : Int) : FVal := FVal.ofInt z 0 false

/-! ## P32 (R94, R95) -/

/-- The exact value of a P32 word: significand and exponent. -/
def p32Decode (v : Nat) : Nat × Int :=
  let e := bits v 20 12
  if e = 0 then (0, 0) else (2 ^ 20 + bits v 0 20, (e : Int) - 2048 - 20)

/-- A result in P32 with the flags UNF and OVF. -/
structure P32Res where
  v   : Nat
  unf : Bool := false
  ovf : Bool := false
  deriving DecidableEq, Repr

/-- rne_p32 of m * 2^e (R95). -/
def roundP32 (m : Nat) (e : Int) : P32Res :=
  if m = 0 then ⟨0, false, false⟩
  else
    let top : Int := (Nat.log2 m : Int) + e
    if top < -2047 then ⟨0, true, false⟩
    else
      let (r, _) := roundTo .rne false m e false (top - 20)
      let top' := if r = 2 ^ 21 then top + 1 else top
      let frac := if r = 2 ^ 21 then 0 else r - 2 ^ 20
      if 2047 < top' then ⟨0xFFFFFFFF, false, true⟩
      else ⟨(top' + 2048).toNat * 2 ^ 20 + frac, false, false⟩

/-! ## Integer types (R93) -/

/-- The bits of an element (R98). -/
def elemBits (t : ElemType) : Nat :=
  match t with
  | .f32 | .i32 | .n32 | .p32 => 32
  | .f64 => 64
  | .bf16 | .f16 | .i16 | .n16 => 16
  | .e4m3 | .e5m2 | .i8 | .n8 => 8
  | .e2m1 => 4

/-- The float format of a type. -/
def elemFloat (t : ElemType) : Option FloatFmt :=
  match t with
  | .f32 => some fmtF32
  | .f64 => some fmtF64
  | .bf16 => some fmtBF16
  | .f16 => some fmtF16
  | .e4m3 => some fmtE4M3
  | .e5m2 => some fmtE5M2
  | .e2m1 => some fmtE2M1
  | _ => none

/-- Whether an integer type is signed. -/
def elemSigned (t : ElemType) : Bool :=
  match t with
  | .i32 | .i16 | .i8 => true
  | _ => false

/-- The integer that an encoding of an integer type stands for. -/
def intOf (t : ElemType) (v : Nat) : Int := if elemSigned t then sext v (elemBits t) else v

/-- The least value of an integer type. -/
def intMin (t : ElemType) : Int := if elemSigned t then -(2 ^ ((elemBits t) - 1)) else 0
/-- The greatest value of an integer type. -/
def intMax (t : ElemType) : Int := if elemSigned t then 2 ^ ((elemBits t) - 1) - 1 else 2 ^ (elemBits t) - 1

/-- An integer written in a type: clamped, or its low bits kept (R106, VCFG[9]). -/
def intResult (t : ElemType) (clamp : Bool) (z : Int) : Nat :=
  wrap (if clamp then sat z (intMin t) (intMax t) else z) (elemBits t)

/-! ## Rule set 1 (R113) -/

/-- Whether rule set 1 flushes subnormals of this format: F64, F32, F16 and BF16. -/
def FloatFmt.flushes (f : FloatFmt) : Bool := f == fmtF64 || f == fmtF32 || f == fmtF16 || f == fmtBF16

/-- An operand as the rule set reads it: under NUMV 1 a subnormal is zero of the same sign. -/
def readOperand (numv1 : Bool) (f : FloatFmt) (v : Nat) : FVal :=
  if numv1 && f.flushes && bits v f.fbits f.ebits == 0 then .fin (bit v (f.ebits + f.fbits)) 0 0 else f.decode v

/-- A result as the rule set writes it: under NUMV 1 a subnormal becomes zero with underflow and inexact set. -/
def flushResult (numv1 : Bool) (f : FloatFmt) (r : Res) : Res :=
  if numv1 && f.flushes && bits r.v f.fbits f.ebits == 0 && bits r.v 0 f.fbits != 0 then
    ⟨f.signBit (bit r.v (f.ebits + f.fbits)), { r.fl with unf := true, inx := true }⟩
  else r

/-- The array's ftz of an encoding (R107, R109): no flag. -/
def ftz (numv1 : Bool) (f : FloatFmt) (v : Nat) : Nat := (flushResult numv1 f ⟨v, {}⟩).v

end Sys2Proof.Machine
end

