-- ==== Sys2Proof/Machine/Functions.lean ====
section
/-! DEFINITION. Correctly rounded reciprocal, reciprocal square root, power of two and base-2 logarithm
(spec/05_isa_vector.md R154). Each gives a value m * 2^e with a mark that the exact result lies strictly between it and
(m + 1) * 2^e. Reciprocals and roots are exact quotients; the power and the logarithm are computed to 2^-240 or better, which
is PRESUMED to decide every rounding (notes/assumptions). -/

namespace Sys2Proof.Machine

/-- A positive real known to enough bits: m * 2^e, or strictly between that and (m + 1) * 2^e. -/
structure Approx where
  m : Nat
  e : Int
  sticky : Bool
  deriving DecidableEq, Repr

/-- The integer square root below 2^(fuel), bit by bit: `r` so far. -/
def isqrtGo : Nat → Nat → Nat → Nat
  | 0, _, r => r
  | k + 1, n, r =>
    let r' := r + 2 ^ k
    isqrtGo k n (if r' * r' ≤ n then r' else r)

/-- The integer square root. -/
def isqrt (n : Nat) : Nat := isqrtGo (Nat.log2 n / 2 + 1) n 0

/-- 1 / (m * 2^e). -/
def approxRcp (m : Nat) (e : Int) : Approx :=
  let k := Nat.log2 m + 80
  let q := 2 ^ k / m
  ⟨q, -e - k, q * m != 2 ^ k⟩

/-- 1 / sqrt (m * 2^e). -/
def approxRsq (m : Nat) (e : Int) : Approx :=
  let (m, e) := if e % 2 = 0 then (m, e) else (2 * m, e - 1)
  let k := Nat.log2 m + 80
  let n := 2 ^ (2 * k) / m
  let r := isqrt n
  ⟨r, -(e / 2) - k, r * r * m != 2 ^ (2 * k)⟩

/-- Fraction bits of the fixed-point work. -/
def fixBits : Nat := 300

/-- atanh (1 / d) for d > 1 in fixed point, as a sum of `n` terms from term `k` on; `p` is d^-(2k+1). -/
def atanhGo : Nat → Nat → Nat → Nat → Nat
  | 0, _, _, _ => 0
  | n + 1, k, p, d2 => p / (2 * k + 1) + atanhGo n (k + 1) (p / d2) d2

/-- ln 2 in fixed point: 2 atanh (1/3). -/
def ln2Fix : Nat := 2 * atanhGo 110 0 (2 ^ fixBits / 3) 9

/-- The terms of exp(y) - 1 - ... in fixed point: `t` is y^k / k!. -/
def expGo : Nat → Nat → Nat → Nat → Nat
  | 0, _, _, _ => 0
  | n + 1, k, t, y => t + expGo n (k + 1) (t * y / 2 ^ fixBits / (k + 1)) y

/-- 2^f for 0 < f < 1, f in fixed point: in fixed point, between 1 and 2. -/
def exp2Fix (f : Nat) : Nat := expGo 75 0 (2 ^ fixBits) (f * ln2Fix / 2 ^ fixBits)

/-- The terms of atanh t: `p` is t^(2k+1). -/
def atanhFixGo : Nat → Nat → Nat → Nat → Nat
  | 0, _, _, _ => 0
  | n + 1, k, p, t2 => p / (2 * k + 1) + atanhFixGo n (k + 1) (p * t2 / 2 ^ fixBits) t2

/-- log2 of a mantissa x in (1, 2), x in fixed point. -/
def log2Fix (x : Nat) : Nat :=
  let one := 2 ^ fixBits
  let t := (x - one) * one / (x + one)
  2 * atanhFixGo 110 0 t (t * t / one) * one / ln2Fix

/-- Bits dropped from the fixed-point work before rounding. -/
def guardBits : Nat := 40

/-- The exact power of two, or 2^x for an x that is no integer; x = ±m * 2^e, m > 0. PRESUMED, notes/assumptions/26.md. -/
def approxExp2 (neg : Bool) (m : Nat) (e : Int) : Approx :=
  if 14 ≤ (Nat.log2 m : Int) + e then
    -- beyond every format: a power far outside the range of all of them
    if neg then ⟨1, -100000, false⟩ else ⟨1, 100000, false⟩
  else if (Nat.log2 m : Int) + e < -140 then
    -- 2^x is within 2^-140 of 1
    if neg then ⟨2 ^ 140 - 1, -140, true⟩ else ⟨2 ^ 140, -140, true⟩
  else
    let x : Int := signed neg (if 0 ≤ e then m * 2 ^ e.toNat * 2 ^ fixBits else m * 2 ^ fixBits / 2 ^ (-e).toNat)
    let n := x / 2 ^ fixBits
    let f := (x % 2 ^ fixBits).toNat
    if f = 0 then ⟨1, n, false⟩
    else ⟨exp2Fix f / 2 ^ guardBits, n - fixBits + guardBits, true⟩

/-- log2 (m * 2^e), m > 0, with its sign. PRESUMED, notes/assumptions/26.md. -/
def approxLog2 (m : Nat) (e : Int) : Bool × Approx :=
  let l := Nat.log2 m
  let n : Int := (l : Int) + e
  if m = 2 ^ l then (decide (n < 0), ⟨n.natAbs, 0, false⟩)
  else
    let z : Int := n * 2 ^ fixBits + log2Fix (m * 2 ^ fixBits / 2 ^ l)
    (decide (z < 0), ⟨z.natAbs / 2 ^ guardBits, (guardBits : Int) - fixBits, true⟩)

end Sys2Proof.Machine
end

