-- ==== Sys2Proof/Machine/Operands.lean ====
section
/-! DEFINITION. How an instruction reads and writes the registers of a tile: scalars and pairs (spec/01_machine_state.md
R14, R15), plane lines and the elements packed on them (R16-R18, 05_isa_vector.md R146), lane masks (R22), and the
special registers (R24, R28, R29). -/

namespace Sys2Proof.Machine

/-! ## Scalars -/

/-- s[r]; s0 reads 0 (R14). -/
def Tile.sreg (t : Tile) (r : SReg) : Word := if r = 0 then 0 else t.scal[r.toNat]'r.isLt

/-- s[r] := v; a write of s0 is discarded (R14). -/
def Tile.setS (t : Tile) (r : SReg) (v : Word) : Tile :=
  if r = 0 then t else { t with scal := t.scal.set r.toNat v r.isLt }

/-- The even register of a pair. -/
def pairLo (p : BitVec 5) : SReg := (p ++ 0#1 : BitVec 6)
/-- The odd register of a pair. -/
def pairHi (p : BitVec 5) : SReg := (p ++ 1#1 : BitVec 6)
/-- The pair that an even register number names. -/
def pairOf (r : SReg) : BitVec 5 := r.extractLsb' 1 5

/-- A 64-bit value in a pair (R15). -/
def Tile.spair (t : Tile) (p : BitVec 5) : Nat := (t.sreg (pairLo p)).toNat + 2 ^ 32 * (t.sreg (pairHi p)).toNat

/-- A 64-bit write of a pair; of s0/s1 only s1 is written (R15). -/
def Tile.setPair (t : Tile) (p : BitVec 5) (v : Nat) : Tile :=
  (t.setS (pairLo p) (BitVec.ofNat 32 v)).setS (pairHi p) (BitVec.ofNat 32 (v / 2 ^ 32))

/-! ## Plane lines -/

/-- The cell of lane i of a line, as 64 * row + column (R16). -/
def lineCell (l : Line) (i : Nat) : Nat :=
  let n := l.idx.toNat
  match l.dir with
  | .row => 64 * n + i
  | .col => 64 * i + n
  | .diag => 64 * i + (i + n) % 64
  | .anti => 64 * i + (n + 64 - i) % 64

/-- The cells of a line in lane order. -/
def lineCells (l : Line) : List Nat := (List.range 64).map (lineCell l)

/-- Whether two lines share a cell (R18). -/
def linesOverlap (a b : Line) : Bool :=
  if a.dir = b.dir then a.idx == b.idx
  else if a.dir = .row ∨ a.dir = .col ∨ b.dir = .row ∨ b.dir = .col then true
  else a.idx.getLsbD 0 == b.idx.getLsbD 0

/-- The lanes of a line. -/
def Tile.line (t : Tile) (l : Line) : List Word := (lineCells l).map (Cells.get 0 t.plane)

/-- A line written whole; a written cell gets good parity (R19). -/
def Tile.setLine (t : Tile) (l : Line) (ws : List Word) : Tile :=
  { t with plane := Cells.setAll 0 t.plane ((lineCells l).zip ws), planeBad := t.planeBad.filter fun c => !((lineCells l).contains c) }

/-- The first cell of a line whose parity is bad (R19). -/
def Tile.badCell (t : Tile) (l : Line) : Option Nat := (lineCells l).find? t.planeBad.contains

/-- Words as one number, word 0 lowest. -/
def packWords : List Word → Nat
  | [] => 0
  | w :: ws => w.toNat + 2 ^ 32 * packWords ws

/-- The n lowest words of a number. -/
def unpackWords : Nat → Nat → List Word
  | 0, _ => []
  | n + 1, v => BitVec.ofNat 32 v :: unpackWords n (v / 2 ^ 32)

/-- The w-bit elements of a line, in lane order, low bits first (R146). -/
def elements (w : Nat) (ws : List Word) : List Nat :=
  let v := packWords ws
  (List.range (2048 / w)).map fun e => v / 2 ^ (w * e) % 2 ^ w

/-- An element list written over the old one where a new value is given. -/
def mergeElements (old : List Nat) (new : List (Option Nat)) : List Nat :=
  old.zipWith (fun o n => n.getD o) (new ++ List.replicate (old.length - new.length) none)

/-- w-bit elements as one number. -/
def packElements (w : Nat) : List Nat → Nat
  | [] => 0
  | v :: vs => v % 2 ^ w + 2 ^ w * packElements w vs

/-- The lanes that w-bit elements fill. -/
def lanesOf (w : Nat) (es : List Nat) : List Word := unpackWords 64 (packElements w es)

/-- The w-bit elements of a line that have a new value are written; only the cells that hold one get good parity (R19, R147). -/
def Tile.setElements (t : Tile) (l : Line) (w : Nat) (new : List (Option Nat)) : Tile :=
  let ws := lanesOf w (mergeElements (elements w (t.line l)) new)
  let touched (i : Nat) : Bool :=
    if w = 64 then (new[i / 2]?).join.isSome else ((new.drop (i * 32 / w)).take (32 / w)).any Option.isSome
  let cells := ((lineCells l).zip ws).zip (List.range 64)
  let hit := (cells.filter fun p => touched p.2).map fun p => p.1
  { t with plane := Cells.setAll 0 t.plane hit, planeBad := t.planeBad.filter fun c => !((hit.map Prod.fst).contains c) }

/-! ## Lane masks -/

/-- The all-ones mask. -/
def fullMask : BitVec 256 := BitVec.allOnes 256

/-- A mask; m0 reads as all ones (R22). -/
def Tile.mask (t : Tile) (m : MaskReg) : BitVec 256 := if m = 0 then fullMask else t.masks[m.toNat]'m.isLt

/-- A mask written; m0 is never written (R22). -/
def Tile.setMask (t : Tile) (m : MaskReg) (v : BitVec 256) : Tile :=
  if m = 0 then t else { t with masks := t.masks.set m.toNat v m.isLt }

/-! ## Special registers -/

/-- STATUS (R28). -/
def KRegs.status (k : KRegs) : Word :=
  (0#25 ++ k.numv ++ BitVec.ofBool k.trapped ++ BitVec.ofBool k.hw ++ k.sr : BitVec (25 + 2 + 1 + 1 + 3))

/-- TILEID (R29). -/
def tileIdWord (i : TileId) : Word := BitVec.ofNat 32 (i.die.val * 256 + i.site.val / 10 * 16 + i.site.val % 10)

/-- The index of the loop entry at a depth counted from the outermost, 1 first; the list holds the innermost first (R13). -/
def loopIndexAt (loops : List LoopEntry) (depth : Nat) : Word :=
  match loops.reverse[depth - 1]? with
  | some e => e.index
  | none => 0

/-- What MOVK reads from a register, from the special registers as they stood when the bundle passed D (R24, R139). -/
def kRead (k : KRegs) (loops : List LoopEntry) (tid : TileId) (n : KReg) : Word :=
  match n.toNat with
  | 0 => k.status
  | 1 => k.tpc.setWidth 32
  | 2 => k.tcause
  | 3 => k.tmask.setWidth 32
  | 4 => k.tsb.setWidth 32
  | 5 => k.cycle.setWidth 32
  | 6 => k.cycleHi
  | 7 => k.vflags.setWidth 32
  | 8 => k.vcfg.setWidth 32
  | 9 => k.tcfg.setWidth 32
  | 10 => k.tstat.setWidth 32
  | 11 => k.tconf
  | 12 => k.bconf
  | 13 => k.aconf
  | 14 => k.segcnt
  | 15 => k.segsig
  | 16 => tileIdWord tid
  | 17 => k.launchId.setWidth 32
  | 18 => k.pointSer
  | 19 => BitVec.ofNat 32 loops.length
  | 20 => loopIndexAt loops 1
  | 21 => loopIndexAt loops 2
  | 22 => loopIndexAt loops 3
  | 23 => loopIndexAt loops 4
  | 24 => loopIndexAt loops 5
  | 25 => loopIndexAt loops 6
  | 26 => k.replays
  | 27 => k.flagInj
  | 28 => k.semErr.setWidth 32
  | 29 => k.mcfg.setWidth 32
  | 30 => k.cerr.setWidth 32
  | 31 => k.cerr.extractLsb' 32 32
  | 48 => k.semErr.extractLsb' 32 32
  | n => if h : 32 ≤ n ∧ n < 48 then k.regions[n - 32]'(by omega) else 0

/-! ## Vector configuration -/

/-- The type of a k8 code; k8 never holds a code above 11 (R144). -/
def vcfgType (k8 : BitVec 16) : ElemType :=
  match (k8.extractLsb' 0 4).toNat with
  | 1 => .f64 | 2 => .bf16 | 3 => .f16 | 4 => .e4m3 | 5 => .e5m2 | 6 => .i32 | 7 => .i16 | 8 => .i8
  | 9 => .n32 | 10 => .n16 | 11 => .n8 | _ => .f32

/-- What a V slot takes from VCFG and STATUS (R143, R113). -/
structure VMode where
  ty    : ElemType
  mask  : BitVec 256
  rnd   : RMode
  sat   : Bool
  nov   : Bool
  numv1 : Bool
  deriving DecidableEq, Repr

/-- The mask number of VCFG.MSK. -/
def vcfgMask (k8 : BitVec 16) : MaskReg := k8.extractLsb' 4 3

/-- The configuration of a tile's V slots. -/
def Tile.vmode (t : Tile) : VMode :=
  { ty := vcfgType t.k.vcfg, mask := t.mask (vcfgMask t.k.vcfg), rnd := RMode.ofCode (t.k.vcfg.extractLsb' 7 2).toNat,
    sat := t.k.vcfg.getLsbD 9, nov := t.k.vcfg.getLsbD 10, numv1 := t.k.numv == 1 }

/-! ## The scratchpad -/

/-- Bytes of a scratchpad (R30). -/
def spadSize : Nat := 0x200000

/-- The region of an address (R30). -/
def regionOf (a : Nat) : Nat := a / 0x20000

/-- n bytes of a tile's scratchpad, as every agent but the tile itself finds them. -/
def Tile.spadBytes (t : Tile) (a n : Nat) : List Byte := Cells.getRange 0 t.spad a n

/-- A pending MMUL, MMULD or MLDW: work that reads the scratchpad after its commit (R217). -/
def SbEntry.isMatrix (e : SbEntry) : Bool :=
  match e.work with
  | .mmul _ _ _ _ _ _ _ _ | .mldw _ _ _ _ => true
  | _ => false

/-- The record of replaced bytes after a write of n bytes at an address, by an STG of a place in the issue order or by another
access: it is kept while matrix work is pending. -/
def Tile.racedBy (t : Tile) (a n : Nat) (stg : Option Nat) : List RaceRec :=
  if t.sb.any SbEntry.isMatrix then t.raced ++ [⟨a, t.spadBytes a n, stg⟩] else t.raced

/-- Bytes stored to a tile's scratchpad, by an STG or by another access. -/
def Tile.setSpadBy (t : Tile) (stg : Option Nat) (a : Nat) (bs : List Byte) : Tile :=
  { t with spad := Cells.setRange 0 t.spad a bs, raced := t.racedBy a bs.length stg }

/-- Bytes stored to a tile's scratchpad. -/
def Tile.setSpad (t : Tile) (a : Nat) (bs : List Byte) : Tile := t.setSpadBy none a bs

/-- A word of a tile's scratchpad. -/
def Tile.spadWord (t : Tile) (a : Nat) : Word := BitVec.ofNat 32 (natOfBytes (t.spadBytes a 4))

/-- A word stored to a tile's scratchpad. -/
def Tile.setSpadWord (t : Tile) (a : Nat) (w : Word) : Tile := t.setSpad a (bytesOfNat 4 w.toNat)

/-! ## Bundles in the instruction store -/

/-- The words of a bundle from a word on, up to its stop bit or eight words (R55). -/
def bundleWords (istore : Cells Word) : Nat → BitVec 16 → List Word
  | 0, _ => []
  | n + 1, a =>
    let w := Cells.get 0 istore a.toNat
    if w.getLsbD 31 then [w] else w :: bundleWords istore n (a + 1)

/-! ## The tile's own accesses beside its pending LDG and STG (R62, R172, R173, R257) -/

/-- Words at addresses, stored over the bytes of a scratchpad in order. -/
def overlay (c : Cells Byte) : List (Nat × Word) → Cells Byte
  | [] => c
  | (a, w) :: ps => overlay (Cells.setRange 0 c a (bytesOfNat 4 w.toNat)) ps

/-- The words that an STG has still to write, with their addresses in lane order. -/
def lanesLeft (as : List Nat) (ws : List (Option Word)) : List (Nat × Word) := (as.zip ws).filterMap fun p => p.2.map (p.1, ·)

/-- The scratchpad as an access of the tile at a place in its issue order finds it: with the words of the STGs before it, which
only a slot of the STG's own bundle can meet while they are pending (R173). -/
def Tile.viewAt (t : Tile) (n : Nat) : Cells Byte :=
  t.sb.foldl (fun c e => match e.work with
    | .stg ws as => if e.seqNo < n then overlay c (lanesLeft as ws) else c
    | _ => c) t.spad

/-- n bytes as the tile's next access finds them. -/
def Tile.ownBytes (t : Tile) (a n : Nat) : List Byte := Cells.getRange 0 (t.viewAt t.issueNo) a n

/-- A word as the tile's next access finds it. -/
def Tile.ownWord (t : Tile) (a : Nat) : Word := BitVec.ofNat 32 (natOfBytes (t.ownBytes a 4))

/-- Whether the word at an address shares a byte with n bytes at another. -/
def wordMeets (x a n : Nat) : Bool := decide (a < x + 4) && decide (x < a + n)

/-- A word of a view of the scratchpad. -/
def wordIn (c : Cells Byte) (a : Nat) : Word := BitVec.ofNat 32 (natOfBytes (Cells.getRange 0 c a 4))

/-- A pending entry as an access of the tile that writes n bytes at an address leaves it: the lanes of an LDG before it that read
these bytes take their words first, and the words of an STG before it that it overwrites are no longer to be written. -/
def SbEntry.meetStore (t : Tile) (place a n : Nat) (e : SbEntry) : SbEntry :=
  if place ≤ e.seqNo then e
  else match e.work with
    | .ldg pd as tk =>
      { e with work := .ldg pd as ((as.zip tk).map fun p =>
          if p.2.isNone && wordMeets p.1 a n then some (wordIn (t.viewAt e.seqNo) p.1) else p.2) }
    | .stg ws as => { e with work := .stg ((as.zip ws).map fun p => if wordMeets p.1 a n then none else p.2) as }
    | _ => e

/-- Bytes stored by the tile's own access at a place in its issue order. -/
def Tile.ownStoreAt (t : Tile) (place a : Nat) (bs : List Byte) : Tile :=
  { t with sb := t.sb.map (SbEntry.meetStore t place a bs.length) }.setSpad a bs

/-- Bytes stored by the tile's next access. -/
def Tile.ownStore (t : Tile) (a : Nat) (bs : List Byte) : Tile := t.ownStoreAt t.issueNo a bs

/-- The region descriptor that holds an address. -/
def KRegs.regionDesc (k : KRegs) (a : Nat) : Nat :=
  if h : regionOf a < 16 then (k.regions[regionOf a]'h).toNat else 0

/-- The physical address under a SPAN code (R34). -/
def swizzle (span a : Nat) : Nat :=
  if span = 0 ∨ span = 7 then a
  else
    let s := span + 3
    let c := a % 512 / 2 ^ s
    let w := a / 512
    let c2 := c ^^^ (w % (512 / 2 ^ s))
    w * 512 + c2 * 2 ^ s + a % 2 ^ s

/-- The bank and row that an address falls in (R34, R35). -/
def KRegs.bankRow (k : KRegs) (a : Nat) : Nat × Nat :=
  let p := swizzle (bits (k.regionDesc a) 4 3) a
  (p / 16 % 32, p / 512)

/-- The distinct elements of a list. -/
def dedup {α : Type} [DecidableEq α] : List α → List α
  | [] => []
  | x :: xs => if xs.contains x then dedup xs else x :: dedup xs

/-- Extra cycles of accesses made in one cycle: over the banks, the most distinct rows of one bank, less one (R35). -/
def conflictCycles (accs : List (Nat × Nat)) : Nat :=
  let d := dedup accs
  d.foldl (fun m p => Nat.max m ((d.filter fun q => q.1 == p.1).length - 1)) 0

end Sys2Proof.Machine
end

