-- ==== Sys2Proof/Machine/Flags.lean ====
section
/-! DEFINITION. The sticky flags and counters of a tile: VFLAGS (spec/03_number_formats.md R101, R102, 05_isa_vector.md
R168), TSTAT (R95, R234), the conflict counters (R26, R35), SEMERR and CERR (R27, R198), and the segment signature
(04_isa_scalar_and_control.md R133). -/

namespace Sys2Proof.Machine

/-- Flags ORed into VFLAGS (R101). -/
def Tile.raise (t : Tile) (f : FpFlags) : Tile := { t with k := { t.k with vflags := t.k.vflags ||| f.toBits } }

/-- Bits ORed into TSTAT (R234). -/
def Tile.raiseTstat (t : Tile) (b : BitVec 5) : Tile := { t with k := { t.k with tstat := t.k.tstat ||| b } }

/-- Extra bank-conflict cycles counted (R35). DEDUCED, notes/assumptions/21.md. -/
def Tile.addBconf (t : Tile) (n : Nat) : Tile := { t with k := { t.k with bconf := satAdd32 t.k.bconf n } }
/-- Extra layout-generator cycles counted (R209). -/
def Tile.addAconf (t : Tile) (n : Nat) : Tile := { t with k := { t.k with aconf := satAdd32 t.k.aconf n } }
/-- Extra Trellis cycles counted (R249). -/
def Tile.addTconf (t : Tile) (n : Nat) : Tile := { t with k := { t.k with tconf := satAdd32 t.k.tconf n } }

/-- A post's arrival: the count rises, or stops at 0xFFFF_FFFF and sets the SEMERR bit (R37, R27). -/
def Tile.addSem (t : Tile) (e : BitVec 6) (n : Word) : Tile :=
  let c := (t.sems[e.toNat]'e.isLt).toNat + n.toNat
  if c ≤ 0xFFFFFFFF then { t with sems := t.sems.set e.toNat (BitVec.ofNat 32 c) e.isLt }
  else { t with sems := t.sems.set e.toNat 0xFFFFFFFF e.isLt,
                k := { t.k with semErr := t.k.semErr ||| BitVec.twoPow 64 e.toNat } }

/-- The CERR bit of a semaphore set (R198). -/
def Tile.setCerr (t : Tile) (e : BitVec 6) : Tile :=
  { t with k := { t.k with cerr := t.k.cerr ||| BitVec.twoPow 64 e.toNat } }

/-! ## CRC-32C -/

/-- One bit of the reflected CRC-32C register (R133). -/
def crcBit (c : Nat) : Nat := if c % 2 = 1 then c / 2 ^^^ 0x82F63B78 else c / 2

/-- n bits of the register. -/
def crcBits : Nat → Nat → Nat
  | 0, c => c
  | n + 1, c => crcBits n (crcBit c)

/-- The CRC of a stream continued by more bytes: registers are kept with the final XOR undone and redone (R133). -/
def crcFeed (crc : Nat) (bs : List Byte) : Nat :=
  (bs.foldl (fun c b => crcBits 8 (c ^^^ b.toNat)) (crc ^^^ 0xFFFFFFFF)) ^^^ 0xFFFFFFFF

/-- SEGSIG fed with words, least significant byte first (R133). -/
def sigFeed (sig : Word) (ws : List Word) : Word := BitVec.ofNat 32 (crcFeed sig.toNat (bytesOfWords ws))

end Sys2Proof.Machine
end

