-- ==== Sys2Proof/Machine/Access.lean ====
section
/-! DEFINITION. Reaching the parts of the state: a tile, its site record, a die, a stack, a queue, a launch. -/

namespace Sys2Proof.Machine

/-- The number of a tile in the package: 80 * die + site (spec/12_elastic_timing_and_margin.md R347). -/
def tileNo (i : TileId) : Nat := 80 * i.die.val + i.site.val

/-- Every tile number is below 640. -/
theorem tileNo_lt (i : TileId) : tileNo i < 640 := by
  have := i.die.isLt; have := i.site.isLt; unfold tileNo; omega

/-- A tile. -/
def State.tile (s : State) (i : TileId) : Tile := s.tiles[tileNo i]'(tileNo_lt i)
/-- The state with one tile replaced. -/
def State.setTile (s : State) (i : TileId) (t : Tile) : State :=
  { s with tiles := s.tiles.set (tileNo i) t (tileNo_lt i) }
/-- A site record. -/
def State.site (s : State) (i : TileId) : Site := s.sites[tileNo i]'(tileNo_lt i)
/-- The state with one site record replaced. -/
def State.setSite (s : State) (i : TileId) (x : Site) : State :=
  { s with sites := s.sites.set (tileNo i) x (tileNo_lt i) }
/-- A die. -/
def State.die (s : State) (d : Fin 8) : Die := s.dies[d]
/-- The state with one die replaced. -/
def State.setDie (s : State) (d : Fin 8) (x : Die) : State := { s with dies := s.dies.set d.val x d.isLt }
/-- A stack. -/
def State.stack (s : State) (n : Fin 8) : Stack := s.hbm[n]
/-- The state with one stack replaced. -/
def State.setStack (s : State) (n : Fin 8) (x : Stack) : State := { s with hbm := s.hbm.set n.val x n.isLt }
/-- A queue. -/
def State.queue (s : State) (q : Fin 16) : Queue := s.queues[q]
/-- The state with one queue replaced. -/
def State.setQueue (s : State) (q : Fin 16) (x : Queue) : State := { s with queues := s.queues.set q.val x q.isLt }
/-- A port. -/
def State.port (s : State) (p : Fin 12) : Port := s.ports[p]
/-- The state with one port replaced. -/
def State.setPort (s : State) (p : Fin 12) (x : Port) : State := { s with ports := s.ports.set p.val x p.isLt }
/-- The package registers replaced. -/
def State.setRegs (s : State) (r : PkgRegs) : State := { s with regs := r }

/-- A number as a die. -/
def dieOf (n : Nat) : Fin 8 := ⟨n % 8, Nat.mod_lt _ (by decide)⟩
/-- A number as a site. -/
def siteOf (n : Nat) : Fin 80 := ⟨n % 80, Nat.mod_lt _ (by decide)⟩
/-- The tiles of a die. -/
def tilesOf (d : Fin 8) : List TileId := (List.finRange 80).map fun n => ⟨d, n⟩
/-- Every tile of the package. -/
def allTiles : List TileId := (List.finRange 8).flatMap tilesOf

/-- A change applied to each of a list of tiles. -/
def State.mapTiles (s : State) (f : Tile → Tile) : List TileId → State
  | [] => s
  | i :: is => State.mapTiles (s.setTile i (f (s.tile i))) f is

/-- The launch with a handle that waits, runs or drains, or has faulted and is not yet gone. -/
def State.launch? (s : State) (h : BitVec 16) : Option Launch := s.launches.find? fun l => l.handle == h

/-- Whether a launch has faulted or been killed: it is kept until its tiles have stopped and its completion word is stored. -/
def Launch.gone (l : Launch) : Bool := l.phase == .faulted || l.phase == .killed

/-- Whether a launch is resident: it holds its slots on its dies (R279). -/
def Launch.isResident (l : Launch) : Bool := l.phase == .resident || l.phase == .draining

/-- A launch replaced by its new form, found by its handle. -/
def State.setLaunch (s : State) (l : Launch) : State :=
  { s with launches := s.launches.map fun x => if x.handle == l.handle then l else x }

/-- A launch forgotten, with the posts and the crew-space accesses of it that are still on their way: its tiles discard them
(R176, R312). -/
def State.dropLaunch (s : State) (h : BitVec 16) : State :=
  { s with launches := s.launches.filter fun x => x.handle != h, posts := s.posts.filter fun p => p.handle != h,
           crew := s.crew.filter fun a => a.handle != h }

/-- LTIME, the lifetime clock of the Margin Record Store (R348). -/
def State.ltime (s : State) : Nat := s.headers[0].lbase + s.time

end Sys2Proof.Machine
end

