-- ==== Sys2Proof/Machine/Memory.lean ====
section
/-! DEFINITION. Global memory (spec/13_memory_system.md): the mapping of lines onto the stacks (R354-R356), stored errors and
the error banks (R359-R363), translation (R365-R371), fault records (R372, R373), watched writes (R379, R380), host
memory, and message interrupts (14_package_links_and_management.md R392). -/

namespace Sys2Proof.Machine

/-! ## Host memory and message interrupts -/

/-! ### Writes that not every agent sees yet (R254-R256, R262-R264) -/

/-- Whether an agent lies in the scope instance at which a write is performed, or has read it (R255). The front-end's instances of TILE,
CREW and DIE hold no tile. DESIGN CHOICE, notes/assumptions/73.md. -/
def NarrowWrite.sees (e : NarrowWrite) (r : Agent) : Bool :=
  e.seen.contains r || decide (4 ≤ e.by'.scope) || match r with
  | .front => decide (3 ≤ e.by'.scope)
  | .tile j => decide (3 ≤ e.by'.scope) || match e.by'.tile with
    | some i => i == j || (decide (1 ≤ e.by'.scope) && e.by'.crew.contains j) || (decide (2 ≤ e.by'.scope) && i.die == j.die)
    | none => false
  | .host | .peer _ => false

/-- The granule of 8 bytes that a narrow write lies in. -/
def NarrowWrite.granule (e : NarrowWrite) : Bool × Nat := (e.host, e.addr / 8)

/-- Narrow writes without those that every agent has to see: one performed at SYS, what stands before it in its granule, and the earlier
elements of a copy to an SO page of which an element has to be seen (R254, R263). The granules given hold such a write. -/
def settle (gone : List (Bool × Nat)) (es : List NarrowWrite) : List NarrowWrite :=
  (es.foldr (fun e (p : List NarrowWrite × List (Bool × Nat) × List (Option TileId × Nat)) =>
    let copy := (e.by'.tile, e.by'.copy)
    if decide (4 ≤ e.by'.scope) || p.2.1.contains e.granule || (e.ord == 1 && p.2.2.contains copy) then
      (p.1, e.granule :: p.2.1, if e.ord = 1 then copy :: p.2.2 else p.2.2)
    else (e :: p.1, p.2)) ([], gone, [])).1

/-- The granules of n bytes at a location. -/
def granulesOf (a n : Nat) : List Nat := (List.range ((a + n + 7) / 8 - a / 8)).map fun j => a / 8 + j

/-- A write of n bytes at a location that every agent sees. -/
def State.settleAt (s : State) (host : Bool) (a n : Nat) : State :=
  if s.narrow.isEmpty then s else { s with narrow := settle ((granulesOf a n).map fun g => (host, g)) s.narrow }

/-- The narrow writes that a test picks, performed at a scope, CREW for some tiles (R256). -/
def State.raise (s : State) (pick : NarrowWrite → Bool) (scope : Nat) (crew : List TileId) : State :=
  { s with narrow := settle [] (s.narrow.map fun e =>
      if pick e then { e with by' := { e.by' with scope := Nat.max e.by'.scope scope, crew := e.by'.crew ++ crew } } else e) }

/-- The narrow writes that n bytes written at a location make, with what stood there. -/
def narrowAt (host : Bool) (w : Writer) (leaf : VPage) (ord : Nat) (old : Nat → Nat → List Byte) (a n : Nat) : List NarrowWrite :=
  (granulesOf a n).map fun g =>
    let lo := Nat.max a (8 * g)
    ⟨0, host, lo, old lo (Nat.min (a + n) (8 * g + 8) - lo), w, leaf, ord, false, []⟩

/-- Narrow writes put at the end of the list, numbered on. -/
def State.addNarrow (s : State) (es : List NarrowWrite) : State :=
  let last := (s.narrow.getLast?.map NarrowWrite.no).getD 0
  { s with narrow := s.narrow ++ (es.zipIdx 1).map fun p => { p.1 with no := last + p.2 } }

/-- The writes in a granule that a read of an agent hides, newest first: some of the newest that it need not see. -/
def hiddenIn (es : List NarrowWrite) (r : Agent) (draw : Nat) (g : Bool × Nat) : List NarrowWrite :=
  let free := (es.filter fun e => e.granule == g).reverse.takeWhile fun e => !e.sees r
  free.take (Config.unseen draw g.2 % (free.length + 1))

/-- A byte as a read sees it that hides some writes, the newest first. -/
def NarrowWrite.under (es : List NarrowWrite) (a : Nat) (b : Byte) : Byte :=
  es.foldl (fun v e => if e.addr ≤ a ∧ a < e.addr + e.old.length then e.old.getD (a - e.addr) 0 else v) b

/-- A read of an agent has met the writes picked; with an element of a copy to an SO page, the copy's earlier ones (R263). -/
def markSeen (r : Agent) (met : NarrowWrite → Bool) (es : List NarrowWrite) : List NarrowWrite :=
  es.map fun e =>
    if met e || (e.ord == 1 && es.any fun x => met x && x.ord == 1 && x.by'.tile == e.by'.tile && x.by'.copy == e.by'.copy &&
        decide (e.no < x.no)) then { e with seen := r :: e.seen.filter fun x => x != r } else e

/-- An agent has met the newest writes of some runs: what it read there holds them (R263, R265). -/
def State.meets (s : State) (r : Agent) (host : Bool) (runs : List (Nat × Nat)) : State :=
  let gs := (runs.flatMap fun p => granulesOf p.1 p.2).map fun g => (host, g)
  { s with narrow := markSeen r (fun e => gs.contains e.granule) s.narrow }

/-- What an agent's read of some runs (location, length) returns where the newest bytes are given: in each granule the newest write or,
by a free choice, one that stands before writes which it need not see (R254, R256, R262). DESIGN CHOICE, notes/assumptions/73.md. -/
def State.seenBy (s : State) (r : Agent) (host : Bool) (runs : List (Nat × Nat)) (bs : List Byte) : State × List Byte :=
  let gs := (runs.flatMap fun p => granulesOf p.1 p.2).map fun g => (host, g)
  if !s.narrow.any fun e => gs.contains e.granule && !e.sees r then (s, bs)
  else
    let places := runs.flatMap fun p => (List.range p.2).map fun j => p.1 + j
    let hid (g : Bool × Nat) := hiddenIn s.narrow r s.draws g
    let met (e : NarrowWrite) : Bool := gs.contains e.granule && !((hid e.granule).any fun x => x.no == e.no)
    ({ s with draws := s.draws + 1, narrow := markSeen r met s.narrow },
      List.zipWith (fun a b => NarrowWrite.under (hid (host, a / 8)) a b) places bs)

/-- Bytes of host memory. DESIGN CHOICE, notes/assumptions/3.md. -/
def State.hostBytes (s : State) (a n : Nat) : List Byte := Cells.getRange 0 s.hostMem a n

/-- A write that the package makes to host memory, performed at SYS; a viral package sends none (R322). -/
def State.hostStore (s : State) (a : Nat) (bs : List Byte) : State :=
  if s.regs.viral then s else { s.settleAt true a bs.length with hostMem := Cells.setRange 0 s.hostMem a bs }

/-- A write to host memory at the scope of its writer, through a leaf to a page of an order kind. -/
def State.hostStoreAs (s : State) (w : Writer) (leaf : VPage) (ord a : Nat) (bs : List Byte) : State :=
  if 4 ≤ w.scope ∨ s.regs.viral then s.hostStore a bs
  else { s.hostStore a bs with narrow := s.narrow }.addNarrow (narrowAt true w leaf ord (Cells.getRange 0 s.hostMem) a bs.length)

/-- A read of host memory by an agent. -/
def State.hostRead (s : State) (r : Agent) (a n : Nat) : State × List Byte := s.seenBy r true [(a, n)] (s.hostBytes a n)

/-- A source raises its vector: the message is written, or held by the mask (R392). -/
def State.raiseVector (s : State) (v : Nat) : State :=
  if h : v < 32 then
    let e := s.vecs[v]
    if e.mask then { s with vecs := s.vecs.set v { e with pend := true } }
    else s.hostStore (e.addr.toNat / 4 * 4) (bytesOfNat 4 e.data.toNat)
  else s

/-- The FSTAT bits that rise under FCTL.IEN (R323): bit 3 TFENCE, 2 PFAULT, 1 DFENCE, 0 CORR. -/
def PkgRegs.fstatBit (r : PkgRegs) (b : Nat) : Bool :=
  match b with
  | 0 => r.corr
  | 1 => r.dfence
  | 2 => r.pfault
  | _ => r.tfence

/-- An FSTAT bit set; its rise raises vector 16 if FCTL enables it (R323). -/
def State.setFstat (s : State) (b : Nat) : State :=
  let rose := !(s.regs.fstatBit b)
  let r := match b with
    | 0 => { s.regs with corr := true }
    | 1 => { s.regs with dfence := true }
    | 2 => { s.regs with pfault := true }
    | _ => { s.regs with tfence := true }
  let s := s.setRegs r
  if rose && s.regs.fctl.getLsbD b then s.raiseVector 16 else s

/-- The error-log entry: TIME, class, source, die or port, detail (R405). -/
def errEntry (time cls src unit : Nat) (detail : List Byte) : BitVec 512 :=
  BitVec.ofNat 512 (natOfBytes (bytesOfNat 8 time ++ bytesOfNat 1 cls ++ bytesOfNat 1 src ++ bytesOfNat 2 unit ++ detail.take 52))

/-- An entry written into the package error log ring (R405). -/
def State.logError (s : State) (cls src unit : Nat) (detail : List Byte) : State :=
  let n := s.regs.logNext
  { s with errLog := Cells.set 0 s.errLog n (errEntry s.time cls src unit detail),
           regs := { s.regs with logNext := if n = 1023 then 1 else n + 1 } }

/-! ## Lines and the mapping -/

/-- The parity of a 33-bit value. -/
def parity33 (v : BitVec 33) : Bool := (List.range 33).foldl (fun p i => p ^^ v.getLsbD i) false

/-- The memory coordinate that a matrix gives a line number (R355). -/
def mapLine (rows : Vector (BitVec 33) 33) (l : Nat) : Nat :=
  (List.finRange 33).foldl (fun d j => if parity33 (rows[j] &&& BitVec.ofNat 33 l) then d + 2 ^ j.val else d) 0

/-- The lowest-numbered enabled region that holds a line (R355). -/
def State.regionFor (s : State) (l : Nat) : Option MapRegion :=
  s.maps.toList.find? fun r => r.en && decide (r.base ≤ l / 2 ^ 24) && decide (l / 2 ^ 24 ≤ r.limit)

/-- Fields of a memory coordinate (R354). -/
def coordStack (d : Nat) : Fin 8 := dieOf (d / 2 ^ 30)
/-- The row of a coordinate. -/
def coordRow (d : Nat) : Nat := d % 2 ^ 15
/-- A coordinate without its column: it names one row of one bank. -/
def coordRowKey (d : Nat) : Nat := d / 2 ^ 20 * 2 ^ 20 + d % 2 ^ 15
/-- The bank of a coordinate. -/
def coordBank (d : Nat) : Nat := d / 2 ^ 20

/-- Lines that firmware reserves for the fatal dump: the last 16 MiB of a stack (R406). -/
def reservedCoord (n : Fin 8) (d : Nat) : Bool := d / 2 ^ 30 == n.val && decide (0x7FF8 ≤ coordRow d)

/-- Where a line lies, or none when no mapping region reaches it (R355, R406). -/
def State.coord (s : State) (l : Nat) : Option Nat :=
  match s.regionFor l with
  | none => none
  | some r =>
    let d := mapLine r.rows l
    if reservedCoord s.regs.dumpDie d then none else some d

/-! ## Routes between dies (R383) -/

/-- The dies that a route passes after its source: along the row and then across, or across and then along the row. -/
def routeDies (src dst : Nat) (rowFirst : Bool) : List Nat :=
  let along (row : Nat) : List Nat :=
    let (a, b) := (src % 4, dst % 4)
    (List.range 4).filterMap fun c =>
      if (decide (a < c) && decide (c ≤ b)) || (decide (b ≤ c) && decide (c < a)) then some (4 * row + c) else none
  let (r, q) := (src / 4, dst / 4)
  if rowFirst then along r ++ (if r = q then [] else [dst])
  else
    let other := 1 - r
    let cross := [4 * other + src % 4]
    if r = q then (if src = dst then [] else cross ++ along other ++ [dst]) else cross ++ along q

/-- Whether a die cannot reach another: it is fenced itself, or both routes pass a fenced die (R321 step 2, R383). -/
def State.routeBlocked (s : State) (src dst : Fin 8) : Bool :=
  let bad (n : Nat) : Bool := (s.die (dieOf n)).fenced
  ((s.die src).fenced && src != dst) || (routeDies src.val dst.val true).any bad && (routeDies src.val dst.val false).any bad

/-- Whether a die cannot reach a link die: it is fenced itself, or the die beside the link die in its column is. LD0 lies south of row 0,
LD1 north of row 1. -/
def State.linkBlocked (s : State) (src : Fin 8) (row : Nat) : Bool :=
  (s.die src).fenced || (s.die (dieOf (4 * row + src.val % 4))).fenced

/-! ## Inverse of a matrix -/

/-- One step of elimination: a row with the pivot bit, if any is left, is moved to the done part and cleared from the rest;
each row is a pair of its matrix part and what it was combined from. -/
def elimStep (c : Nat) (p : List (Nat × BitVec 33 × BitVec 33) × List (BitVec 33 × BitVec 33)) :
    List (Nat × BitVec 33 × BitVec 33) × List (BitVec 33 × BitVec 33) :=
  match p.2.find? fun r => r.1.getLsbD c with
  | none => p
  | some r =>
    let rest := p.2.erase r
    let clear (x : BitVec 33 × BitVec 33) := if x.1.getLsbD c then (x.1 ^^^ r.1, x.2 ^^^ r.2) else x
    ((c, r) :: p.1.map (fun q => if q.2.1.getLsbD c then (q.1, clear q.2) else q), rest.map clear)

/-- The rows reduced: each pivot column with its row and the combination of given rows that makes it. -/
def eliminate (rows : Vector (BitVec 33) 33) : List (Nat × BitVec 33 × BitVec 33) :=
  let start := (List.finRange 33).map fun j => (rows[j], BitVec.twoPow 33 j.val)
  ((List.range 33).foldl (fun p c => elimStep c p) ([], start)).1

/-- The rank of a matrix (R358). -/
def rank33 (rows : Vector (BitVec 33) 33) : Nat := (eliminate rows).length

/-- The line number that a matrix of full rank maps to a coordinate. -/
def unmapCoord (rows : Vector (BitVec 33) 33) (d : Nat) : Nat :=
  (eliminate rows).foldl (fun l q => if parity33 (q.2.2 &&& BitVec.ofNat 33 d) then l + 2 ^ q.1 else l) 0

/-! ## Error banks, hot rows and pruning -/

/-- Twenty-four hours in ns (R325, R344, R363). -/
def oneDay : Nat := 86400000000000

/-- The halvings of the scores that TIME has passed and that are still to be made (R363). -/
def State.halveDue (s : State) : State :=
  let n := s.time / oneDay - s.regs.halvings
  { s with regs := { s.regs with halvings := s.regs.halvings + n },
           hbm := s.hbm.map fun (k : Stack) => { k with hot := k.hot.map fun h => { h with score := h.score / 2 ^ n } } }

/-- Who met a stored error: EBSYN.SRC (R360). -/
inductive ErrSrc where
  | agent | scrub | prune | partialWrite
  deriving DecidableEq, Repr

/-- The code of EBSYN.SRC. -/
def ErrSrc.code : ErrSrc → BitVec 2
  | .agent => 0 | .scrub => 1 | .prune => 2 | .partialWrite => 3

/-- An error counted and recorded in a stack's bank (R361). -/
def Stack.countError (k : Stack) (ue : Bool) (pa : Nat) (sym : Byte) (src : ErrSrc) (time : Nat) : Stack :=
  let k := if ue then { k with ueCnt := if k.ueCnt = 0xFFFF then 0xFFFF else k.ueCnt + 1 }
    else { k with ceCnt := if k.ceCnt = 0xFFFF then 0xFFFF else k.ceCnt + 1 }
  let record (k : Stack) : Stack :=
    { k with ebValid := true, ebUe := ue, ebOvf := false, ebPa := pa, ebSrc := src.code, ebSym := sym,
             ebTime := BitVec.ofNat 64 time }
  if !k.ebValid then record k
  else if ue then (if k.ebUe then { k with ebOvf := true } else record k)
  else k

/-- The lowest-scoring hot row leaves a full list; among equals the one that entered first (R363). -/
def dropLowest (hot : List HotRow) : List HotRow :=
  match hot with
  | [] => []
  | h :: hs =>
    let low := hs.foldl (fun m x => if x.score < m.score then x else m) h
    hot.erase low

/-- A corrected error scores 4 in its row, which enters the hot list if it is not there (R363). -/
def Stack.scoreRow (k : Stack) (row : Nat) : Stack :=
  if k.hot.any fun h => h.row == row then
    { k with hot := k.hot.map fun h => if h.row == row then { h with score := h.score + 4 } else h }
  else
    let hot := if k.hot.length = 256 then dropLowest k.hot else k.hot
    { k with hot := hot ++ [⟨row, 4⟩] }

/-! ## Fault records (R372, R373) -/

/-- Kinds of fault record. -/
inductive FaultKind where
  | notPresent | prot | badTte | tensor | paErr | offline
  deriving DecidableEq, Repr

/-- The code of a kind. -/
def FaultKind.code : FaultKind → Nat
  | .notPresent => 1 | .prot => 2 | .badTte => 3 | .tensor => 4 | .paErr => 5 | .offline => 6

/-- Who met a fault: SRC (R372). -/
inductive FaultSrc where
  | copy | mstream | frontEnd | peer | graft | scrubber
  deriving DecidableEq, Repr

/-- The code of a source. -/
def FaultSrc.code : FaultSrc → Nat
  | .copy => 0 | .mstream => 1 | .frontEnd => 2 | .peer => 3 | .graft => 4 | .scrubber => 5

/-- An access that can fault: its source, context and tile. -/
structure Accessor where
  src  : FaultSrc
  ctx  : BitVec 16
  tile : Option TileId
  deriving DecidableEq, Repr

/-- TILEID of an accessor, 0xFFFF for none. -/
def Accessor.tileId (a : Accessor) : Nat :=
  match a.tile with
  | some t => (tileIdWord t).toNat
  | none => 0xFFFF

/-- The 32 bytes of a fault record. -/
def faultBytes (a : Accessor) (kind : Nat) (write nowait : Bool) (addr token time : Nat) : List Byte :=
  bytesOfNat 1 kind ++ bytesOfNat 1 a.src.code ++ bytesOfNat 2 a.ctx.toNat ++ bytesOfNat 2 a.tileId ++
  bytesOfNat 1 (write.toNat + 2 * nowait.toNat) ++ [0] ++ bytesOfNat 8 addr ++ bytesOfNat 4 token ++ bytesOfNat 4 0 ++
  bytesOfNat 8 time

/-- Records in the fault ring. -/
def PkgRegs.fqEntries (r : PkgRegs) : Nat := 2 ^ r.fqSize

/-- Whether the fault ring is full: its indexes count records modulo its size. DEDUCED, notes/assumptions/53.md. -/
def PkgRegs.fqFull (r : PkgRegs) : Bool := (r.fqTail.toNat + 1) % r.fqEntries == r.fqHead.toNat % r.fqEntries

/-- A record put into the ring, which has space. -/
def State.pushFault (s : State) (rec : List Byte) : State :=
  let r := s.regs
  let wasEmpty := r.fqHead == r.fqTail
  let s := s.hostStore (r.fqBase.toNat + 32 * (r.fqTail.toNat % r.fqEntries)) rec
  let s := s.setRegs { s.regs with fqTail := BitVec.ofNat 32 ((r.fqTail.toNat + 1) % r.fqEntries) }
  if wasEmpty then s.raiseVector 17 else s

/-- A record of a kind's code that needs no answer: written, or dropped and counted when the ring is full. -/
def State.faultCode (s : State) (a : Accessor) (kind : Nat) (write : Bool) (addr : Nat) : State :=
  if s.regs.fqFull then s.setRegs { s.regs with fqLost := s.regs.fqLost + 1 }
  else s.pushFault (faultBytes a kind write true addr 0 s.time)

/-- A record of a kind that needs no answer. -/
def State.faultNow (s : State) (a : Accessor) (k : FaultKind) (write : Bool) (addr : Nat) : State := s.faultCode a k.code write addr

/-- An access waits for an absent page: it joins the record of that page, or raises one with a new token, which is held while
the ring is full. The token it waits on is returned. -/
def State.faultWait (s : State) (a : Accessor) (write : Bool) (va : Nat) : State × Nat :=
  match s.faults.find? fun w => w.ctx == a.ctx && w.page == va / 0x10000 with
  | some w => (s, w.token)
  | none =>
    let tok := s.nextId + 1
    let rec' := faultBytes a FaultKind.notPresent.code write false va tok s.time
    let full := s.regs.fqFull
    let s := { s with nextId := tok, faults := s.faults ++ [⟨tok, a.ctx, va / 0x10000, rec', full⟩] }
    (if full then s else s.pushFault rec', tok)

/-! ## Rows pruned -/

/-- The frames of the lines of a row, through the inverse of the mapping that reaches each (R363). -/
def State.rowFrames (s : State) (rowKey : Nat) : List Nat :=
  let lines := (List.range 32).flatMap fun c =>
    let d := rowKey + c * 2 ^ 15
    s.maps.toList.filterMap fun r =>
      if r.en then
        let l := unmapCoord r.rows d
        if s.coord l = some d then some l else none
      else none
  dedup (lines.map fun l => l / 1024)

/-- The physical address of a coordinate through the mapping that reaches it, or through region 0's matrix. -/
def State.paOf (s : State) (d : Nat) : Nat :=
  let ls := s.maps.toList.filterMap fun r =>
    let l := unmapCoord r.rows d
    if r.en && s.coord l == some d then some l else none
  64 * ls.headD (unmapCoord (s.maps[0]).rows d)

/-- The errors that the copy of a row to its spare row meets: each is counted, a corrected line is stored anew (R360, R361, R363). -/
def State.copyRow (s : State) (n : Fin 8) (row : Nat) : State :=
  let met := s.lineErr.filter fun e => coordRowKey e.line == row
  let s := met.foldl (fun s e =>
    let s := s.setStack n ((s.stack n).countError e.symbol.isNone (s.paOf e.line) (e.symbol.getD 0xFF) .prune s.time)
    if e.symbol.isSome then s.setFstat 0 else s) s
  { s with lineErr := s.lineErr.filter fun e => coordRowKey e.line != row || e.symbol.isNone }

/-- A row that reached the pruning score: remapped to a spare row, or its frames reported; it leaves the hot list (R363). -/
def State.pruneRow (s : State) (n : Fin 8) (row : Nat) : State :=
  let k := s.stack n
  let bank := coordBank row
  let used := ((k.spareUse.find? fun p => p.1 == bank).map Prod.snd).getD 0
  let k' := { k with hot := k.hot.filter fun h => h.row != row }
  if used < 4 && k.prune then
    let use := (bank, used + 1) :: k.spareUse.filter fun p => p.1 != bank
    (s.setStack n { k' with spareUse := use, spares := k.spares - 1, remapped := k.remapped ++ [row] }).copyRow n row
  else
    let a : Accessor := ⟨.scrubber, 0, none⟩
    (s.rowFrames row).foldl (fun s f => s.faultNow a .offline false (f * 0x10000)) (s.setStack n k')

/-- A corrected error met on a line: counted, FSTAT.CORR set, its row scored, after the halvings that are due, and pruned at the score
(R361, R363). -/
def State.corrected (s : State) (d pa : Nat) (sym : Byte) (src : ErrSrc) : State :=
  let n := coordStack d
  let s := s.halveDue
  let k := ((s.stack n).countError false pa sym src s.time).scoreRow (coordRowKey d)
  let s := (s.setStack n k).setFstat 0
  if k.hot.any fun h => h.row == coordRowKey d && decide (k.pth.toNat ≤ h.score) then s.pruneRow n (coordRowKey d) else s

/-! ## Reading and writing device memory -/

/-- Why a device access fails. -/
inductive MemErr where
  /-- the line lies in no mapping region (R355) -/
  | unmapped
  /-- the line lies in the stack of a fenced die (R321) -/
  | fenced
  /-- the line is uncorrectable (R359) -/
  | uncorrectable
  deriving DecidableEq, Repr

/-- The stored error of a line. -/
def State.errorAt (s : State) (d : Nat) : Option LineError := s.lineErr.find? fun e => e.line == d

/-- A line reached for an access: its coordinate, or why it cannot be; a stored error is met on the way. -/
def State.reach (s : State) (src : ErrSrc) (l : Nat) (readsLine : Bool) : State × Except MemErr Nat :=
  match s.coord l with
  | none => (s, .error .unmapped)
  | some d =>
    if (s.die (coordStack d)).fenced then (s, .error .fenced)
    else if readsLine then
      match s.errorAt d with
      | none => (s, .ok d)
      | some e =>
        match e.symbol with
        | some sym => (s.corrected d (l * 64) sym src, .ok d)
        | none =>
          (s.setStack (coordStack d) ((s.stack (coordStack d)).countError true (l * 64) 0xFF src s.time),
            .error .uncorrectable)
    else (s, .ok d)

/-- Pieces of a byte range that lie within one line each: (line, offset in it, length). -/
def linePieces : Nat → Nat → Nat → List (Nat × Nat × Nat)
  | 0, _, _ => []
  | fuel + 1, a, n =>
    if n = 0 then []
    else
      let k := Nat.min n (64 - a % 64)
      (a / 64, a % 64, k) :: linePieces fuel (a + k) (n - k)

/-- The pieces of n bytes at an address. -/
def piecesOf (a n : Nat) : List (Nat × Nat × Nat) := linePieces (n / 64 + 2) a n

/-- A read of device memory by physical address. -/
def State.readDev (s : State) (src : ErrSrc) (pa n : Nat) : State × Except MemErr (List Byte) :=
  (piecesOf pa n).foldl (fun (s, r) (l, o, k) =>
    match r with
    | .error e => (s, .error e)
    | .ok bs =>
      let (s, q) := s.reach src l true
      match q with
      | .error e => (s, .error e)
      | .ok d => (s, .ok (bs ++ Cells.getRange 0 s.gmem (d * 64 + o) k)))
    (s, .ok [])

/-- One piece of a write: a whole line replaces a stored error, a part of one needs the line read first (R359). -/
def State.writePiece (s : State) (l o : Nat) (bs : List Byte) : State × Except MemErr Unit :=
  let whole := bs.length == 64
  let (s, q) := s.reach .partialWrite l (!whole)
  match q with
  | .error e => (s, .error e)
  | .ok d =>
    ({ s.settleAt false (d * 64 + o) bs.length with
        gmem := Cells.setRange 0 s.gmem (d * 64 + o) bs, lineErr := s.lineErr.filter fun e => e.line != d }, .ok ())

/-- The pieces of a write in address order; a piece that fails leaves its line, the others are written. -/
def State.writePieces (s : State) (bs : List Byte) : List (Nat × Nat × Nat) → State × Except MemErr Unit
  | [] => (s, .ok ())
  | (l, o, k) :: ps =>
    let (s, r) := s.writePiece l o (bs.take k)
    let (s, r') := State.writePieces s (bs.drop k) ps
    (s, match r with | .error e => .error e | .ok _ => r')

/-- Whether a piece of a write can be made. -/
def State.writable (s : State) (p : Nat × Nat × Nat) : Bool :=
  match (s.reach .partialWrite p.1 (p.2.2 != 64)).2 with
  | .ok _ => true
  | .error _ => false

/-- The ranges that a write of n bytes changes: all of it, or the pieces of it that can be made. -/
def State.madeRanges (s : State) (pa n : Nat) : List (Nat × Nat) :=
  let ps := piecesOf pa n
  if ps.all s.writable then [(pa, n)] else (ps.filter s.writable).map fun p => (p.1 * 64 + p.2.1, p.2.2)

/-- A write of device memory by physical address, performed at SYS. -/
def State.writeDev (s : State) (pa : Nat) (bs : List Byte) : State × Except MemErr Unit :=
  s.writePieces bs (piecesOf pa bs.length)

/-- The locations of some pieces of device memory. -/
def State.runsOf (s : State) (ps : List (Nat × Nat × Nat)) : List (Nat × Nat) :=
  ps.filterMap fun p => (s.coord p.1).map fun d => (d * 64 + p.2.1, p.2.2)

/-- A write of device memory at the scope of its writer, through a leaf to a page of an order kind. -/
def State.writeDevAs (s : State) (w : Writer) (leaf : VPage) (ord pa : Nat) (bs : List Byte) : State × Except MemErr Unit :=
  let (t, r) := s.writeDev pa bs
  if 4 ≤ w.scope then (t, r)
  else
    let made := s.runsOf ((piecesOf pa bs.length).filter s.writable)
    let es := made.flatMap fun p => narrowAt false w leaf ord (Cells.getRange 0 s.gmem) p.1 p.2
    (({ t with narrow := s.narrow } : State).addNarrow es, r)

/-- A read of device memory by an agent. -/
def State.readDevBy (s : State) (a : Agent) (pa n : Nat) : State × Except MemErr (List Byte) :=
  let (s, r) := s.readDev .agent pa n
  match r with
  | .error e => (s, .error e)
  | .ok bs => let (s, bs) := s.seenBy a false (s.runsOf (piecesOf pa n)) bs; (s, .ok bs)

/-! ## Watched writes (R379, R380) -/

/-- Who made a watched write: SRC, ID and SRCID of its record. -/
structure WatchSrc where
  src   : Nat
  id    : Nat
  srcId : Nat
  deriving DecidableEq, Repr

/-- A record written into the watch log of a stack's die. -/
def State.watchRecord (s : State) (n : Fin 8) (w : WatchSrc) (hit pa len : Nat) : State :=
  let k := s.stack n
  if !k.wlEn then s
  else
    let size := 2 ^ k.wlSize.toNat
    let tail := k.wlTail.toNat % size
    if (tail + 1) % size = k.wlHead.toNat % size then s.setStack n { k with wlLost := k.wlLost + 1 }
    else
      let rec' := bytesOfNat 1 w.src ++ bytesOfNat 1 hit ++ bytesOfNat 2 w.id ++ bytesOfNat 4 w.srcId ++ bytesOfNat 8 pa ++
        bytesOfNat 4 len ++ bytesOfNat 4 0 ++ bytesOfNat 8 s.time
      let s := (s.writeDev (k.wlBase.toNat + 32 * tail) rec').1
      let k := s.stack n
      let s := s.setStack n { k with wlTail := BitVec.ofNat 32 ((tail + 1) % size) }
      if k.wlIrq && k.wlHead.toNat % size == tail then s.raiseVector (18 + n.val) else s

/-- Whether a line lies in a watch range. -/
def WatchRange.holds (r : WatchRange) (l : Nat) : Bool :=
  let first := r.lo.toNat + (if r.hi.getLsbD 26 then 2 ^ 32 else 0)
  r.hi.getLsbD 31 && decide (first ≤ l) && decide (l < first + (r.hi.toNat % 2 ^ 26))

/-- The lowest address and the byte count of some pieces. -/
def pieceSpan (ps : List (Nat × Nat)) : Nat × Nat :=
  match ps with
  | [] => (0, 0)
  | p :: qs => (qs.foldl (fun m q => Nat.min m q.1) p.1, ps.foldl (fun n q => n + q.2) 0)

/-- Writes that a request made: address, length, page if watched, and whether they lie in device memory. -/
structure MadeWrite where
  addr : Nat
  len  : Nat
  page : Option Nat
  dev  : Bool
  deriving DecidableEq, Repr

/-- The records of one request for its watched pages outside device memory, in the log of a die that the spec does not name. DESIGN CHOICE,
notes/assumptions/37.md. -/
def State.logOutside (s : State) (w : WatchSrc) (ws : List (Nat × Nat × Option Nat)) : State :=
  (dedup (ws.filterMap fun p => p.2.2)).foldl (fun s pg =>
    let (a, n) := pieceSpan ((ws.filter fun p => p.2.2 == some pg).map fun p => (p.1, p.2.1))
    ({ s with draws := s.draws + 1 } : State).watchRecord (Config.watchDie s.draws).toFin w 1 a n) s

/-- The records of one request whose performed writes are given as (address, length, watched page): one for each watched
page and one for each range met. -/
def State.logWrites (s : State) (w : WatchSrc) (ws : List (Nat × Nat × Option Nat)) : State :=
  let pages := dedup (ws.filterMap fun p => p.2.2)
  let s := pages.foldl (fun s pg =>
    let (pa, n) := pieceSpan ((ws.filter fun p => p.2.2 == some pg).map fun p => (p.1, p.2.1))
    match s.coord (pa / 64) with
    | some d => s.watchRecord (coordStack d) w 1 pa n
    | none => s) s
  let pieces := ws.flatMap fun p => (piecesOf p.1 p.2.1).map fun (l, o, k) => (l, l * 64 + o, k)
  (List.finRange 8).foldl (fun s n =>
    if (s.stack n).watch.toList.any fun r => r.hi.getLsbD 31 then
      (List.finRange 8).foldl (fun s i =>
        let hit := pieces.filter fun (l, _, _) => (s.stack n).watch[i].holds l && (s.coord l).map coordStack == some n
        if hit.isEmpty then s
        else
          let (pa, k) := pieceSpan (hit.map fun (_, a, k) => (a, k))
          s.watchRecord n w (2 * (i.val + 1)) pa k) s
    else s) s

/-- The records of one request for all the writes that it made. -/
def State.logMade (s : State) (w : WatchSrc) (ms : List MadeWrite) : State :=
  let part (dev : Bool) := (ms.filter fun m => m.dev == dev).map fun m => (m.addr, m.len, m.page)
  (s.logWrites w (part true)).logOutside w (part false)

/-! ## Translation (R365-R371) -/

/-- Where a translated access goes. -/
inductive TargetSpace where
  | dev | host | win (w : Fin 32)
  deriving DecidableEq, Repr

/-- A translated address: its space, the address there, the page's order kind, its page if watched, and its leaf (R370). -/
structure Target where
  space : TargetSpace
  addr  : Nat
  ord   : Nat
  page  : Option Nat
  leaf  : VPage
  deriving DecidableEq, Repr

/-- Why a walk ends without an address. -/
inductive WalkFault where
  | notPresent | badTte | prot
  /-- a table line at this address lies in no mapping region (R355) -/
  | paErr (pa : Nat)
  /-- a table line at this address lies in a fenced stack, or both routes there pass a fenced die (R321, R383) -/
  | cut (pa : Nat)
  deriving DecidableEq, Repr

/-- Why a walk ends whose read of a table at an address failed (R355, R369, R383). DEDUCED, notes/assumptions/35.md. -/
def MemErr.walk (pa : Nat) : MemErr → WalkFault
  | .unmapped => .paErr pa
  | .fenced => .cut pa
  | .uncorrectable => .badTte

/-- The record of a walk's fault, for an access that fails at once; what a fence cuts off has none. -/
def State.walkRecord (s : State) (a : Accessor) (e : WalkFault) (write : Bool) (va : Nat) : State :=
  match e with
  | .notPresent => s.faultNow a .notPresent write va
  | .badTte => s.faultNow a .badTte write va
  | .prot => s.faultNow a .prot write va
  | .paErr pa => s.faultNow a .paErr write pa
  | .cut _ => s

/-- A read that a walk makes from a die, or from the link die; none reaches a stack that both routes from the die fail to (R383). -/
def State.readFrom (s : State) (d : Option (Fin 8)) (pa n : Nat) : State × Except MemErr (List Byte) :=
  let blocked := match d with
    | some d => (piecesOf pa n).any fun p => match s.coord p.1 with
      | some x => s.routeBlocked d (coordStack x)
      | none => false
    | none => false
  if blocked then (s, .error .fenced) else s.readDev .agent pa n

/-- The entry of a context, read from memory, or why there is none (R365). -/
def State.ctxEntry (s : State) (d : Option (Fin 8)) (c : BitVec 16) : State × Except WalkFault CtxEntry :=
  let pa := s.regs.ctxBase + 64 * c.toNat
  if s.regs.ctxCount ≤ c.toNat then (s, .error .badTte)
  else
    let (s, r) := s.readFrom d pa 64
    match r with
    | .error e => (s, .error (e.walk pa))
    | .ok bs =>
      let e : CtxEntry := ⟨field bs 8 8, field bs 16 8, field bs 24 4⟩
      let ok := field bs 0 1 == 1 && field bs 1 7 == 0 && field bs 28 36 == 0 && e.root % 0x10000 == 0 &&
        e.ttBase % 128 == 0 && decide (e.root < 2 ^ 39) && decide (e.ttBase < 2 ^ 39) && decide (e.ttCount ≤ 65535)
      (s, if ok then .ok e else .error .badTte)

/-- Bits of the address below the index of each level: a leaf's page size (R368). -/
def levelShift (lvl : Nat) : Nat :=
  match lvl with
  | 0 => 51 | 1 => 39 | 2 => 30 | 3 => 21 | _ => 16

/-- Index bits of each level (R368). -/
def levelBits (lvl : Nat) : Nat :=
  match lvl with
  | 0 => 13 | 1 => 12 | 2 => 9 | 3 => 9 | _ => 5

/-- Whether a present entry is well formed at its level (R369). -/
def tteOk (lvl tte : Nat) : Bool :=
  if bit tte 1 then
    let tgt := bits tte 6 2
    let oa := bits tte 16 36
    decide (2 ≤ lvl) && tgt != 3 && bits tte 2 2 != 3 && bits tte 52 4 == 0 && bits tte 13 3 == 0 &&
    (tgt == 2 || bits tte 8 5 == 0) && oa % 2 ^ (levelShift lvl - 16) == 0 && (tgt != 0 || decide (oa < 2 ^ 23))
  else
    decide (lvl < 4) && bits tte 39 17 == 0 && bits tte 2 6 == 0 &&
    (lvl != 0 || bits tte 8 7 == 0) && ((lvl != 1 && lvl != 2) || bits tte 8 4 == 0)

/-- The address that a leaf gives, with its attributes, or the fault of a write without W (R370). -/
def leafTarget (size tte va : Nat) (write : Bool) : Except WalkFault Target :=
  if write && !bit tte 4 then .error .prot
  else
    let addr := bits tte 16 36 * 2 ^ 16 + va % size
    let space := match bits tte 6 2 with
      | 0 => TargetSpace.dev
      | 1 => .host
      | _ => .win ⟨bits tte 8 5, Nat.mod_lt _ (by decide)⟩
    .ok ⟨space, addr, bits tte 2 2, if bit tte 5 then some (bits tte 16 36 * 2 ^ 16) else none, ⟨va / size * size, size⟩⟩

/-- The levels of a walk from a table on: the leaf found, with its page size (R370). DEDUCED, notes/assumptions/35.md. -/
def State.walkGo (s : State) (d : Option (Fin 8)) (va : Nat) : Nat → Nat → Nat → State × Except WalkFault (Nat × Nat)
  | 0, _, _ => (s, .error .badTte)
  | fuel + 1, lvl, table =>
    let pa := table + 8 * (va / 2 ^ levelShift lvl % 2 ^ levelBits lvl)
    let (s, r) := s.readFrom d pa 8
    match r with
    | .error e => (s, .error (e.walk pa))
    | .ok bs =>
      let tte := natOfBytes bs
      if !bit tte 0 then (s, .error .notPresent)
      else if !tteOk lvl tte then (s, .error .badTte)
      else if bit tte 1 then (s, .ok (tte, 2 ^ levelShift lvl))
      else State.walkGo s d va fuel (lvl + 1) (bits tte 8 31 * 256)

/-- A translation made from the link die, without a TLB. -/
def State.translate (s : State) (c : BitVec 16) (va : Nat) (write : Bool) : State × Except WalkFault Target :=
  let (s, e) := s.ctxEntry none c
  match e with
  | .error e => (s, .error e)
  | .ok e =>
    let (s, r) := s.walkGo none va 5 0 e.root
    match r with
    | .error e => (s, .error e)
    | .ok (tte, size) => (s, leafTarget size tte va write)

/-- The entry of a context that a die holds, or reads and then holds (R371). -/
def State.dieCtx (s : State) (d : Fin 8) (c : BitVec 16) : State × Except WalkFault CtxEntry :=
  match (s.die d).ctxs.find? fun p => p.1 == c with
  | some p => (s, .ok p.2)
  | none =>
    let (s, r) := s.ctxEntry (some d) c
    match r with
    | .error e => (s, .error e)
    | .ok e => (s.setDie d { s.die d with ctxs := (s.die d).ctxs ++ [(c, e)] }, .ok e)

/-- The leaf for an address that a TLB holds. -/
def leafHeld (es : List TlbEntry) (c : BitVec 16) (va : Nat) : Option TlbEntry :=
  es.find? fun e => e.ctx == c && e.va == va / e.size * e.size

/-- A leaf put into a TLB of n entries, a full one giving up its oldest. DESIGN CHOICE, notes/assumptions/78.md. -/
def holdLeaf (n : Nat) (es : List TlbEntry) (e : TlbEntry) : List TlbEntry := (if es.length = n then es.drop 1 else es) ++ [e]

/-- A translation made for a tile's copy engine (R371): a leaf found in its own TLB of 32 entries or in its die's of 8,192 is used as it
is held, a leaf walked is put into both. -/
def State.translateFor (s : State) (i : TileId) (c : BitVec 16) (va : Nat) (write : Bool) : State × Except WalkFault Target :=
  let hold (s : State) (e : TlbEntry) : State := s.setTile i { s.tile i with tlb := holdLeaf 32 (s.tile i).tlb e }
  match leafHeld (s.tile i).tlb c va, leafHeld (s.die i.die).tlb c va with
  | some e, _ => (s, leafTarget e.size e.tte.toNat va write)
  | none, some e => (hold s e, leafTarget e.size e.tte.toNat va write)
  | none, none =>
    let (s, e) := s.dieCtx i.die c
    match e with
    | .error e => (s, .error e)
    | .ok e =>
      let (s, r) := s.walkGo (some i.die) va 5 0 e.root
      match r with
      | .error e => (s, .error e)
      | .ok (tte, size) =>
        let e : TlbEntry := ⟨c, va / size * size, size, BitVec.ofNat 64 tte⟩
        (hold (s.setDie i.die { s.die i.die with tlb := holdLeaf 8192 (s.die i.die).tlb e }) e, leafTarget size tte va write)

/-! ## The front-end's accesses by virtual address -/

/-- The parts of a virtual range that lie within one 64 KiB page each: (address, length). -/
def pagePieces : Nat → Nat → Nat → List (Nat × Nat)
  | 0, _, _ => []
  | fuel + 1, a, n =>
    if n = 0 then []
    else
      let k := Nat.min n (0x10000 - a % 0x10000)
      (a, k) :: pagePieces fuel (a + k) (n - k)

/-- The pages of n bytes at an address. -/
def pagesOf (a n : Nat) : List (Nat × Nat) := pagePieces (n / 0x10000 + 2) a n

/-- The front-end as an accessor. -/
def frontEnd (c : BitVec 16) : Accessor := ⟨.frontEnd, c, none⟩

/-- One page of a read made by the front-end, for itself or for the host; `told` says whether a line that is fenced or uncorrectable
gets a record too. DEDUCED, notes/assumptions/36.md. -/
def State.fePage (s : State) (who : Agent) (told : Bool) (c : BitVec 16) (va n : Nat) : State × Option (List Byte) :=
  let (s, r) := s.translate c va false
  match r with
  | .error (.cut pa) => (if told then s.faultNow (frontEnd c) .paErr false pa else s, none)
  | .error e => (s.walkRecord (frontEnd c) e false va, none)
  | .ok t =>
    match t.space with
    | .dev =>
      let (s, r) := s.readDevBy who t.addr n
      match r with
      | .ok bs => (s, some bs)
      | .error e => (if told || e == .unmapped then s.faultNow (frontEnd c) .paErr false t.addr else s, none)
    | .host => let (s, bs) := s.hostRead who t.addr n; (s, some bs)
    | .win _ => (s.faultNow (frontEnd c) .badTte false va, none)

/-- Such a read by virtual address, page by page until one fails. -/
def State.feReadGo (s : State) (who : Agent) (told : Bool) (c : BitVec 16) (va n : Nat) : State × Option (List Byte) :=
  (pagesOf va n).foldl (fun (s, r) (a, k) =>
    match r with
    | none => (s, none)
    | some bs =>
      let (s, q) := s.fePage who told c a k
      (s, q.map fun more => bs ++ more)) (s, some [])

/-- A front-end read by virtual address; a fault writes its record and gives nothing (R372). -/
def State.feRead (s : State) (c : BitVec 16) (va n : Nat) : State × Option (List Byte) := s.feReadGo .front false c va n

/-- One page of a write by virtual address, made by the front-end or for it: whether all of it was made, and the ranges that
were, each with its page if watched; `told` says whether a line in a fenced stack gets a record too, as for a completion word (R278).
DEDUCED, notes/assumptions/36.md. -/
def State.feWritePage (s : State) (w : Writer) (told : Bool) (c : BitVec 16) (va : Nat) (bs : List Byte) : State × Bool × List MadeWrite :=
  let (s, r) := s.translate c va true
  match r with
  | .error (.cut pa) => (if told then s.faultNow (frontEnd c) .paErr true pa else s, false, [])
  | .error e => (s.walkRecord (frontEnd c) e true va, false, [])
  | .ok t =>
    match t.space with
    | .dev =>
      let made := (s.madeRanges t.addr bs.length).map fun p => (⟨p.1, p.2, t.page, true⟩ : MadeWrite)
      let (s, r) := s.writeDevAs w t.leaf t.ord t.addr bs
      match r with
      | .ok _ => (s, true, made)
      | .error e => (if e == .unmapped || (told && e == .fenced) then s.faultNow (frontEnd c) .paErr true t.addr else s, false, made)
    | .host => (s.hostStoreAs w t.leaf t.ord t.addr bs, true, [⟨t.addr, bs.length, t.page, false⟩])
    | .win _ => (s.faultNow (frontEnd c) .badTte true va, false, [])

/-- The pages of such a write, each written if it can be. -/
def State.feWritePages (s : State) (w : Writer) (told : Bool) (c : BitVec 16) (bs : List Byte) :
    List (Nat × Nat) → State × Bool × List MadeWrite
  | [] => (s, true, [])
  | (a, k) :: ps =>
    let (s, ok, made) := s.feWritePage w told c a (bs.take k)
    let (s, ok', more) := State.feWritePages s w told c (bs.drop k) ps
    (s, ok && ok', made ++ more)

/-- Such a write, one request: its pages are written, then what it made is logged where it is watched (R380). -/
def State.feWriteGo (s : State) (w : WatchSrc) (by' : Writer) (told : Bool) (c : BitVec 16) (bs : List Byte) (ps : List (Nat × Nat)) :
    State × Bool :=
  let (s, ok, made) := s.feWritePages by' told c bs ps
  (s.logMade w made, ok)

/-- The front-end as a writer at a scope. -/
def frontWriter (c : BitVec 16) (scope : Nat) : Writer := ⟨none, 0, 0, 0, c, [], scope⟩

/-- A front-end write by virtual address at a scope (R269, R295), and whether all of it was made. -/
def State.feStore (s : State) (scope : Nat) (c : BitVec 16) (va : Nat) (bs : List Byte) : State × Bool :=
  s.feWriteGo ⟨2, 0xFFFF, 0⟩ (frontWriter c scope) false c bs (pagesOf va bs.length)

/-- A completion word's store: one that cannot be made writes a record, also where its stack is fenced (R278). -/
def State.feWord (s : State) (scope : Nat) (c : BitVec 16) (va value : Nat) : State :=
  (s.feWriteGo ⟨2, 0xFFFF, 0⟩ (frontWriter c scope) true c (bytesOfNat 8 value) (pagesOf va 8)).1

/-- A front-end write by virtual address at SYS. -/
def State.feWrite (s : State) (c : BitVec 16) (va : Nat) (bs : List Byte) : State × Bool := s.feStore 4 c va bs

end Sys2Proof.Machine
end

