-- ==== Sys2Proof/Machine/VectorArith.lean ====
section
/-! DEFINITION. What one element of a V slot computes (spec/05_isa_vector.md R148-R165, 03_number_formats.md R99-R106). -/

namespace Sys2Proof.Machine

/-- A floating result: a NaN is canonical, any other value is rounded, and rule set 1 flushes a subnormal (R148). -/
def floatRes (c : VMode) (f : FloatFmt) (inv : Bool) (y : FVal) : Res :=
  let r := flushResult c.numv1 f (roundVal f c.rnd c.nov y)
  ⟨r.v, { r.fl with inv := r.fl.inv || inv }⟩

/-- Whether an operation makes a NaN of operands that are none. -/
def freshNaN (y : FVal) (xs : List FVal) : Bool := y.isNaN && !(xs.any FVal.isNaN)

/-- a + b. -/
def opAdd (c : VMode) (a b : Nat) : Res :=
  match elemFloat c.ty with
  | some f =>
    let x := readOperand c.numv1 f a
    let y := readOperand c.numv1 f b
    let z := x.add c.rnd y
    floatRes c f (x.isSNaN || y.isSNaN || freshNaN z [x, y]) z
  | none => ⟨intResult c.ty c.sat (intOf c.ty a + intOf c.ty b), {}⟩

/-- a - b (R148). -/
def opSub (c : VMode) (a b : Nat) : Res :=
  match elemFloat c.ty with
  | some f =>
    let x := readOperand c.numv1 f a
    let y := readOperand c.numv1 f b
    let z := x.sub c.rnd y
    floatRes c f (x.isSNaN || y.isSNaN || freshNaN z [x, y]) z
  | none => ⟨intResult c.ty c.sat (intOf c.ty a - intOf c.ty b), {}⟩

/-- a * b. -/
def opMul (c : VMode) (a b : Nat) : Res :=
  match elemFloat c.ty with
  | some f =>
    let x := readOperand c.numv1 f a
    let y := readOperand c.numv1 f b
    let z := x.mul y
    floatRes c f (x.isSNaN || y.isSNaN || freshNaN z [x, y]) z
  | none => ⟨intResult c.ty c.sat (intOf c.ty a * intOf c.ty b), {}⟩

/-- d + a * b, d - a * b or a * b - d, rounded once; 0 * Inf is invalid even beside a quiet NaN (R152). -/
def opFused (c : VMode) (negD negP : Bool) (d a b : Nat) : Res :=
  match elemFloat c.ty with
  | some f =>
    let w := readOperand c.numv1 f d
    let x := readOperand c.numv1 f a
    let y := readOperand c.numv1 f b
    let p := x.mul y
    let z := if negD then p.sub c.rnd w else if negP then w.sub c.rnd p else w.add c.rnd p
    floatRes c f (w.isSNaN || x.isSNaN || y.isSNaN || freshNaN p [x, y] || freshNaN z [w, p]) z
  | none =>
    let p := intOf c.ty a * intOf c.ty b
    ⟨intResult c.ty c.sat ((if negD then -intOf c.ty d else intOf c.ty d) + (if negP then -p else p)), {}⟩

/-- minimumNumber or maximumNumber of two values (R103). -/
def pickNum (wantMax : Bool) (x y : FVal) : FVal :=
  if x.isNaN then (if y.isNaN then .nan false else y)
  else if y.isNaN then x
  else if (if wantMax then x.lessNum y else y.lessNum x) then y else x

/-- The smaller or the larger operand (R151). An infinity of E5M2 with NOV is written as R148 writes it, as the largest value with overflow
and inexact, though R103 selects it. DEDUCED, notes/assumptions/25.md. -/
def opPick (c : VMode) (wantMax : Bool) (a b : Nat) : Res :=
  match elemFloat c.ty with
  | some f =>
    let x := readOperand c.numv1 f a
    let y := readOperand c.numv1 f b
    floatRes c f (x.isSNaN || y.isSNaN) (pickNum wantMax x y)
  | none =>
    let less := decide (intOf c.ty a < intOf c.ty b)
    ⟨if less == wantMax then b else a, {}⟩

/-- |a| (R153). -/
def opAbs (c : VMode) (a : Nat) : Res :=
  match elemFloat c.ty with
  | some f =>
    let x := readOperand c.numv1 f a
    floatRes c f x.isSNaN (if x.neg then x.negate else x)
  | none => ⟨intResult c.ty c.sat (intOf c.ty a).natAbs, {}⟩

/-- -a (R153). -/
def opNeg (c : VMode) (a : Nat) : Res :=
  match elemFloat c.ty with
  | some f =>
    let x := readOperand c.numv1 f a
    floatRes c f x.isSNaN x.negate
  | none => ⟨intResult c.ty c.sat (-(intOf c.ty a)), {}⟩

/-- A rounded approximation. -/
def approxRes (c : VMode) (f : FloatFmt) (neg : Bool) (a : Approx) : Res :=
  flushResult c.numv1 f (roundFin f c.rnd c.nov neg a.m a.e a.sticky)

/-- The four functions of R154. -/
inductive VFun where
  | rcp | rsq | exp2 | log2
  deriving DecidableEq, Repr

/-- A function of one element in a floating format (R154). -/
def opFun (c : VMode) (f : FloatFmt) (g : VFun) (a : Nat) : Res :=
  let x := readOperand c.numv1 f a
  let dz (neg : Bool) : Res :=
    let r := floatRes c f false (.inf neg)
    ⟨r.v, { r.fl with dz := true }⟩
  match x with
  | .nan s => ⟨f.canonNaN, { inv := s }⟩
  | .inf n =>
    match g with
    | .rcp => ⟨f.signBit n, {}⟩
    | .rsq => if n then ⟨f.canonNaN, { inv := true }⟩ else ⟨0, {}⟩
    | .exp2 => if n then ⟨0, {}⟩ else floatRes c f false (.inf false)
    | .log2 => if n then ⟨f.canonNaN, { inv := true }⟩ else floatRes c f false (.inf false)
  | .fin n m e =>
    if m = 0 then
      match g with
      | .rcp => dz n
      | .rsq => dz n
      | .exp2 => floatRes c f false (.fin false 1 0)
      | .log2 => dz true
    else
      match g with
      | .rcp => approxRes c f n (approxRcp m e)
      | .rsq => if n then ⟨f.canonNaN, { inv := true }⟩ else approxRes c f false (approxRsq m e)
      | .exp2 => approxRes c f false (approxExp2 n m e)
      | .log2 =>
        if n then ⟨f.canonNaN, { inv := true }⟩
        else
          let (neg, y) := approxLog2 m e
          approxRes c f neg y

/-- A comparison of two elements, and whether it is invalid (R104, R156). -/
def opCmp (c : VMode) (k : VCond) (a b : Nat) : Bool × Bool :=
  match elemFloat c.ty with
  | some f =>
    let x := readOperand c.numv1 f a
    let y := readOperand c.numv1 f b
    let nan := x.isNaN || y.isNaN
    let snan := x.isSNaN || y.isSNaN
    let o := x.compare y
    match k with
    | .eq => (!nan && o == .eq, snan)
    | .ne => (nan || o != .eq, snan)
    | .lt => (!nan && o == .lt, nan)
    | .le => (!nan && o != .gt, nan)
    | .gt => (!nan && o == .gt, nan)
    | .ge => (!nan && o != .lt, nan)
    | .un => (nan, snan)
  | none =>
    let x := intOf c.ty a
    let y := intOf c.ty b
    match k with
    | .eq => (decide (x = y), false)
    | .ne => (decide (x ≠ y), false)
    | .lt => (decide (x < y), false)
    | .le => (decide (x ≤ y), false)
    | .gt => (decide (y < x), false)
    | .ge => (decide (y ≤ x), false)
    | .un => (false, false)

/-- The bits of a shift amount: log2 of the element width (R158). -/
def shiftBits (w : Nat) : Nat := Nat.log2 w

/-- a << k, a >> k and the arithmetic shift, as w-bit patterns (R158). -/
def opShl (w a b : Nat) : Nat := a * 2 ^ bits b 0 (shiftBits w) % 2 ^ w
/-- The logical shift right. -/
def opShr (w a b : Nat) : Nat := a / 2 ^ bits b 0 (shiftBits w)
/-- The arithmetic shift right. -/
def opSra (w a b : Nat) : Nat := wrap (sext a w / 2 ^ bits b 0 (shiftBits w)) w

/-- The value e in an element (R160). -/
def opIota (c : VMode) (e : Nat) : Res :=
  match elemFloat c.ty with
  | some f => floatRes c f false (.fin false e 0)
  | none => ⟨intResult c.ty c.sat e, {}⟩

/-! ## Conversion (R106) -/

/-- A float read for a conversion. -/
def readFloat (c : VMode) (f : FloatFmt) (v : Nat) : FVal := readOperand c.numv1 f v

/-- Float to integer: rounded in the current mode; out of range gives the limit nearest to the source, with invalid. -/
def cvtToInt (c : VMode) (y : ElemType) (x : FVal) : Res :=
  match x with
  | .nan _ => ⟨0, { inv := true }⟩
  | .inf n => ⟨wrap (if n then intMin y else intMax y) (elemBits y), { inv := true }⟩
  | .fin n m e =>
    let (r, exact) := roundTo c.rnd n m e false 0
    let z := signed n r
    if intMin y ≤ z ∧ z ≤ intMax y then ⟨wrap z (elemBits y), { inx := !exact }⟩
    else ⟨wrap (if n then intMin y else intMax y) (elemBits y), { inv := true }⟩

/-- F32 or F64 to P32. -/
def cvtToP32 (x : FVal) : Res :=
  match x with
  | .nan _ => ⟨0, { inv := true }⟩
  | .inf n => if n then ⟨0, { inv := true }⟩ else ⟨0xFFFFFFFF, { ovf := true, inx := true }⟩
  | .fin n m e =>
    if m = 0 then ⟨0, {}⟩
    else if n then ⟨0, { inv := true }⟩
    else
      let r := roundP32 m e
      let (m', e') := p32Decode r.v
      let q := min e e'
      ⟨r.v, { ovf := r.ovf, unf := r.unf, inx := m * 2 ^ (e - q).toNat != m' * 2 ^ (e' - q).toNat }⟩

/-- One element converted (R106). -/
def cvtElem (c : VMode) (x y : ElemType) (v : Nat) : Res :=
  match elemFloat x, elemFloat y with
  | some f, some g =>
    let a := readFloat c f v
    if a.isNaN then ⟨g.canonNaN, { inv := a.isSNaN || y == .e2m1 }⟩ else floatRes c g false a
  | some f, none => if y = .p32 then cvtToP32 (readFloat c f v) else cvtToInt c y (readFloat c f v)
  | none, some g =>
    if x = .p32 then
      let (m, e) := p32Decode v
      floatRes c g false (.fin false m e)
    else floatRes c g false (FVal.ofNum (intOf x v))
  | none, none =>
    if elemBits x < elemBits y then ⟨wrap (intOf x v) (elemBits y), {}⟩ else ⟨intResult y c.sat (intOf x v), {}⟩

/-! ## Scans and reductions -/

/-- An element as a scan or a reduction takes it: canonical NaN, rule set 1, a signalling NaN is invalid (R163). -/
def readElem (c : VMode) (v : Nat) : Res :=
  match elemFloat c.ty with
  | some f =>
    match readOperand c.numv1 f v with
    | .nan s => ⟨f.canonNaN, { inv := s }⟩
    | .fin n m _ => ⟨if m = 0 then f.signBit n else v, {}⟩
    | .inf _ => ⟨v, {}⟩
  | none => ⟨v, {}⟩

/-- The greater or the smaller of two elements, selected and never rounded (R163, R164). -/
def selectElem (c : VMode) (wantMax : Bool) (a b : Nat) : Nat :=
  match elemFloat c.ty with
  | some f =>
    let x := f.decode a
    let y := f.decode b
    if x.isNaN then b
    else if y.isNaN then a
    else if (if wantMax then x.lessNum y else y.lessNum x) then b else a
  | none => if decide (intOf c.ty a < intOf c.ty b) == wantMax then b else a

/-- One step of a scan: a sum is rounded, and MAX and MIN select under R103 (R163). DEDUCED, notes/assumptions/25.md. -/
def scanStep (c : VMode) (op : ScanOp) (r a : Nat) : Res :=
  match op with
  | .sum => opAdd c r a
  | .max => ⟨selectElem c true r a, {}⟩
  | .min => ⟨selectElem c false r a, {}⟩

/-- The elements of a scan in order: (active, value) in, the value of each active element out. -/
def scanGo (c : VMode) (op : ScanOp) : Option Nat → List (Bool × Nat) → List (Option Nat) × FpFlags
  | _, [] => ([], {})
  | acc, (false, _) :: xs =>
    let (ys, f) := scanGo c op acc xs
    (none :: ys, f)
  | acc, (true, v) :: xs =>
    let a := readElem c v
    let r := match acc with
      | none => (⟨a.v, {}⟩ : Res)
      | some s => scanStep c op s a.v
    let (ys, f) := scanGo c op (some r.v) xs
    (some r.v :: ys, (a.fl.or r.fl).or f)

/-- One level of the pairwise tree of R164. -/
def pairLevel {α : Type} (pair : α → α → α × FpFlags) : List (Option α) → List (Option α) × FpFlags
  | a :: b :: xs =>
    let (ys, f) := pairLevel pair xs
    match a, b with
    | some x, some y =>
      let (z, g) := pair x y
      (some z :: ys, g.or f)
    | some x, none => (some x :: ys, f)
    | none, y => (y :: ys, f)
  | [x] => ([x], {})
  | [] => ([], {})

/-- The pairwise tree: levels until one value is left. -/
def pairTree {α : Type} (pair : α → α → α × FpFlags) : Nat → List (Option α) → Option α × FpFlags
  | 0, xs => (xs.head?.join, {})
  | n + 1, xs =>
    let (ys, f) := pairLevel pair xs
    let (r, g) := pairTree pair n ys
    (r, f.or g)

/-- A floating or bitwise reduction's pair. -/
def redPair (c : VMode) (op : RedOp) (a b : Nat) : Nat × FpFlags :=
  match op with
  | .sum => let r := opAdd c a b; (r.v, r.fl)
  | .max => (selectElem c true a b, {})
  | .min => (selectElem c false a b, {})
  | .and => (a &&& b, {})
  | .or => (a ||| b, {})
  | .xor => (a ^^^ b, {})
  | .argmax => (a, {})

/-- ARGMAX's pair of (value, index): the greater value, and between equal values the lower index (R164). -/
def argPair (c : VMode) (p q : Nat × Nat) : (Nat × Nat) × FpFlags :=
  let w := selectElem c true p.1 q.1
  let firstNaN := match elemFloat c.ty with
    | some f => (f.decode p.1).isNaN && !(f.decode q.1).isNaN
    | none => false
  let tie := match elemFloat c.ty with
    | some f =>
      let x := f.decode p.1
      let y := f.decode q.1
      (x.isNaN && y.isNaN) || (!x.isNaN && !y.isNaN && !(x.lessNum y) && !(y.lessNum x))
    | none => p.1 == q.1
  if tie then (if p.2 ≤ q.2 then p else q, {})
  else if firstNaN then (q, {})
  else (if w == p.1 then p else q, {})

/-- The 32-bit form of a reduction's result: sign-extended in I16 and I8, zero-extended in every other type (R165). -/
def extendRes (t : ElemType) (v : Nat) : Nat := if elemSigned t then wrap (sext v (elemBits t)) 32 else v

/-- VRED's integer sum: the exact sum reduced once to 32 bits (R164). -/
def intSum (c : VMode) (vs : List Nat) : Nat :=
  let z := vs.foldl (fun s v => s + intOf c.ty v) (0 : Int)
  let lo : Int := if elemSigned c.ty then -(2 ^ 31) else 0
  let hi : Int := if elemSigned c.ty then 2 ^ 31 - 1 else 2 ^ 32 - 1
  wrap (if c.sat then sat z lo hi else z) 32

/-- The value of a reduction, 64 bits in F64 and 32 in every other type, with its flags (R164, R165). DEDUCED, notes/assumptions/25.md. -/
def reduce (c : VMode) (op : RedOp) (act : List (Bool × Nat)) : Nat × FpFlags :=
  let w := elemBits c.ty
  let on := act.filterMap fun (b, v) => if b then some v else none
  match op with
  | .argmax =>
    let idx := act.zip (List.range act.length)
    let xs := idx.map fun ((b, v), i) => if b then some ((readElem c v).v, i) else none
    let f := (on.map fun v => (readElem c v).fl).foldl FpFlags.or {}
    let nan (v : Nat) : Bool := match elemFloat c.ty with
      | some g => (g.decode v).isNaN
      | none => false
    match (pairTree (argPair c) 8 xs).1 with
    | some (v, i) => (if nan v then 0xFFFFFFFF else i, f)
    | none => (0xFFFFFFFF, f)
  | .and | .or | .xor =>
    match (pairTree (redPair c op) 8 (act.map fun (b, v) => if b then some v else none)).1 with
    | some v => (extendRes c.ty v, {})
    | none => (if op = .and then extendRes c.ty (2 ^ w - 1) else 0, {})
  | _ =>
    match elemFloat c.ty, op with
    | none, .sum => (intSum c on, {})
    | _, _ =>
      let f := (on.map fun v => (readElem c v).fl).foldl FpFlags.or {}
      let (r, g) := pairTree (redPair c op) 8 (act.map fun (b, v) => if b then some (readElem c v).v else none)
      match r with
      | some v => (extendRes c.ty v, f.or g)
      | none =>
        match elemFloat c.ty, op with
        | some h, .sum => (h.signBit false, {})
        | some h, _ => (h.canonNaN, {})
        | none, .max => (extendRes c.ty (wrap (intMin c.ty) w), {})
        | none, _ => (extendRes c.ty (wrap (intMax c.ty) w), {})

end Sys2Proof.Machine
end

