-- ==== Sys2Proof/Machine/MatrixArith.lean ====
section
/-! DEFINITION. The arithmetic of the matrix array (spec/03_number_formats.md R91-R97, R108-R110): region formats, one output
element, and the weight images (07_isa_matrix.md R208, R215-R218). -/

namespace Sys2Proof.Machine

/-! ## Formats (R32, R204) -/

/-- The float format of an element of a region format, if it is one. -/
def regionFloat (code : Nat) : Option FloatFmt :=
  match code with
  | 1 => some fmtF32 | 2 => some fmtBF16 | 3 => some fmtF16 | 4 => some fmtE4M3 | 5 => some fmtE5M2 | 6 => some fmtE4M3
  | 7 => some fmtE2M1 | 10 => some fmtF64 | _ => none

/-- Bits of an element of a region format; VQ2's is its 16-bit index. -/
def regionBits (code : Nat) : Nat :=
  match code with
  | 1 => 32 | 2 => 16 | 3 => 16 | 4 => 8 | 5 => 8 | 6 => 8 | 7 => 4 | 8 => 8 | 9 => 4 | 10 => 64 | 11 => 32 | 12 => 16 | _ => 8

/-- Formats with MX block scales. -/
def isMx (code : Nat) : Bool := code == 6 || code == 7
/-- The B formats called floating. -/
def floatB (code : Nat) : Bool := (decide (2 ≤ code) && decide (code ≤ 7)) || code == 12
/-- The integer formats. -/
def intFmt (code : Nat) : Bool := code == 8 || code == 9

/-- The array's modes. -/
inductive MMode where
  | float | int | fp64
  deriving DecidableEq, Repr

/-- The mode of an A format under MMUL or MMULD; none where the instruction does not allow the format (R204). -/
def aMode (dbl : Bool) (code : Nat) : Option MMode :=
  if dbl then (if code = 10 then some .fp64 else none)
  else if decide (2 ≤ code) && decide (code ≤ 7) then some .float
  else if intFmt code then some .int
  else none

/-- Whether a tag may stand with a mode (R204). -/
def pairOk (m : MMode) (tag : Nat) : Bool :=
  match m with
  | .float => floatB tag
  | .int => intFmt tag
  | .fp64 => tag == 10

/-- Array steps of one A row (R204). -/
def stepsPerRow (code : Nat) : Nat :=
  match code with
  | 2 => 8 | 3 => 11 | 4 => 4 | 5 => 4 | 6 => 4 | 7 => 2 | 8 => 8 | 9 => 4 | 10 => 212 | _ => 0

/-- Chunks of one A row (R208): 128 elements. -/
def chunksPerRow (code : Nat) : Nat := regionBits code

/-- The value of an element: a float, or an exact integer. -/
def elemVal (code v : Nat) : FVal :=
  match regionFloat code with
  | some f => f.decode v
  | none => FVal.ofNum (sext v (regionBits code))

/-! ## One output element (R109, R110) -/

/-- A block scale: its exponent, or none for NaN. -/
abbrev Scale := Option Int

/-- floor(log2 |x|) of a non-zero finite value. -/
def exp2floor (m : Nat) (e : Int) : Int := (Nat.log2 m : Int) + e

/-- align_window in units of 2^(E - W): truncated on magnitude (R107). -/
def alignUnits (neg : Bool) (m : Nat) (e E : Int) (W : Nat) : Int :=
  let s := e - (E - W)
  signed neg (if 0 ≤ s then m * 2 ^ s.toNat else m / 2 ^ (-s).toNat)

/-- The parameters of R108. -/
structure AccPar where
  group : Nat
  window : Nat
  fmt   : FloatFmt
  onSum : Bool
  numv1 : Bool
  deriving DecidableEq, Repr

/-- The parameters of a mode under a rule set. -/
def accPar (m : MMode) (numv1 : Bool) : AccPar :=
  match m with
  | .fp64 => ⟨16, 106, fmtF64, true, numv1⟩
  | _ => if numv1 then ⟨64, 24, fmtF32, false, true⟩ else ⟨32, 32, fmtF32, true, false⟩

/-- A product with its scales, NaN where a scale or t is not a number. -/
def groupProduct (p : AccPar) (t : FVal) (a b : FVal) (sa sb : Scale) : FVal :=
  match sa, sb with
  | some x, some y =>
    if t.isNaN || t.isInf then .nan false
    else match a.mul b with
      | .fin n m e => .fin n m (if p.onSum then e else e + x + y)
      | v => v
  | _, _ => .nan false

/-- A value with its exponent raised. -/
def FVal.scaled (v : FVal) (k : Int) : FVal :=
  match v with
  | .fin n m e => .fin n m (e + k)
  | _ => v

/-- The accumulator after one group's products (R109); sc is the group's scale exponent. -/
def addGroup (p : AccPar) (t : FVal) (sc : Int) (acc : Nat) (ps : List FVal) : Nat :=
  let x := p.fmt.decode acc
  let round (v : FVal) : Nat := (roundVal p.fmt .rne false v).v
  let posInf := ps.any fun v => v.isInf && !v.neg
  let negInf := ps.any fun v => v.isInf && v.neg
  if x.isNaN || ps.any FVal.isNaN || (posInf && negInf) then p.fmt.canonNaN
  else if posInf || negInf then round (x.add .rne (.inf negInf))
  else if ps.all FVal.isZero then acc
  else
    let E := ps.foldl (fun (m : Option Int) v => match v with
      | .fin _ k e => if k = 0 then m else some (match m with
          | some q => max q (exp2floor k e)
          | none => exp2floor k e)
      | _ => m) none
    let E := E.getD 0
    let S := ps.foldl (fun s v => match v with
      | .fin n k e => s + alignUnits n k e E p.window
      | _ => s) (0 : Int)
    let V := ((FVal.ofInt S (E - p.window) false).scaled (if p.onSum then sc else 0)).mul t
    if V.isZero then acc else ftz p.numv1 p.fmt (round (x.add .rne V))

/-- The groups of a row and a column added in order (R109): products with the exponents of their scales. -/
def addGroups (p : AccPar) (t : FVal) : Nat → Nat → List (FVal × FVal × Scale × Scale) → Nat
  | 0, acc, _ => acc
  | n + 1, acc, ks =>
    let g := ks.take p.group
    let sc : Int := match g with
      | (_, _, some x, some y) :: _ => x + y
      | _ => 0
    addGroups p t n (addGroup p t sc acc (g.map fun (a, b, x, y) => groupProduct p t a b x y)) (ks.drop p.group)

/-- One output element in a floating mode. -/
def floatElem (p : AccPar) (t : FVal) (acc : Nat) (ks : List (FVal × FVal × Scale × Scale)) : Nat :=
  addGroups p t (128 / p.group) acc ks

/-- One output element in an integer mode (R110). -/
def intElem (acc : Nat) (ks : List (Int × Int)) : Nat :=
  wrap (sat (sext acc 32 + ks.foldl (fun s p => s + p.1 * p.2) 0) (-(2 ^ 31)) (2 ^ 31 - 1)) 32

/-! ## Weights -/

/-- Columns of a block. -/
def blockColumns (tag : Nat) : Nat := if tag = 10 then 64 else 128

/-- The weights of a macro by 128 * k + column, as the values their tag gives the cells (R202). -/
def weightBits (tag : Nat) (cells : Array Word) (k n : Nat) : Nat :=
  if tag = 10 then (cells.getD (128 * k + 2 * n) 0).toNat + 2 ^ 32 * (cells.getD (128 * k + 2 * n + 1) 0).toNat
  else (cells.getD (128 * k + n) 0).toNat

/-- A weight's value: VQ2 holds the integer c (R97). -/
def weightVal (tag v : Nat) : FVal :=
  if tag = 12 then FVal.ofNum (sext v 16) else elemVal tag (v % 2 ^ regionBits tag)

/-- The scale of a weight: X - 127 for MX, X - 128 for VQ2 (R109). -/
def weightScale (tag : Nat) (scales : Array Byte) (k n : Nat) : Scale :=
  if isMx tag || tag == 12 then
    let x := (scales.getD (4 * n + k / 32) 0).toNat
    if x = 0xFF then none else some ((x : Int) - (if tag = 12 then 128 else 127))
  else some 0

/-- Bytes of the data part of a weight image (R218). -/
def imageData (tag : Nat) : Nat :=
  match tag with
  | 2 => 32768 | 3 => 32768 | 4 => 16384 | 5 => 16384 | 6 => 16384 | 7 => 8192 | 8 => 16384 | 9 => 8192 | 10 => 65536
  | 12 => 4096 | _ => 0

/-- Block scales of a weight image. -/
def imageScales (tag : Nat) : Nat := if isMx tag || tag == 12 then 512 else 0

/-- Element e of little-endian data whose bytes a function gives (R92). -/
def elemOf (w : Nat) (byte : Nat → Byte) (e : Nat) : Nat :=
  if w = 4 then bits (byte (e / 2)).toNat (4 * (e % 2)) 4
  else natOfBytes ((List.range (w / 8)).map fun j => byte (w / 8 * e + j))

/-- A VQ2 weight: bit j of the index's sign field, w0's sign making the negatives even, and twice the magnitude plus h (R96). -/
def vq2Weight (entry : Word) (idx j : Nat) : Int :=
  let sgn (k : Nat) : Bool := bit idx k
  let neg := if j = 0 then ((List.range 7).foldl (fun p k => p ^^ sgn (k + 1)) false) else sgn j
  signed neg (2 * bits entry.toNat (4 * j) 4 + idx % 2)

/-- The macro that a weight image fills: data bytes, scale bytes, the codebook for VQ2, and t. -/
def fillMacro (tag : Nat) (data scale : Nat → Byte) (book : List Word) (t : Word) : MacroState :=
  let w := regionBits tag
  let books := book.toArray
  let cell (x : Nat) : Word :=
    let k := x / 128
    let n := x % 128
    if tag = 10 then
      let v := elemOf 64 data (128 * (n / 2) + k)
      BitVec.ofNat 32 (if n % 2 = 0 then v else v / 2 ^ 32)
    else if tag = 12 then
      let i := 16 * n + k / 8
      let idx := elemOf 16 data i
      BitVec.ofNat 32 (wrap (vq2Weight (books.getD (idx / 256) 0) idx (k % 8)) 16)
    else BitVec.ofNat 32 (elemOf w data (128 * n + k))
  ⟨Cells.tabulate 0 16384 cell, Cells.tabulate 0 (imageScales tag) scale, if tag = 12 then t else 0x3F800000,
   .fmt (BitVec.ofNat 4 tag), none⟩

/-! ## The A feed (R206, R208) -/

/-- The address of chunk q, an exact integer. -/
def chunkAddr (l : LayoutRec) (base q : Nat) : Int :=
  let e (j : Fin 4) : Nat := (l.extents[j]).toNat
  let s (j : Fin 4) : Int := (l.strides[j]).toInt
  let c0 := q % e 0
  let c1 := q / e 0 % e 1
  let c2 := q / (e 0 * e 1) % e 2
  let c3 := q / (e 0 * e 1 * e 2)
  (base : Int) + 16 * (c0 * s 0 + c1 * s 1 + c2 * s 2 + c3 * s 3)

/-- Whether a layout slot is empty. -/
def LayoutRec.isEmpty (l : LayoutRec) : Bool := l.extents.toList.all fun e => e == 0

/-- The chunks that a nest covers. -/
def LayoutRec.cover (l : LayoutRec) : Nat := l.extents.toList.foldl (fun p e => p * e.toNat) 1

/-- MXOFF of a region descriptor, as a byte address (R32). -/
def mxOff (desc : Nat) : Nat := bits desc 8 16 * 64

/-- Bytes of an MX block. -/
def mxBlock (code : Nat) : Nat := if code = 6 then 32 else 16

/-- Bytes of a region's scale area (R92). -/
def mxArea (code : Nat) : Nat := 0x20000 / mxBlock code

/-- The scale byte's address of the block at an address of a region (R92). -/
def mxScaleAddr (code desc a : Nat) : Nat := mxOff desc + a % 0x20000 / mxBlock code

end Sys2Proof.Machine
end

