-- ==== Sys2Proof/WellFormed.lean ====
section
/-! DEFINITION. Which instruction terms stand for a defined encoding: what the operand types alone do not say. -/

namespace Sys2Proof

/-- The floating types of R98, E2M1 included. -/
def ElemType.isFloat : ElemType → Bool
  | .f32 | .f64 | .bf16 | .f16 | .e4m3 | .e5m2 | .e2m1 => true
  | _ => false

/-- A VCVT pair is defined: the sides differ; E2M1 pairs with F32, BF16 or F16; P32 with F32 or F64 (R105). -/
def cvtDefined (x y : ElemType) : Bool :=
  x != y &&
  (x != .e2m1 || y == .f32 || y == .bf16 || y == .f16) &&
  (y != .e2m1 || x == .f32 || x == .bf16 || x == .f16) &&
  (x != .p32 || y == .f32 || y == .f64) &&
  (y != .p32 || x == .f32 || x == .f64)

/-- A packet names its own type and carries as many data bytes as its type asks for (R396). -/
def Packet.wf (k : BitVec 8) (p : Packet) : Bool := p.ptype == k

/-- A flit group as it arrives (R395): first flits with frame type 1; where NFLIT is 1 to 16, just as many flits. -/
def groupWf (bytes : List (BitVec 8)) : Bool :=
  let n := (bytes.getD 1 0).toNat
  bytes.head? == some 1 && (if 1 ≤ n ∧ n ≤ 16 then bytes.length == 256 * n else bytes.length == 256)

/-- The checks that an encoding makes and the operand types do not: a mask destination is not m0 (R22, R58), a VCVT
pair is defined (R105), a flit group has its length (R395), and a packet event carries a packet of
its type (R396). -/
def Instr.wf : Instr → Bool
  | .vcvt _ _ x y => cvtDefined x y
  | .vcmp _ md _ _ => md != 0
  | .ldm m _ _ => m != 0
  | .flitGroupReceive _ g => groupWf g.bytes
  | .rd _ k => k.wf 0x01
  | .wr _ k => k.wf 0x02
  | .amo _ k => k.wf 0x03
  | .rdrsp _ k => k.wf 0x04
  | .wrack _ k => k.wf 0x05
  | .amorsp _ k => k.wf 0x06
  | _ => true

end Sys2Proof
end

