-- ==== Sys2Proof/Decode.lean ====
section
/-! DEFINITION. Reading a slot word as an instruction, and writing one (spec/02_formats_and_opcode_map.md R57-R60,
R76, R77). A word whose opcode is reserved is refused by check 2 of R68, one with a non-zero reserved field or an operand
outside its range by check 3. Bit 31, the stop bit, frames bundles and is read by `stopBit`. -/

namespace Sys2Proof

/-- The fields of a slot word but its stop bit (R57). -/
structure SlotFields where
  op : BitVec 7
  d : Byte
  a : Byte
  b : Byte
  deriving DecidableEq, Repr

/-- Bit 31 of a slot word ends its bundle (R55). -/
def stopBit (w : Word) : Bool := w.getLsbD 31

/-- The fields of R57. -/
def slotFields (w : Word) : SlotFields :=
  ⟨w.extractLsb' 24 7, w.extractLsb' 16 8, w.extractLsb' 8 8, w.extractLsb' 0 8⟩

/-- The word of given fields, with its stop bit. -/
def packSlot (stop : Bool) (f : SlotFields) : Word :=
  (BitVec.ofBool stop ++ f.op ++ f.d ++ f.a ++ f.b : BitVec (1 + 7 + 8 + 8 + 8))

/-- Why a slot word is no instruction: check 2 or check 3 of R68. -/
inductive SlotError where
  | reservedOp
  | badField
  deriving DecidableEq, Repr

/-! ## Field roles (R58) -/

/-- A field of role 0. -/
def zero? (x : Byte) : Option Unit := if x = 0 then some () else none
/-- A scalar, k, semaphore or shape field: bits [7:6] are 0. -/
def six? (x : Byte) : Option (BitVec 6) := if x.extractLsb' 6 2 = 0 then some (x.extractLsb' 0 6) else none
/-- A five-bit amount. -/
def five? (x : Byte) : Option (BitVec 5) := if x.extractLsb' 5 3 = 0 then some (x.extractLsb' 0 5) else none
/-- A four-bit engine index. -/
def four? (x : Byte) : Option (BitVec 4) := if x.extractLsb' 4 4 = 0 then some (x.extractLsb' 0 4) else none
/-- A three-bit engine index. -/
def three? (x : Byte) : Option (BitVec 3) := if x.extractLsb' 3 5 = 0 then some (x.extractLsb' 0 3) else none
/-- A two-bit engine index. -/
def two? (x : Byte) : Option (BitVec 2) := if x.extractLsb' 2 6 = 0 then some (x.extractLsb' 0 2) else none
/-- An even scalar pair (R15): bits [7:6] and bit [0] are 0. -/
def pair? (x : Byte) : Option (BitVec 5) :=
  if x.extractLsb' 6 2 = 0 ∧ x.extractLsb' 0 1 = 0 then some (x.extractLsb' 1 5) else none

/-- The direction of a selector (R16). -/
def dirOf (c : BitVec 2) : Dir :=
  match c.toNat with
  | 0 => .row
  | 1 => .col
  | 2 => .diag
  | _ => .anti

/-- A plane line selector (R16, R58). -/
def lineOf (x : Byte) : Line := ⟨dirOf (x.extractLsb' 6 2), x.extractLsb' 0 6⟩

/-- A:B as one 16-bit field. -/
def imm16 (f : SlotFields) : BitVec 16 := f.a ++ f.b

/-- The type of a code (R98). -/
def typeOf (n : Nat) : Option ElemType :=
  match n with
  | 0 => some .f32 | 1 => some .f64 | 2 => some .bf16 | 3 => some .f16 | 4 => some .e4m3 | 5 => some .e5m2
  | 6 => some .i32 | 7 => some .i16 | 8 => some .i8 | 9 => some .n32 | 10 => some .n16 | 11 => some .n8
  | 12 => some .e2m1 | 13 => some .p32 | _ => none

/-- The atomic operation of a number (R79). -/
def atomOf? (n : Nat) : Option AtomOp :=
  match n with
  | 0 => some .add | 1 => some .sub | 2 => some .and | 3 => some .or | 4 => some .xor | 5 => some .xch
  | 6 => some .smin | 7 => some .smax | 8 => some .umin | 9 => some .umax | 10 => some .fmin | 11 => some .fmax
  | 12 => some .fadd | 13 => some .cas | _ => none

/-- The scope of a code 0-4 (R186, R255). -/
def scopeOf? (n : Nat) : Option MemScope :=
  match n with
  | 0 => some .tile | 1 => some .crew | 2 => some .die | 3 => some .pkg | 4 => some .sys | _ => none

/-! ## Slot shapes: which role each field plays -/

/-- D, A and B are all 0. -/
def zzz (f : SlotFields) (i : Instr) : Option Instr := do zero? f.d; zero? f.a; zero? f.b; some i
/-- Three six-bit registers. -/
def sss (f : SlotFields) (k : BitVec 6 → BitVec 6 → BitVec 6 → Instr) : Option Instr := do
  let d ← six? f.d; let a ← six? f.a; let b ← six? f.b; some (k d a b)
/-- Two registers and imm8. -/
def ssi (f : SlotFields) (k : BitVec 6 → BitVec 6 → Byte → Instr) : Option Instr := do
  let d ← six? f.d; let a ← six? f.a; some (k d a f.b)
/-- Two registers and a shift amount. -/
def ssh (f : SlotFields) (k : BitVec 6 → BitVec 6 → BitVec 5 → Instr) : Option Instr := do
  let d ← six? f.d; let a ← six? f.a; let n ← five? f.b; some (k d a n)
/-- A register and imm16. -/
def s16 (f : SlotFields) (k : BitVec 6 → BitVec 16 → Instr) : Option Instr := do
  let d ← six? f.d; some (k d (imm16 f))
/-- imm16 alone. -/
def z16 (f : SlotFields) (k : BitVec 16 → Instr) : Option Instr := do zero? f.d; some (k (imm16 f))
/-- A register in A alone. -/
def zsz (f : SlotFields) (k : BitVec 6 → Instr) : Option Instr := do
  zero? f.d; let a ← six? f.a; zero? f.b; some (k a)
/-- Registers in A and B. -/
def zss (f : SlotFields) (k : BitVec 6 → BitVec 6 → Instr) : Option Instr := do
  zero? f.d; let a ← six? f.a; let b ← six? f.b; some (k a b)
/-- Registers in D and B. -/
def szs (f : SlotFields) (k : BitVec 6 → BitVec 6 → Instr) : Option Instr := do
  let d ← six? f.d; zero? f.a; let b ← six? f.b; some (k d b)
/-- Registers in D and A. -/
def ssz (f : SlotFields) (k : BitVec 6 → BitVec 6 → Instr) : Option Instr := do
  let d ← six? f.d; let a ← six? f.a; zero? f.b; some (k d a)
/-- A register in D alone. -/
def szz (f : SlotFields) (k : BitVec 6 → Instr) : Option Instr := do
  let d ← six? f.d; zero? f.a; zero? f.b; some (k d)
/-- Three lines. -/
def ppp (f : SlotFields) (k : Line → Line → Line → Instr) : Option Instr :=
  some (k (lineOf f.d) (lineOf f.a) (lineOf f.b))
/-- Two lines. -/
def ppz (f : SlotFields) (k : Line → Line → Instr) : Option Instr := do
  zero? f.b; some (k (lineOf f.d) (lineOf f.a))
/-- Two lines and a register. -/
def pps (f : SlotFields) (k : Line → Line → BitVec 6 → Instr) : Option Instr := do
  let b ← six? f.b; some (k (lineOf f.d) (lineOf f.a) b)
/-- A line and a register. -/
def psz (f : SlotFields) (k : Line → BitVec 6 → Instr) : Option Instr := do
  let a ← six? f.a; zero? f.b; some (k (lineOf f.d) a)
/-- One line. -/
def pzz (f : SlotFields) (k : Line → Instr) : Option Instr := do zero? f.a; zero? f.b; some (k (lineOf f.d))
/-- A line, a register and imm8. -/
def psi (f : SlotFields) (k : Line → BitVec 6 → Byte → Instr) : Option Instr := do
  let a ← six? f.a; some (k (lineOf f.d) a f.b)
/-- A line and two registers. -/
def pss (f : SlotFields) (k : Line → BitVec 6 → BitVec 6 → Instr) : Option Instr := do
  let a ← six? f.a; let b ← six? f.b; some (k (lineOf f.d) a b)
/-- A line, a register and an index line. -/
def psp (f : SlotFields) (k : Line → BitVec 6 → Line → Instr) : Option Instr := do
  let a ← six? f.a; some (k (lineOf f.d) a (lineOf f.b))
/-- A four-bit index and a register. -/
def blkS (f : SlotFields) (k : BitVec 4 → BitVec 6 → Instr) : Option Instr := do
  let n ← four? f.d; let a ← six? f.a; zero? f.b; some (k n a)

/-! ## Slots of a shape of their own -/

/-- OP 0x1E: the function number in B (R121). -/
def xop (f : SlotFields) : Option Instr := do
  let d ← six? f.d
  let a ← six? f.a
  match f.b.toNat with
  | 0 => some (.clz d a) | 1 => some (.popc d a) | 2 => some (.brev d a) | 3 => some (.sextb d a)
  | 4 => some (.sexth d a) | 5 => some (.zextb d a) | 6 => some (.zexth d a) | 7 => some (.abs d a)
  | 8 => some (.not d a) | _ => none

/-- OP 0x20: the condition in D[7:6], which must come with register 0 for "always" (R123). -/
def branch (f : SlotFields) : Option Instr :=
  match (f.d.extractLsb' 6 2).toNat with
  | 0 => if f.d.extractLsb' 0 6 = 0 then some (.br (imm16 f)) else none
  | 1 => some (.brz (f.d.extractLsb' 0 6) (imm16 f))
  | 2 => some (.brnz (f.d.extractLsb' 0 6) (imm16 f))
  | _ => some (.brlz (f.d.extractLsb' 0 6) (imm16 f))

/-- LIDX: levels 6 and 7 are undefined (R129). -/
def lidx (f : SlotFields) : Option Instr := do
  let d ← six? f.d
  zero? f.a
  if h : f.b.toNat < 6 then some (.lidx d ⟨f.b.toNat, h⟩) else none

/-- TSTAMP names an even register (R141). -/
def tstampOf (f : SlotFields) : Option Instr := do
  let p ← pair? f.d; zero? f.a; zero? f.b; some (.tstamp p)

/-- VCVT: a defined pair of type codes (R105). -/
def vcvtOf (f : SlotFields) : Option Instr := do
  let x ← typeOf (f.b.extractLsb' 4 4).toNat
  let y ← typeOf (f.b.extractLsb' 0 4).toNat
  if cvtDefined x y then some (.vcvt (lineOf f.d) (lineOf f.a) x y) else none

/-- The condition of VCMP (R156). -/
def condOf? (n : Nat) : Option VCond :=
  match n with
  | 0 => some .eq | 1 => some .ne | 2 => some .lt | 3 => some .le | 4 => some .gt | 5 => some .ge | 6 => some .un
  | _ => none

/-- VCMP: D[7:6] = 0, a condition below 7, a mask other than m0 (R156). -/
def vcmpOf (f : SlotFields) : Option Instr := do
  let k ← condOf? (f.d.extractLsb' 3 3).toNat
  if f.d.extractLsb' 6 2 = 0 ∧ f.d.extractLsb' 0 3 ≠ 0 then
    some (.vcmp k (f.d.extractLsb' 0 3) (lineOf f.a) (lineOf f.b))
  else none

/-- VSCAN: operations 0-2 (R163). -/
def vscanOf (f : SlotFields) : Option Instr :=
  match f.b.toNat with
  | 0 => some (.vscan (lineOf f.d) (lineOf f.a) .sum)
  | 1 => some (.vscan (lineOf f.d) (lineOf f.a) .max)
  | 2 => some (.vscan (lineOf f.d) (lineOf f.a) .min)
  | _ => none

/-- The reduction of a number (R164). -/
def redOf? (n : Nat) : Option RedOp :=
  match n with
  | 0 => some .sum | 1 => some .max | 2 => some .min | 3 => some .and | 4 => some .or | 5 => some .xor
  | 6 => some .argmax | _ => none

/-- VRED: operations 0-6 (R164). -/
def vredOf (f : SlotFields) : Option Instr := do
  let d ← six? f.d
  let o ← redOf? f.b.toNat
  some (.vred d (lineOf f.a) o)

/-- ATOM: the operation is D[7:6]:A[7:6], the space B[7:6] (R79, R177). -/
def atomOf (f : SlotFields) : Option Instr := do
  let o ← atomOf? ((f.d.extractLsb' 6 2) ++ (f.a.extractLsb' 6 2) : BitVec 4).toNat
  let p ← match (f.b.extractLsb' 6 2).toNat with
    | 0 => some AtomSpace.loc
    | 1 => some AtomSpace.crew
    | _ => none
  some (.atom o (f.d.extractLsb' 0 6) (f.a.extractLsb' 0 6) p (f.b.extractLsb' 0 6))

/-- LDM names m1-m7 (R58, R171). -/
def ldmOf (f : SlotFields) : Option Instr := do
  let m ← three? f.d
  let a ← six? f.a
  if m ≠ 0 then some (.ldm m a f.b) else none

/-- STM names any of m0-m7 (R171). -/
def stmOf (f : SlotFields) : Option Instr := do
  let m ← three? f.d; let a ← six? f.a; some (.stm m a f.b)

/-- MMUL and its zero-first form (R212). -/
def mmulOf (f : SlotFields) : Option Instr := do
  let a ← six? f.a
  if f.d.extractLsb' 5 3 = 0 ∧ f.b.extractLsb' 6 2 = 0 then
    if f.d.extractLsb' 4 1 = 0 then some (.mmul (f.d.extractLsb' 0 4) a (f.b.extractLsb' 2 4) (f.b.extractLsb' 0 2))
    else some (.mmulz (f.d.extractLsb' 0 4) a (f.b.extractLsb' 2 4) (f.b.extractLsb' 0 2))
  else none

/-- MMULD and its zero-first form: the accumulator is even (R212). -/
def mmuldOf (f : SlotFields) : Option Instr := do
  let a ← six? f.a
  if f.d.extractLsb' 5 3 = 0 ∧ f.d.extractLsb' 0 1 = 0 ∧ f.b.extractLsb' 6 2 = 0 then
    if f.d.extractLsb' 4 1 = 0 then some (.mmuld (f.d.extractLsb' 1 3) a (f.b.extractLsb' 2 4) (f.b.extractLsb' 0 2))
    else some (.mmuldz (f.d.extractLsb' 1 3) a (f.b.extractLsb' 2 4) (f.b.extractLsb' 0 2))
  else none

/-- MSTREAM (R222). -/
def mstreamOf (f : SlotFields) : Option Instr := do
  let m ← three? f.d; let a ← six? f.a; let e ← six? f.b; some (.mstream m a e)
/-- MLDW (R219). -/
def mldwOf (f : SlotFields) : Option Instr := do
  let m ← three? f.d; let a ← six? f.a; zero? f.b; some (.mldw m a)
/-- MVA and MVAZ (R226). -/
def mvaOf (f : SlotFields) (k : Line → BitVec 1 → BitVec 4 → BitVec 4 → Instr) : Option Instr := do
  let r ← four? f.b
  if f.a.extractLsb' 5 3 = 0 then some (k (lineOf f.d) (f.a.extractLsb' 4 1) (f.a.extractLsb' 0 4) r) else none
/-- MACZ (R227). -/
def maczOf (f : SlotFields) : Option Instr := do
  let k ← four? f.d; zero? f.a; zero? f.b; some (.macz k)
/-- MLAY (R207). -/
def mlayOf (f : SlotFields) : Option Instr := do
  let l ← two? f.d; let a ← six? f.a; zero? f.b; some (.mlay l a)
/-- MWAIT (R228). -/
def mwaitOf (f : SlotFields) : Option Instr := do
  let m ← three? f.d; zero? f.a; zero? f.b; some (.mwait m)
/-- TMVP (R245). -/
def tmvpOf (f : SlotFields) : Option Instr := do
  let k ← four? f.a; zero? f.b; some (.tmvp (lineOf f.d) k)
/-- TMVN (R245). -/
def tmvnOf (f : SlotFields) : Option Instr := do
  let k ← four? f.d; zero? f.b; some (.tmvn k (lineOf f.a))
/-- SPOST: the scope in D[7:6] (R183). -/
def spostOf (f : SlotFields) : Option Instr := do
  let s ← match (f.d.extractLsb' 6 2).toNat with
    | 0 => some PostScope.tile
    | 1 => some PostScope.crew
    | 2 => some PostScope.die
    | _ => none
  let a ← six? f.a
  let b ← six? f.b
  some (.spost s (f.d.extractLsb' 0 6) a b)
/-- FENCE: kinds 0-2, scopes 0-4 (R186). -/
def fenceOf (f : SlotFields) : Option Instr := do
  zero? f.d
  let k ← match f.a.toNat with
    | 0 => some FenceKind.sp
    | 1 => some FenceKind.cp
    | 2 => some FenceKind.all
    | _ => none
  let s ← scopeOf? f.b.toNat
  some (.fence k s)
/-- SPRINT: B[0] claims or releases (R201). -/
def sprintOf (f : SlotFields) : Option Instr := do
  zero? f.d
  zero? f.a
  match f.b.toNat with
  | 0 => some .sprintRelease
  | 1 => some .sprintClaim
  | _ => none

/-! ## The opcode map -/

/-- The S-unit rows of the opcode map (R77). -/
def decodeS (f : SlotFields) : Option Instr :=
  match f.op.toNat with
  | 0x00 => zzz f .nop
  | 0x01 => sss f .add
  | 0x02 => sss f .sub
  | 0x03 => sss f .mul
  | 0x04 => sss f .mulh
  | 0x05 => sss f .mulhu
  | 0x06 => sss f .div
  | 0x07 => sss f .divu
  | 0x08 => sss f .rem
  | 0x09 => sss f .remu
  | 0x0a => sss f .and
  | 0x0b => sss f .or
  | 0x0c => sss f .xor
  | 0x0d => sss f .shl
  | 0x0e => sss f .shr
  | 0x0f => sss f .sra
  | 0x10 => ssi f .addi
  | 0x11 => ssi f .andi
  | 0x12 => ssi f .ori
  | 0x13 => ssh f .shli
  | 0x14 => ssh f .shri
  | 0x15 => ssh f .srai
  | 0x16 => s16 f .setlo
  | 0x17 => s16 f .sethi
  | 0x18 => sss f .seq
  | 0x19 => sss f .slt
  | 0x1a => sss f .sltu
  | 0x1b => sss f .min
  | 0x1c => sss f .max
  | 0x1d => sss f .sel
  | 0x1e => xop f
  | _ => none

/-- The C-unit rows of the opcode map (R77). -/
def decodeC (f : SlotFields) : Option Instr :=
  match f.op.toNat with
  | 0x20 => branch f
  | 0x21 => zsz f .jr
  | 0x22 => z16 f .call
  | 0x23 => zsz f .callr
  | 0x24 => s16 f .loop
  | 0x25 => some (.loopi f.d (imm16 f))
  | 0x26 => zzz f .lbrk
  | 0x27 => lidx f
  | 0x28 => zzz f .pend
  | 0x29 => zss f .segchk
  | 0x2a => z16 f .trap
  | 0x2b => zzz f .rte
  | 0x2c => z16 f .bkpt
  | 0x2d => szs f .movk
  | 0x2e => ssz f .kmov
  | 0x2f => tstampOf f
  | _ => none

/-- The V-unit rows of the opcode map (R77). -/
def decodeV (f : SlotFields) : Option Instr :=
  match f.op.toNat with
  | 0x30 => ppp f .vadd
  | 0x31 => ppp f .vsub
  | 0x32 => ppp f .vmul
  | 0x33 => ppp f .vfma
  | 0x34 => ppp f .vfms
  | 0x35 => ppp f .vfnma
  | 0x36 => ppp f .vmin
  | 0x37 => ppp f .vmax
  | 0x38 => ppz f .vabs
  | 0x39 => ppz f .vneg
  | 0x3a => ppz f .vrcp
  | 0x3b => ppz f .vrsq
  | 0x3c => ppz f .vexp2
  | 0x3d => ppz f .vlog2
  | 0x3e => vcvtOf f
  | 0x3f => vcmpOf f
  | 0x40 => ppp f .vsel
  | 0x41 => ppp f .vand
  | 0x42 => ppp f .vor
  | 0x43 => ppp f .vxor
  | 0x44 => ppp f .vshl
  | 0x45 => ppp f .vshr
  | 0x46 => ppp f .vsra
  | 0x47 => pps f .vadds
  | 0x48 => pps f .vmuls
  | 0x49 => pps f .vfmas
  | 0x4a => psz f .vbcast
  | 0x4b => pzz f .viota
  | 0x4c => ppp f .vshuf
  | 0x4d => vscanOf f
  | 0x4e => vredOf f
  | 0x4f => z16 f .vcfg
  | _ => none

/-- The L-unit rows of the opcode map (R77). -/
def decodeL (f : SlotFields) : Option Instr :=
  match f.op.toNat with
  | 0x50 => psi f .ldl
  | 0x51 => psi f .stl
  | 0x52 => pss f .ldlx
  | 0x53 => pss f .stlx
  | 0x54 => ssi f .ldw
  | 0x55 => ssi f .stw
  | 0x56 => psz f .ldc
  | 0x57 => psz f .stc
  | 0x58 => psp f .ldg
  | 0x59 => psp f .stg
  | 0x5a => atomOf f
  | 0x5b => ldmOf f
  | 0x5c => stmOf f
  | _ => none

/-- The M-unit rows of the opcode map (R77). -/
def decodeM (f : SlotFields) : Option Instr :=
  match f.op.toNat with
  | 0x60 => mmulOf f
  | 0x61 => mmuldOf f
  | 0x62 => mstreamOf f
  | 0x63 => mldwOf f
  | 0x64 => mvaOf f .mva
  | 0x65 => mvaOf f .mvaz
  | 0x66 => maczOf f
  | 0x67 => mlayOf f
  | 0x68 => z16 f .mcfg
  | 0x69 => mwaitOf f
  | _ => none

/-- The T-unit rows of the opcode map (R77). -/
def decodeT (f : SlotFields) : Option Instr :=
  match f.op.toNat with
  | 0x70 => sss f .trise
  | 0x71 => sss f .tfall
  | 0x72 => blkS f .tld
  | 0x73 => blkS f .tst
  | 0x74 => tmvpOf f
  | 0x75 => tmvnOf f
  | 0x76 => ssz f .tshp
  | 0x77 => z16 f .tcfg
  | _ => none

/-- The Q-unit rows of the opcode map (R77). -/
def decodeQ (f : SlotFields) : Option Instr :=
  match f.op.toNat with
  | 0x78 => spostOf f
  | 0x79 => szs f .swait
  | 0x7a => szs f .spoll
  | 0x7b => fenceOf f
  | 0x7c => zsz f .cpy
  | 0x7d => szz f .cpyq
  | 0x7e => sprintOf f
  | _ => none

/-- Whether an opcode value is assigned (R76). -/
def opAssigned (n : Nat) : Bool :=
  n ≤ 0x1E || (0x20 ≤ n && n ≤ 0x5C) || (0x60 ≤ n && n ≤ 0x69) || (0x70 ≤ n && n ≤ 0x7E)

/-- The instruction of a slot's fields, by the unit ranges of R76. -/
def decodeFields (f : SlotFields) : Option Instr :=
  let n := f.op.toNat
  if n < 0x20 then decodeS f
  else if n < 0x30 then decodeC f
  else if n < 0x50 then decodeV f
  else if n < 0x60 then decodeL f
  else if n < 0x70 then decodeM f
  else if n < 0x78 then decodeT f
  else decodeQ f

/-- The instruction of a slot word, or why there is none (R60, R68 checks 2 and 3). -/
def decodeSlot (w : Word) : Except SlotError Instr :=
  if opAssigned (slotFields w).op.toNat then
    match decodeFields (slotFields w) with
    | some i => .ok i
    | none => .error .badField
  else .error .reservedOp

/-! ## The encoder -/

/-- A six-bit field with [7:6] = 0. -/
def enc6 (r : BitVec 6) : Byte := (0#2 ++ r : BitVec 8)
/-- A five-bit field. -/
def enc5 (r : BitVec 5) : Byte := (0#3 ++ r : BitVec 8)
/-- A four-bit field. -/
def enc4 (r : BitVec 4) : Byte := (0#4 ++ r : BitVec 8)
/-- A three-bit field. -/
def enc3 (r : BitVec 3) : Byte := (0#5 ++ r : BitVec 8)
/-- A two-bit field. -/
def enc2 (r : BitVec 2) : Byte := (0#6 ++ r : BitVec 8)
/-- An even register. -/
def encPair (p : BitVec 5) : Byte := (0#2 ++ p ++ 0#1 : BitVec 8)
/-- A two-bit modifier over a six-bit field. -/
def cat2 (m : BitVec 2) (r : BitVec 6) : Byte := (m ++ r : BitVec 8)
/-- Two four-bit fields. -/
def cat4 (x y : BitVec 4) : Byte := (x ++ y : BitVec 8)
/-- VCMP's D field: 0b00, the condition, the mask. -/
def catCmp (k : BitVec 3) (m : BitVec 3) : Byte := (0#2 ++ k ++ m : BitVec 8)
/-- MMUL's B field: 0b00, M - 1, the layout slot. -/
def catRows (r : BitVec 4) (l : BitVec 2) : Byte := (0#2 ++ r ++ l : BitVec 8)
/-- The zero-first D field of MMULZ. -/
def catZ (k : BitVec 4) : Byte := (0#3 ++ 1#1 ++ k : BitVec 8)
/-- MVA's A field: the half over the accumulator. -/
def catHalf (h : BitVec 1) (k : BitVec 4) : Byte := (0#3 ++ h ++ k : BitVec 8)
/-- The high byte of imm16. -/
def hi8 (i : BitVec 16) : Byte := i.extractLsb' 8 8
/-- The low byte of imm16. -/
def lo8 (i : BitVec 16) : Byte := i.extractLsb' 0 8
/-- The high pair of an atomic operation's number. -/
def hi2 (o : BitVec 4) : BitVec 2 := o.extractLsb' 2 2
/-- The low pair of an atomic operation's number. -/
def lo2 (o : BitVec 4) : BitVec 2 := o.extractLsb' 0 2

/-- The direction code of R16. -/
def encDir : Dir → BitVec 2
  | .row => 0 | .col => 1 | .diag => 2 | .anti => 3
/-- A line selector. -/
def encLine (l : Line) : Byte := cat2 (encDir l.dir) l.idx
/-- The type code of R98. -/
def encType : ElemType → BitVec 4
  | .f32 => 0 | .f64 => 1 | .bf16 => 2 | .f16 => 3 | .e4m3 => 4 | .e5m2 => 5 | .i32 => 6 | .i16 => 7 | .i8 => 8
  | .n32 => 9 | .n16 => 10 | .n8 => 11 | .e2m1 => 12 | .p32 => 13
/-- The condition code of R156. -/
def encCond : VCond → BitVec 3
  | .eq => 0 | .ne => 1 | .lt => 2 | .le => 3 | .gt => 4 | .ge => 5 | .un => 6
/-- The scan number of R163. -/
def encScan : ScanOp → Byte
  | .sum => 0 | .max => 1 | .min => 2
/-- The reduction number of R164. -/
def encRed : RedOp → Byte
  | .sum => 0 | .max => 1 | .min => 2 | .and => 3 | .or => 4 | .xor => 5 | .argmax => 6
/-- The atomic number of R79. -/
def encAtom : AtomOp → BitVec 4
  | .add => 0 | .sub => 1 | .and => 2 | .or => 3 | .xor => 4 | .xch => 5 | .smin => 6 | .smax => 7 | .umin => 8
  | .umax => 9 | .fmin => 10 | .fmax => 11 | .fadd => 12 | .cas => 13
/-- The space code of R177. -/
def encSpace : AtomSpace → BitVec 2
  | .loc => 0 | .crew => 1
/-- The scope code of SPOST (R183). -/
def encPost : PostScope → BitVec 2
  | .tile => 0 | .crew => 1 | .die => 2
/-- The kind code of FENCE (R186). -/
def encFence : FenceKind → Byte
  | .sp => 0 | .cp => 1 | .all => 2
/-- The scope code of R255. -/
def encScope : MemScope → Byte
  | .tile => 0 | .crew => 1 | .die => 2 | .pkg => 3 | .sys => 4

/-- The fields of a slot instruction (R77); an event has none. -/
def encodeFields : Instr → Option SlotFields
  | .nop => some ⟨0x00, 0, 0, 0⟩
  | .add d a b => some ⟨0x01, enc6 d, enc6 a, enc6 b⟩
  | .sub d a b => some ⟨0x02, enc6 d, enc6 a, enc6 b⟩
  | .mul d a b => some ⟨0x03, enc6 d, enc6 a, enc6 b⟩
  | .mulh d a b => some ⟨0x04, enc6 d, enc6 a, enc6 b⟩
  | .mulhu d a b => some ⟨0x05, enc6 d, enc6 a, enc6 b⟩
  | .div d a b => some ⟨0x06, enc6 d, enc6 a, enc6 b⟩
  | .divu d a b => some ⟨0x07, enc6 d, enc6 a, enc6 b⟩
  | .rem d a b => some ⟨0x08, enc6 d, enc6 a, enc6 b⟩
  | .remu d a b => some ⟨0x09, enc6 d, enc6 a, enc6 b⟩
  | .and d a b => some ⟨0x0a, enc6 d, enc6 a, enc6 b⟩
  | .or d a b => some ⟨0x0b, enc6 d, enc6 a, enc6 b⟩
  | .xor d a b => some ⟨0x0c, enc6 d, enc6 a, enc6 b⟩
  | .shl d a b => some ⟨0x0d, enc6 d, enc6 a, enc6 b⟩
  | .shr d a b => some ⟨0x0e, enc6 d, enc6 a, enc6 b⟩
  | .sra d a b => some ⟨0x0f, enc6 d, enc6 a, enc6 b⟩
  | .seq d a b => some ⟨0x18, enc6 d, enc6 a, enc6 b⟩
  | .slt d a b => some ⟨0x19, enc6 d, enc6 a, enc6 b⟩
  | .sltu d a b => some ⟨0x1a, enc6 d, enc6 a, enc6 b⟩
  | .min d a b => some ⟨0x1b, enc6 d, enc6 a, enc6 b⟩
  | .max d a b => some ⟨0x1c, enc6 d, enc6 a, enc6 b⟩
  | .sel d a b => some ⟨0x1d, enc6 d, enc6 a, enc6 b⟩
  | .addi d a i => some ⟨0x10, enc6 d, enc6 a, i⟩
  | .andi d a i => some ⟨0x11, enc6 d, enc6 a, i⟩
  | .ori d a i => some ⟨0x12, enc6 d, enc6 a, i⟩
  | .shli d a i => some ⟨0x13, enc6 d, enc6 a, enc5 i⟩
  | .shri d a i => some ⟨0x14, enc6 d, enc6 a, enc5 i⟩
  | .srai d a i => some ⟨0x15, enc6 d, enc6 a, enc5 i⟩
  | .setlo d i => some ⟨0x16, enc6 d, hi8 i, lo8 i⟩
  | .sethi d i => some ⟨0x17, enc6 d, hi8 i, lo8 i⟩
  | .clz d a => some ⟨0x1e, enc6 d, enc6 a, 0⟩
  | .popc d a => some ⟨0x1e, enc6 d, enc6 a, 1⟩
  | .brev d a => some ⟨0x1e, enc6 d, enc6 a, 2⟩
  | .sextb d a => some ⟨0x1e, enc6 d, enc6 a, 3⟩
  | .sexth d a => some ⟨0x1e, enc6 d, enc6 a, 4⟩
  | .zextb d a => some ⟨0x1e, enc6 d, enc6 a, 5⟩
  | .zexth d a => some ⟨0x1e, enc6 d, enc6 a, 6⟩
  | .abs d a => some ⟨0x1e, enc6 d, enc6 a, 7⟩
  | .not d a => some ⟨0x1e, enc6 d, enc6 a, 8⟩
  | .br o => some ⟨0x20, 0, hi8 o, lo8 o⟩
  | .brz r o => some ⟨0x20, cat2 1 r, hi8 o, lo8 o⟩
  | .brnz r o => some ⟨0x20, cat2 2 r, hi8 o, lo8 o⟩
  | .brlz r o => some ⟨0x20, cat2 3 r, hi8 o, lo8 o⟩
  | .jr a => some ⟨0x21, 0, enc6 a, 0⟩
  | .call o => some ⟨0x22, 0, hi8 o, lo8 o⟩
  | .callr a => some ⟨0x23, 0, enc6 a, 0⟩
  | .loop r o => some ⟨0x24, enc6 r, hi8 o, lo8 o⟩
  | .loopi n o => some ⟨0x25, n, hi8 o, lo8 o⟩
  | .lbrk => some ⟨0x26, 0, 0, 0⟩
  | .lidx d l => some ⟨0x27, enc6 d, 0, BitVec.ofNat 8 l.val⟩
  | .pend => some ⟨0x28, 0, 0, 0⟩
  | .segchk a b => some ⟨0x29, 0, enc6 a, enc6 b⟩
  | .trap i => some ⟨0x2a, 0, hi8 i, lo8 i⟩
  | .rte => some ⟨0x2b, 0, 0, 0⟩
  | .bkpt i => some ⟨0x2c, 0, hi8 i, lo8 i⟩
  | .movk d k => some ⟨0x2d, enc6 d, 0, enc6 k⟩
  | .kmov k a => some ⟨0x2e, enc6 k, enc6 a, 0⟩
  | .tstamp p => some ⟨0x2f, encPair p, 0, 0⟩
  | .vadd d a b => some ⟨0x30, encLine d, encLine a, encLine b⟩
  | .vsub d a b => some ⟨0x31, encLine d, encLine a, encLine b⟩
  | .vmul d a b => some ⟨0x32, encLine d, encLine a, encLine b⟩
  | .vfma d a b => some ⟨0x33, encLine d, encLine a, encLine b⟩
  | .vfms d a b => some ⟨0x34, encLine d, encLine a, encLine b⟩
  | .vfnma d a b => some ⟨0x35, encLine d, encLine a, encLine b⟩
  | .vmin d a b => some ⟨0x36, encLine d, encLine a, encLine b⟩
  | .vmax d a b => some ⟨0x37, encLine d, encLine a, encLine b⟩
  | .vsel d a b => some ⟨0x40, encLine d, encLine a, encLine b⟩
  | .vand d a b => some ⟨0x41, encLine d, encLine a, encLine b⟩
  | .vor d a b => some ⟨0x42, encLine d, encLine a, encLine b⟩
  | .vxor d a b => some ⟨0x43, encLine d, encLine a, encLine b⟩
  | .vshl d a b => some ⟨0x44, encLine d, encLine a, encLine b⟩
  | .vshr d a b => some ⟨0x45, encLine d, encLine a, encLine b⟩
  | .vsra d a b => some ⟨0x46, encLine d, encLine a, encLine b⟩
  | .vshuf d a b => some ⟨0x4c, encLine d, encLine a, encLine b⟩
  | .vabs d a => some ⟨0x38, encLine d, encLine a, 0⟩
  | .vneg d a => some ⟨0x39, encLine d, encLine a, 0⟩
  | .vrcp d a => some ⟨0x3a, encLine d, encLine a, 0⟩
  | .vrsq d a => some ⟨0x3b, encLine d, encLine a, 0⟩
  | .vexp2 d a => some ⟨0x3c, encLine d, encLine a, 0⟩
  | .vlog2 d a => some ⟨0x3d, encLine d, encLine a, 0⟩
  | .vcvt d a x y => some ⟨0x3e, encLine d, encLine a, cat4 (encType x) (encType y)⟩
  | .vcmp k m a b => some ⟨0x3f, catCmp (encCond k) m, encLine a, encLine b⟩
  | .vadds d a b => some ⟨0x47, encLine d, encLine a, enc6 b⟩
  | .vmuls d a b => some ⟨0x48, encLine d, encLine a, enc6 b⟩
  | .vfmas d a b => some ⟨0x49, encLine d, encLine a, enc6 b⟩
  | .vbcast d a => some ⟨0x4a, encLine d, enc6 a, 0⟩
  | .viota d => some ⟨0x4b, encLine d, 0, 0⟩
  | .vscan d a o => some ⟨0x4d, encLine d, encLine a, encScan o⟩
  | .vred d a o => some ⟨0x4e, enc6 d, encLine a, encRed o⟩
  | .vcfg i => some ⟨0x4f, 0, hi8 i, lo8 i⟩
  | .ldl d a i => some ⟨0x50, encLine d, enc6 a, i⟩
  | .stl d a i => some ⟨0x51, encLine d, enc6 a, i⟩
  | .ldlx d a b => some ⟨0x52, encLine d, enc6 a, enc6 b⟩
  | .stlx d a b => some ⟨0x53, encLine d, enc6 a, enc6 b⟩
  | .ldw d a i => some ⟨0x54, enc6 d, enc6 a, i⟩
  | .stw d a i => some ⟨0x55, enc6 d, enc6 a, i⟩
  | .ldc d a => some ⟨0x56, encLine d, enc6 a, 0⟩
  | .stc d a => some ⟨0x57, encLine d, enc6 a, 0⟩
  | .ldg d a b => some ⟨0x58, encLine d, enc6 a, encLine b⟩
  | .stg d a b => some ⟨0x59, encLine d, enc6 a, encLine b⟩
  | .atom o d a p b => some ⟨0x5a, cat2 (hi2 (encAtom o)) d, cat2 (lo2 (encAtom o)) a, cat2 (encSpace p) b⟩
  | .ldm m a i => some ⟨0x5b, enc3 m, enc6 a, i⟩
  | .stm m a i => some ⟨0x5c, enc3 m, enc6 a, i⟩
  | .mmul k a r l => some ⟨0x60, enc4 k, enc6 a, catRows r l⟩
  | .mmulz k a r l => some ⟨0x60, catZ k, enc6 a, catRows r l⟩
  | .mmuld k a r l => some ⟨0x61, enc4 (k ++ 0#1), enc6 a, catRows r l⟩
  | .mmuldz k a r l => some ⟨0x61, catZ (k ++ 0#1), enc6 a, catRows r l⟩
  | .mstream m a e => some ⟨0x62, enc3 m, enc6 a, enc6 e⟩
  | .mldw m a => some ⟨0x63, enc3 m, enc6 a, 0⟩
  | .mva d h k r => some ⟨0x64, encLine d, catHalf h k, enc4 r⟩
  | .mvaz d h k r => some ⟨0x65, encLine d, catHalf h k, enc4 r⟩
  | .macz k => some ⟨0x66, enc4 k, 0, 0⟩
  | .mlay l a => some ⟨0x67, enc2 l, enc6 a, 0⟩
  | .mcfg i => some ⟨0x68, 0, hi8 i, lo8 i⟩
  | .mwait m => some ⟨0x69, enc3 m, 0, 0⟩
  | .trise p a b => some ⟨0x70, enc6 p, enc6 a, enc6 b⟩
  | .tfall p a b => some ⟨0x71, enc6 p, enc6 a, enc6 b⟩
  | .tld k a => some ⟨0x72, enc4 k, enc6 a, 0⟩
  | .tst k a => some ⟨0x73, enc4 k, enc6 a, 0⟩
  | .tmvp d k => some ⟨0x74, encLine d, enc4 k, 0⟩
  | .tmvn k a => some ⟨0x75, enc4 k, encLine a, 0⟩
  | .tshp p a => some ⟨0x76, enc6 p, enc6 a, 0⟩
  | .tcfg i => some ⟨0x77, 0, hi8 i, lo8 i⟩
  | .spost s e a b => some ⟨0x78, cat2 (encPost s) e, enc6 a, enc6 b⟩
  | .swait e b => some ⟨0x79, enc6 e, 0, enc6 b⟩
  | .spoll d e => some ⟨0x7a, enc6 d, 0, enc6 e⟩
  | .fence k s => some ⟨0x7b, 0, encFence k, encScope s⟩
  | .cpy a => some ⟨0x7c, 0, enc6 a, 0⟩
  | .cpyq d => some ⟨0x7d, enc6 d, 0, 0⟩
  | .sprintClaim => some ⟨0x7e, 0, 0, 1⟩
  | .sprintRelease => some ⟨0x7e, 0, 0, 0⟩
  | _ => none

/-- The slot word of an instruction, with its stop bit; an event has none. -/
def encode (stop : Bool) (i : Instr) : Option Word := (encodeFields i).map (packSlot stop)

/-- The instruction of a table word: one slot word, its bit 31 the stop bit. -/
def decodeTableWord (nbits w : Nat) : Option Instr :=
  if nbits ≤ 32 then
    match decodeSlot (BitVec.ofNat 32 w) with
    | .ok i => some i
    | .error _ => none
  else none

/-- Whether an instruction stands in a bundle slot: the others are events. -/
def Instr.isSlot (i : Instr) : Bool := (encodeFields i).isSome

end Sys2Proof
end

