-- ==== Sys2Proof/Machine/Slots.lean ====
section
/-! DEFINITION. What a slot uses: its unit, its depth, the registers it reads and writes (spec/02_formats_and_opcode_map.md
R69-R72, R77), and the engine state it touches (R73, R74; 07_isa_matrix.md R219; 08_isa_trellis.md R247). -/

namespace Sys2Proof.Machine

/-- The units of R71. -/
inductive UnitId where
  | none | s | c | v | l | m | t | q
  deriving DecidableEq, Repr

/-- What a slot reads and writes, with multiplicity, its unit and its execute depth. -/
structure SlotUse where
  unit   : UnitId
  depth  : Nat
  reads  : List RegRef
  writes : List RegRef
  deriving DecidableEq, Repr

/-- A scalar register's use: s0 counts nothing (R70, R72). -/
def rs (r : SReg) : List RegRef := if r = 0 then [] else [.scal r]
/-- Both registers of a pair. -/
def rp (p : BitVec 5) : List RegRef := rs (pairLo p) ++ rs (pairHi p)
/-- A mask's use: m0 is no register of R69. -/
def rm (m : MaskReg) : List RegRef := if m = 0 then [] else [.mask m]

/-- An S slot of two sources. -/
def useSss (d a b : SReg) : SlotUse := ⟨.s, 1, rs a ++ rs b, rs d⟩
/-- An S slot of one source. -/
def useSs (d a : SReg) : SlotUse := ⟨.s, 1, rs a, rs d⟩
/-- A C slot. -/
def useC (r w : List RegRef) : SlotUse := ⟨.c, 1, r, w⟩
/-- A V slot: it reads VCFG and the current mask besides its operands (R69). DEDUCED, notes/assumptions/19.md. -/
def useV (k : BitVec 16) (depth : Nat) (r w : List RegRef) : SlotUse := ⟨.v, depth, r ++ [.vcfg] ++ rm (vcfgMask k), w⟩
/-- A scalar operand of a V slot: a pair under F64 (R155, R159). -/
def useScalar (k : BitVec 16) (r : SReg) : List RegRef := if vcfgType k = .f64 then rp (pairOf r) else rs r
/-- An M slot: it reads MCFG (R69). -/
def useM (r w : List RegRef) : SlotUse := ⟨.m, 1, r ++ [.kreg 29], w⟩
/-- A T slot: it reads TCFG (R69). -/
def useT (r w : List RegRef) : SlotUse := ⟨.t, 1, r ++ [.kreg 9], w⟩
/-- An L slot. -/
def useL (depth : Nat) (r w : List RegRef) : SlotUse := ⟨.l, depth, r, w⟩
/-- A Q slot. -/
def useQ (r w : List RegRef) : SlotUse := ⟨.q, 1, r, w⟩

/-- What a slot uses under a value of VCFG; an event uses nothing. -/
def slotUse (k : BitVec 16) : Instr → SlotUse
  | .nop => ⟨.none, 1, [], []⟩
  | .add d a b | .sub d a b | .mul d a b | .mulh d a b | .mulhu d a b | .div d a b | .divu d a b | .rem d a b
  | .remu d a b | .and d a b | .or d a b | .xor d a b | .shl d a b | .shr d a b | .sra d a b | .seq d a b | .slt d a b
  | .sltu d a b | .min d a b | .max d a b => useSss d a b
  | .sel d a b => ⟨.s, 1, rs d ++ rs a ++ rs b, rs d⟩
  | .addi d a _ | .andi d a _ | .ori d a _ | .shli d a _ | .shri d a _ | .srai d a _ | .clz d a | .popc d a | .brev d a
  | .sextb d a | .sexth d a | .zextb d a | .zexth d a | .abs d a | .not d a => useSs d a
  | .setlo d _ | .sethi d _ => ⟨.s, 1, [], rs d⟩
  | .br _ | .loopi _ _ | .lbrk | .pend | .trap _ | .rte | .bkpt _ => useC [] []
  | .brz r _ | .brnz r _ | .brlz r _ | .jr r | .loop r _ => useC (rs r) []
  | .call _ => useC [] (rs 63)
  | .callr a => useC (rs a) (rs 63)
  | .lidx d _ => useC [] (rs d)
  | .segchk a b => useC (rs a ++ rs b) []
  | .movk d n => useC (if n = 8 then [.vcfg] else [.kreg n]) (rs d)
  | .kmov n a => useC (rs a) [.kreg n]
  | .tstamp p => useC [] (rp p)
  | .vadd d a b | .vsub d a b | .vmin d a b | .vmax d a b | .vsel d a b | .vand d a b | .vor d a b | .vxor d a b
  | .vshl d a b | .vshr d a b | .vsra d a b | .vshuf d a b => useV k 2 [.line a, .line b] [.line d]
  | .vmul d a b => useV k 3 [.line a, .line b] [.line d]
  | .vfma d a b | .vfms d a b | .vfnma d a b => useV k 3 [.line d, .line a, .line b] [.line d]
  | .vabs d a | .vneg d a => useV k 2 [.line a] [.line d]
  | .vrcp d a | .vrsq d a | .vexp2 d a | .vlog2 d a => useV k 6 [.line a] [.line d]
  | .vcvt d a _ _ => useV k 3 [.line a] [.line d]
  | .vcmp _ m a b => useV k 2 [.line a, .line b] (rm m)
  | .vadds d a s => useV k 2 (.line a :: useScalar k s) [.line d]
  | .vmuls d a s => useV k 3 (.line a :: useScalar k s) [.line d]
  | .vfmas d a s => useV k 3 (.line d :: .line a :: useScalar k s) [.line d]
  | .vbcast d s => useV k 2 (useScalar k s) [.line d]
  | .viota d => useV k 2 [] [.line d]
  | .vscan d a _ => useV k 3 [.line a] [.line d]
  | .vred d a op => useV k 3 [.line a] (if op = .argmax then rs d else useScalar k d)
  | .vcfg _ => ⟨.v, 1, [], [.vcfg]⟩
  | .ldl d a _ => useL 3 (rs a) [.line d]
  | .stl d a _ => useL 1 (.line d :: rs a) []
  | .ldlx d a b => useL 3 (rs a ++ rs b) [.line d]
  | .stlx d a b => useL 1 (.line d :: (rs a ++ rs b)) []
  | .ldw d a _ => useL 3 (rs a) (rs d)
  | .stw d a _ => useL 1 (rs d ++ rs a) []
  | .ldc d a => useL 1 (rs a) [.line d]
  | .stc d a => useL 1 (.line d :: rs a) []
  | .ldg d a b => useL 1 (.line b :: rs a) [.line d]
  | .stg d a b => useL 1 (.line d :: .line b :: rs a) []
  | .atom op d a _ b => useL 3 (rs a ++ rs b ++ (if op = .cas then rs d else [])) (rs d)
  | .ldm m a _ => useL 3 (rs a) (rm m)
  | .stm m a _ => useL 1 (rm m ++ rs a) []
  | .mmul _ a _ _ | .mmulz _ a _ _ | .mmuld _ a _ _ | .mmuldz _ a _ _ | .mstream _ a _ | .mldw _ a | .mlay _ a =>
    useM (rs a) []
  | .mva d _ _ _ | .mvaz d _ _ _ => useM [] [.line d]
  | .macz _ | .mwait _ => useM [] []
  | .mcfg _ => ⟨.m, 1, [], [.kreg 29]⟩
  | .trise _ a b | .tfall _ a b => useT (rs a ++ rs b) []
  | .tld _ a | .tst _ a | .tshp _ a => useT (rs a) []
  | .tmvp d _ => useT [] [.line d]
  | .tmvn _ a => useT [.line a] []
  | .tcfg _ => ⟨.t, 1, [], [.kreg 9]⟩
  | .spost _ _ a b => useQ (rs a ++ rs b) []
  | .swait _ b => useQ (rs b) []
  | .spoll d _ => useQ [] (rs d)
  | .fence _ _ => useQ [] []
  | .cpy a => useQ (rs a) []
  | .cpyq d => useQ [] (rs d)
  | .sprintClaim | .sprintRelease => useQ [] []
  | _ => ⟨.none, 1, [], []⟩

/-- The scalar operand that must be even under F64 (R155, R159, R165). -/
def evenOperand : Instr → Option SReg
  | .vadds _ _ s | .vmuls _ _ s | .vfmas _ _ s | .vbcast _ s => some s
  | .vred d _ op => if op = .argmax then none else some d
  | _ => none

/-- The offset of a LOOP or LOOPI (R125). -/
def loopOffset : Instr → Option (BitVec 16)
  | .loop _ o | .loopi _ o => some o
  | _ => none

/-! ## Engine state -/

/-- A sum-product entry of a shape descriptor: a leaf at an offset, or a node (R236). -/
def shapeByte (desc : BitVec 256) (j : Nat) : Nat := desc.toNat / 2 ^ (8 * j) % 256

/-- The leaf offsets that a descriptor names, in entry order; only bytes below the entry count stand for entries. -/
def shapeLeaves (desc : BitVec 256) : List Nat :=
  ((List.range (Nat.min (shapeByte desc 31) 31)).map (shapeByte desc)).filter fun x => decide (x < 128)

/-- Leaf numbers run modulo 1024 (R231). -/
def leafNo (n : Nat) : Nat := n % 1024

/-- The leaves that a T slot reads (R247). -/
def leafReads (t : Tile) : Instr → List Nat
  | .trise h a _ => (shapeLeaves (t.shapes[h.toNat]'h.isLt)).map fun x => leafNo ((t.sreg a).toNat + x)
  | .tfall h a b => (t.sreg b).toNat :: (shapeLeaves (t.shapes[h.toNat]'h.isLt)).map fun x => leafNo ((t.sreg a).toNat + x)
  | .tst b _ | .tmvp _ b => (List.range 64).map fun i => 64 * b.toNat + i
  | _ => []

/-- The gradient offset of TCFG, in leaves (R233). -/
def tcfgGoff (k9 : BitVec 16) : Nat := 64 * (k9.extractLsb' 4 4).toNat

/-- The leaves that a T slot writes (R247). -/
def leafWrites (t : Tile) : Instr → List Nat
  | .trise _ _ b => [(t.sreg b).toNat]
  | .tfall h a _ => (shapeLeaves (t.shapes[h.toNat]'h.isLt)).map fun x => leafNo ((t.sreg a).toNat + x + tcfgGoff t.k.tcfg)
  | .tld b _ | .tmvn b _ => (List.range 64).map fun i => 64 * b.toNat + i
  | _ => []

/-- The accumulators that a slot reads or writes. -/
def accsOf : Instr → List Nat
  | .mmul a _ _ _ | .mmulz a _ _ _ => [a.toNat]
  | .mmuld p _ _ _ | .mmuldz p _ _ _ => [2 * p.toNat, 2 * p.toNat + 1]
  | .mva _ _ a _ | .mvaz _ _ a _ | .macz a => [a.toNat]
  | _ => []

/-- The macro whose weights a slot reads or fills (R219). An MSTREAM into the macro of a pending MLDW holds as an MMUL or MLDW of it does:
it writes the entry's destination (R74 case 1). DESIGN CHOICE, notes/assumptions/77.md. -/
def macroOf : Instr → Option Nat
  | .mmul a _ _ _ | .mmulz a _ _ _ => some (a.toNat / 2)
  | .mmuld p _ _ _ | .mmuldz p _ _ _ => some p.toNat
  | .mstream m _ _ | .mldw m _ => some m.toNat
  | _ => none

/-- The lines that a slot reads or writes. -/
def linesOf (i : Instr) : List Line :=
  ((slotUse 0 i).reads ++ (slotUse 0 i).writes).filterMap fun r => match r with
    | .line l => some l
    | _ => none

/-- The tile's own rank, which a crew-space address may name (R174). -/
def Tile.ownRank (t : Tile) : Nat := if t.act = .prologue then 0 else t.pt.rank

/-- The bytes of the tile's own scratchpad that a crew-space address names. -/
def ownCrewRange (t : Tile) (a : SReg) (n : Nat) : Option (Nat × Nat) :=
  if bits (t.sreg a).toNat 24 8 = t.ownRank then some (bits (t.sreg a).toNat 0 21, n) else none

/-- An address of an access to the tile's own scratchpad that a slot's own form gives, with its size; engines are not here. -/
def spadRange (t : Tile) : Instr → Option (Nat × Nat)
  | .ldl _ a o | .stl _ a o => some (((t.sreg a).toNat + o.toInt * 256).toNat, 256)
  | .ldlx _ a b | .stlx _ a b => some ((t.sreg a).toNat + (t.sreg b).toNat, 256)
  | .ldw _ a o | .stw _ a o => some (((t.sreg a).toNat + o.toInt * 4).toNat, 4)
  | .ldm _ a o | .stm _ a o => some (((t.sreg a).toNat + o.toInt * 32).toNat, 32)
  | .atom _ _ a .loc _ => some ((t.sreg a).toNat, 4)
  | .tst _ a => some ((t.sreg a).toNat, 256)
  | .tshp _ a | .mlay _ a => some ((t.sreg a).toNat, 32)
  | .cpy a => some ((t.sreg a).toNat, 64)
  | .stc _ a | .ldc _ a => ownCrewRange t a 256
  | .atom _ _ a .crew _ => ownCrewRange t a 4
  | _ => none

/-- Whether a slot reads or writes the tracked destination of a pending entry (R73-R75, R247). -/
def touches (t : Tile) (i : Instr) (e : SbEntry) : Bool :=
  match e.work with
  | .mmul acc dbl _ _ _ _ _ _ =>
    (accsOf i).any fun a => a == acc.toNat || (dbl && a == acc.toNat + 1)
  | .mldw m _ _ _ => macroOf i == some m.toNat
  | .trise _ _ dest _ => (leafReads t i ++ leafWrites t i).contains dest
  | .tfall _ _ _ _ => !(leafReads t i ++ leafWrites t i).isEmpty
  | .tld b _ => (leafReads t i ++ leafWrites t i).any fun n => n / 64 == b.toNat
  | .ldc pd _ | .ldg pd _ _ => (linesOf i).any (linesOverlap pd)
  | .stg _ as =>
    match spadRange t i with
    | some (a, n) => as.any fun x => decide (a < x + 4) && decide (x < a + n)
    | none => false

/-- Whether a slot writes a leaf that a pending TRISE or TFALL reads (R247 case 2). -/
def writesReadLeaf (t : Tile) (i : Instr) (e : SbEntry) : Bool :=
  match e.work with
  | .trise sh base _ _ => (leafWrites t i).any fun n => ((shapeLeaves sh).map fun x => leafNo (base + x)).contains n
  | .tfall sh base g _ => (leafWrites t i).any fun n => n == g || ((shapeLeaves sh).map fun x => leafNo (base + x)).contains n
  | _ => false

/-- An L-unit or T-unit slot that accesses the tile's scratchpad or crew space (R74 case 4, R173). -/
def accessesSpad : Instr → Bool
  | .ldl _ _ _ | .stl _ _ _ | .ldlx _ _ _ | .stlx _ _ _ | .ldw _ _ _ | .stw _ _ _ | .ldc _ _ | .stc _ _ | .ldg _ _ _
  | .stg _ _ _ | .atom _ _ _ _ _ | .ldm _ _ _ | .stm _ _ _ | .tld _ _ | .tst _ _ | .tshp _ _ => true
  | _ => false

/-- An L-unit or T-unit slot that writes the scratchpad (R74 case 4). -/
def writesSpad : Instr → Bool
  | .stl _ _ _ | .stlx _ _ _ | .stw _ _ _ | .stc _ _ | .stg _ _ _ | .atom _ _ _ _ _ | .stm _ _ _ | .tst _ _ => true
  | _ => false

/-- An M-unit slot that reads the scratchpad (R74 case 4). -/
def matrixReads : Instr → Bool
  | .mmul _ _ _ _ | .mmulz _ _ _ _ | .mmuld _ _ _ _ | .mmuldz _ _ _ _ | .mldw _ _ | .mlay _ _ | .mstream _ _ _ => true
  | _ => false

/-- Whether a slot takes a scoreboard entry (R73). -/
def takesEntry : Instr → Bool
  | .mmul _ _ _ _ | .mmulz _ _ _ _ | .mmuld _ _ _ _ | .mmuldz _ _ _ _ | .mldw _ _ | .trise _ _ _ | .tfall _ _ _
  | .tld _ _ | .ldc _ _ | .ldg _ _ _ | .stg _ _ _ => true
  | _ => false

/-- A TRISE or TFALL. -/
def forestOp : Instr → Bool
  | .trise _ _ _ | .tfall _ _ _ => true
  | _ => false

/-- The kinds of pending entry. -/
def SbEntry.isStg (e : SbEntry) : Bool := match e.work with | .stg _ _ => true | _ => false
/-- A pending LDG. -/
def SbEntry.isLdg (e : SbEntry) : Bool := match e.work with | .ldg _ _ _ => true | _ => false
/-- A pending LDC. -/
def SbEntry.isLdc (e : SbEntry) : Bool := match e.work with | .ldc _ _ => true | _ => false
/-- A pending TRISE or TFALL. -/
def SbEntry.isForest (e : SbEntry) : Bool :=
  match e.work with | .trise _ _ _ _ | .tfall _ _ _ _ => true | _ => false

/-- Cases 1, 2 and 4 of R74 with R173, R235 and R247: a slot that holds its bundle at D on a pending entry. Cases 1 and 2 hold
no handler bundle: there the slot double-faults (R75, R309). -/
def holdsOn (t : Tile) (i : Instr) (e : SbEntry) : Bool :=
  (touches t i e && !t.k.trapped) ||
  writesReadLeaf t i e ||
  (e.isStg && (accessesSpad i || matrixReads i || match i with
    | .spost _ _ _ _ | .cpy _ | .fence _ _ => true
    | _ => false)) ||
  (e.isLdg && (writesSpad i || match i with
    | .cpy _ | .mstream _ _ _ => true
    | _ => false)) ||
  (e.isForest && !t.k.trapped && match i with
    | .movk _ k | .kmov k _ => k == 10 || k == 11
    | _ => false)

/-! ## Slots that double-fault in a handler (R309) -/

/-- The value that a slot which double-faults by itself leaves in TCAUSE[15:8], if it does. -/
def handlerFault (t : Tile) (i : Instr) : Option Nat :=
  match i with
  | .trap _ | .bkpt _ => some 0x0B
  | .pend => some 0
  | .loop _ _ | .loopi _ _ => some 0
  | .lbrk => some (if t.loops.isEmpty then 0x09 else 0)
  | .mstream _ _ _ => some 0
  | .mwait m =>
    if t.sb.any (fun e => match e.work with
      | .mmul acc _ _ _ _ _ _ _ => acc.toNat / 2 == m.toNat
      | .mldw x _ _ _ => x == m
      | _ => false) then some 0 else none
  | _ => if takesEntry i || t.sb.any (touches t i) then some 0 else none

/-- Whether a bundle's slots hold it at D (R74, R173, R235, R247). A handler's bundle with a slot that double-faults does not wait
(R309): DEDUCED, notes/assumptions/17.md. Of the pending Trellis operations that case 3 of R247 counts, the model takes the TRISEs and
TFALLs: DESIGN CHOICE, notes/assumptions/80.md. -/
def heldAtD (t : Tile) (is : List Instr) : Bool :=
  let doubles := t.k.trapped && is.any fun i => (handlerFault t i).isSome
  let takes := (is.filter takesEntry).length
  !doubles && (
    (is.any fun i => t.sb.any (holdsOn t i)) ||
    (!t.k.trapped && decide (0 < takes) && decide (16 < t.sb.length + takes)) ||
    (!t.k.trapped && is.any forestOp && decide (4 ≤ (t.sb.filter SbEntry.isForest).length)))

/-! ## Registers that a slot uses without naming them (R50) -/

/-- The special registers that show the loop stack (R13). -/
def loopViews : List RegRef := (List.range 7).map fun n => .kreg (BitVec.ofNat 6 (19 + n))

/-- The V slots that raise no flag (R150), and VCFG. -/
def flagless : Instr → Bool
  | .vcfg _ | .vand _ _ _ | .vor _ _ _ | .vxor _ _ _ | .vshl _ _ _ | .vshr _ _ _ | .vsra _ _ _ | .vsel _ _ _ | .vshuf _ _ _
  | .vbcast _ _ => true
  | _ => false

/-- The special registers that a slot writes beside its operands: CYCLE's snapshot by a MOVK of k5 (R25), VFLAGS by the V slots that may
raise a flag (R101, R150). The views of the loop stack change at the end of a bundle (Tile.endBundle). -/
def implicitWrites (i : Instr) : List RegRef :=
  match i with
  | .movk _ k => if k = 5 then [.kreg 6] else []
  | _ => if (slotUse 0 i).unit == .v && !flagless i then [.kreg 7] else []

/-- The special registers that a slot reads beside its operands: SEGCHK compares SEGCNT and SEGSIG (R134), LIDX the loop stack. -/
def implicitReads (i : Instr) : List RegRef :=
  match i with
  | .segchk _ _ => [.kreg 14, .kreg 15]
  | .lidx _ _ => (List.range 6).map fun n => .kreg (BitVec.ofNat 6 (20 + n))
  | _ => []

/-- The registers that every bundle outside handlers writes: SEGCNT and SEGSIG (R133). -/
def bundleWrites : List RegRef := [.kreg 14, .kreg 15]

/-! ## The checks at D (R68) -/

/-- Two register names that name the same register of a class (R69). -/
def RegRef.same (x y : RegRef) : Bool :=
  match x, y with
  | .line a, .line b => linesOverlap a b
  | _, _ => x == y

/-- A mask of the slots that a test picks, bit j for slot j of the bundle, whose slots start at a number. -/
def slotMask (start : Nat) (p : List Bool) : Byte :=
  (p.zipIdx start).foldl (fun m q => if q.1 then m ||| BitVec.twoPow 8 q.2 else m) 0

/-- Whether a decoded slot at a word offset breaks an operand rule that its fields alone do not show (R68 check 3). -/
def badOperand (k : BitVec 16) (offset : Nat) (i : Instr) : Bool :=
  (match evenOperand i with
   | some r => vcfgType k == .f64 && r.getLsbD 0
   | none => false) ||
  (match loopOffset i with
   | some o => decide (o.toInt < (offset : Int) + 2)
   | none => false)

/-- Every slot of the indexed uses that some other slot's use conflicts with. -/
def pickSlots (us : List SlotUse) (f : Nat → SlotUse → Nat → SlotUse → Bool) : List Bool :=
  us.zipIdx.map fun x => us.zipIdx.any fun y => f x.2 x.1 y.2 y.1

/-- Slots of one unit. -/
def unitCount (us : List SlotUse) (u : UnitId) : Nat := (us.filter fun x => x.unit == u).length

/-- The unit limits of R71. -/
def unitLimit : UnitId → Nat
  | .none => 8 | .s => 2 | .c => 1 | .v => 2 | .l => 2 | .m => 1 | .t => 1 | .q => 1

/-- A scalar reference. -/
def RegRef.isScal : RegRef → Bool | .scal _ => true | _ => false
/-- A plane reference. -/
def RegRef.isLine : RegRef → Bool | .line _ => true | _ => false

/-- The references of a kind, over all slots. -/
def portUse (us : List SlotUse) (f : SlotUse → List RegRef) (p : RegRef → Bool) : Nat :=
  us.foldl (fun n u => n + ((f u).filter p).length) 0

/-- Checks 4 to 7 on the uses of the slots from a slot number on: cause, detail and mask of the first that fails. -/
def checkUses (start : Nat) (us : List SlotUse) : Option (Nat × Nat × Byte) :=
  let clash (xs ys : List RegRef) : Bool := xs.any fun x => ys.any (RegRef.same x)
  let c4 := pickSlots us fun i x j y => i != j && clash x.writes y.writes
  let c5 := pickSlots us fun i x j y => (decide (j < i) && clash x.reads y.writes) || (decide (i < j) && clash x.writes y.reads)
  let last := us.length - 1
  let c6 := us.zipIdx.map fun x =>
    decide (unitLimit x.1.unit < unitCount us x.1.unit) || (x.1.unit == .c && x.2 != last)
  let srOver := decide (8 < portUse us SlotUse.reads RegRef.isScal)
  let swOver := decide (4 < portUse us SlotUse.writes RegRef.isScal)
  let prOver := decide (8 < portUse us SlotUse.reads RegRef.isLine)
  let pwOver := decide (4 < portUse us SlotUse.writes RegRef.isLine)
  let c7 := us.map fun u =>
    (srOver && u.reads.any RegRef.isScal) || (swOver && u.writes.any RegRef.isScal) ||
    (prOver && u.reads.any RegRef.isLine) || (pwOver && u.writes.any RegRef.isLine)
  if c4.any id then some (0x01, 0x02, slotMask start c4)
  else if c5.any id then some (0x01, 0x03, slotMask start c5)
  else if c6.any id then some (0x01, 0x04, slotMask start c6)
  else if c7.any id then some (0x01, 0x05, slotMask start c7)
  else none

/-- The checks of R68 on the words of a bundle from a slot on: the trap of the first that fails, or the instructions. -/
def checkBundle (k : BitVec 16) (words : List Word) (start : Nat) : Except (Nat × Nat × Byte) (List Instr) :=
  let part := words.drop start
  let dec := part.map decodeSlot
  let reserved := dec.map fun d => match d with | .error .reservedOp => true | _ => false
  let bad := (dec.zipIdx start).map fun d => match d.1 with
    | .error .badField => true
    | .ok i => badOperand k d.2 i
    | _ => false
  let is := dec.filterMap fun d => match d with | .ok i => some i | .error _ => none
  if words.length = 8 && !(words.any stopBit) then .error (0x01, 0x01, 0xFF)
  else if reserved.any id then .error (0x02, 0x01, slotMask start reserved)
  else if bad.any id then .error (0x02, 0x02, slotMask start bad)
  else match checkUses start (is.map (slotUse k)) with
    | some e => .error e
    | none => .ok is

end Sys2Proof.Machine
end

