-- ==== Sys2Proof/Machine/Pipeline.lean ====
section
/-! DEFINITION. The cycles of a tile: when a bundle passes D, comes to K and commits, when a pending entry writes back, and what accesses
that meet in the scratchpad cost (spec/16_programs_elastic_timing.md R423, R424, R432; 01_machine_state.md R35, R41;
07_isa_matrix.md R205, R209; 08_isa_trellis.md R249; 06_isa_memory_and_sync.md R431; 19_programs_matrix.md R428). -/

namespace Sys2Proof.Machine

/-! ## D, K and C -/

/-- A V slot. -/
def isV (i : Instr) : Bool := (slotUse 0 i).unit == .v

/-- The cycle after the n-th write-back of a list, 0 for n = 0. -/
def freedAt (n : Nat) (backs : List (SbEntry × Nat)) : Nat :=
  if n = 0 then 0 else ((backs.map Prod.snd).mergeSort.getD (n - 1) 0) + 1

/-- The earliest cycle in which a bundle passes D: after the last bundle's D, after the writers of what it reads, those special
registers among it that no operand names (R50), after the entries it waited on (R423), and after the write-back that freed the last entry
it needs (R74 case 3, R247). DESIGN CHOICE, notes/assumptions/9.md. -/
def earliestD (t : Tile) (is : List Instr) : Nat :=
  let reads := is.flatMap fun i => (slotUse t.k.vcfg i).reads ++ implicitReads i
  let d := Nat.max (t.pipe.lastD + 1) t.pipe.nextD
  let d := t.pipe.writes.foldl (fun m w => if reads.any (RegRef.same w.1) then Nat.max m (w.2 + 1) else m) d
  let d := t.pipe.backs.foldl (fun m w => if is.any fun i => holdsOn t i w.1 then Nat.max m (w.2 + 1) else m) d
  let forest := t.pipe.backs.filter fun w => w.1.isForest
  let takes := (is.filter takesEntry).length
  let d := if takes = 0 then d else Nat.max d (freedAt (t.sb.length + t.pipe.backs.length + takes - 16) t.pipe.backs)
  if is.any forestOp then
    Nat.max d (freedAt ((t.sb.filter SbEntry.isForest).length + forest.length + 1 - 4) forest)
  else d

/-- The execute depth of a bundle: that of its deepest slot, where half-width issue makes each V slot one cycle deeper (R53, R72, R77,
R167). -/
def bundleDepth (k : BitVec 16) (hw : Bool) (is : List Instr) : Nat :=
  is.foldl (fun m i => Nat.max m ((slotUse k i).depth + if hw && isV i then 1 else 0)) 1

/-- The words of the bundle that a tile issues next. -/
def Tile.nextWords (t : Tile) : List Word := bundleWords t.istore 8 t.pc

/-- Whether a cycle lies in half-width issue (R416), in the present window or in one before it. -/
def Tile.halfWidthAt (t : Tile) (d : Nat) : Bool :=
  ((t.hwFrom, t.hwEnd) :: t.pipe.hwOld).any fun w => decide (w.1 ≤ d) && decide (d ≤ w.2)

/-- Where a bundle passes D that could do so in a cycle: in half-width issue a V slot follows the last one by two cycles (R416). -/
def Tile.spacedD (t : Tile) (hasV : Bool) (d : Nat) : Nat := if hasV && t.halfWidthAt d then Nat.max d (t.pipe.lastV + 2) else d

/-- The core cycle in which a bundle commits: as its D, the commit before it and its replays give, and after the cycle in which its
hold at K released, if that is later (R328, R331, R423). -/
def commitCycle (t : Tile) (b : Inflight) : Nat :=
  Nat.max (Nat.max (b.dCycle + b.depth + 2) (t.pipe.lastC + 1) + b.extra) (b.heldTo + 1)

/-- The cycle in which a bundle has come to K, or in which it was last found waiting there. -/
def holdStart (t : Tile) (b : Inflight) : Nat := Nat.max (Nat.max (b.dCycle + b.depth + 1) t.pipe.lastC + b.extra) b.heldTo

/-- CYCLE set to a cycle count. -/
def Tile.atCycle (t : Tile) (c : Nat) : Tile := { t with k := { t.k with cycle := BitVec.ofNat 64 c } }

/-- A tile that has woken and swept its plane: 64 cycles (R20). -/
def Tile.swept (t : Tile) : Tile := t.atCycle (t.k.cycle.toNat + 64)

/-- The detail of trap 0x0F for the first bad cell that a sweep of the plane meets (R20). -/
def Tile.badPlane (t : Tile) : Option Nat := ((List.range 4096).find? t.planeBad.contains).map fun c => c / 64 + 256 * (c % 64)

/-- Where the bundle that a tile issues next passes D if nothing but the rules holds it; none while the scoreboard does. -/
def Tile.nextPass (t : Tile) : Option Nat :=
  match checkBundle t.k.vcfg t.nextWords t.resume with
  | .ok is => if heldAtD t is then none else some (t.spacedD (is.any isV) (earliestD t is))
  | .error _ => some (Nat.max (t.pipe.lastD + 1) t.pipe.nextD)

/-- Whether the bundle that a tile issues next is held at D by the scoreboard. -/
def Tile.waitsAtD (t : Tile) : Bool := t.inflight.isNone && t.nextPass.isNone

/-- A tile that is being cut stops where the scoreboard holds it at D, also when the entry writes back before it has (R300 item 3). -/
def Tile.cutAtD (t : Tile) : Bool := t.cutHere || (t.cutReq.isSome && t.waitsAtD)

/-- The last cycle that a tile's next bundle leaves to what happens beside it: K of the bundle in flight, or the cycle before D of the one
to come. None where the rules set no bound: the tile waits, or its next D is not fixed. -/
def Tile.horizon (t : Tile) : Option Nat :=
  match t.inflight with
  | some b => if b.hold.isSome || b.atomSent then none else some (commitCycle t b - 1)
  | none => if (t.act == .point || t.act == .prologue) && !t.asleep && !t.pipe.loose then t.nextPass.map (· - 1) else none

/-- The cycle that a tile has come to: its last commit, its last write-back, and the K at which its bundle is held or the D before which the
scoreboard holds it. -/
def Tile.stands (t : Tile) : Nat :=
  let c := t.pipe.backs.foldl (fun m w => Nat.max m w.2) t.pipe.lastC
  match t.inflight with
  | some b => Nat.max c (Nat.max (holdStart t b) b.freeAt)
  | none => Nat.max c (t.pipe.lastD + 1)

/-! ## The work of a macro (R203) -/

/-- The macro that a scoreboard entry works on. -/
def SbEntry.macro? (e : SbEntry) : Option Nat :=
  match e.work with
  | .mmul acc _ _ _ _ _ _ _ => some (acc.toNat / 2)
  | .mldw m _ _ _ => some m.toNat
  | _ => none

/-- Whether a queued command is a stream into a macro. -/
def CopyCmd.fills (c : CopyCmd) (m : Nat) : Bool :=
  match c.stream with
  | some (mac, _) => mac.toNat == m
  | none => false

/-- Whether a macro has work that was issued before a place in the issue order. -/
def Tile.macroBusy (t : Tile) (m seqNo : Nat) : Bool :=
  (t.sb.any fun e => e.macro? == some m && decide (e.seqNo < seqNo)) ||
  (t.copyq.any fun c => c.fills m && decide (c.id < seqNo))

/-- The tag that a macro's latest fill, done or pending, leaves (R203). -/
def Tile.tagAhead (t : Tile) (m : BitVec 3) : MacroTag :=
  let fills := (t.sb.filterMap fun e => match e.work with
      | .mldw x f _ _ => if x = m then some (e.seqNo, f) else none
      | _ => none) ++
    (t.copyq.filterMap fun c => if c.fills m.toNat then some (c.id, BitVec.ofNat 4 (field c.desc 0x30 1)) else none)
  let mac := t.macros[m.toNat]'m.isLt
  match fills.foldl (fun (b : Option (Nat × BitVec 4)) p => match b with
      | some q => if q.1 < p.1 then some p else some q
      | none => some p) none with
  | some p => if mac.fails.any (p.1 < ·) then .invalid else .fmt p.2
  | none => if mac.fails.isSome then .invalid else mac.tag

/-- The cycle in which a macro finished its latest work. -/
def Tile.macroEnd (t : Tile) (m : Nat) : Nat := t.pipe.macEnd.toList.getD m 0

/-! ## The cycles of lanes and fetches -/

/-- The cycles beyond the first of turns that follow one another from a cycle on, each with so many. -/
def extraCycles : Nat → List Nat → List Nat
  | _, [] => []
  | c, x :: xs => (List.range x).map (c + 1 + ·) ++ extraCycles (c + 1 + x) xs

/-- The accesses of the four groups of 16 lanes (R431). -/
def laneGroups (k : KRegs) (as : List Nat) : List (List (Nat × Nat)) :=
  (List.range 4).map fun g => ((as.drop (16 * g)).take 16).map k.bankRow

/-- The extra cycles of the four groups of 16 lanes (R431). -/
def groupConflicts (k : KRegs) (as : List Nat) : Nat := ((laneGroups k as).map conflictCycles).sum

/-- The accesses of each fetch of an A row: at most 16 chunks (R209). -/
def rowFetches (k : KRegs) (l : LayoutRec) (base c i : Nat) : List (List (Nat × Nat)) :=
  (List.range ((c + 15) / 16)).map fun f =>
    (List.range (Nat.min 16 c)).map fun j => k.bankRow (chunkAddr l base (i * c + 16 * f + j)).toNat

/-- Extra cycles of the fetches of an A operand (R209). -/
def fetchConflicts (k : KRegs) (l : LayoutRec) (base rows c : Nat) : Nat :=
  ((List.range rows).map fun i => ((rowFetches k l base c i).map conflictCycles).sum).sum

/-- The cycles that each A row's fetches take (R209). -/
def fetchCycles (k : KRegs) (l : LayoutRec) (base rows c : Nat) : List Nat :=
  (List.range rows).map fun i => ((rowFetches k l base c i).map fun f => 1 + conflictCycles f).sum

/-- The cycle in which the array ends its last row (R209): fetches of row i begin when those of row i - 1 have ended and the steps of row
i - 2 have begun; the steps of row i begin in their nominal cycle, or after its last fetch if that is later. `fe` is the cycle in which
the last fetch ended, `nom` the nominal cycle of the next row, `s1` and `s2` the cycles in which the last two rows began. -/
def arrayEnd (steps : Nat) : List Nat → Nat → Nat → Nat → Nat → Nat
  | [], _, nom, _, _ => nom
  | d :: ds, fe, nom, s1, s2 =>
    let fe' := Nat.max (fe + 1) s2 + d - 1
    let st := Nat.max nom (fe' + 1)
    arrayEnd steps ds fe' (st + steps) st s1

/-- The cycles in which the fetches of each row begin, as `arrayEnd` has them. -/
def fetchStarts (steps : Nat) : List Nat → Nat → Nat → Nat → Nat → List Nat
  | [], _, _, _, _ => []
  | d :: ds, fe, nom, s1, s2 =>
    let at' := Nat.max (fe + 1) s2
    let st := Nat.max nom (at' + d)
    at' :: fetchStarts steps ds (at' + d - 1) (st + steps) st s1

/-- The cycles that an entry lost to accesses of others in the fetches of a row. DESIGN CHOICE, notes/assumptions/76.md. -/
def SbEntry.rowLate (e : SbEntry) (rows i : Nat) : Nat :=
  (e.late.zipIdx.map fun x => if Config.lateRow e.seqNo x.2 % rows = i then x.1 else 0).sum

/-- A matrix multiply's fetches: the array steps of a row, and for each row its fetches' conflicts and the cycles they take in all. -/
def SbEntry.rowTurns (e : SbEntry) (k : KRegs) : Nat × List (List Nat × Nat) :=
  match e.work with
  | .mmul _ _ _ rows fmt l base _ =>
    (stepsPerRow fmt.toNat, (List.range rows).map fun i =>
      let xs := (rowFetches k l base.toNat (chunksPerRow fmt.toNat) i).map conflictCycles
      (xs, xs.length + xs.sum + e.rowLate rows i))
  | _ => (0, [])

/-- The nominal cycle of a macro's first array steps for an entry: its earlier work done in its last known cycle, or, while some is pending,
no earlier than a given cycle (R428). -/
def Tile.firstSteps (t : Tile) (e : SbEntry) (c : Nat) : Nat :=
  let m := (e.macro?).getD 0
  Nat.max (Nat.max e.cycle (t.macroEnd m)) (if t.macroBusy m e.seqNo then c else 0) + 12

/-- The cycles in which an entry's own accesses take longer for conflicts among themselves, as far as they are known by a cycle: those of an
LDG or STG count in BCONF, those of an array's fetches in ACONF (R41, R209, R431). -/
def Tile.slowCycles (t : Tile) (e : SbEntry) (c : Nat) : List Nat :=
  match e.work with
  | .ldg _ as _ | .stg _ as => extraCycles (e.cycle + 1) ((laneGroups t.k as).map conflictCycles)
  | .mmul _ _ _ _ _ _ _ _ =>
    let (steps, rows) := e.rowTurns t.k
    ((fetchStarts steps (rows.map Prod.snd) e.cycle (t.firstSteps e c) 0 0).zip rows).flatMap fun x => extraCycles x.1 x.2.1
  | _ => []

/-- The most rows of one bank that accesses of one cycle ask for. -/
def rowDepth (accs : List (Nat × Nat)) : Nat := if accs.isEmpty then 0 else conflictCycles accs + 1

/-- The most rows of one bank that an entry may ask for in one cycle from a cycle on; 0 where it accesses the scratchpad no more. -/
def Tile.entryDepth (t : Tile) (c : Nat) (e : SbEntry) : Nat :=
  if c ≤ e.cycle then 0
  else match e.work with
  | .ldg _ as _ | .stg _ as => ((laneGroups t.k as).map rowDepth).foldl Nat.max 0
  | .mmul _ _ _ _ _ _ _ _ =>
    let (steps, rows) := e.rowTurns t.k
    let last := ((fetchStarts steps (rows.map Prod.snd) e.cycle (t.firstSteps e c) 0 0).zip rows).getLastD (0, [], 0)
    if c < last.1 + last.2.2 then ((rows.flatMap Prod.fst).foldl Nat.max 0) + 1 else 0
  | .mldw m _ _ _ => if t.macroBusy m.toNat e.seqNo then 0 else 1
  | _ => 0

/-! ## Write-backs -/

/-- Whether an entry must write back before another: both were released by an RTE or a resume and it was issued first (R75); or it is a
gather or scatter issued first, and the other gathers, scatters or reads the scratchpad for the matrix array (R172, R217). -/
def SbEntry.before (x e : SbEntry) : Bool :=
  decide (x.seqNo < e.seqNo) &&
  ((x.settling && e.settling) || ((x.isLdg || x.isStg) && (e.isLdg || e.isStg)) || (x.isStg && e.isMatrix))

/-- The most reads or writes that a list of leaves makes in one bank (R249). -/
def bankLoad (ls : List Nat) : Nat :=
  (List.range 16).foldl (fun m b => Nat.max m (ls.filter fun n => n % 16 == b).length) 0

/-- The leaves of a descriptor from a base, in entry order. -/
def descLeaves (d : BitVec 256) (base : Nat) : List Nat := (shapeLeaves d).map fun x => leafNo (base + x)

/-- Read cycles (R249). -/
def readCycles (ls : List Nat) : Nat := Nat.max 1 ((bankLoad ls + 1) / 2)

/-- The cycle in which an entry's work is done, as the rules give it: R431 for lanes, R209 and R428 for the array, R205 for an MLDW,
R249 for the forest. None where they give none: an LDC, whose target answers in its own time, work that an RTE or a resume released,
work behind other work of its macro, and in a handler. -/
def Tile.due (t : Tile) (e : SbEntry) : Option Nat :=
  if e.settling || t.k.trapped then none
  else match e.work with
  | .mmul acc _ _ _ _ _ _ _ =>
    if t.macroBusy (acc.toNat / 2) e.seqNo then none
    else
      let (steps, rows) := e.rowTurns t.k
      some (arrayEnd steps (rows.map Prod.snd) e.cycle (t.firstSteps e 0) 0 0)
  | .mldw m f _ _ =>
    if t.macroBusy m.toNat e.seqNo then none
    else some (Nat.max e.cycle (t.macroEnd m.toNat) + 8 + imageData f.toNat / 128 + e.late.sum)
  | .trise d base _ _ => some (e.cycle + 6 + readCycles (descLeaves d base) + e.late.sum)
  | .tfall d base g k9 =>
    some (e.cycle + 10 + readCycles (g :: descLeaves d base) + bankLoad (descLeaves d (base + tcfgGoff k9)) + e.late.sum)
  | .tld _ _ => some (e.cycle + 8 + e.late.sum)
  | .ldg _ as _ | .stg _ as => some (e.cycle + 4 + groupConflicts t.k as + e.late.sum)
  | .ldc _ _ => none

/-- The leaves that a pending forest operation reads, in the order of R242 to R244: descriptor, gradient, targets. -/
def SbEntry.leavesRead (e : SbEntry) : List Nat :=
  match e.work with
  | .trise d base _ _ => descLeaves d base
  | .tfall d base g k9 => descLeaves d base ++ [g] ++ descLeaves d (base + tcfgGoff k9)
  | _ => []

/-- The first leaf with bad parity that a pending operation meets (R246). Of several the first in this order is named. DESIGN CHOICE,
notes/assumptions/24.md. -/
def Tile.badLeafOf (t : Tile) (e : SbEntry) : Option Nat := e.leavesRead.find? t.leafBad.contains

/-- Whether an entry may write back as far as cycles go: by the last cycle that the next bundle leaves to it. A bad leaf may be met at any
time before (R246). -/
def Tile.dueNow (t : Tile) (e : SbEntry) : Bool :=
  match t.due e, t.horizon with
  | some d, some h => decide (d ≤ h) || (t.badLeafOf e).isSome
  | _, _ => true

/-- Whether an entry is to write back before a cycle, and no other has to go first. -/
def Tile.owes (t : Tile) (c : Nat) (e : SbEntry) : Bool :=
  (match t.due e with
   | some d => decide (d < c)
   | none => false) && !(t.sb.any fun x => x.before e)

/-- The cycle of an event whose cycle no rule fixes, within what the next bundle leaves, and no later than the write-back of an entry
that is still pending. -/
def Tile.freeCycle (t : Tile) (wait : Nat) : Nat :=
  let c := match t.horizon with
    | none => t.stands + wait
    | some h => Nat.min h (t.stands + wait)
  (t.sb.filterMap t.due).foldl Nat.min c

/-- The cycle in which an entry writes back: that of its work, or one that is not fixed. -/
def Tile.backCycle (t : Tile) (i : TileId) (e : SbEntry) : Nat :=
  match t.due e with
  | some d => d
  | none => Nat.max e.cycle (t.freeCycle (Config.tileWait i t.meets))

/-- A tile whose clock stops in a cycle that no rule fixes: CYCLE has counted the cycles in which it stood still (R25). DESIGN CHOICE,
notes/assumptions/9.md. -/
def Tile.atStop (t : Tile) (i : TileId) : Tile :=
  { t.atCycle (Nat.max t.k.cycle.toNat (t.freeCycle (Config.tileWait i t.meets))) with meets := t.meets + 1 }

/-- Whether a post reaches its tile only in a later cycle than the tile has come to (R429): a stream's post while its tile's clock runs. -/
def Post.early (p : Post) (t : Tile) : Bool :=
  match p.due, t.horizon with
  | some a, some h => !t.asleep && decide (h < a)
  | _, _ => false

/-- What must happen at a tile before a cycle: write-backs that are due, and posts of its streams. -/
def State.owed (s : State) (i : TileId) (c : Nat) : Bool :=
  (s.tile i).sb.any ((s.tile i).owes c) || s.posts.any fun p => p.dst == i && p.due.any (· < c)

/-! ## Accesses that meet (R35) -/

/-- The accesses of 16 bytes that an access makes, as banks and rows: one for each 16-byte chunk that it touches, so that a mask, which R170
calls one access, counts in both chunks that hold it (R35, R170). DESIGN CHOICE, notes/assumptions/76.md. -/
def accessesOf (k : KRegs) (a size : Nat) : List (Nat × Nat) :=
  (List.range ((a % 16 + size + 15) / 16)).map fun j => k.bankRow (a / 16 * 16 + 16 * j)

/-- The address and the size of a crew-space access. -/
def CrewOp.range : CrewOp → Nat × Nat
  | .store a _ => (a, 256)
  | .load a _ => (a, 256)
  | .atom a _ _ _ => (a, 4)

/-- The rows of one bank that the crew-space accesses on their way to a tile may ask for in one cycle. -/
def State.crewDepth (s : State) (i : TileId) : Nat :=
  ((s.crew.filter fun a => a.dst == i).map fun a => rowDepth (accessesOf (s.tile i).k a.op.range.1 a.op.range.2)).sum

/-- The most rows of one bank that the other agents of a tile's scratchpad may ask for in one cycle, from a cycle on: started copies, and
pending work. -/
def Tile.rivals (t : Tile) (c : Nat) : List Nat :=
  let copies := (t.copyq.filter fun q => q.stage == .started && q.stream.isNone).length
  (Nat.min 2 copies :: t.sb.map (t.entryDepth c)).filter (· != 0)

/-- The most rows of one bank that others may ask for in a cycle in which the tile's own slots access its scratchpad. -/
def State.others (s : State) (i : TileId) (c : Nat) : Nat := ((s.tile i).rivals c).sum + s.crewDepth i

/-- The most rows of one bank that the tile's own slots may ask for while an access of another agent is performed: those of its last bundle,
and those of the one in flight; none while the tile waits. -/
def Tile.slotDepth (t : Tile) : Nat :=
  if t.horizon.isNone then 0
  else Nat.max (rowDepth t.pipe.lastAccs) (match t.inflight with
    | some b => rowDepth b.accs + 2 * ((b.words.drop b.next).filter fun w => match decodeSlot w with
      | .ok i => accessesSpad i || matrixReads i
      | .error _ => false).length
    | none => 0)

/-- The extra cycles of accesses that cost some by themselves and meet others: conflicts of one cycle count once, and which accesses share
a cycle is not fixed. DESIGN CHOICE, notes/assumptions/76.md. -/
def Tile.clash (t : Tile) (i : TileId) (own others : Nat) : Nat :=
  if others = 0 then own else Config.clashes i t.meets 0 % (own + others + 1)

/-- A pending access delayed by one that met it: at most by the cycles of their clash. -/
def SbEntry.delayed (t : Tile) (i : TileId) (c n : Nat) (e : SbEntry) : SbEntry :=
  if n = 0 || t.entryDepth c e = 0 then e
  else { e with late := e.late ++ [Config.clashes i t.meets (1 + e.num.toNat) % (n + 1)] }

/-- Accesses to a tile's scratchpad in a cycle that meet those of others: BCONF counts the extra cycles, and pending accesses may lose some
of them. -/
def Tile.meet (t : Tile) (i : TileId) (c own others : Nat) : Tile :=
  if others = 0 then t.addBconf own
  else { t.addBconf (t.clash i own others) with
    meets := t.meets + 1, sb := t.sb.map (SbEntry.delayed t i c (t.clash i own others)) }

/-- Cycles that BCONF counted in a cycle, kept for the bundles that have passed D before it (R139). -/
def Tile.counted (t : Tile) (c n : Nat) : Tile := { t with pipe := { t.pipe with bcounts := t.pipe.bcounts ++ [(c, n)] } }

/-- A slot's accesses count among those of its bundle: in BCONF the extra cycles that they add to those of the slots before them. -/
def State.share (s : State) (i : TileId) (b : Inflight) (y : Tile) (accs : List (Nat × Nat)) : Tile :=
  let c := commitCycle (s.tile i) b
  let own := conflictCycles (b.accs ++ accs) - conflictCycles b.accs
  if accs.isEmpty then y else (y.meet i c own (s.others i c)).counted c (y.clash i own (s.others i c))

/-- The bundle with a slot's accesses, and the cycles that they take beyond one. -/
def State.shared (s : State) (i : TileId) (b : Inflight) (y : Tile) (accs : List (Nat × Nat)) : Inflight :=
  let own := conflictCycles (b.accs ++ accs) - conflictCycles b.accs
  if accs.isEmpty then b
  else { b with accs := b.accs ++ accs, lost := b.lost + Nat.max own (y.clash i own (s.others i (commitCycle (s.tile i) b))) }

/-- A tile's slots lose cycles to accesses that met theirs: the commits to come move. -/
def Tile.lose (t : Tile) (n : Nat) : Tile :=
  match t.inflight with
  | some b => { t with inflight := some { b with lost := b.lost + n } }
  | none => { t with pipe := { t.pipe with lastC := t.pipe.lastC + n } }

/-- A crew-space access of its own cost performed in a tile's scratchpad, beside the tile's own slots and those of other agents. -/
def Tile.meetCrew (t : Tile) (i : TileId) (own crew : Nat) : Tile :=
  let others := (t.rivals t.stands).sum + t.slotDepth + crew
  let y := t.meet i t.stands own others
  if t.slotDepth = 0 then y else y.lose (Config.clashes i t.meets 100 % (t.clash i own others + 1))

/-- A value that BCONF or ACONF had in a cycle: without what was counted from that cycle on (R139). -/
def sampled (v : Word) (counts : List (Nat × Nat)) (d : Nat) : Word :=
  if v = BitVec.allOnes 32 then v
  else v - BitVec.ofNat 32 (counts.map fun x => if d ≤ x.1 then x.2 else 0).sum

/-- The special registers as a bundle that passes D in a cycle finds them (R139). -/
def Tile.snapAt (t : Tile) (d : Nat) : KRegs :=
  { t.k with hw := t.halfWidthAt d, cycle := BitVec.ofNat 64 d, bconf := sampled t.k.bconf t.pipe.bcounts d,
             aconf := sampled t.k.aconf t.pipe.acounts d }

/-- An entry's conflict cycles before a cycle, less those already counted. -/
def Tile.unpaid (t : Tile) (c : Nat) (e : SbEntry) : Nat := ((t.slowCycles e c).filter fun x => decide (x < c)).length - e.paid

/-- BCONF and ACONF count the conflict cycles of pending work that have passed by a cycle (R41). -/
def Tile.tally (t : Tile) (c : Nat) : Tile :=
  let lanes := (t.sb.filter fun e => !e.isMatrix).map (t.unpaid c)
  let array := (t.sb.filter SbEntry.isMatrix).map (t.unpaid c)
  { (t.addBconf lanes.sum).addAconf array.sum with sb := t.sb.map fun e => { e with paid := e.paid + t.unpaid c e } }

/-- Pending accesses and copies go on beside the bundles: those that share a cycle cost more than the largest of them alone. -/
def Tile.beside (t : Tile) (i : TileId) (c : Nat) : Tile :=
  let ds := t.rivals c
  (t.tally c).meet i c 0 (ds.sum - ds.foldl Nat.max 0)

/-- The cycle in which the bundle that a tile issues next passes D: where no rule fixes it (R423), after some cycles more. -/
def Tile.passAt (t : Tile) (stall : Nat) : Nat :=
  let more := if t.pipe.loose then stall else 0
  match checkBundle t.k.vcfg t.nextWords t.resume with
  | .ok is => t.spacedD (is.any isV) (earliestD t is + more)
  | .error _ => Nat.max (t.pipe.lastD + 1) t.pipe.nextD + more

/-- The special registers as they stand in the present cycle: STATUS.HW falls with the half-width window (R416). -/
def Tile.kNow (t : Tile) : KRegs := { t.k with hw := t.halfWidthAt t.k.cycle.toNat }

end Sys2Proof.Machine
end

