-- ==== Sys2Proof/Machine/Traps.lean ====
section
/-! DEFINITION. Taking a trap (spec/11_traps_and_faults.md R306-R318), stopping a tile (R311), faulting a launch (R315),
and what these do to the Margin Record Store (R320, R325; 12_elastic_timing_and_margin.md R343-R351). -/

namespace Sys2Proof.Machine

/-! ## The Margin Record Store -/

/-- Sixty seconds of LTIME in ns (R351). -/
def sixtySeconds : Nat := 60000000000

/-- BWRITES counts each writing of a changed entry (R350). -/
def BinRec.stored (new old : BinRec) : BinRec :=
  if { new with bwrites := old.bwrites } = old then new
  else { new with bwrites := Nat.min (new.bwrites + 1) 0xFFFFFFFF }

/-- A record written at a TIME and its LTIME to copy A and then to copy B (R351 item 5). -/
def Site.written (x : Site) (time lt : Nat) : Site :=
  let bins := Vector.ofFn fun b : Fin 8 => (x.live.bins[b]).stored (x.copyA.bins[b])
  let r := { x.live with rseq := (x.live.rseq + 1) % 2 ^ 32, bins := bins }
  { x with live := r, copyA := r, copyB := r, badA := false, badB := false, lastWrite := some lt, due := false, fallAt := none,
           tear := some (time, x.copyB, x.badB) }

/-- A write made at once, whatever the last one (R351 item 4). -/
def State.writeSiteNow (s : State) (i : TileId) : State := s.setSite i ((s.site i).written s.time s.ltime)

/-- A write that falls due: made now, or deferred to 60 s after the last one (R351). -/
def State.writeSiteDue (s : State) (i : TileId) : State :=
  match (s.site i).lastWrite with
  | some t => if s.ltime < t + sixtySeconds then s.setSite i { s.site i with due := true } else s.writeSiteNow i
  | none => s.writeSiteNow i

/-- The live record changed. -/
def State.mapSite (s : State) (i : TileId) (f : SiteRec → SiteRec) : State :=
  s.setSite i { s.site i with live := f (s.site i).live }

/-! ## Power zones (15_power_and_thermal.md R411, R412) -/

/-- The zone of a site (R411). -/
def zoneOf (n : Nat) : Fin 4 := ⟨(n % 10 / 5 + 2 * (n / 10 / 4)) % 4, Nat.mod_lt _ (by decide)⟩

/-- A zone. -/
def State.zone (s : State) (d : Fin 8) (z : Fin 4) : Zone := (s.die d).zones[z]

/-- A zone changed. -/
def State.mapZone (s : State) (d : Fin 8) (z : Fin 4) (f : Zone → Zone) : State :=
  let x := s.die d
  s.setDie d { x with zones := x.zones.set z.val (f x.zones[z]) z.isLt }

/-- Whether a tile runs above nominal: a fenced, retired, spare or sleeping site counts as not (R411). -/
def State.above (s : State) (i : TileId) : Bool :=
  decide (1 < (s.tile i).vf.bin.val) && (s.site i).live.state == .enabled && !(s.tile i).asleep

/-! ## Launch records (10_launches_and_the_frontier.md R275) -/

/-- A field of a launch record. -/
def Launch.f (l : Launch) (o n : Nat) : Nat := field l.record o n
/-- HND: the launch has a trap handler. -/
def Launch.hnd (l : Launch) : Bool := bit (l.f 2 1) 1
/-- DSEM: posts to any tile of the die are allowed. -/
def Launch.dsem (l : Launch) : Bool := bit (l.f 2 1) 2
/-- SPR: sprint is allowed. -/
def Launch.spr (l : Launch) : Bool := bit (l.f 2 1) 3
/-- DIAG: FLAGINJ is writable. -/
def Launch.diag (l : Launch) : Bool := bit (l.f 2 1) 4
/-- CHAIN: the boundary mode. -/
def Launch.chain (l : Launch) : Bool := bit (l.f 2 1) 5
/-- The crew shape code. -/
def Launch.shape (l : Launch) : Nat := l.f 5 1
/-- Whether a launch names a die. -/
def Launch.names (l : Launch) (d : Fin 8) : Bool := bit (l.f 8 1) d.val
/-- The handle of the CHAIN predecessor. -/
def Launch.chainH (l : Launch) : BitVec 16 := BitVec.ofNat 16 (l.f 0x28 2)
/-- HANDLER. -/
def Launch.handler (l : Launch) : BitVec 16 := BitVec.ofNat 16 (l.f 0x40 2)
/-- PDEADLINE in ns. -/
def Launch.pdeadline (l : Launch) : Nat := l.f 0x44 4
/-- CWORD. -/
def Launch.cword (l : Launch) : Nat := l.f 0x50 8
/-- FAULTADDR. -/
def Launch.faultAddr (l : Launch) : Nat := l.f 0x58 8

/-! ## Crews (R42, R285) -/

/-- Columns and rows of a shape code. -/
def shapeDims (c : Nat) : Nat × Nat :=
  match c with
  | 0 => (1, 1) | 1 => (2, 1) | 2 => (2, 2) | 3 => (4, 2) | _ => (4, 4)

/-- The legal corners of a shape, lowest site index first. -/
def legalCorners (c : Nat) : List Nat :=
  let (w, h) := shapeDims c
  (List.range 80).filter fun n => decide (n % 10 + w ≤ 10) && decide (n / 10 + h ≤ 8)

/-- The sites of a rectangle in rank order (R42). -/
def rectSites (c corner : Nat) : List Nat :=
  let (w, h) := shapeDims c
  (List.range (w * h)).map fun r => corner + r % w + 10 * (r / w)

/-- The tiles of a rectangle on a die, in rank order. -/
def rectTiles (d : Fin 8) (c corner : Nat) : List TileId := (rectSites c corner).map fun n => ⟨d, siteOf n⟩

/-- Whether a point in flight is complete: every member's PEND has committed (R267). -/
def State.runEnds (s : State) (l : Launch) (d : Fin 8) (r : PointRun) : Bool :=
  r.started && (rectTiles d l.shape r.corner).all fun i => (s.tile i).act == .pended

/-- Whether a deadline has made the cut decision for a launch that drains (R299 item 4). -/
def Launch.cutting (l : Launch) : Bool := l.preempts.any PreemptRun.late

/-- Whether TIME has reached a deadline of a launch that drains, with a point of it still in flight, and the cut decision is due: nothing
of the launch goes on before it (R299 item 4). -/
def State.cutDue (s : State) (h : BitVec 16) : Bool :=
  match s.launch? h with
  | some l =>
    l.phase == .draining && !s.regs.viral && !l.cutting && (l.preempts.any fun p => p.deadline != 0 && decide (p.deadline ≤ s.time)) &&
    l.parts.any fun x => x.runs.any fun r => !s.runEnds l x.die r
  | none => false

/-- Whether a die has a rectangle of a shape whose sites are all enabled (R277, R320). -/
def State.hasRect (s : State) (d : Fin 8) (c : Nat) : Bool :=
  (legalCorners c).any fun k => (rectTiles d c k).all fun i => (s.site i).live.state == .enabled

/-! ## Completion words -/

/-- The bit of a completion word that says fault, and the one that says killed. -/
def faultBit : Nat := 2 ^ 63
/-- Bits 63 and 62. -/
def killBits : Nat := 2 ^ 63 + 2 ^ 62

/-- CSCOPE of a launch record, SYS where it lies outside its range (R278). -/
def cwordScope (r : List Byte) : Nat := if 2 ≤ field r 7 1 ∧ field r 7 1 ≤ 4 then field r 7 1 else 4

/-- The writes of a launch's copies that its point completions covered, performed at a scope; those to UO pages only as far as a FENCE
raised them (R267, R269, R273). -/
def State.raiseCovered (s : State) (h : BitVec 16) (scope : Nat) : State :=
  s.raise (fun e => e.by'.tile.isSome && e.by'.handle == h && e.covered && e.ord != 2) scope []

/-- A completion store at CSCOPE, in the launch's context, after what it covers (R269). No completion word is written in the viral
state (R322). -/
def State.storeWord (s : State) (h c : BitVec 16) (r : List Byte) (value : Nat) : State :=
  if s.regs.viral then s
  else (s.raiseCovered h (cwordScope r)).feWord (cwordScope r) c (field r 0x50 8) value

/-- The completion store of a launch. -/
def State.storeCword (s : State) (l : Launch) (extra : Nat) : State := s.storeWord l.handle l.ctx l.record (l.seqVal + extra)

/-! ## Copies already started -/

/-- An element performed at its destination (R197): in device memory at CSCOPE, in host memory at SYS, on a UO page at TILE (R263). -/
def State.performElem (s : State) (w : Writer) (e : ElemWrite) : State :=
  match e.dest with
  | .spad t a => s.setTile t ((s.tile t).setSpad a e.data)
  | .dev pa _ lf => (s.writeDevAs (if e.ord = 2 then { w with scope := 0 } else w) lf e.ord pa e.data).1
  | .hostMem a _ lf => s.hostStoreAs { w with scope := if e.ord = 2 then 0 else 4 } lf e.ord a e.data

/-- The elements of a copy performed in order, then its watched writes logged. -/
def State.performAll (s : State) (w : WatchSrc) (by' : Writer) (es : List ElemWrite) : State :=
  let s := es.foldl (fun s e => s.performElem by' e) s
  s.logMade w (es.filterMap fun e => match e.dest with
    | .dev pa pg _ => some ⟨pa, e.data.length, pg, true⟩
    | .hostMem a pg _ => some ⟨a, e.data.length, pg, false⟩
    | .spad _ _ => none)

/-- The watch identity of a tile's copy (R380). DESIGN CHOICE, notes/assumptions/37.md. -/
def copyWatch (i : TileId) (id : Nat) : WatchSrc := ⟨0, (tileIdWord i).toNat, id % 32⟩

/-! ## Stopping tiles -/

/-- A tile that has stopped under R311: its pending entries are discarded, the copies that have not started are dropped and post
nothing, those that have go on until they finish or fail; 10 us after the stop they fail (R300). -/
def Tile.stopped (t : Tile) (time : Nat) : Tile :=
  { t with act := .stopped, inflight := none, sb := [], copyq := t.copyq.filter fun c => c.stage != .queued, asleep := false,
           woken := false, leafTrap := none, stopReq := false, raced := [],
           cutReq := some (t.cutReq.getD (time, t.k.cycle.toNat)), cutHere := false, claim := false }

/-- A tile that is free again: nothing of its point is left. -/
def Tile.freed (t : Tile) : Tile :=
  { t with act := .idle, inflight := none, sb := [], copyq := [], asleep := false, woken := false, leafTrap := none, stopReq := false,
           raced := [], cutReq := none, cutHere := false, claim := false }

/-- A tile stops under R311; what it sent to other members of its crew and they have not yet performed is lost with its point. DEDUCED,
notes/assumptions/40.md. -/
def State.stopTile (s : State) (i : TileId) : State :=
  let t := s.tile i
  { s with crew := s.crew.filter fun a => a.src != i }.setTile i (t.stopped s.time)

/-- A tile that has stopped and whose copies have all ended. -/
def Tile.ended (t : Tile) : Bool := t.act == .stopped && t.copyq.isEmpty

/-- Whether a tile holds a part of a launch. -/
def Tile.runs (t : Tile) (h : BitVec 16) : Bool := t.act != .idle && t.pt.handle == h

/-- Whether a tile that is to stop may stop as it stands: at a bundle boundary, or with a bundle that is held at K or whose CREW ATOM
is out, which is abandoned (R181, R302, R315). A sleeping tile wakes and sweeps first (R21). -/
def Tile.mayStop (t : Tile) : Bool :=
  !t.asleep && match t.inflight with
    | none => true
    | some b => b.hold.isSome || b.atomSent

/-! ## Trap records (R313, R314) -/

/-- The pending-entry mask (R75). -/
def Tile.pendingMask (t : Tile) : BitVec 16 := t.sb.foldl (fun m e => m ||| BitVec.twoPow 16 e.num.toNat) 0

/-- Six loop entries of 16 bytes, outermost first. -/
def loopBytes (loops : List LoopEntry) : List Byte :=
  let es := loops.reverse.flatMap fun e =>
    bytesOfNat 4 e.count.toNat ++ bytesOfNat 4 e.index.toNat ++ bytesOfNat 4 e.start.toNat ++ bytesOfNat 4 e.stop.toNat
  (es ++ List.replicate 96 0).take 96

/-- A trap record: its kind, class and the second trap of a KIND 2 record. -/
def trapRecord (t : Tile) (i : TileId) (kind cls time dfpc dfcause : Nat) : List Byte :=
  let z (n v : Nat) : List Byte := bytesOfNat n (if kind = 3 then 0 else v)
  let slots := if kind = 3 then List.replicate 8 0 else (bundleWords t.istore 8 t.k.tpc ++ List.replicate 8 0).take 8
  bytesOfNat 2 t.pt.handle.toNat ++ bytesOfNat 1 kind ++ bytesOfNat 1 cls ++ bytesOfNat 2 (tileIdWord i).toNat ++
  bytesOfNat 1 t.pt.rank ++ bytesOfNat 1 t.pt.shape ++ bytesOfNat 8 t.pt.serial ++
  (t.pt.coord.toList.flatMap fun w => bytesOfNat 4 w.toNat) ++ bytesOfNat 4 0 ++ bytesOfNat 8 time ++
  z 4 t.k.tpc.toNat ++ z 4 t.k.tcause.toNat ++ z 4 t.k.tmask.toNat ++ z 4 t.kNow.status.toNat ++ z 4 t.pendingMask.toNat ++
  z 4 t.loops.length ++ z 4 dfpc ++ z 4 dfcause ++ z 4 t.k.replays.toNat ++ z 4 t.k.segcnt.toNat ++ z 4 t.k.segsig.toNat ++
  bytesOfNat 4 0 ++ z 8 t.k.cycle.toNat ++ bytesOfWords slots ++ loopBytes t.loops ++ List.replicate 32 0

/-- The header of a launch's fault area. -/
def faultHeader (l : Launch) : List Byte :=
  bytesOfNat 2 l.handle.toNat ++ [2] ++ bytesOfNat 1 l.nrec ++ bytesOfNat 4 l.lost ++ bytesOfNat 8 l.seqVal ++
  bytesOfNat 8 l.tfirst ++ bytesOfNat 1 l.worst ++ List.replicate 231 0

/-- A record captured: into the error log at once, and for the launch's fault area, to which the front-end writes it when the tiles of the
launch have stopped and their started copies have ended (R314, R315, R405). -/
def State.captureRecord (s : State) (h : BitVec 16) (d : Fin 8) (cls : Nat) (rec : List Byte) : State :=
  let s := s.logError cls 0 d.val rec
  match s.launch? h with
  | none => s
  | some l =>
    let full := decide (15 ≤ l.nrec)
    s.setLaunch { l with
      tfirst := if l.nrec = 0 then s.time else l.tfirst
      nrec := if full then l.nrec else l.nrec + 1
      lost := if full then Nat.min (l.lost + 1) 0xFFFFFFFF else l.lost
      worst := Nat.max l.worst cls
      records := if full then l.records else l.records ++ [rec] }

/-- The captured records of a launch written to its fault area in order, and then the header (R314). -/
def State.writeRecords (s : State) (l : Launch) : State :=
  if l.records.isEmpty then s
  else
    let s := l.records.zipIdx.foldl (fun s x => (s.feWrite l.ctx (l.faultAddr + 0x100 + 0x100 * x.2) x.1).1) s
    (s.feWrite l.ctx l.faultAddr (faultHeader l)).1

/-! ## Traps due at a boundary -/

/-- Causes of route H: they go to the launch's handler, if it has one (R306). -/
def routeH (cause : Nat) : Bool :=
  cause == 0x12 || cause == 0x13 || cause == 0x14 || (decide (4 ≤ cause) && decide (cause ≤ 0x0D))

/-- Causes of class Tile (R306). -/
def classTile (cause : Nat) : Bool := decide (0x0E ≤ cause) && decide (cause ≤ 0x11)

/-- TCAUSE of a cause and its detail (R306). -/
def tcauseWord (cause detail : Nat) : Word := BitVec.ofNat 32 (cause + 256 * detail)

/-- The registers that trap entry writes (R308). A bundle that had passed D keeps its number when it is entered again (R335). -/
def Tile.enterTrap (t : Tile) (cause detail : Nat) (mask : Byte) (pc : BitVec 16) (slot : Nat) : Tile :=
  { t with inflight := none, asleep := false, woken := false, cutHere := true, sameNo := t.inflight.isSome || t.sameNo,
           k := { t.k with tpc := pc, tcause := tcauseWord cause detail, tmask := mask, sr := BitVec.ofNat 3 slot } }

/-! ## The point deadline (R318) -/

/-- The launch's PDEADLINE has passed for the tile's point, and the member has not yet taken it (R318). -/
def State.deadlineDue (s : State) (t : Tile) : Bool :=
  match s.launch? t.pt.handle with
  | some l => (t.act == .point || t.act == .prologue) && l.pdeadline != 0 && !t.pt.deadlineTaken &&
      decide (t.pt.fireTime + l.pdeadline ≤ s.time)
  | none => false

/-- The deadline's trap may be taken: not in a handler, and at a boundary with no bundle partly committed, or in a hold at K of a
bundle no slot of which has committed in this run of it (R67), unless the deadline passed before an RTE entered the remainder that is
held (R318). DEDUCED, notes/assumptions/16.md. -/
def Tile.deadlineHere (t : Tile) : Bool :=
  !t.k.trapped && !t.asleep && match t.inflight with
    | none => t.resume == 0
    | some b => b.hold.isSome && b.next == b.start && (b.start == 0 || !t.dueLate)

/-! ## Members that stop in one cycle (R326) -/

/-- The trap that would stop a tile of a launch at the boundary where it stands: one of its next bundle at D, or the point deadline; none
that goes to a handler. -/
def State.dueStop (s : State) (l : Launch) (t : Tile) : Option (Nat × Nat × Byte) :=
  let toHandler (c : Nat) : Bool := routeH c && l.hnd && !t.retiring
  if t.inflight.isSome || !(t.act == .point || t.act == .prologue) || t.asleep || t.k.trapped then none
  else match checkBundle t.k.vcfg t.nextWords t.resume with
    | .error (c, e, m) => if toHandler c then none else some (c, e, m)
    | .ok _ => if s.deadlineDue t && t.deadlineHere && !toHandler 0x0D then some (0x0D, 0, 0) else none

/-- A member of a faulted launch that a trap of its own would have stopped where it stands: it may have stopped in the same cycle as the
first, and then has a record too (R326). DESIGN CHOICE, notes/assumptions/82.md. -/
def State.sameCycle (s : State) (i : TileId) : State :=
  let t := s.tile i
  match s.launch? t.pt.handle with
  | some l =>
    if l.phase == .faulted then
      match s.dueStop l t with
      | some (c, e, m) =>
        let s := { s with draws := s.draws + 1 }
        if Config.chance (s.draws - 1) then
          let t := if c = 0x0D then t.atStop i else t.atCycle (Nat.max (t.passAt 0) t.pipe.lastC)
          s.captureRecord l.handle i.die 1 (trapRecord (t.enterTrap c e m t.pc 0) i 1 1 s.time 0 0)
        else s
      | none => s
    else s
  | none => s

/-- The other tiles of a launch stop at their next bundle boundary, without a record but for a trap in the same cycle (R302, R315 step
2): at once where they stand at one, or with a bundle held at K; after the bundle that has passed D; after the wake sweep where they
sleep (R21). -/
def State.stopLaunchTiles (s : State) (h : BitVec 16) : State :=
  allTiles.foldl (fun s i =>
    let t := s.tile i
    if t.runs h && t.act != .stopped then
      if t.mayStop then (s.sameCycle i).stopTile i else s.setTile i { t with stopReq := true }
    else s) s

/-! ## Faulting a launch -/

/-- The slot before a launch's in resident-slot order, which service stands at when the launch last served leaves (R296). -/
def slotBefore (h : BitVec 16) : List (BitVec 16) → Option (BitVec 16)
  | a :: b :: rest => if b = h then some a else slotBefore h (b :: rest)
  | _ => none

/-- A launch leaves its dies: its slots and any reservation for it are free. -/
def State.leaveDies (s : State) (h : BitVec 16) : State :=
  (List.finRange 8).foldl (fun s d =>
    let x := s.die d
    s.setDie d { x with slots := x.slots.filter (· != h), served := if x.served = some h then slotBefore h x.slots else x.served,
                        reserve := x.reserve.filter fun r => r.1 != h }) s

/-- The status byte of a save area (R298). -/
def State.saveStatus (s : State) (c : BitVec 16) (save code : Nat) : State := (s.feWrite c (save + 0x100) (bytesOfNat 1 code)).1

/-- A command of a queue has completed: NOTIFY, then INTR (R295). -/
def State.notify (s : State) (q : Fin 16) (cmd : List Byte) : State :=
  let ctx := (s.queue q).ctx
  let s := if bit (field cmd 1 1) 0 then (s.feStore (field cmd 2 1) ctx (field cmd 0x20 8) (bytesOfNat 8 (field cmd 0x28 8))).1 else s
  if bit (field cmd 1 1) 1 then s.raiseVector q.val else s

/-- A running command, named by its index, completes. -/
def State.completeRunning (s : State) (q : Fin 16) (index : Nat) : State :=
  let x := s.queue q
  match x.running.find? fun p => p.1 == index with
  | none => s
  | some p => (s.setQueue q { x with running := x.running.filter fun p => p.1 != index }).notify q p.2

/-- The PREEMPTs that drain a launch end with a STATUS and nothing more: NOTFOUND where the launch is gone (R317). -/
def State.endPreempts (s : State) (l : Launch) (code : Nat) : State :=
  l.preempts.foldl (fun s p => (s.saveStatus (s.queue p.queue).ctx p.save code).completeRunning p.queue p.index) s

/-- A site marked as one whose verification is to come, or not (R343). -/
def State.setVerify (s : State) (i : TileId) (on : Bool) : State := s.setSite i { s.site i with verify := on }

/-- The sites of a fenced die marked in the Margin Record Store, with an FCAUSE that the spec does not give (R321 step 6, R349). -/
def State.fenceSites (s : State) (d : Fin 8) : State :=
  (tilesOf d).foldl (fun s i =>
    let x := (s.site i).live
    if x.state = .enabled ∨ x.state = .spare then
      let s := s.mapSite i fun r => { r.setState .fenced with fcause := Config.hangCause s.draws }
      ((s.setVerify i false).writeSiteNow i).setFstat 3
    else s.setVerify i false) { s with draws := s.draws + 1 }

/-- The die fences whose launches are all done with: each is told, and then recorded (R321 steps 5 and 6). -/
def State.settleFences (s : State) : State :=
  (List.finRange 8).foldl (fun s d =>
    if (s.die d).fencing && !(s.launches.any fun l => l.names d) then
      ((s.setDie d { s.die d with fencing := false }).setFstat 1).fenceSites d
    else s) s

/-- What follows the completion word of a launch that faulted or was killed: FSTAT with its interrupt, and the end of the KILLs that wait
for it (R295, R324). -/
def State.tellEnd (s : State) (l : Launch) : State :=
  let s := if l.phase = .faulted then s.setFstat 2 else s
  let s := if l.tfence then s.setFstat 3 else s
  l.kills.foldl (fun s k => s.completeRunning k.1 k.2) s

/-- A launch that has faulted or been killed is done with once every tile of it has stopped and every copy that these had started has
finished or failed: its records and header are written, its completion word is stored with bit 63, with bit 62 too for a KILL, and its
tiles are free (R302, R311, R315). Nothing of it is written after the package has become viral (R322). -/
def State.reap (s : State) (h : BitVec 16) : State :=
  match s.launch? h with
  | some l =>
    if l.gone && !s.regs.viral && allTiles.all fun i => !(s.tile i).runs h || (s.tile i).ended then
      let s := (s.writeRecords l).storeCword l (if l.phase = .killed then killBits else faultBit)
      let s := allTiles.foldl (fun s i => if (s.tile i).runs h then s.setTile i (s.tile i).freed else s) s
      ((s.dropLaunch h).tellEnd l).settleFences
    else s
  | none => s

/-- A stopped tile whose last copy has ended: its launch may be done with; a tile of no such launch is free. -/
def State.settleStopped (s : State) (i : TileId) : State :=
  let t := s.tile i
  if t.ended then
    match s.launch? t.pt.handle with
    | some l => if l.gone then s.reap l.handle else s.setTile i t.freed
    | none => s.setTile i t.freed
  else s

/-- One launch faulted: its tiles stop and it leaves its dies (R315). It is kept, as faulted, until its completion word is stored. -/
def State.faultOne (s : State) (l : Launch) : State :=
  let s := s.setLaunch { l with phase := .faulted }
  let s := s.stopLaunchTiles l.handle
  let s := s.endPreempts l 3
  (s.leaveDies l.handle).reap l.handle

/-- The launches that name a handle as their CHAIN predecessor (R287). -/
def State.dependants (s : State) (h : BitVec 16) : List Launch :=
  s.launches.filter fun l => l.isResident && l.chained && l.chainH == h

/-- A launch faulted and then its dependants, down the chain (R287, R315). -/
def State.faultChain (s : State) : Nat → BitVec 16 → State
  | 0, _ => s
  | fuel + 1, h =>
    match s.launch? h with
    | none => s
    | some l =>
      if l.isResident then
        let deps := s.dependants h
        deps.foldl (fun s d => State.faultChain s fuel d.handle) (s.faultOne l)
      else s

/-- A launch becomes FAULTED (R315). DEDUCED, notes/assumptions/40.md. -/
def State.faultLaunch (s : State) (h : BitVec 16) : State := s.faultChain (s.launches.length + 1) h

/-- The dependants of a launch that was killed or removed fault (R287). -/
def State.faultDependants (s : State) (h : BitVec 16) : State :=
  (s.dependants h).foldl (fun s d => s.faultLaunch d.handle) s

/-- Resident launches that no longer find a rectangle of enabled sites on a die they name fault with no record (R320, R345). -/
def State.faultShapeless (s : State) (d : Fin 8) : State :=
  (s.launches.filter fun l => l.isResident && l.names d).foldl (fun s l =>
    if s.hasRect d l.shape then s else s.faultLaunch l.handle) s

/-! ## Fences and retirement -/

/-- A tile that runs above nominal marks its zone: the interval is charged, and refills count from now (R412). -/
def State.noteAbove (s : State) (i : TileId) : State :=
  if s.above i then s.mapZone i.die (zoneOf i.site.val) fun x => { x with ranAbove := true, lastAbove := s.time } else s

/-- A tile has been fenced or retired: FSTAT.TFENCE, after the completion word of the launch that the tile stopped (R324). -/
def State.tellFence (s : State) (i : TileId) : State :=
  let t := s.tile i
  match s.launch? t.pt.handle with
  | some l => if l.gone && t.act != .idle then s.setLaunch { l with tfence := true } else s.setFstat 3
  | none => s.setFstat 3

/-- The site is fenced in the record, at once (R320). A retired site stays retired (R345). -/
def State.fenceSite (s : State) (i : TileId) (cause : Nat) : State :=
  if (s.site i).live.state = .retired then s
  else
    let s := (s.noteAbove i).mapSite i fun r => { r.setState .fenced with fcause := BitVec.ofNat 8 cause }
    (((s.setVerify i false).writeSiteNow i).tellFence i).faultShapeless i.die

/-- The lowest spare site of a die whose bin 1 is not barred (R345). -/
def State.nextSpare (s : State) (d : Fin 8) : Option TileId :=
  (tilesOf d).find? fun i => (s.site i).live.state == .spare && !((s.site i).live.bins[1]).bar

/-- A site retired, once, and a spare of its die enabled (R345, R346, R353). -/
def State.retireSite (s : State) (i : TileId) : State :=
  let s := (s.noteAbove i).setTile i { s.tile i with retiring := false }
  if (s.site i).live.state = .retired then s
  else
    let s := ((s.mapSite i fun r => r.setState .retired).setVerify i false).writeSiteNow i
    let s := match s.nextSpare i.die with
      | some j => (s.mapSite j fun r => r.setState .enabled).writeSiteDue j
      | none => s
    (s.tellFence i).faultShapeless i.die

/-- A timing fence: counted with its LTIME, or, as the second within 24 hours, a retirement (R344). With every flag injected it
is not counted and the site is enabled again at once (R336). -/
def State.timingFence (s : State) (i : TileId) (injected : Bool) : State :=
  let r := (s.site i).live
  if r.state = .retired then s
  else if injected then (((s.fenceSite i 0x0E).mapSite i fun r => r.setState .enabled)).writeSiteDue i
  else
    let s := (s.mapSite i fun r => { r with tfence := s.ltime }).fenceSite i 0x0E
    if r.tfence != 0 && decide (s.ltime ≤ r.tfence + oneDay) then s.retireSite i else s.setVerify i true

/-! ## Taking a trap -/

/-- The tile stops with a record, its launch faults, and a Tile class fences or retires its site (R311-R320). -/
def State.stopWith (s : State) (i : TileId) (kind cause dfpc dfcause : Nat) (retire injected : Bool) : State :=
  let t := s.tile i
  let tile := classTile cause || retire
  let rec' := trapRecord t i kind (if tile then 2 else 1) s.time dfpc dfcause
  let h := t.pt.handle
  let s := s.captureRecord h i.die (if tile then 2 else 1) rec'
  let s := ((s.stopTile i).faultLaunch h).settleStopped i
  if retire then s.retireSite i
  else if classTile cause then (if cause = 0x0E then s.timingFence i injected else s.fenceSite i cause)
  else s

/-- A tile fence without a trap (R313, R319, R320): its record has KIND 3; a tile that runs stops and its launch faults. The record of
a tile that runs nothing goes into the error log alone. -/
def State.fenceTile (s : State) (i : TileId) (cause : Nat) : State :=
  let t := s.tile i
  if t.act = .idle ∨ t.act = .stopped then
    let idle := { t with pt := PointCtx.none }
    (s.logError 2 0 i.die.val (trapRecord idle i 3 2 s.time 0 0)).fenceSite i cause
  else
    let s := s.captureRecord t.pt.handle i.die 2 (trapRecord t i 3 2 s.time 0 0)
    (((s.stopTile i).faultLaunch t.pt.handle).settleStopped i).fenceSite i cause

/-- A SEGCHK mismatch counted in the site's record; the third within 24 hours makes the tile retiring (R325). -/
def State.countSegchk (s : State) (i : TileId) : State :=
  let r := (s.site i).live
  let third := r.segt0 != 0 && r.segt1 != 0 && decide (s.ltime ≤ r.segt1 + oneDay)
  let s := (s.mapSite i fun r => { r with segt0 := s.ltime, segt1 := r.segt0 }).writeSiteDue i
  if third then s.setTile i { s.tile i with retiring := true } else s

/-- A second trap taken while TRAPPED: the registers keep the first trap (R310). `value` stands in TCAUSE[15:8] of a double
fault. A SEGCHK mismatch of a retiring tile retires its site here too (R325). -/
def State.doubleFault (s : State) (i : TileId) (value : Nat) (pc : BitVec 16) (retire : Bool := false) : State :=
  s.stopWith i 2 0x15 pc.toNat (0x15 + 256 * value) retire false

/-- The handler is entered: TSB takes the pending entries, TRAPPED is set, PC is HANDLER (R308). -/
def Tile.toHandler (t : Tile) (handler : BitVec 16) : Tile :=
  { t with pc := handler, resume := 0, k := { t.k with tsb := t.pendingMask, trapped := true },
           pipe := { t.pipe with nextD := t.k.cycle.toNat + 5 } }

/-- A trap is taken: by the handler, or by stopping the tile (R306-R310). `slot` is the first uncommitted slot. -/
def State.takeTrap (s : State) (i : TileId) (cause detail : Nat) (mask : Byte) (pc : BitVec 16) (slot : Nat)
    (injected : Bool := false) : State :=
  let s := if cause = 0x0A then s.countSegchk i else s
  let t := s.tile i
  if t.k.trapped then
    if classTile cause then s.stopWith i 2 cause pc.toNat (cause + 256 * detail) false injected
    else s.doubleFault i cause pc (cause == 0x0A && t.retiring)
  else
    let s := s.setTile i ((s.tile i).enterTrap cause detail mask pc slot)
    let t := s.tile i
    match s.launch? t.pt.handle with
    | some l =>
      if routeH cause && l.hnd && !t.retiring then s.setTile i (t.toHandler l.handler)
      else s.stopWith i 1 cause 0 0 (cause == 0x0A && t.retiring) injected
    | none => s.stopWith i 1 cause 0 0 (cause == 0x0A && t.retiring) injected

end Sys2Proof.Machine
end

