-- ==== Sys2Proof/Machine/Ops.lean ====
section
/-! DEFINITION. How a slot instruction runs as a part of the bundle that is in flight on its tile
(spec/02_formats_and_opcode_map.md R61-R67, 04_isa_scalar_and_control.md R127, R133, 11_traps_and_faults.md R307-R310):
what a slot does is given by a function of the tile, and one operation commits it, ends its bundle, or takes its trap.
Taking a trap and returning from one are State.takeTrap (Machine/Traps.lean) and Tile.returnFromTrap here. -/

namespace Sys2Proof.Machine

/-- How the sequencer goes on after a slot. -/
inductive Flow where
  /-- to the next word; the loop-end test is made -/
  | seq
  /-- a C slot set the PC; `fed` says whether the new PC is fed to SEGSIG, `cut` whether the event is one of R300 item 2 -/
  | redirect (pc : BitVec 16) (fed cut : Bool)
  /-- the first body bundle of a pushed loop (R424) -/
  | enter (pc : BitVec 16)
  /-- TRAP or BKPT: the trap is taken at the boundary (R136) -/
  | trapAfter (cause detail : Nat)
  /-- PEND -/
  | ended
  /-- RTE -/
  | rte
  deriving DecidableEq, Repr

/-- What a committing slot sends out of the tile. -/
structure Emit where
  posts : List Post := []
  crew  : List CrewAccess := []
  /-- the scope at which a FENCE performs the tile's copy writes (R264) -/
  raise : Option Nat := none
  /-- the places of the LDCs that an RTE discards: their accesses are not performed (R274) -/
  drops : List Nat := []
  deriving DecidableEq, Repr

/-- What a slot does at its turn. -/
inductive SlotOut where
  /-- it commits: the tile after its effects, the scratchpad banks and rows it used, what it sends, how the PC goes on -/
  | done (t : Tile) (accs : List (Nat × Nat)) (e : Emit) (fl : Flow)
  /-- it faults (R64) -/
  | trap (cause detail : Nat)
  /-- it double-faults in a handler by itself (R309) -/
  | double (value : Nat)
  /-- it holds its bundle at K -/
  | hold (k : HoldKind)
  /-- a CREW ATOM is sent, and the slot waits for its return (R179) -/
  | send (a : CrewAccess)
  deriving DecidableEq, Repr

/-- A slot's function: the state, the tile's name, the tile, and the bundle it stands in. -/
abbrev SlotFn := State → TileId → Tile → Inflight → SlotOut

/-- A slot that only changes its tile. -/
def SlotOut.keep (t : Tile) : SlotOut := .done t [] {} .seq

/-! ## Crews -/

/-- The crew size that bounds ranks: 1 in a prologue (R48, R174). -/
def Tile.crewN (t : Tile) : Nat := if t.act = .prologue then 1 else t.pt.crewSize

/-- The tile of a crew rank (R42); in a prologue the tile itself. -/
def crewTile (i : TileId) (t : Tile) (r : Nat) : TileId :=
  if t.act = .prologue then i else ⟨i.die, siteOf ((rectSites t.pt.shape t.pt.corner).getD r 0)⟩

/-! ## The end of a bundle -/

/-- The loop stack after the loop-end test, where the PC goes, and whether the test took a back-edge or an exit. -/
structure LoopEnd where
  loops : List LoopEntry
  pc    : BitVec 16
  back  : Bool
  cut   : Bool
  deriving DecidableEq, Repr

/-- The loop-end test of R127 for a bundle of n words from a word on, whose next word is `nxt`. -/
def loopEndTest (lo : BitVec 16) (n : Nat) (nxt : BitVec 16) : List LoopEntry → Bool → LoopEnd
  | [], cut => ⟨[], nxt, false, cut⟩
  | e :: es, cut =>
    if (e.stop - lo).toNat < n then
      let e' := { e with index := e.index + 1 }
      if e'.index < e'.count then ⟨e' :: es, e.start, true, true⟩
      else loopEndTest lo n nxt es true
    else ⟨e :: es, nxt, false, cut⟩

/-- The word after the last word of a bundle. -/
def Inflight.after (b : Inflight) : BitVec 16 := b.first + BitVec.ofNat 16 b.words.length

/-- The register writes of a bundle from its first executed slot on, those that no operand names among them (R50); a handler's bundle is
not fed to SEGSIG (R133). -/
def Inflight.regWrites (b : Inflight) (handler : Bool) : List RegRef :=
  (if handler then [] else bundleWrites) ++ (b.words.drop b.start).flatMap fun w => match decodeSlot w with
    | .ok i => (slotUse b.snap.vcfg i).writes ++ implicitWrites i
    | .error _ => []

/-- Whether a bundle holds a V slot. -/
def Inflight.hasV (b : Inflight) : Bool :=
  (b.words.drop b.start).any fun w => match decodeSlot w with
    | .ok i => isV i
    | .error _ => false

/-- The cycle in which a bundle that commits in a cycle passed D for younger bundles: after a replay the one from which they follow it at
full rate (R328). -/
def Inflight.passedD (b : Inflight) (c : Nat) : Nat :=
  if b.flags = 0 then b.dCycle else Nat.max (b.dCycle + b.extra) (c - b.depth - 2)

/-- SEGSIG and SEGCNT after a bundle, with the redirected PC if one is fed (R133). -/
def KRegs.feed (k : KRegs) (words : List Word) (pc : Option (BitVec 16)) : KRegs :=
  let more := match pc with
    | some p => [p.setWidth 32]
    | none => []
  { k with segsig := sigFeed k.segsig (words ++ more), segcnt := satAdd32 k.segcnt 1 }

/-- A pending entry that an RTE or a resume releases: it writes back in its turn (R75). -/
def SbEntry.released (e : SbEntry) : SbEntry := { e with settling := true }

/-- RTE: the entries whose TSB bit is 0 are discarded, the others released, TRAPPED falls, and the bundle at TPC is re-entered at
slot SR (R75, R137). A deadline that has passed by then waits for the remainder of a bundle (R318). -/
def Tile.returnFromTrap (t : Tile) (due : Bool) : Tile :=
  { t with sb := (t.sb.filter fun e => t.k.tsb.getLsbD e.num.toNat).map SbEntry.released, pc := t.k.tpc, resume := t.k.sr.toNat,
           dueLate := due && t.k.sr != 0, k := { t.k with tsb := 0, trapped := false } }

/-- The places of the loads that an RTE discards. -/
def Tile.discards (t : Tile) : List Nat :=
  (t.sb.filter fun e => e.isLdc && !t.k.tsb.getLsbD e.num.toNat).map SbEntry.seqNo

/-- Where the PC and the loop stack go when a bundle ends (R123-R128, R131, R136). -/
def Tile.seqEnd (t : Tile) (b : Inflight) (fl : Flow) : LoopEnd :=
  match fl with
  | .seq =>
    if t.k.trapped then ⟨t.loops, b.after, false, false⟩
    else loopEndTest (b.first + BitVec.ofNat 16 b.start) (b.words.length - b.start) b.after t.loops false
  | .redirect pc _ cut => ⟨t.loops, pc, false, cut⟩
  | .enter pc => ⟨t.loops, pc, false, false⟩
  | .trapAfter _ _ => ⟨t.loops, b.after, false, false⟩
  | .ended => ⟨[], b.after, false, false⟩
  | .rte => ⟨t.loops, t.pc, false, false⟩

/-- The PC fed to SEGSIG, if the bundle redirected it (R133 item 3). -/
def fedPc (fl : Flow) (le : LoopEnd) : Option (BitVec 16) :=
  match fl with
  | .redirect pc true _ => some pc
  | _ => if le.back then some le.pc else none

/-- Whether the next bundle's D waits for the commit (R432). -/
def Flow.refetch : Flow → Bool
  | .redirect _ _ _ | .rte => true
  | _ => false

/-- The tile at the end of a bundle whose last slot has committed: PC, loop stack, signature, timing, the Cox's count. Bank conflicts
among the accesses of the bundle move the commits after it (R35). DEDUCED, notes/assumptions/21.md. -/
def Tile.endBundle (t : Tile) (b : Inflight) (fl : Flow) (wasTrapped : Bool) : Tile :=
  let c := commitCycle t b
  let le := t.seqEnd b fl
  let d := b.passedD c
  let writes := b.regWrites wasTrapped ++ if le.loops = t.loops then [] else loopViews
  let k := if wasTrapped then t.k else t.k.feed b.words (fedPc fl le)
  let p := t.pipe
  { t with
    pc := le.pc, loops := le.loops, inflight := none, cutHere := le.cut || t.cutHere, dueLate := t.dueLate && fl == .rte,
    k := { k with cycle := BitVec.ofNat 64 c },
    act := if fl = .ended then (if t.act = .prologue then .entering else .pended) else t.act,
    cox := { t.cox with bundles := t.cox.bundles + 1 },
    claim := t.claim && fl != .ended,
    pipe := { p with
      lastC := c + b.lost, lastD := d, lastV := if b.flags ≠ 0 && b.hasV then d else p.lastV,
      nextD := if fl.refetch then c + 3 else p.nextD, lastAccs := b.accs,
      writes := (p.writes.filter fun w => decide (d ≤ w.2)) ++ writes.map fun r => (r, c),
      backs := p.backs.filter fun w => decide (d ≤ w.2), bcounts := p.bcounts.filter fun w => decide (d ≤ w.1),
      acounts := p.acounts.filter fun w => decide (d ≤ w.1), hwOld := p.hwOld.filter fun w => decide (d ≤ w.2) } }

/-- A bundle boundary: a tile that was told to stop stops there, and a launch that has faulted or been killed is done with once none of
its tiles is left (R315 step 2). Before a bundle held at K stands a boundary too, at which a bad leaf met before traps (R246). -/
def State.boundary (s : State) (i : TileId) : State :=
  let t := s.tile i
  if t.stopReq && t.mayStop then (s.stopTile i).settleStopped i
  else match t.leafTrap, t.inflight with
    | some n, some b => if b.hold.isSome && b.next == 0 then s.takeTrap i 0x10 n 0 b.first 0 else s
    | _, _ => s

/-- The traps taken at the boundary after a bundle: a bad leaf that the forest met (R246), which stops the tile, else TRAP or BKPT (R136);
the point deadline comes after both. DEDUCED, notes/assumptions/16.md. -/
def State.afterBundle (s : State) (i : TileId) (fl : Flow) : State :=
  let t := s.tile i
  let s := match t.leafTrap, fl with
    | some n, _ => s.takeTrap i 0x10 n 0 t.pc 0
    | none, .trapAfter c d => s.takeTrap i c d 0 t.pc 0
    | none, _ => s
  s.boundary i

/-! ## Holds at K -/

/-- The slots of a bundle from the next one on. -/
def Inflight.rest (b : Inflight) : List Instr :=
  (b.words.drop b.next).filterMap fun w => match decodeSlot w with
    | .ok i => some i
    | .error _ => none

/-- The slots that may hold their bundle at K (R80, R187, R423). -/
def mayHold : Instr → Bool
  | .swait _ _ | .fence _ _ | .pend | .mwait _ | .cpy _ | .mstream _ _ _ => true
  | _ => false

/-- The cycle of the write-back or fill that a slot waits for at K, as far as it is over: MWAIT its macro's last work, FENCE the tile's
gathers, scatters and loads, PEND every entry (R131, R186, R228). -/
def Tile.releaseOf (t : Tile) (i : Instr) : Nat :=
  let last (p : SbEntry → Bool) : Nat := (t.pipe.backs.filter fun w => p w.1).foldl (fun m w => Nat.max m w.2) 0
  match i with
  | .mwait m => t.macroEnd m.toNat
  | .fence k _ => if k = .cp then 0 else last fun e => e.isLdc || e.isLdg || e.isStg
  | .pend => last fun _ => true
  | _ => 0

/-- A bundle in the cycle in which nothing holds it at K any more: what its slots waited for is over by then (R423). -/
def Inflight.released (b : Inflight) (t : Tile) : Inflight :=
  let own := if b.hold.isSome then Nat.max (holdStart t b) b.freeAt else b.heldTo
  { b with hold := none, heldTo := b.rest.foldl (fun m i => Nat.max m (t.releaseOf i)) own }

/-- A bundle that passes K: every fault of it is known from here on (R51). -/
def Inflight.passK (b : Inflight) (t : Tile) : Inflight := { b.released t with passed := true, errAtK := t.k.semErr }

/-- SEMERR as the slots of a bundle find it: as it stood when the bundle passed K (R51). -/
def Inflight.semErr (b : Inflight) (t : Tile) : Dword := if b.passed then b.errAtK else t.k.semErr

/-- An event in a cycle that is not fixed may end the hold of a tile's bundle at K, if that is one of some kinds. -/
def State.freed (s : State) (i : TileId) (ks : List HoldKind) : State :=
  let t := s.tile i
  match t.inflight with
  | some b =>
    if b.hold.any ks.contains then
      { s with draws := s.draws + 1 }.setTile i { t with inflight := some { b with freeAt := t.freeCycle (Config.waited s.draws) } }
    else s
  | none => s

/-! ## Running a slot -/

/-- The first bundle that a tile commits after a reset begins its first Cox window (R425). -/
def State.openWindow (s : State) (i : TileId) (t : Tile) : Tile :=
  if t.cox.fresh then { t with cox := { t.cox with begun := s.time, pol := (s.die i.die).cox, fresh := false } } else t

/-- The tiles of a tile's crew; in a prologue none but itself (R255). -/
def Tile.crewTiles (t : Tile) (i : TileId) : List TileId :=
  if t.act = .prologue then [] else rectTiles i.die t.pt.shape t.pt.corner

/-- A FENCE of a scope performs a tile's copy writes there; those to UO pages at PKG or SYS only (R264). -/
def State.raiseCopies (s : State) (i : TileId) (crew : List TileId) (scope : Nat) : State :=
  s.raise (fun e => e.by'.tile == some i && (e.ord != 2 || decide (3 ≤ scope))) scope (if 1 ≤ scope then crew else [])

/-- A slot's commit: its effects, what it sends, the scratchpad conflicts of its bundle, and the end of the bundle if it is the
last slot. -/
def State.commitSlot (s : State) (i : TileId) (b : Inflight) (t : Tile) (accs : List (Nat × Nat)) (e : Emit) (fl : Flow)
    (wasTrapped : Bool) : State :=
  let y := s.share i b t accs
  let b := s.shared i b t accs
  let sent := if e.drops.isEmpty then s.crew else s.crew.filter fun a => !(a.src == i && e.drops.contains a.seqNo)
  let s := { s with posts := s.posts ++ e.posts, crew := sent ++ e.crew }
  let s := match e.raise with
    | some n => s.raiseCopies i (y.crewTiles i) n
    | none => s
  if b.next + 1 < b.words.length then
    s.setTile i { y with inflight := some { b with next := b.next + 1, atomBack := none } }
  else (s.setTile i { s.openWindow i (y.endBundle b fl wasTrapped) with movedAt := s.time }).afterBundle i fl

/-- Whether a bundle stands ready for its next slot: no forced flag is due, no hold, no CREW ATOM is out. -/
def Inflight.ready (b : Inflight) : Bool :=
  b.flagsDue == 0 && b.hold.isNone && !b.atomSent && decide (b.next < b.words.length)

/-- The trap of a faulting slot: its bundle leaves the pipe with the slots before it committed (R64, R307). -/
def State.slotTrap (s : State) (i : TileId) (b : Inflight) (cause detail : Nat) : State :=
  let t := s.tile i
  let s := s.setTile i (t.atCycle (commitCycle t b))
  (s.takeTrap i cause detail 0 b.first b.next).boundary i

/-- A double fault of a handler's slot (R309). -/
def State.slotDouble (s : State) (i : TileId) (b : Inflight) (value : Nat) : State :=
  let t := s.tile i
  ((s.setTile i (t.atCycle (commitCycle t b))).doubleFault i value b.first).boundary i

/-- What the answer of a slot's function makes of the state. -/
def State.finishSlot (s : State) (i : TileId) (b : Inflight) (wasTrapped : Bool) : SlotOut → State
  | .done t accs e fl => s.commitSlot i b t accs e fl wasTrapped
  | .trap c d => s.slotTrap i b c d
  | .double v => s.slotDouble i b v
  | .hold k =>
    let t := s.tile i
    (s.setTile i { t with inflight := some { b with hold := some k, waitFrom := s.time },
                          cutHere := t.cutHere || (t.cutReq.isSome && decide (b.start < b.next)) }).boundary i
  | .send a =>
    let t := s.tile i
    { s.setTile i { t with inflight := some { b with atomSent := true }, cutHere := t.cutHere || t.cutReq.isSome } with
      crew := s.crew ++ [a] }.boundary i

/-- A slot instruction run by a tile, at the slot its bundle has come to. -/
def State.runSlotOn (s : State) (i : TileId) (mn : String) (ins : Instr) (f : SlotFn) : Result :=
  let t := s.tile i
  match t.inflight with
  | none => .refused (.notEnabled mn)
  | some b =>
    if b.ready then
      match if t.k.trapped then handlerFault t ins else none with
      | some v => .next (s.slotDouble i b v)
      | none => .next (s.finishSlot i b t.k.trapped (f s i t b))
    else .refused (.notEnabled mn)

/-- A slot instruction run by the tile whose turn it is. -/
def State.runSlot (s : State) (mn : String) (ins : Instr) (f : SlotFn) : Result := s.runSlotOn s.focus mn ins f

/-- A slot that reads and writes registers only. -/
def State.runPure (s : State) (mn : String) (ins : Instr) (f : Tile → Tile) : Result :=
  s.runSlot mn ins fun _ _ t _ => .keep (f t)

end Sys2Proof.Machine
end

