-- ==== Sys2Proof/Machine/Zones.lean ====
section
/-! DEFINITION. Bins, voltages and power zones (spec/12_elastic_timing_and_margin.md R329, R337-R340; 15_power_and_thermal.md
R407-R414): what a tile is asked to run at, and when a zone gives back its sprint slot. -/

namespace Sys2Proof.Machine

/-! ## Offsets and voltages -/

/-- V_REF of a bin in mV (R348). -/
def State.vref (s : State) (b : Fin 8) : Int := (s.headers[0].vref[b] : Nat)

/-- The voltage that a tile's record asks for in a bin (R407). -/
def State.binMv (s : State) (i : TileId) (b : Fin 8) : Int := s.vref b + 5 * ((s.site i).live.bins[b]).offset

/-- A bin entry changed. -/
def SiteRec.mapBin (r : SiteRec) (b : Fin 8) (f : BinRec → BinRec) : SiteRec :=
  { r with bins := r.bins.set b.val (f r.bins[b]) b.isLt }

/-- A bin's offset set to a value in the live record. -/
def SiteRec.setOffset (r : SiteRec) (b : Fin 8) (v : Int) : SiteRec := r.mapBin b fun x => { x with offset := v }

/-- A new Cox window starts, with the policy registers of its die; the partial one is discarded and a quiet run ends (R338, R339). -/
def State.newWindow (s : State) (i : TileId) : State :=
  let t := s.tile i
  s.setTile i { t with cox := ⟨0, 0, s.time, none, (s.die i.die).cox, t.cox.fresh, none⟩ }

/-- Whether a bin is barred for a tile: the tile does not run in it (R337). -/
def State.barred (s : State) (i : TileId) : Bool := ((s.site i).live.bins[(s.tile i).vf.bin]).bar

/-- A tile's frequency set to a bin: its Cox window starts afresh (R339), and a tile that did not run in a barred bin runs again (R319). -/
def State.setBin (s : State) (i : TileId) (b : Fin 8) : State :=
  let x := s.tile i
  let was := s.barred i
  (s.setTile i { x with vf := { x.vf with bin := b }, movedAt := if was then s.time else x.movedAt,
                        pipe := { x.pipe with loose := x.pipe.loose || was } }).newWindow i

/-! ## Bins (R408, R410) -/

/-- The highest bin from 1 up to which no bin is barred, 0 where bin 1 is. -/
def topBin (r : SiteRec) : Nat :=
  (List.range 7).foldl (fun m j => if m = j && !(r.bins.toList.map BinRec.bar).getD (j + 1) true then j + 1 else m) 0

/-- The highest frequency that a voltage allows (R408). -/
def State.allowedBin (s : State) (i : TileId) (mv : Int) : Nat :=
  (List.finRange 8).foldl (fun m b =>
    if 1 ≤ b.val ∧ b.val ≤ topBin (s.site i).live ∧ s.binMv i b ≤ mv then b.val else m) 0

/-- The tiles of a zone. -/
def zoneTiles (d : Fin 8) (z : Fin 4) : List TileId := (tilesOf d).filter fun i => zoneOf i.site.val == z

/-- Whether a tile asks for the sprint clock, its launch allowing it (R201, R410). -/
def State.claims (s : State) (i : TileId) : Bool :=
  (s.tile i).claim && match s.launch? (s.tile i).pt.handle with
    | some l => l.spr
    | none => false

/-- Whether an over-current alarm holds a die's tiles in bin 0 (R417). -/
def State.overCurrent (s : State) (d : Fin 8) : Bool :=
  let p := s.regs.ocPersist
  p.getLsbD d.val || p.getLsbD (8 + d.val) || p.getLsbD 16 || p.getLsbD 17 || p.getLsbD 18

/-- The bin that a tile is asked to run in (R410). DEDUCED, notes/assumptions/47.md. -/
def State.requestedBin (s : State) (i : TileId) : Fin 8 :=
  let z := s.zone i.die (zoneOf i.site.val)
  let top := topBin (s.site i).live
  if z.thrT || s.overCurrent i.die then 0
  else match z.fall with
    | .midpoint _ => if s.claims i then dieOf (Nat.min top ((top + 1) / 2)) else 1
    | .toNominal => 1
    | .none => if z.sprinting && s.claims i then dieOf top else 1

/-! ## Rails (R407) -/

/-- The voltage that a die's rail needs for some bins of every tile in use: 10 mV over the highest target, at least a given one. -/
def State.railFor (s : State) (d : Fin 8) (least : Int) (bins : SiteRec → List (Fin 8)) : Int :=
  (tilesOf d).foldl (fun m i =>
    let r := (s.site i).live
    if r.state = .enabled then (bins r).foldl (fun m b => max m (s.binMv i b + 10)) m else m) least

/-- The low rail of a die: it covers bins 0 and 1. Firmware follows each change of a record at once. DESIGN CHOICE,
notes/assumptions/71.md. -/
def State.railLo (s : State) (d : Fin 8) : Int := s.railFor d 0 fun _ => [0, 1]

/-- The high rail of a die: it covers the sprint bins that a tile may use, and is no lower than the low rail. -/
def State.railHi (s : State) (d : Fin 8) : Int :=
  s.railFor d (s.railLo d) fun r => (List.finRange 8).filter fun b => decide (2 ≤ b.val) && decide (b.val ≤ topBin r)

/-- The rail that a tile's multiplexer selects for a target. -/
def State.railOf (s : State) (i : TileId) (v : Int) : Int := if v + 10 ≤ s.railLo i.die then s.railLo i.die else s.railHi i.die

/-- The voltage that a tile is asked to run at: its bin's, as far as its rail and the 64 steps of its LDO reach. -/
def State.targetMv (s : State) (i : TileId) : Int :=
  let v := s.binMv i (s.requestedBin i)
  let rail := s.railOf i v
  min rail (max v (rail - 320))

/-- Whether any tile of a zone runs above nominal. -/
def State.zoneAbove (s : State) (d : Fin 8) (z : Fin 4) : Bool := (zoneTiles d z).any s.above

/-! ## Giving back a slot (R414) -/

/-- Whether a zone's sprint is ending: it falls to nominal, or no tile of it claims any more. -/
def State.sprintEnding (s : State) (d : Fin 8) (z : Fin 4) : Bool :=
  (s.zone d z).fall == .toNominal || !((zoneTiles d z).any s.claims)

/-- Whether every tile of a zone runs in the bin that it is asked for. -/
def State.zoneSettled (s : State) (d : Fin 8) (z : Fin 4) : Bool :=
  (zoneTiles d z).all fun i => (s.site i).live.state != .enabled || (s.tile i).asleep || (s.tile i).vf.bin == s.requestedBin i

/-- A midpoint step that is in force on every tile of its zone counts its 10 us from now (R414). -/
def State.markMidpoint (s : State) (d : Fin 8) (z : Fin 4) : State :=
  match (s.zone d z).fall with
  | .midpoint none => if s.zoneSettled d z then s.mapZone d z fun x => { x with fall := .midpoint (some s.time) } else s
  | _ => s

/-- A zone whose sprint is ending and all of whose tiles are at nominal gives back its slot; one that is to hold its midpoint bins
counts from when its last tile has come to its own. -/
def State.settleZone (s : State) (d : Fin 8) (z : Fin 4) : State :=
  let s := s.markMidpoint d z
  if (s.zone d z).sprinting && s.sprintEnding d z && !s.zoneAbove d z then
    s.mapZone d z fun x => { x with sprinting := false, fall := .none }
  else s

/-- Every zone of a die settled. -/
def State.settleDie (s : State) (d : Fin 8) : State := (List.finRange 4).foldl (fun s z => s.settleZone d z) s

/-- Every zone of the package settled. -/
def State.settleAll (s : State) : State := (List.finRange 8).foldl State.settleDie s

/-! ## Caps and rises -/

/-- A tile whose present voltage no longer allows its frequency runs at what it allows from now on (R408): while a frequency changes, the
lower one governs (R409). -/
def State.capBin (s : State) (i : TileId) : State :=
  let x := s.tile i
  let m := s.allowedBin i x.vf.mv
  if m < x.vf.bin.val then
    ((s.noteAbove i).setBin i (dieOf m)).settleZone i.die (zoneOf i.site.val)
  else s

/-- A rise of a bin's offset to a value: a write is due at once, and in the present bin a new window starts (R339, R351). -/
def State.riseTo (s : State) (i : TileId) (b : Fin 8) (v : Int) : State :=
  let s := s.mapSite i fun r => r.setOffset b v
  let s := s.setSite i { s.site i with fallAt := none }
  let s := s.writeSiteDue i
  (if (s.tile i).vf.bin = b then s.newWindow i else s).capBin i

/-- The two-step rise in the present bin: min(CEIL, OFFSET + 2), and a new window, whether or not the offset changes (R329, R339, R340).
Where the window before ended with a rise in the same core cycle, that rise is not counted besides (R353). DEDUCED,
notes/assumptions/18.md. -/
def State.twoStepRise (s : State) (i : TileId) (cycle : Nat) : State :=
  let t := s.tile i
  let old := ((s.site i).live.bins[t.vf.bin]).offset
  let new := min (if t.cox.roseAt = some cycle then old + 1 else old + 2) t.cox.pol.ceil
  (if old = new then s else s.riseTo i t.vf.bin new).newWindow i

end Sys2Proof.Machine
end

