-- ==== Sys2Proof/Machine/Control.lean ====
section
/-! DEFINITION. The C-unit instructions (spec/04_isa_scalar_and_control.md R123-R141): branches and calls, hardware loops, the
end of a point, segment checks, traps and the return from one, special registers and time. -/

namespace Sys2Proof.Machine

/-! ## Branches and calls -/

/-- The target of an offset from the bundle's first word (R59). -/
def branchTo (b : Inflight) (off : BitVec 16) : BitVec 16 := b.first + off

/-- A taken transfer: the new PC is fed (R133). -/
def goTo (pc : BitVec 16) : Flow := .redirect pc true false

/-- A conditional branch on a register (R123). -/
def branchIf (p : Word → Bool) (sr : SReg) (off : BitVec 16) : SlotFn := fun _ _ t b =>
  .done t [] {} (if p (t.sreg sr) then goTo (branchTo b off) else .seq)

/-- BR (R123). -/
def execBr (off : BitVec 16) (s : State) : Result :=
  s.runSlot "BR" (.br off) fun _ _ t b => .done t [] {} (goTo (branchTo b off))

/-- BRZ (R123). -/
def execBrz (sr : SReg) (off : BitVec 16) (s : State) : Result :=
  s.runSlot "BRZ" (.brz sr off) (branchIf (fun v => v == 0) sr off)

/-- BRNZ (R123). -/
def execBrnz (sr : SReg) (off : BitVec 16) (s : State) : Result :=
  s.runSlot "BRNZ" (.brnz sr off) (branchIf (fun v => v != 0) sr off)

/-- BRLZ (R123). -/
def execBrlz (sr : SReg) (off : BitVec 16) (s : State) : Result :=
  s.runSlot "BRLZ" (.brlz sr off) (branchIf (fun v => v.getLsbD 31) sr off)

/-- JR (R123). -/
def execJr (sa : SReg) (s : State) : Result :=
  s.runSlot "JR" (.jr sa) fun _ _ t _ => .done t [] {} (goTo ((t.sreg sa).setWidth 16))

/-- CALL (R123): s63 gets the word after the bundle. -/
def execCall (off : BitVec 16) (s : State) : Result :=
  s.runSlot "CALL" (.call off) fun _ _ t b => .done (t.setS 63 (b.after.setWidth 32)) [] {} (goTo (branchTo b off))

/-- CALLR (R123, R124): the target is the register's old value. -/
def execCallr (sa : SReg) (s : State) : Result :=
  s.runSlot "CALLR" (.callr sa) fun _ _ t b =>
    .done (t.setS 63 (b.after.setWidth 32)) [] {} (goTo ((t.sreg sa).setWidth 16))

/-! ## Hardware loops -/

/-- LOOP and LOOPI (R125, R126): the body starts at the word after the bundle. -/
def pushLoop (count : Word) (off : BitVec 16) : SlotFn := fun _ _ t b =>
  let start := b.after
  let target := branchTo b off
  if count = 0 then .done t [] {} (goTo target)
  else if 6 ≤ t.loops.length then .trap 0x08 0
  else .done { t with loops := ⟨count, 0, start, target - 1⟩ :: t.loops } [] {} (.enter start)

/-- LOOP (R126). -/
def execLoop (sc : SReg) (off : BitVec 16) (s : State) : Result :=
  s.runSlot "LOOP" (.loop sc off) fun s i t b => pushLoop (t.sreg sc) off s i t b

/-- LOOPI (R126). -/
def execLoopi (count : BitVec 8) (off : BitVec 16) (s : State) : Result :=
  s.runSlot "LOOPI" (.loopi count off) (pushLoop (count.setWidth 32) off)

/-- LBRK (R128). -/
def execLbrk (s : State) : Result :=
  s.runSlot "LBRK" .lbrk fun _ _ t _ =>
    match t.loops with
    | [] => .trap 0x09 0
    | e :: es => .done { t with loops := es } [] {} (.redirect (e.stop + 1) true true)

/-- The index of the entry at a level counted outward from the innermost, or 0 (R129). -/
def loopIndex (loops : List LoopEntry) (level : Nat) : Word :=
  match loops[level]? with
  | some e => e.index
  | none => 0

/-- LIDX (R129). -/
def execLidx (sd : SReg) (level : Fin 6) (s : State) : Result :=
  s.runPure "LIDX" (.lidx sd level) fun t => t.setS sd (loopIndex t.loops level.val)

/-! ## Ending a point -/

/-- PEND waits for an empty copy queue and scoreboard (R44, R131); what an earlier slot of its own bundle put there, it waits for with that
slot committed. DEDUCED, notes/assumptions/15.md. -/
def pendReady (t : Tile) : Bool := t.copyq.isEmpty && t.sb.isEmpty

/-- What PEND does at its turn. -/
def pendSlot : SlotFn := fun _ _ t _ => if pendReady t then .done t [] {} .ended else .hold .pend

/-- After a tile has withdrawn its claim on the sprint clock its zone may give back its slot, or come to its midpoint bins (R414). -/
def settled (i : TileId) : Result → Result
  | .next s => .next (s.settleZone i.die (zoneOf i.site.val))
  | r => r

/-- PEND (R131). -/
def execPend (s : State) : Result := settled s.focus (s.runSlot "PEND" .pend pendSlot)

/-- The end of a hold at K (R423), in the cycle by which what it waited for had come. What is due at the tile before that goes first.
If no other slot of the bundle may hold it, it has passed K, and the slot commits if the bundle has come to it; else the hold of the
others is tested next (R80). A flag that is due goes first (R327), and a bundle that is held when its tile is cut does not commit
(R300 item 3). -/
def State.holdEnds (s : State) (i : TileId) (mn : String) (ins : Instr) (f : SlotFn) : Result :=
  let t := s.tile i
  match t.inflight with
  | none => .refused (.notEnabled mn)
  | some b =>
    if b.flagsDue != 0 || (t.cutReq.isSome && b.next == b.start) then .refused (.notEnabled mn)
    else
      let go := b.passed || decide ((b.rest.filter mayHold).length = 1)
      let b' := if b.passed then b.released t else if go then b.passK t else b.released t
      let s' := s.setTile i { t with inflight := some b', movedAt := s.time }
      if s.owed i (commitCycle t b') || s.cutDue t.pt.handle then .refused (.notEnabled mn)
      else match (b.words[b.next]?).map decodeSlot with
      | some (.ok j) => if go && j = ins then s'.runSlotOn i mn ins f else .next s'
      | _ => .next s'

/-- Whether a tile's bundle is held for a reason. -/
def heldFor (t : Tile) (k : HoldKind) : Bool :=
  match t.inflight with
  | some b => b.hold == some k
  | none => false

/-- The first slot not yet run that a test picks, in the bundle on a tile. -/
def heldSlot (t : Tile) (p : Instr → Bool) : Option Instr :=
  match t.inflight with
  | none => none
  | some b => ((b.words.drop b.next).filterMap fun w => match decodeSlot w with
      | .ok i => some i
      | .error _ => none).find? p

/-- PEND_COMMIT (R131). -/
def execPendCommit (t : TileId) (s : State) : Result :=
  if heldFor (s.tile t) .pend && pendReady (s.tile t) then settled t (s.holdEnds t "PEND_COMMIT" .pend pendSlot)
  else .refused (.notEnabled "PEND_COMMIT")

/-! ## Segment checking -/

/-- SEGCHK (R134): SEGCNT and SEGSIG as they stood when the bundle began; a match starts a new segment before the feed. -/
def execSegchk (sa sb : SReg) (s : State) : Result :=
  s.runSlot "SEGCHK" (.segchk sa sb) fun _ _ t _ =>
    let cnt := t.sreg sa == t.k.segcnt
    let sig := t.sreg sb == t.k.segsig
    if cnt && sig then .keep { t with k := { t.k with segcnt := 0, segsig := 0 } }
    else .trap 0x0A ((if cnt then 0 else 1) + (if sig then 0 else 2))

/-! ## Traps and return -/

/-- TRAP (R136): the trap is taken after the whole bundle. -/
def execTrap (imm : BitVec 16) (s : State) : Result :=
  s.runSlot "TRAP" (.trap imm) fun _ _ t _ => .done t [] {} (.trapAfter 0x0B imm.toNat)

/-- BKPT (R136). -/
def execBkpt (imm : BitVec 16) (s : State) : Result :=
  s.runSlot "BKPT" (.bkpt imm) fun _ _ t _ => .done t [] {} (.trapAfter 0x0C imm.toNat)

/-- RTE (R137, R75). -/
def execRte (s : State) : Result :=
  s.runSlot "RTE" .rte fun s _ t _ =>
    if t.k.trapped then .done (t.returnFromTrap (s.deadlineDue t)) [] { drops := t.discards } .rte else .trap 0x16 0x01

/-! ## Special registers and time -/

/-- MOVK (R139): the register as it stood when the bundle's committing pass passed D; of k5, CYCLE[63:32] goes to k6 too. DEDUCED,
notes/assumptions/31.md. -/
def execMovk (sd : SReg) (k : KReg) (s : State) : Result :=
  s.runSlot "MOVK" (.movk sd k) fun _ i t b =>
    let t' := t.setS sd (kRead b.snap t.loops i k)
    .keep (if k = 5 then { t' with k := { t'.k with cycleHi := b.snap.cycle.extractLsb' 32 32 } } else t')

/-- FLAGINJ as a write leaves it: reserved codes and bits fall to 0 (R334). -/
def flagInjWrite (v : Word) : Word :=
  let m := if v.extractLsb' 30 2 = 3 then 0#2 else v.extractLsb' 30 2
  let p := if v.extractLsb' 28 2 = 3 then 0#2 else v.extractLsb' 28 2
  (m ++ p ++ 0#4 ++ v.extractLsb' 0 24 : BitVec (2 + 2 + 4 + 24))

/-- Bits of a 64-bit sticky register that a word's ones clear, in its low or high half (R140). -/
def clearHalf (r : Dword) (v : Word) (high : Bool) : Dword :=
  if high then r &&& ~~~(v ++ 0#32 : BitVec (32 + 32)) else r &&& ~~~(0#32 ++ v : BitVec (32 + 32))

/-- The launch of a tile sets DIAG. -/
def State.diagLaunch (s : State) (t : Tile) : Bool :=
  match s.launch? t.pt.handle with
  | some l => l.diag
  | none => false

/-- The tile after a KMOV of a value, or none where the register's access forbids it (R24, R140). -/
def kmovWrite (t : Tile) (diag : Bool) (n : KReg) (v : Word) : Option Tile :=
  let k := t.k
  match n.toNat with
  | 4 => if k.trapped then some { t with k := { k with tsb := k.tsb &&& v.setWidth 16 } } else none
  | 7 => some { t with k := { k with vflags := v.setWidth 5 } }
  | 10 => some { t with k := { k with tstat := v.setWidth 5 } }
  | 11 => some { t with k := { k with tconf := v } }
  | 12 => some { t with k := { k with bconf := v } }
  | 13 => some { t with k := { k with aconf := v } }
  | 14 => some { t with k := { k with segcnt := v } }
  | 15 => some { t with k := { k with segsig := v } }
  | 27 => if diag then some { t with k := { k with flagInj := flagInjWrite v }, injBase := t.bundleNo } else none
  | 28 => some { t with k := { k with semErr := clearHalf k.semErr v false } }
  | 30 => some { t with k := { k with cerr := clearHalf k.cerr v false } }
  | 31 => some { t with k := { k with cerr := clearHalf k.cerr v true } }
  | 48 => some { t with k := { k with semErr := clearHalf k.semErr v true } }
  | _ => none

/-- KMOV (R140). -/
def execKmov (k : KReg) (sa : SReg) (s : State) : Result :=
  s.runSlot "KMOV" (.kmov k sa) fun s _ t _ =>
    match kmovWrite t (s.diagLaunch t) k (t.sreg sa) with
    | some t' => .keep t'
    | none => .trap 0x03 k.toNat

/-- TSTAMP (R141): TIME in the cycle of the commit; the time since the last step is a free value, and all dies read one TIME, where R54
allows them to differ by up to 2 ns. DESIGN CHOICE, notes/assumptions/8.md. -/
def execTstamp (pair : BitVec 5) (s : State) : Result :=
  let s := { s with time := s.time + Config.elapsed s.draws, draws := s.draws + 1 }
  s.runSlot "TSTAMP" (.tstamp pair) fun s _ t _ => .keep (t.setPair pair s.time)

end Sys2Proof.Machine
end

