-- ==== Sys2Proof/Machine/Vector.lean ====
section
/-! DEFINITION. The V-unit instructions (spec/05_isa_vector.md R142-R168): whole lines of the plane, element by element, under
the type, mask and rounding that VCFG holds. -/

namespace Sys2Proof.Machine

/-! ## Reading and writing lines -/

/-- The trap of a cell with bad parity: its row and column (R19, R306). -/
def parityTrap (c : Nat) : SlotOut := .trap 0x0F (c / 64 + 256 * (c % 64))

/-- A slot that reads lines: the first bad cell, in the order of the lines, traps it. -/
def readingLines (t : Tile) (ls : List Line) (k : SlotOut) : SlotOut :=
  match ls.findSome? t.badCell with
  | some c => parityTrap c
  | none => k

/-- Elements of the current type on a line. -/
def elemCount (c : VMode) : Nat := 2048 / elemBits c.ty

/-- Element e of a list of elements. -/
def elemAt (es : List Nat) (e : Nat) : Nat := es.getD e 0

/-- The results of the active elements among n (R147). -/
def activeRes (mask : BitVec 256) (n : Nat) (f : Nat → Res) : List (Option Res) :=
  (List.range n).map fun e => if mask.getLsbD e then some (f e) else none

/-- The flags of some results together. -/
def flagsOf (rs : List (Option Res)) : FpFlags :=
  rs.foldl (fun a r => match r with
    | some x => a.or x.fl
    | none => a) {}

/-- Results written into a line with their flags (R147, R168). -/
def Tile.putElems (t : Tile) (pd : Line) (w : Nat) (rs : List (Option Res)) : Tile :=
  (t.setElements pd w (rs.map fun r => r.map Res.v)).raise (flagsOf rs)

/-- The elements of a line in the current type. -/
def Tile.elems (t : Tile) (c : VMode) (l : Line) : List Nat := elements (elemBits c.ty) (t.line l)

/-- A slot that computes each active element of a line from lines it reads. -/
def vecSlot (pd : Line) (ls : List Line) (f : VMode → Tile → Nat → Res) : SlotFn := fun _ _ t _ =>
  let c := t.vmode
  readingLines t ls (.keep (t.putElems pd (elemBits c.ty) (activeRes c.mask (elemCount c) (f c t))))

/-- A slot of two source lines (R151, R158). -/
def vec2 (pd pa pb : Line) (f : VMode → Nat → Nat → Res) : SlotFn := fun s i t b =>
  let c := t.vmode
  let xs := t.elems c pa
  let ys := t.elems c pb
  vecSlot pd [pa, pb] (fun c _ e => f c (elemAt xs e) (elemAt ys e)) s i t b

/-- A fused slot: pd is read too (R152). -/
def vec3 (pd pa pb : Line) (f : VMode → Nat → Nat → Nat → Res) : SlotFn := fun s i t b =>
  let c := t.vmode
  let ds := t.elems c pd
  let xs := t.elems c pa
  let ys := t.elems c pb
  vecSlot pd [pd, pa, pb] (fun c _ e => f c (elemAt ds e) (elemAt xs e) (elemAt ys e)) s i t b

/-- A slot of one source line. -/
def vec1 (pd pa : Line) (f : VMode → Nat → Res) : SlotFn := fun s i t b =>
  let xs := t.elems t.vmode pa
  vecSlot pd [pa] (fun c _ e => f c (elemAt xs e)) s i t b

/-- A scalar operand: the low bits of a register, or an even pair in F64 (R155, R159). -/
def Tile.scalarElem (t : Tile) (c : VMode) (r : SReg) : Nat :=
  if c.ty = .f64 then t.spair (pairOf r) else (t.sreg r).toNat % 2 ^ elemBits c.ty

/-- A function that traps on an integer type (R154). -/
def vecFun (pd pa : Line) (g : VFun) : SlotFn := fun s i t b =>
  match elemFloat t.vmode.ty with
  | some f => vec1 pd pa (fun c a => opFun c f g a) s i t b
  | none => .trap 0x16 0x11

/-- A result with no flag. -/
def plain (v : Nat) : Res := ⟨v, {}⟩

/-! ## The instructions -/

/-- VADD (R151). -/
def execVadd (pd pa pb : Line) (s : State) : Result :=
  s.runSlot "VADD" (.vadd pd pa pb) (vec2 pd pa pb opAdd)

/-- VSUB (R151). -/
def execVsub (pd pa pb : Line) (s : State) : Result :=
  s.runSlot "VSUB" (.vsub pd pa pb) (vec2 pd pa pb opSub)

/-- VMUL (R151). -/
def execVmul (pd pa pb : Line) (s : State) : Result :=
  s.runSlot "VMUL" (.vmul pd pa pb) (vec2 pd pa pb opMul)

/-- VFMA (R152). -/
def execVfma (pd pa pb : Line) (s : State) : Result :=
  s.runSlot "VFMA" (.vfma pd pa pb) (vec3 pd pa pb fun c d a b => opFused c false false d a b)

/-- VFMS (R152). -/
def execVfms (pd pa pb : Line) (s : State) : Result :=
  s.runSlot "VFMS" (.vfms pd pa pb) (vec3 pd pa pb fun c d a b => opFused c false true d a b)

/-- VFNMA (R152). -/
def execVfnma (pd pa pb : Line) (s : State) : Result :=
  s.runSlot "VFNMA" (.vfnma pd pa pb) (vec3 pd pa pb fun c d a b => opFused c true false d a b)

/-- VMIN (R151). -/
def execVmin (pd pa pb : Line) (s : State) : Result :=
  s.runSlot "VMIN" (.vmin pd pa pb) (vec2 pd pa pb (fun c a b => opPick c false a b))

/-- VMAX (R151). -/
def execVmax (pd pa pb : Line) (s : State) : Result :=
  s.runSlot "VMAX" (.vmax pd pa pb) (vec2 pd pa pb (fun c a b => opPick c true a b))

/-- VABS (R153). -/
def execVabs (pd pa : Line) (s : State) : Result :=
  s.runSlot "VABS" (.vabs pd pa) (vec1 pd pa opAbs)

/-- VNEG (R153). -/
def execVneg (pd pa : Line) (s : State) : Result :=
  s.runSlot "VNEG" (.vneg pd pa) (vec1 pd pa opNeg)

/-- VRCP (R154). -/
def execVrcp (pd pa : Line) (s : State) : Result :=
  s.runSlot "VRCP" (.vrcp pd pa) (vecFun pd pa .rcp)

/-- VRSQ (R154). -/
def execVrsq (pd pa : Line) (s : State) : Result :=
  s.runSlot "VRSQ" (.vrsq pd pa) (vecFun pd pa .rsq)

/-- VEXP2 (R154). -/
def execVexp2 (pd pa : Line) (s : State) : Result :=
  s.runSlot "VEXP2" (.vexp2 pd pa) (vecFun pd pa .exp2)

/-- VLOG2 (R154). -/
def execVlog2 (pd pa : Line) (s : State) : Result :=
  s.runSlot "VLOG2" (.vlog2 pd pa) (vecFun pd pa .log2)

/-- VCVT's slot (R162): n elements, of the wider type's count; the narrower side fills the low lanes. -/
def vcvtSlot (pd pa : Line) (x y : ElemType) : SlotFn := fun _ _ t _ =>
  let c := t.vmode
  let n := 2048 / Nat.max (elemBits x) (elemBits y)
  let xs := elements (elemBits x) (t.line pa)
  readingLines t [pa] (.keep (t.putElems pd (elemBits y) (activeRes c.mask n fun e => cvtElem c x y (elemAt xs e))))

/-- VCVT (R162). -/
def execVcvt (pd pa : Line) (src dst : ElemType) (s : State) : Result :=
  s.runSlot "VCVT" (.vcvt pd pa src dst) (vcvtSlot pd pa src dst)

/-- VCMP's mask: the active elements compared, the inactive kept, the bits past the line's elements 0 (R156). -/
def cmpMask (old active : BitVec 256) (n : Nat) (f : Nat → Bool) : BitVec 256 :=
  BitVec.ofNat 256 ((List.range n).foldr (fun e v =>
    2 * v + (if active.getLsbD e then f e else old.getLsbD e).toNat) 0)

/-- VCMP's slot (R156). -/
def vcmpSlot (cond : VCond) (md : MaskReg) (pa pb : Line) : SlotFn := fun _ _ t _ =>
  let c := t.vmode
  let n := elemCount c
  let xs := t.elems c pa
  let ys := t.elems c pb
  let inv := (List.range n).any fun e => c.mask.getLsbD e && (opCmp c cond (elemAt xs e) (elemAt ys e)).2
  readingLines t [pa, pb] (.keep
    ((t.setMask md (cmpMask (t.mask md) c.mask n fun e => (opCmp c cond (elemAt xs e) (elemAt ys e)).1)).raise { inv := inv }))

/-- VCMP (R156). -/
def execVcmp (cond : VCond) (md : MaskReg) (pa pb : Line) (s : State) : Result :=
  s.runSlot "VCMP" (.vcmp cond md pa pb) (vcmpSlot cond md pa pb)

/-- VSEL's slot: every element, by the current mask (R157). -/
def vselSlot (pd pa pb : Line) : SlotFn := fun _ _ t _ =>
  let c := t.vmode
  let xs := t.elems c pa
  let ys := t.elems c pb
  readingLines t [pa, pb] (.keep (t.putElems pd (elemBits c.ty)
    ((List.range (elemCount c)).map fun e => some (plain (elemAt (if c.mask.getLsbD e then xs else ys) e)))))

/-- VSEL (R157). -/
def execVsel (pd pa pb : Line) (s : State) : Result := s.runSlot "VSEL" (.vsel pd pa pb) (vselSlot pd pa pb)

/-- VAND (R158). -/
def execVand (pd pa pb : Line) (s : State) : Result :=
  s.runSlot "VAND" (.vand pd pa pb) (vec2 pd pa pb (fun _ a b => plain (a &&& b)))

/-- VOR (R158). -/
def execVor (pd pa pb : Line) (s : State) : Result :=
  s.runSlot "VOR" (.vor pd pa pb) (vec2 pd pa pb (fun _ a b => plain (a ||| b)))

/-- VXOR (R158). -/
def execVxor (pd pa pb : Line) (s : State) : Result :=
  s.runSlot "VXOR" (.vxor pd pa pb) (vec2 pd pa pb (fun _ a b => plain (a ^^^ b)))

/-- VSHL (R158). -/
def execVshl (pd pa pb : Line) (s : State) : Result :=
  s.runSlot "VSHL" (.vshl pd pa pb) (vec2 pd pa pb (fun c a b => plain (opShl (elemBits c.ty) a b)))

/-- VSHR (R158). -/
def execVshr (pd pa pb : Line) (s : State) : Result :=
  s.runSlot "VSHR" (.vshr pd pa pb) (vec2 pd pa pb (fun c a b => plain (opShr (elemBits c.ty) a b)))

/-- VSRA (R158). -/
def execVsra (pd pa pb : Line) (s : State) : Result :=
  s.runSlot "VSRA" (.vsra pd pa pb) (vec2 pd pa pb (fun c a b => plain (opSra (elemBits c.ty) a b)))

/-- A slot of a line and a scalar (R155). -/
def vecScalar (pd pa : Line) (sb : SReg) (f : VMode → Nat → Nat → Res) : SlotFn := fun s i t b =>
  vec1 pd pa (fun c a => f c a (t.scalarElem c sb)) s i t b

/-- VADDS (R155). -/
def execVadds (pd pa : Line) (sb : SReg) (s : State) : Result := s.runSlot "VADDS" (.vadds pd pa sb) (vecScalar pd pa sb opAdd)

/-- VMULS (R155). -/
def execVmuls (pd pa : Line) (sb : SReg) (s : State) : Result := s.runSlot "VMULS" (.vmuls pd pa sb) (vecScalar pd pa sb opMul)

/-- VFMAS (R155). -/
def execVfmas (pd pa : Line) (sb : SReg) (s : State) : Result :=
  s.runSlot "VFMAS" (.vfmas pd pa sb) fun s i t b =>
    let ds := t.elems t.vmode pd
    let xs := t.elems t.vmode pa
    vecSlot pd [pd, pa] (fun c t e => opFused c false false (elemAt ds e) (elemAt xs e) (t.scalarElem c sb)) s i t b

/-- VBCAST (R159). -/
def execVbcast (pd : Line) (sa : SReg) (s : State) : Result :=
  s.runSlot "VBCAST" (.vbcast pd sa) (vecSlot pd [] fun c t _ => plain (t.scalarElem c sa))

/-- VIOTA (R160). -/
def execViota (pd : Line) (s : State) : Result := s.runSlot "VIOTA" (.viota pd) (vecSlot pd [] fun c _ e => opIota c e)

/-- VSHUF (R161): element e takes the element of A that B's element e names, modulo the count. -/
def execVshuf (pd pa pb : Line) (s : State) : Result :=
  s.runSlot "VSHUF" (.vshuf pd pa pb) fun s i t b =>
    let xs := t.elems t.vmode pa
    let ys := t.elems t.vmode pb
    vecSlot pd [pa, pb] (fun c _ e => plain (elemAt xs (elemAt ys e % elemCount c))) s i t b

/-- The elements of a line with whether each is active. -/
def activeElems (c : VMode) (es : List Nat) : List (Bool × Nat) := es.zipIdx.map fun x => (c.mask.getLsbD x.2, x.1)

/-- VSCAN (R163). -/
def execVscan (pd pa : Line) (op : ScanOp) (s : State) : Result :=
  s.runSlot "VSCAN" (.vscan pd pa op) fun _ _ t _ =>
    let c := t.vmode
    let r := scanGo c op none (activeElems c (t.elems c pa))
    readingLines t [pa] (.keep ((t.setElements pd (elemBits c.ty) r.1).raise r.2))

/-- VRED (R164, R165). -/
def execVred (sd : SReg) (pa : Line) (op : RedOp) (s : State) : Result :=
  s.runSlot "VRED" (.vred sd pa op) fun _ _ t _ =>
    let c := t.vmode
    let r := reduce c op (activeElems c (t.elems c pa))
    let t' := if c.ty = .f64 ∧ op ≠ .argmax then t.setPair (pairOf sd) r.1 else t.setS sd (BitVec.ofNat 32 r.1)
    readingLines t [pa] (.keep (t'.raise r.2))

/-- Whether VCFG takes an immediate (R144). -/
def vcfgOk (imm : BitVec 16) : Bool := decide ((imm.extractLsb' 0 4).toNat < 12) && imm.extractLsb' 11 5 == 0

/-- VCFG (R142, R144). -/
def execVcfg (imm : BitVec 16) (s : State) : Result :=
  s.runSlot "VCFG" (.vcfg imm) fun _ _ t _ =>
    if vcfgOk imm then .keep { t with k := { t.k with vcfg := imm } } else .trap 0x16 0x10

end Sys2Proof.Machine
end

