-- ==== Sys2Proof/Machine/Scratch.lean ====
section
/-! DEFINITION. The L-unit instructions (spec/06_isa_memory_and_sync.md R169-R181, R431): scratchpad, gather and scatter, crew
space, atomics. -/

namespace Sys2Proof.Machine

/-! ## Addresses -/

/-- The low 24 bits of an address in two's complement, as TCAUSE[31:8] holds them (R169). -/
def addrDetail (ea : Int) : Nat := wrap ea 24

/-- The checks of R169 on an access: the cause of the first that fails. -/
def addrFault (ea : Int) (size align : Nat) : Option Nat :=
  if ea < 0 ∨ (spadSize : Int) < ea + size then some 0x04
  else if ea.toNat % align ≠ 0 then some 0x05
  else if regionOf ea.toNat ≠ regionOf (ea.toNat + size - 1) then some 0x05
  else none

/-- A slot that accesses the scratchpad at an address that passes its checks. -/
def atAddr (ea : Int) (size align : Nat) (k : Nat → SlotOut) : SlotOut :=
  match addrFault ea size align with
  | some c => .trap c (addrDetail ea)
  | none => k ea.toNat

/-- A register and a count of units (R171). -/
def immAddr (t : Tile) (sa : SReg) (imm : BitVec 8) (unit : Nat) : Int := ((t.sreg sa).toNat : Int) + imm.toInt * unit
/-- The sum of two registers (R171). -/
def sumAddr (t : Tile) (sa sb : SReg) : Int := ((t.sreg sa).toNat : Int) + ((t.sreg sb).toNat : Int)

/-! ## The operation of an atomic (R178) -/

/-- A float type of an atomic's width. -/
def atomMode (w : Nat) : VMode := ⟨if w = 64 then .f64 else .f32, fullMask, .rne, false, false, false⟩

/-- The new value of an atomic's word (R178): m the old word, v the operand, c CAS's comparand. -/
def atomNew (w : Nat) (op : AtomOp) (m v c : Nat) : Nat :=
  match op with
  | .add => (m + v) % 2 ^ w
  | .sub => (m + 2 ^ w - v) % 2 ^ w
  | .and => m &&& v
  | .or => m ||| v
  | .xor => m ^^^ v
  | .xch => v
  | .smin => if sext m w ≤ sext v w then m else v
  | .smax => if sext m w ≤ sext v w then v else m
  | .umin => Nat.min m v
  | .umax => Nat.max m v
  | .fmin => (opPick (atomMode w) false m v).v
  | .fmax => (opPick (atomMode w) true m v).v
  | .fadd => (opAdd (atomMode w) m v).v
  | .cas => if m = c then v else m

/-! ## Crew-space accesses at their target (R170, R175, R180) -/

/-- Whether a tile serves the crew-space accesses and posts of a launch: it is in a point, pended, cut or in a prologue; a
stopped tile discards them (R176, R181, R312). -/
def Tile.serves (t : Tile) (h : BitVec 16) : Bool :=
  t.pt.handle == h && (t.act == .point || t.act == .prologue || t.act == .pended || t.act == .cut || t.act == .entering)

/-- The tile that performs an access: its own goes beside its pending gathers and scatters, in its program order (R257). -/
def CrewAccess.storeAt (a : CrewAccess) (t : Tile) (ad : Nat) (bs : List Byte) : Tile :=
  if a.src = a.dst then t.ownStoreAt a.seqNo ad bs else t.setSpad ad bs

/-- The bytes that an access finds at its target. -/
def CrewAccess.bytesAt (a : CrewAccess) (t : Tile) (ad n : Nat) : List Byte :=
  if a.src = a.dst then Cells.getRange 0 (t.viewAt a.seqNo) ad n else t.spadBytes ad n

/-- A crew-space access performed at its target (R170, R175, R180), whole, though R170 lets another agent see a mix of old and new
words of a line: DESIGN CHOICE, notes/assumptions/20.md. The entry that issued it, if it is still pending, or the waiting ATOM of its
sender gets the value. -/
def State.performCrew (s : State) (a : CrewAccess) : State :=
  let x := s.tile a.dst
  if !x.serves a.handle then s
  else match a.op with
    | .store ad ws =>
      s.setTile a.dst ((a.storeAt x ad (bytesOfWords ws)).meetCrew a.dst (conflictCycles (accessesOf x.k ad 256)) (s.crewDepth a.dst))
    | .load ad _ =>
      let ws := wordsOfBytes (a.bytesAt x ad 256)
      let s := s.setTile a.dst (x.meetCrew a.dst (conflictCycles (accessesOf x.k ad 256)) (s.crewDepth a.dst))
      let y := s.tile a.src
      s.setTile a.src { y with sb := y.sb.map fun q => if q.seqNo == a.seqNo && q.isLdc then { q with work := match q.work with
        | .ldc pd none => .ldc pd (some ws)
        | w => w } else q }
    | .atom ad op v c =>
      let m : Word := BitVec.ofNat 32 (natOfBytes (a.bytesAt x ad 4))
      let s := s.setTile a.dst ((a.storeAt x ad (bytesOfNat 4 (atomNew 32 op m.toNat v.toNat c.toNat))).meetCrew a.dst 0 (s.crewDepth a.dst))
      let y := s.tile a.src
      match y.inflight with
      | some b => if b.atomSent then s.setTile a.src { y with inflight := some { b with atomBack := some m } } else s
      | none => s

/-- The crew-space accesses of a tile to its own scratchpad that are still on their way, performed: a later access of its own finds them
done (R257 item 1). -/
def State.flushOwn (s : State) (i : TileId) : State :=
  let mine := s.crew.filter fun a => a.src == i && a.dst == i
  mine.foldl State.performCrew { s with crew := s.crew.filter fun a => !(a.src == i && a.dst == i) }

/-- A slot that uses the tile's own scratchpad, after the accesses that the tile sent there through the crew path. -/
def State.runOwn (s : State) (mn : String) (ins : Instr) (f : SlotFn) : Result := (s.flushOwn s.focus).runSlot mn ins f

/-! ## Lines, words and masks (R171) -/

/-- A line loaded from an address. -/
def loadLine (pd : Line) (ea : Tile → Int) : SlotFn := fun _ _ t _ =>
  atAddr (ea t) 256 16 fun a => .done (t.setLine pd (wordsOfBytes (t.ownBytes a 256))) (accessesOf t.k a 256) {} .seq

/-- A line stored at an address. -/
def storeLine (ps : Line) (ea : Tile → Int) : SlotFn := fun _ _ t _ =>
  atAddr (ea t) 256 16 fun a =>
    readingLines t [ps] (.done (t.ownStore a (bytesOfWords (t.line ps))) (accessesOf t.k a 256) {} .seq)

/-- LDL (R171). -/
def execLdl (pd : Line) (sa : SReg) (imm : BitVec 8) (s : State) : Result :=
  s.runOwn "LDL" (.ldl pd sa imm) (loadLine pd fun t => immAddr t sa imm 256)

/-- STL (R171). -/
def execStl (ps : Line) (sa : SReg) (imm : BitVec 8) (s : State) : Result :=
  s.runOwn "STL" (.stl ps sa imm) (storeLine ps fun t => immAddr t sa imm 256)

/-- LDLX (R171). -/
def execLdlx (pd : Line) (sa sb : SReg) (s : State) : Result :=
  s.runOwn "LDLX" (.ldlx pd sa sb) (loadLine pd fun t => sumAddr t sa sb)

/-- STLX (R171). -/
def execStlx (ps : Line) (sa sb : SReg) (s : State) : Result :=
  s.runOwn "STLX" (.stlx ps sa sb) (storeLine ps fun t => sumAddr t sa sb)

/-- LDW (R171). -/
def execLdw (sd sa : SReg) (imm : BitVec 8) (s : State) : Result :=
  s.runOwn "LDW" (.ldw sd sa imm) fun _ _ t _ =>
    atAddr (immAddr t sa imm 4) 4 4 fun a => .done (t.setS sd (t.ownWord a)) (accessesOf t.k a 4) {} .seq

/-- STW (R171). -/
def execStw (ss sa : SReg) (imm : BitVec 8) (s : State) : Result :=
  s.runOwn "STW" (.stw ss sa imm) fun _ _ t _ =>
    atAddr (immAddr t sa imm 4) 4 4 fun a => .done (t.ownStore a (bytesOfNat 4 (t.sreg ss).toNat)) (accessesOf t.k a 4) {} .seq

/-- LDM (R171). -/
def execLdm (m : MaskReg) (sa : SReg) (imm : BitVec 8) (s : State) : Result :=
  s.runOwn "LDM" (.ldm m sa imm) fun _ _ t _ =>
    atAddr (immAddr t sa imm 32) 32 32 fun a =>
      .done (t.setMask m (BitVec.ofNat 256 (natOfBytes (t.ownBytes a 32)))) (accessesOf t.k a 32) {} .seq

/-- STM (R171); STM of m0 stores ones. -/
def execStm (m : MaskReg) (sa : SReg) (imm : BitVec 8) (s : State) : Result :=
  s.runOwn "STM" (.stm m sa imm) fun _ _ t _ =>
    atAddr (immAddr t sa imm 32) 32 32 fun a =>
      .done (t.ownStore a (bytesOfNat 32 (t.mask m).toNat)) (accessesOf t.k a 32) {} .seq

/-! ## The scoreboard (R73) -/

/-- The lowest free entry number. DESIGN CHOICE, notes/assumptions/29.md. -/
def Tile.freeEntry (t : Tile) : BitVec 4 :=
  match (List.range 16).find? fun n => !(t.sb.any fun e => e.num.toNat == n) with
  | some n => BitVec.ofNat 4 n
  | none => 0

/-- Work put on the scoreboard at the commit of a slot. -/
def Tile.addEntry (t : Tile) (b : Inflight) (w : SbWork) : Tile :=
  { t with sb := t.sb ++ [⟨t.freeEntry, t.issueNo, commitCycle t b, w, false, 0, []⟩], issueNo := t.issueNo + 1 }

/-- The entry of a number, if it may write back: none does in a handler, released entries in order of issue (R75), and none before its
cycle has come. -/
def Tile.entry? (t : Tile) (e : BitVec 4) : Option SbEntry :=
  if t.k.trapped then none
  else match t.sb.find? fun x => x.num == e with
    | some x => if (t.sb.any fun y => y.before x) || !t.dueNow x then none else some x
    | none => none

/-- The tile without an entry that wrote back in a cycle; the entry is kept with the cycle for the bundles that wait on it. -/
def Tile.entryDone (t : Tile) (e : SbEntry) (c : Nat) : Tile :=
  { t with cutHere := t.cutAtD, sb := t.sb.erase e, pipe := { t.pipe with backs := t.pipe.backs ++ [(e, c)] }, meets := t.meets + 1 }

/-- A tile after a write-back: one that the scoreboard held at D until then was held by a rule (R319). -/
def State.backDone (s : State) (i : TileId) (y : Tile) : State :=
  s.setTile i { y with movedAt := if (s.tile i).waitsAtD then s.time else y.movedAt }

/-- The conflict cycles of an entry's own accesses that are not yet counted: in ACONF those of an array's fetches, in BCONF those of lanes
(R209, R431). -/
def Tile.countRest (t : Tile) (e : SbEntry) (c : Nat) : Tile :=
  let cs := (t.slowCycles e c).drop e.paid
  let marks := cs.map fun x => (x, 1)
  if e.isMatrix then { t.addAconf cs.length with pipe := { t.pipe with acounts := t.pipe.acounts ++ marks } }
  else { t.addBconf cs.length with pipe := { t.pipe with bcounts := t.pipe.bcounts ++ marks } }

/-! ## Gather and scatter (R172, R431) -/

/-- The 64 addresses of a gather. -/
def gatherAddrs (t : Tile) (sa : SReg) (pb : Line) : List Nat := (t.line pb).map fun w => (t.sreg sa).toNat + 4 * w.toNat

/-- The trap of a gather: a base that is not a multiple of 4, else the lowest lane that fails R169. -/
def gatherFault (base : Nat) (as : List Nat) : Option SlotOut :=
  if base % 4 ≠ 0 then some (.trap 0x05 (addrDetail (as.headD 0)))
  else as.findSome? fun (a : Nat) => (addrFault (a : Int) 4 4).map fun c => .trap c (addrDetail a)

/-- A gather or scatter that takes its entry. A line with a bad cell traps 0x0F before the addresses are checked; a store of one traps after
them. DESIGN CHOICE, notes/assumptions/34.md. -/
def gatherSlot (sa : SReg) (pb : Line) (ls : List Line) (w : Tile → List Nat → SbWork) : SlotFn := fun _ _ t b =>
  let as := gatherAddrs t sa pb
  readingLines t ls (match gatherFault (t.sreg sa).toNat as with
    | some tr => tr
    | none => .keep (t.addEntry b (w t as)))

/-- LDG (R172). -/
def execLdg (pd : Line) (sa : SReg) (pb : Line) (s : State) : Result :=
  s.runOwn "LDG" (.ldg pd sa pb) (gatherSlot sa pb [pb] fun _ as => .ldg pd as (List.replicate 64 none))

/-- STG (R172). -/
def execStg (ps : Line) (sa : SReg) (pb : Line) (s : State) : Result :=
  s.runOwn "STG" (.stg ps sa pb) (gatherSlot sa pb [ps, pb] fun t as => .stg ((t.line ps).map some) as)

/-- LDG_WRITEBACK (R431): every lane is read, and the line written. DEDUCED, notes/assumptions/20.md. -/
def execLdgWriteback (t : TileId) (e : BitVec 4) (s : State) : Result :=
  let x := s.tile t
  match x.entry? e with
  | some ent =>
    match ent.work with
    | .ldg pd as tk =>
      let ws := (as.zip tk).map fun p => p.2.getD (x.spadWord p.1)
      let c := x.backCycle t ent
      .next (s.backDone t (((x.setLine pd ws).countRest ent c).entryDone ent c))
    | _ => .refused (.notEnabled "LDG_WRITEBACK")
  | none => .refused (.notEnabled "LDG_WRITEBACK")

/-- Words stored at addresses, in order, by an STG of a place in the issue order. -/
def Tile.scatter (t : Tile) (seqNo : Nat) : List (Nat × Word) → Tile
  | [] => t
  | (a, w) :: ps => Tile.scatter (t.setSpadBy (some seqNo) a (bytesOfNat 4 w.toNat)) seqNo ps

/-- STG_WRITEBACK (R431): the words are written in lane order. -/
def execStgWriteback (t : TileId) (e : BitVec 4) (s : State) : Result :=
  let x := s.tile t
  match x.entry? e with
  | some ent =>
    match ent.work with
    | .stg ws as =>
      let c := x.backCycle t ent
      .next (s.backDone t (((x.scatter ent.seqNo (lanesLeft as ws)).countRest ent c).entryDone ent c))
    | _ => .refused (.notEnabled "STG_WRITEBACK")
  | none => .refused (.notEnabled "STG_WRITEBACK")

/-! ## Crew space (R174-R176) -/

/-- A crew-space address that passes its checks: the target and the offset, or the trap (R174). -/
def atCrew (i : TileId) (t : Tile) (v : Word) (size align : Nat) (k : TileId → Nat → SlotOut) : SlotOut :=
  let r := bits v.toNat 24 8
  let off := bits v.toNat 0 21
  if t.crewN ≤ r then .trap 0x06 0x01
  else if bits v.toNat 21 3 ≠ 0 then .trap 0x04 off
  else match addrFault off size align with
    | some c => .trap c off
    | none => k (crewTile i t r) off

/-- A crew-space access that a tile's slot sends. -/
def crewSend (i j : TileId) (t : Tile) (op : CrewOp) : CrewAccess := ⟨i, j, op, t.pt.handle, t.issueNo⟩

/-- STC (R175). -/
def execStc (ps : Line) (sa : SReg) (s : State) : Result :=
  s.runSlot "STC" (.stc ps sa) fun _ i t _ =>
    atCrew i t (t.sreg sa) 256 16 fun j a => readingLines t [ps]
      (.done { t with issueNo := t.issueNo + 1 } [] { crew := [crewSend i j t (.store a (t.line ps))] } .seq)

/-- LDC (R175). -/
def execLdc (pd : Line) (sa : SReg) (s : State) : Result :=
  s.runSlot "LDC" (.ldc pd sa) fun _ i t b =>
    atCrew i t (t.sreg sa) 256 16 fun j a =>
      .done (t.addEntry b (.ldc pd none)) [] { crew := [crewSend i j t (.load a t.freeEntry)] } .seq

/-- LDC_WRITEBACK (R175): once the access was performed at its target, the line is written. -/
def execLdcWriteback (t : TileId) (e : BitVec 4) (s : State) : Result :=
  let x := s.tile t
  match x.entry? e with
  | some ent =>
    match ent.work with
    | .ldc pd (some ws) => .next (s.backDone t ((x.setLine pd ws).entryDone ent (x.backCycle t ent)))
    | _ => .refused (.notEnabled "LDC_WRITEBACK")
  | none => .refused (.notEnabled "LDC_WRITEBACK")

/-! ## Atomics (R177-R181) -/

/-- ATOM's slot: a LOCAL one at its commit, a CREW one sent to its target and committed on the return (R179). -/
def atomSlot (op : AtomOp) (sd sa : SReg) (space : AtomSpace) (sb : SReg) : SlotFn := fun _ i t b =>
  match space with
  | .loc =>
    atAddr ((t.sreg sa).toNat : Int) 4 4 fun a =>
      let m := t.ownWord a
      let w := BitVec.ofNat 32 (atomNew 32 op m.toNat (t.sreg sb).toNat (t.sreg sd).toNat)
      .done ((t.ownStore a (bytesOfNat 4 w.toNat)).setS sd m) (accessesOf t.k a 4) {} .seq
  | .crew =>
    match b.atomBack with
    | some m => .done (t.setS sd m) [] {} .seq
    | none => atCrew i t (t.sreg sa) 4 4 fun j a => .send (crewSend i j t (.atom a op (t.sreg sb) (t.sreg sd)))

/-- ATOM (R177). -/
def execAtom (op : AtomOp) (sd sa : SReg) (space : AtomSpace) (sb : SReg) (s : State) : Result :=
  s.runOwn "ATOM" (.atom op sd sa space sb) (atomSlot op sd sa space sb)

/-- CREW_ACCESS_ARRIVAL (R175): accesses of one tile to one target are performed in the order of their commit. A line, a mask and a
gather are read and written whole, of which R170 needs every word only. DESIGN CHOICE, notes/assumptions/20.md. -/
def execCrewAccessArrival (i : Nat) (s : State) : Result :=
  match s.crew[i]? with
  | none => .refused (.notEnabled "CREW_ACCESS_ARRIVAL")
  | some a =>
    if (s.crew.take i).any fun x => x.src == a.src && x.dst == a.dst then .refused (.notEnabled "CREW_ACCESS_ARRIVAL")
    else .next ((State.performCrew { s with crew := s.crew.eraseIdx i } a).freed a.src [.fence])

/-- CREW_ATOM_RETURN (R179, R181): the old word comes back, and the slot commits. -/
def execCrewAtomReturn (t : TileId) (s : State) : Result :=
  let x := s.tile t
  match x.inflight with
  | none => .refused (.notEnabled "CREW_ATOM_RETURN")
  | some b =>
    match b.atomBack, (b.words[b.next]?).map decodeSlot with
    | some _, some (.ok (.atom op sd sa space sb)) =>
      if b.atomSent && !s.cutDue x.pt.handle then
        (s.setTile t { x with inflight := some { b with atomSent := false }, movedAt := s.time }).runSlotOn t "CREW_ATOM_RETURN"
          (.atom op sd sa space sb) (atomSlot op sd sa space sb)
      else .refused (.notEnabled "CREW_ATOM_RETURN")
    | _, _ => .refused (.notEnabled "CREW_ATOM_RETURN")

end Sys2Proof.Machine
end

