-- ==== Sys2Proof/Machine/Matrix.lean ====
section
/-! DEFINITION. The M-unit instructions but for MSTREAM, and the work of the array (spec/07_isa_matrix.md R202-R219, R226-R228;
19_programs_matrix.md R428). -/

namespace Sys2Proof.Machine

/-! ## Configuration and layouts -/

/-- MCFG (R210). -/
def execMcfg (imm : BitVec 16) (s : State) : Result :=
  s.runSlot "MCFG" (.mcfg imm) fun _ _ t _ =>
    if imm.extractLsb' 8 8 == 0 && decide ((imm.extractLsb' 4 4).toNat ≤ 12) && decide ((imm.extractLsb' 0 4).toNat ≤ 12)
    then .keep { t with k := { t.k with mcfg := imm } } else .trap 0x16 0x12

/-- A layout record's fields (R206). -/
def layoutOf (bs : List Byte) : LayoutRec :=
  ⟨Vector.ofFn fun j : Fin 4 => BitVec.ofNat 32 (field bs (4 * j.val) 4),
   Vector.ofFn fun j : Fin 4 => BitVec.ofNat 16 (field bs (16 + 2 * j.val) 2)⟩

/-- MLAY (R207). -/
def execMlay (lay : BitVec 2) (sa : SReg) (s : State) : Result :=
  s.runOwn "MLAY" (.mlay lay sa) fun _ _ t _ =>
    atAddr ((t.sreg sa).toNat : Int) 32 32 fun a =>
      let bs := t.ownBytes a 32
      let r := layoutOf bs
      if (r.extents.toList.any fun e => e == 0) || field bs 24 8 != 0 then .trap 0x14 0x08
      else .done { t with lays := t.lays.set lay.toNat r lay.isLt } (accessesOf t.k a 32) {} .seq

/-- Whether MWAIT may commit (R228). -/
def macroIdle (t : Tile) (m : BitVec 3) : Bool := !t.macroBusy m.toNat t.issueNo

/-- MWAIT's slot. -/
def mwaitSlot (m : BitVec 3) : SlotFn := fun _ _ t _ => if macroIdle t m then .keep t else .hold .mwait

/-- MWAIT (R228). -/
def execMwait (mac : BitVec 3) (s : State) : Result := s.runSlot "MWAIT" (.mwait mac) (mwaitSlot mac)

/-- An MWAIT. -/
def isMwait : Instr → Bool | .mwait _ => true | _ => false

/-- MWAIT_COMMIT (R228). -/
def execMwaitCommit (t : TileId) (s : State) : Result :=
  let x := s.tile t
  match heldSlot x isMwait with
  | some (.mwait m) =>
    if heldFor x .mwait && macroIdle x m then s.holdEnds t "MWAIT_COMMIT" (.mwait m) (mwaitSlot m)
    else .refused (.notEnabled "MWAIT_COMMIT")
  | _ => .refused (.notEnabled "MWAIT_COMMIT")

/-! ## MMUL and MMULD -/

/-- The region format of an address (R32). -/
def regionFmt (k : KRegs) (a : Nat) : Nat := bits (k.regionDesc a) 0 4

/-- The first chunk that fails a test, with its address. -/
def badChunk (l : LayoutRec) (base n : Nat) (bad : Int → Bool) : Option Int :=
  ((List.range n).map (chunkAddr l base)).find? bad

/-- Whether an MX block of a row's group lies as R208 asks. -/
def mxGroupOk (l : LayoutRec) (base code q : Nat) : Bool :=
  let a := chunkAddr l base q
  if code = 6 then a.toNat % 32 == 0 && chunkAddr l base (q + 1) == a + 16 else a.toNat % 16 == 0

/-- The checks of R213, in order: the trap of the first that fails, or the A format. -/
def mmulCheck (t : Tile) (dbl : Bool) (acc : BitVec 4) (a m : Nat) (l : LayoutRec) : Except (Nat × Nat) Nat :=
  let ovr := (t.k.mcfg.extractLsb' 4 4).toNat
  if ovr = 0 ∧ 0x1FFFFF < a then .error (0x04, addrDetail a)
  else
    let fmt := if ovr = 0 then regionFmt t.k a else ovr
    match aMode dbl fmt with
    | none => .error (0x14, 0x01)
    | some mode =>
      let tag := t.tagAhead (acc.extractLsb' 1 3)
      let n := m * chunksPerRow fmt
      if tag = .none then .error (0x14, 0x02)
      else if (match tag with | .fmt c => !pairOk mode c.toNat | _ => false) then .error (0x14, 0x03)
      else if l.isEmpty || decide (l.cover < n) then .error (0x14, 0x04)
      else if a % 16 ≠ 0 then .error (0x05, addrDetail a)
      else match badChunk l a n fun x => decide (x < 0 ∨ (spadSize : Int) < x + 16) with
        | some x => .error (0x04, addrDetail x)
        | none =>
          match badChunk l a n fun x => regionOf x.toNat != regionOf a with
          | some x => .error (0x05, addrDetail x)
          | none =>
            let desc := t.k.regionDesc a
            if isMx fmt && !((List.range (n / (mxBlock fmt / 16))).all fun g => mxGroupOk l a fmt (g * (mxBlock fmt / 16)))
            then .error (0x14, 0x06)
            else if isMx fmt && decide (spadSize < mxOff desc + mxArea fmt) then .error (0x14, 0x07)
            else .ok fmt

/-- A matrix multiply's slot (R213): it takes its entry with its snapshots. -/
def mmulSlot (dbl zf : Bool) (acc : BitVec 4) (sa : SReg) (rows : BitVec 4) (lay : BitVec 2) : SlotFn := fun _ _ t b =>
  let a := (t.sreg sa).toNat
  let l := t.lays[lay.toNat]'lay.isLt
  match mmulCheck t dbl acc a (rows.toNat + 1) l with
  | .error (c, d) => .trap c d
  | .ok fmt => .keep (t.addEntry b (.mmul acc dbl zf (rows.toNat + 1) (BitVec.ofNat 4 fmt) l (BitVec.ofNat 32 a) t.raced.length))

/-- MMUL (R213). -/
def execMmul (acc : BitVec 4) (sa : SReg) (rows : BitVec 4) (lay : BitVec 2) (s : State) : Result :=
  s.runOwn "MMUL" (.mmul acc sa rows lay) (mmulSlot false false acc sa rows lay)

/-- MMULZ (R213). -/
def execMmulz (acc : BitVec 4) (sa : SReg) (rows : BitVec 4) (lay : BitVec 2) (s : State) : Result :=
  s.runOwn "MMULZ" (.mmulz acc sa rows lay) (mmulSlot false true acc sa rows lay)

/-- The even accumulator of a pair. -/
def evenAcc (p : BitVec 3) : BitVec 4 := (p ++ 0#1 : BitVec 4)

/-- MMULD (R213). -/
def execMmuld (accPair : BitVec 3) (sa : SReg) (rows : BitVec 4) (lay : BitVec 2) (s : State) : Result :=
  s.runOwn "MMULD" (.mmuld accPair sa rows lay) (mmulSlot true false (evenAcc accPair) sa rows lay)

/-- MMULDZ (R213). -/
def execMmuldz (accPair : BitVec 3) (sa : SReg) (rows : BitVec 4) (lay : BitVec 2) (s : State) : Result :=
  s.runOwn "MMULDZ" (.mmuldz accPair sa rows lay) (mmulSlot true true (evenAcc accPair) sa rows lay)

/-! ## What the array writes -/

/-- Whether a recorded write covers a byte. -/
def RaceRec.covers (r : RaceRec) (a : Nat) : Bool := decide (r.addr ≤ a) && decide (a < r.addr + r.old.length)

/-- The writes of a record that come after the last one of an STG that an instruction at a place in the issue order follows: the
instruction finds that STG's words, or later ones (R217). -/
def afterStg (place a : Nat) (rs : List RaceRec) : List RaceRec :=
  rs.foldl (fun left r => match r.stg with
    | some q => if q < place && r.covers a then [] else left ++ [r]
    | none => left ++ [r]) []

/-- A byte as matrix work finds it that reads it after so many of the recorded writes. -/
def Tile.byteAfter (t : Tile) (place n a : Nat) : Byte :=
  match (afterStg place a (t.raced.drop n)).find? fun r => r.covers a with
  | some r => r.old.getD (a - r.addr) 0
  | none => Cells.get 0 t.spad a

/-- How the elements of an MMUL or MLDW are read while others write (R217): each at a moment of its own between the writes that were
performed since the instruction's commit, so that its bytes are those before or after each of them. DESIGN CHOICE,
notes/assumptions/10.md. -/
structure RaceView where
  tile  : Tile
  place : Nat
  since : Nat
  draw  : Nat

/-- The n bytes of an element of a number, read whole. -/
def RaceView.bytes (v : RaceView) (elem : Nat) (a : Int) (n : Nat) : List Byte :=
  let k := v.since + Config.readsAt v.draw elem % (v.tile.raced.length - v.since + 1)
  (List.range n).map fun j => v.tile.byteAfter v.place k (a.toNat + j)

/-- Element k of A row i, and the exponent of its block scale (R208, R92). -/
def aElem (v : RaceView) (fmt : Nat) (l : LayoutRec) (base i j : Nat) : FVal × Scale :=
  let w := regionBits fmt
  let o := j * w / 8
  let a := chunkAddr l base (i * chunksPerRow fmt + o / 16) + (o % 16 : Nat)
  let x := natOfBytes (v.bytes (128 * i + j) a (Nat.max 1 (w / 8)))
  let x := if w = 4 then bits x (4 * (j % 2)) 4 else x
  let sc : Scale :=
    if isMx fmt then
      let g := chunkAddr l base (i * chunksPerRow fmt + j / 32 * (mxBlock fmt / 16))
      let y := natOfBytes (v.bytes (4096 + 4 * i + j / 32) (mxScaleAddr fmt (v.tile.k.regionDesc base) g.toNat) 1)
      if y = 0xFF then none else some ((y : Int) - 127)
    else some 0
  (elemVal fmt x, sc)

/-- The tag of a macro as a format code. -/
def MacroTag.code : MacroTag → Nat
  | .fmt c => c.toNat
  | _ => 0

/-- A macro's weight at a row and column, with its scale. -/
def MacroState.weight (m : MacroState) (cells : Array Word) (scales : Array Byte) (k n : Nat) : FVal × Scale :=
  (weightVal m.tag.code (weightBits m.tag.code cells k n), weightScale m.tag.code scales k n)

/-- An integer value of an element. -/
def FVal.toInt (v : FVal) : Int :=
  match v with
  | .fin n m e => signed n (m * 2 ^ e.toNat)
  | _ => 0

/-- The new value of one output element: INVALID weights give the settled results of R216. DEDUCED, notes/assumptions/23.md. -/
def outElem (mode : MMode) (numv1 invalid : Bool) (t : FVal) (acc : Nat) (ks : List ((FVal × Scale) × (FVal × Scale))) : Nat :=
  match mode with
  | .float => if invalid then 0x7FC00000 else floatElem (accPar .float numv1) t acc (ks.map fun (a, b) => (a.1, b.1, a.2, b.2))
  | .int => if invalid then 0x80000000 else intElem acc (ks.map fun (a, b) => (a.1.toInt, b.1.toInt))
  | .fp64 => if invalid then fmtF64.canonNaN else floatElem (accPar .fp64 numv1) t acc (ks.map fun (a, b) => (a.1, b.1, some 0, some 0))

/-- The words of an accumulator that one output element of column n fills, as (index in the accumulator file, word). -/
def outWords (mode : MMode) (acc i n v : Nat) : List (Nat × Word) :=
  match mode with
  | .fp64 =>
    let at' := 2048 * (acc + n / 32) + 128 * i + 2 * (n % 32)
    [(at', BitVec.ofNat 32 v), (at' + 1, BitVec.ofNat 32 (v / 2 ^ 32))]
  | _ => [(2048 * acc + 128 * i + n, BitVec.ofNat 32 v)]

/-- What an accumulator holds for an output element. -/
def accElem (mode : MMode) (accs : Array Word) (acc i n : Nat) : Nat :=
  match mode with
  | .fp64 =>
    let at' := 2048 * (acc + n / 32) + 128 * i + 2 * (n % 32)
    (accs.getD at' 0).toNat + 2 ^ 32 * (accs.getD (at' + 1) 0).toNat
  | _ => (accs.getD (2048 * acc + 128 * i + n) 0).toNat

/-- The words that an MMUL or MMULD writes, row by row (R214, R215). The weights are decoded by the tag that the macro has then: one that a
resume left empty, its stream being issued anew only later, as format 0. DESIGN CHOICE, notes/assumptions/77.md. -/
def mmulWords (v : RaceView) (acc : Nat) (dbl zf : Bool) (rows fmt : Nat) (l : LayoutRec) (base : Nat) : List (Nat × Word) :=
  let t := v.tile
  let mode := (aMode dbl fmt).getD .float
  let m := t.macros.toList.getD (acc / 2) MacroState.empty
  let cells := (Cells.dense 0 0 16384 m.cells).toArray
  let scales := (Cells.dense 0 0 512 m.scales).toArray
  let accs := (Cells.dense 0 0 32768 t.acc).toArray
  let tv := if m.tag.code = 12 then fmtF32.decode m.tscale.toNat else FVal.ofNum 1
  let cols := if dbl then 64 else 128
  (List.range rows).flatMap fun i =>
    let as := (List.range 128).map (aElem v fmt l base i)
    let outs := (List.range cols).flatMap fun n =>
      let bs := (List.range 128).map fun k => m.weight cells scales k n
      let acc0 := if zf then 0 else accElem mode accs acc i n
      outWords mode acc i n (outElem mode (t.k.numv == 1) (m.tag == .invalid) tv acc0 (as.zip bs))
    let zeros := if dbl then (List.range 2).flatMap fun h => (List.range 64).map fun c => (2048 * (acc + h) + 128 * i + 64 + c, (0 : Word))
      else []
    outs ++ zeros

/-- Words written to the accumulator file, with good parity. -/
def Tile.setAcc (t : Tile) (ws : List (Nat × Word)) : Tile :=
  { t with acc := Cells.setAll 0 t.acc ws, accBad := t.accBad.filter fun c => !(ws.any fun p => p.1 == c) }

/-- A number as a macro. -/
def macroNo (m : Nat) : Fin 8 := ⟨m % 8, Nat.mod_lt _ (by decide)⟩

/-- A macro has finished work in a cycle. -/
def Tile.macroDone (t : Tile) (m : Fin 8) (c : Nat) : Tile := { t with pipe := { t.pipe with macEnd := t.pipe.macEnd.set m.val c m.isLt } }

/-- A macro that a stream failed to fill: its weights and scales are free values (R225). DESIGN CHOICE, notes/assumptions/11.md. -/
def failedMacro (x : MacroState) (n : Nat) : MacroState :=
  { x with tag := .invalid, cells := Cells.tabulate 0 16384 (Config.failedWeight n), fails := none,
           scales := Cells.tabulate 0 512 fun q => (Config.failedWeight n (16384 + q)).setWidth 8 }

/-- A fill that failed behind earlier work of its macro takes its place once that is done: the weights are then those of a failed fill
(R203). -/
def Tile.settleMacro (t : Tile) (m : Fin 8) (draw : Nat) : Tile :=
  match (t.macros[m]).fails with
  | some q => if t.macroBusy m.val q then t else { t with macros := t.macros.set m.val (failedMacro t.macros[m] draw) m.isLt }
  | none => t

/-- The tile without an entry whose matrix work finished in a cycle; with none left pending the record of replaced bytes ends. -/
def Tile.workDone (t : Tile) (e : SbEntry) (m : Fin 8) (c draw : Nat) : Tile :=
  let t := (((t.countRest e c).entryDone e c).macroDone m c).settleMacro m draw
  if t.sb.any SbEntry.isMatrix then t else { t with raced := [] }

/-- Whether a post of a tile's stream is still to arrive at the tile by a cycle (R429): the CERR bit of a failed fill stands before an MMUL
writes the results of INVALID weights (R216). -/
def State.postsDue (s : State) (i : TileId) (c : Nat) : Bool := s.posts.any fun p => p.dst == i && p.due.any (· ≤ c)

/-- MMUL_WRITEBACK (R214, R428): the macro has finished its earlier work, and the accumulator is written. DEDUCED,
notes/assumptions/22.md. -/
def execMmulWriteback (t : TileId) (e : BitVec 4) (s : State) : Result :=
  let x := s.tile t
  match x.entry? e with
  | some ent =>
    match ent.work with
    | .mmul acc dbl zf rows fmt l base since =>
      let m := acc.toNat / 2
      let c := x.backCycle t ent
      if x.macroBusy m ent.seqNo || s.postsDue t c then .refused (.notEnabled "MMUL_WRITEBACK")
      else
        let ws := mmulWords ⟨x, ent.seqNo, since, s.draws⟩ acc.toNat dbl zf rows fmt.toNat l base.toNat
        .next { s.backDone t ((x.setAcc ws).workDone ent (macroNo m) c s.draws) with draws := s.draws + 1 }
    | _ => .refused (.notEnabled "MMUL_WRITEBACK")
  | none => .refused (.notEnabled "MMUL_WRITEBACK")

/-! ## MLDW (R219) -/

/-- MLDW's checks: the trap of the first that fails, or the B format. -/
def mldwCheck (t : Tile) (a : Nat) : Except (Nat × Nat) Nat :=
  let ovr := (t.k.mcfg.extractLsb' 0 4).toNat
  if ovr = 0 ∧ 0x1FFFFF < a then .error (0x04, addrDetail a)
  else
    let fmt := if ovr = 0 then regionFmt t.k a else ovr
    if !((decide (2 ≤ fmt) && decide (fmt ≤ 10))) then .error (0x14, 0x01)
    else match addrFault a (imageData fmt) 256 with
      | some c => .error (c, addrDetail a)
      | none =>
        if isMx fmt && decide (spadSize < mxOff (t.k.regionDesc a) + mxArea fmt) then .error (0x14, 0x07) else .ok fmt

/-- MLDW (R219). -/
def execMldw (mac : BitVec 3) (sa : SReg) (s : State) : Result :=
  s.runOwn "MLDW" (.mldw mac sa) fun _ _ t b =>
    let a := (t.sreg sa).toNat
    match mldwCheck t a with
    | .error (c, d) => .trap c d
    | .ok fmt => .keep (t.addEntry b (.mldw mac (BitVec.ofNat 4 fmt) a t.raced.length))

/-- Byte j of a block of w-bit elements that others may write: each element is read whole (R217). -/
def RaceView.blockByte (v : RaceView) (w a j : Nat) : Byte :=
  if w = 4 then
    let nib (e o : Nat) : Nat := bits (natOfBytes (v.bytes e (a + j : Nat) 1)) o 4
    BitVec.ofNat 8 (nib (2 * j) 0 + 16 * nib (2 * j + 1) 4)
  else
    let u := w / 8
    (v.bytes (j / u) (a + j / u * u : Nat) u).getD (j % u) 0

/-- MLDW_FILL_DONE (R219): every weight is placed and the tag set. -/
def execMldwFillDone (t : TileId) (e : BitVec 4) (s : State) : Result :=
  let x := s.tile t
  match x.entry? e with
  | some ent =>
    match ent.work with
    | .mldw m fmt a since =>
      if x.macroBusy m.toNat ent.seqNo then .refused (.notEnabled "MLDW_FILL_DONE")
      else
        let v : RaceView := ⟨x, ent.seqNo, since, s.draws⟩
        let f := fmt.toNat
        let desc := x.k.regionDesc a
        let data := v.blockByte (regionBits f) a
        let scale (q : Nat) := (v.bytes (100000 + q) (mxScaleAddr f desc (a + q * mxBlock f) : Nat) 1).getD 0 0
        let y := { x with macros := x.macros.set m.toNat (fillMacro f data scale [] 0) m.isLt }
        let c := x.backCycle t ent
        .next { s.backDone t (y.workDone ent (macroNo m.toNat) c s.draws) with draws := s.draws + 1 }
    | _ => .refused (.notEnabled "MLDW_FILL_DONE")
  | none => .refused (.notEnabled "MLDW_FILL_DONE")

/-! ## Draining and clearing (R226, R227) -/

/-- MVA's slot: half a row to a line, and zeroed with MVAZ. -/
def mvaSlot (zero : Bool) (pd : Line) (half : BitVec 1) (acc row : BitVec 4) : SlotFn := fun _ _ t _ =>
  let at' := 2048 * acc.toNat + 128 * row.toNat + 64 * half.toNat
  if t.accBad.any fun c => decide (at' ≤ c) && decide (c < at' + 64) then .trap 0x11 (acc.toNat + 16 * row.toNat)
  else
    let t' := t.setLine pd (Cells.getRange 0 t.acc at' 64)
    .keep (if zero then t'.setAcc ((List.range 64).map fun j => (at' + j, 0)) else t')

/-- MVA (R226). -/
def execMva (pd : Line) (half : BitVec 1) (acc row : BitVec 4) (s : State) : Result :=
  s.runSlot "MVA" (.mva pd half acc row) (mvaSlot false pd half acc row)

/-- MVAZ (R226). -/
def execMvaz (pd : Line) (half : BitVec 1) (acc row : BitVec 4) (s : State) : Result :=
  s.runSlot "MVAZ" (.mvaz pd half acc row) (mvaSlot true pd half acc row)

/-- MACZ (R227). -/
def execMacz (acc : BitVec 4) (s : State) : Result :=
  s.runPure "MACZ" (.macz acc) fun t => t.setAcc ((List.range 2048).map fun j => (2048 * acc.toNat + j, 0))

end Sys2Proof.Machine
end

