-- ==== Sys2Proof/Machine/Gcm.lean ====
section
/-! DEFINITION. AES-256-GCM, which protects flit groups (spec/14_package_links_and_management.md R393, R395). The spec names the
algorithm alone; it is that of FIPS 197 and SP 800-38D. PRESUMED, notes/assumptions/58.md. -/

namespace Sys2Proof.Machine

/-! ## AES-256 -/

/-- A byte times x in AES's field. -/
def aesX (a : Byte) : Byte := (a <<< 1) ^^^ (if a.getLsbD 7 then 0x1B else 0)

/-- The product of a byte with the low n bits of another. -/
def aesMulGo : Nat → Byte → Nat → Byte
  | 0, _, _ => 0
  | n + 1, a, b => (if b % 2 = 1 then a else 0) ^^^ aesMulGo n (aesX a) (b / 2)

/-- The product of two bytes in AES's field. -/
def aesMul (a b : Byte) : Byte := aesMulGo 8 a b.toNat

/-- The inverse of a byte, its 254th power; 0 for 0. -/
def aesInv (a : Byte) : Byte :=
  let a2 := aesMul a a
  let a3 := aesMul a2 a
  let a6 := aesMul a3 a3
  let a12 := aesMul a6 a6
  let a15 := aesMul a12 a3
  let a30 := aesMul a15 a15
  let a60 := aesMul a30 a30
  let a63 := aesMul a60 a3
  let a126 := aesMul a63 a63
  let a127 := aesMul a126 a
  aesMul a127 a127

/-- The substitution of a byte. -/
def aesSub (a : Byte) : Byte :=
  let b := aesInv a
  b ^^^ b.rotateLeft 1 ^^^ b.rotateLeft 2 ^^^ b.rotateLeft 3 ^^^ b.rotateLeft 4 ^^^ 0x63

/-- Two lists of bytes added. -/
def xorBytes (a b : List Byte) : List Byte := List.zipWith (· ^^^ ·) a b

/-- x to the power n as a byte: the round constants. -/
def aesRcon : Nat → Byte
  | 0 => 1
  | n + 1 => aesX (aesRcon n)

/-- The next words of the key schedule, as many as are asked for. -/
def aesExpand : Nat → List (List Byte) → List (List Byte)
  | 0, ws => ws
  | n + 1, ws =>
    let i := ws.length
    let last := ws.getD (i - 1) []
    let t := if i % 8 = 0 then xorBytes ((last.drop 1 ++ last.take 1).map aesSub) [aesRcon (i / 8 - 1), 0, 0, 0]
      else if i % 8 = 4 then last.map aesSub else last
    aesExpand n (ws ++ [xorBytes (ws.getD (i - 8) []) t])

/-- A list cut into parts of n bytes. -/
def cutBytes (n : Nat) : Nat → List Byte → List (List Byte)
  | 0, _ => []
  | k + 1, bs => bs.take n :: cutBytes n k (bs.drop n)

/-- The fifteen round keys of a 256-bit key; its byte j is bits 8j + 7 to 8j. -/
def aesKeys (key : BitVec 256) : List (List Byte) :=
  cutBytes 16 15 ((aesExpand 52 (cutBytes 4 8 (bytesOfNat 32 key.toNat))).flatMap id)

/-- Rows shifted; byte r + 4c stands in row r and column c. -/
def aesShift (b : List Byte) : List Byte := (List.range 16).map fun i => b.getD (i % 4 + 4 * ((i / 4 + i % 4) % 4)) 0

/-- Columns mixed. -/
def aesMix (b : List Byte) : List Byte :=
  (List.range 16).map fun i =>
    let at' (j : Nat) : Byte := b.getD (4 * (i / 4) + (i + j) % 4) 0
    aesX (at' 0) ^^^ (aesX (at' 1) ^^^ at' 1) ^^^ at' 2 ^^^ at' 3

/-- The rounds of a block under the round keys that are left. -/
def aesRounds : List (List Byte) → List Byte → List Byte
  | [], b => b
  | [k], b => xorBytes (aesShift (b.map aesSub)) k
  | k :: ks, b => aesRounds ks (xorBytes (aesMix (aesShift (b.map aesSub))) k)

/-- A block of 16 bytes enciphered. -/
def aesBlock (keys : List (List Byte)) (b : List Byte) : List Byte :=
  match keys with
  | [] => b
  | k :: ks => aesRounds ks (xorBytes b k)

/-! ## GCM -/

/-- The number of bytes read first byte highest. -/
def bigNat (bs : List Byte) : Nat := natOfBytes bs.reverse

/-- A number as n bytes, the highest first. -/
def bigBytes (n v : Nat) : List Byte := (bytesOfNat n v).reverse

/-- The product in GCM's field of v with the bits of x from bit n - 1 down, added to z. -/
def ghashMulGo (x : Nat) : Nat → Nat → Nat → Nat
  | 0, z, _ => z
  | n + 1, z, v =>
    ghashMulGo x n (if x.testBit n then z ^^^ v else z) (if v % 2 = 1 then v / 2 ^^^ 0xE1 * 2 ^ 120 else v / 2)

/-- GHASH of whole blocks. -/
def ghash (h : Nat) (blocks : List (List Byte)) : Nat := blocks.foldl (fun y b => ghashMulGo (y ^^^ bigNat b) 128 0 h) 0

/-- Bytes as blocks of 16, the last one filled with zeros. -/
def gcmBlocks (bs : List Byte) : List (List Byte) :=
  let n := (bs.length + 15) / 16
  cutBytes 16 n (bs ++ List.replicate (16 * n - bs.length) 0)

/-- Bytes enciphered, or deciphered, under a key and a 12-byte nonce. -/
def gcmCrypt (keys : List (List Byte)) (nonce bs : List Byte) : List Byte :=
  ((gcmBlocks bs).zipIdx.flatMap fun b => xorBytes b.1 (aesBlock keys (nonce ++ bigBytes 4 (b.2 + 2)))).take bs.length

/-- The tag of additional data and a ciphertext. -/
def gcmTag (keys : List (List Byte)) (nonce aad cipher : List Byte) : List Byte :=
  let h := bigNat (aesBlock keys (List.replicate 16 0))
  let y := ghash h (gcmBlocks aad ++ gcmBlocks cipher ++ [bigBytes 8 (8 * aad.length) ++ bigBytes 8 (8 * cipher.length)])
  xorBytes (bigBytes 16 y) (aesBlock keys (nonce ++ bigBytes 4 1))

end Sys2Proof.Machine
end

