-- ==== Sys2Proof/Machine/Peer.lean ====
section
/-! DEFINITION. How a port sends (spec/14_package_links_and_management.md R393-R402): packets in flit groups under a key slot,
request credits and ids, and the requests of a copy through an import window. A group here carries one packet. -/

namespace Sys2Proof.Machine

/-- Packet types (R396). -/
def ptRd : Byte := 0x01
/-- Write request. -/
def ptWr : Byte := 0x02
/-- Atomic request. -/
def ptAmo : Byte := 0x03
/-- Read response. -/
def ptRdRsp : Byte := 0x04
/-- Write response. -/
def ptWrAck : Byte := 0x05
/-- Atomic response. -/
def ptAmoRsp : Byte := 0x06

/-- A number as a port, if there is one. -/
def portOf? (n : Nat) : Option (Fin 12) := if h : n < 12 then some ⟨n, h⟩ else none
/-- A number as a key slot, if there is one. -/
def slotOf? (n : Nat) : Option (Fin 8) := if h : n < 8 then some ⟨n, h⟩ else none
/-- A number as a window. -/
def winOf (n : Nat) : Fin 32 := ⟨n % 32, Nat.mod_lt _ (by decide)⟩

/-- Whether a port carries packets: enabled, trained, not fenced, the package not viral (R322, R401). -/
def State.carries (s : State) (p : Fin 12) : Bool :=
  let x := s.port p
  x.en && x.up && !x.fenced && !s.regs.viral

/-- The groups after which a key is exhausted on a port (R393). -/
def keyLimit : Nat := 2 ^ 48

/-! ## The bytes of a flit group (R395, R396) -/

/-- Bytes up to a multiple of 32. -/
def packetRound (n : Nat) : Nat := (n + 31) / 32 * 32

/-- Bytes filled with zeros to a length. -/
def zeroFill (n : Nat) (bs : List Byte) : List Byte := bs ++ List.replicate (n - bs.length) 0

/-- A packet's bytes: its header, and its payload filled to a multiple of 32. -/
def packetBytes (k : Packet) : List Byte :=
  [k.ptype, k.status] ++ bytesOfNat 2 k.owntag.toNat ++ bytesOfNat 2 k.node.toNat ++ bytesOfNat 2 k.rid.toNat ++ [k.xw, k.aop, 0, 0] ++
  bytesOfNat 4 k.len ++ bytesOfNat 8 k.offset ++ bytesOfNat 8 0 ++ zeroFill (packetRound k.data.length) k.data

/-- Bytes of the payload of a packet of a type. -/
def packetExtent (ty : Byte) (len : Nat) : Nat :=
  if ty = ptWr ∨ ty = ptRdRsp then len else if ty = ptAmo ∨ ty = ptAmoRsp then 32 else 0

/-- The packet whose bytes begin a payload. -/
def packetAt (bs : List Byte) : Packet :=
  let ty := bs.getD 0 0
  let len := field bs 0x0C 4
  ⟨ty, bs.getD 1 0, BitVec.ofNat 16 (field bs 2 2), BitVec.ofNat 16 (field bs 4 2), BitVec.ofNat 16 (field bs 6 2), bs.getD 8 0,
   bs.getD 9 0, field bs 0x0A 2 == 0 && field bs 0x18 8 == 0, len, field bs 0x10 8, (bs.drop 32).take (packetExtent ty len)⟩

/-- The header of a flit group. -/
structure GroupHeader where
  nflit  : Nat
  owntag : BitVec 16
  node   : BitVec 16
  dnode  : BitVec 16
  gcnt   : Nat
  rcred  : Nat
  deriving DecidableEq, Repr

/-- A header's bytes. -/
def GroupHeader.bytes (g : GroupHeader) : List Byte :=
  [1, BitVec.ofNat 8 g.nflit] ++ bytesOfNat 2 g.owntag.toNat ++ bytesOfNat 2 g.node.toNat ++ bytesOfNat 2 g.dnode.toNat ++
  bytesOfNat 8 g.gcnt ++ bytesOfNat 2 g.rcred ++ List.replicate 14 0

/-- The header that begins a group's bytes. -/
def groupHeader (bs : List Byte) : GroupHeader :=
  ⟨field bs 1 1, BitVec.ofNat 16 (field bs 2 2), BitVec.ofNat 16 (field bs 4 2), BitVec.ofNat 16 (field bs 6 2), field bs 8 8, field bs 0x10 2⟩

/-- The nonce of a group: the number of the port that sends it, and its count on that port. -/
def groupNonce (p : Fin 12) (gcnt : Nat) : List Byte := bytesOfNat 4 p.val ++ bytesOfNat 8 gcnt

/-- A group's bytes: header, payload under the key, tag. -/
def groupBytes (key : BitVec 256) (p : Fin 12) (g : GroupHeader) (payload : List Byte) : List Byte :=
  let ks := aesKeys key
  let n := groupNonce p g.gcnt
  let c := gcmCrypt ks n (zeroFill (256 * g.nflit - 48) payload)
  g.bytes ++ c ++ gcmTag ks n g.bytes c

/-- A group's payload where it passes the check under a key. -/
def openGroup (key : BitVec 256) (sender : Fin 12) (bs : List Byte) : Option (List Byte) :=
  let g := groupHeader bs
  let ks := aesKeys key
  let n := groupNonce sender g.gcnt
  let c := (bs.drop 32).take (256 * g.nflit - 48)
  if gcmTag ks n (bs.take 32) c = bs.drop (256 * g.nflit - 16) then some (gcmCrypt ks n c) else none

/-- The flits of a group that holds one packet. -/
def flitsFor (k : Packet) : Nat := (32 + packetRound k.data.length + 48 + 255) / 256

/-- A packet sent on a port under a key slot to a node, with the request credits that the port owes; none where the slot is empty
or its key exhausted (R393, R395, R397). DESIGN CHOICE, notes/assumptions/62.md. -/
def State.sendPacket (s : State) (p : Fin 12) (slot : Fin 8) (node : BitVec 16) (k : Packet) : Option State :=
  match s.keys[slot] with
  | none => none
  | some key =>
    if keyLimit ≤ key.sent[p] then none
    else
      let x := s.port p
      let cred := Nat.min x.owed 64
      let k := { k with owntag := key.tag, node := s.regs.nodeId }
      let g := groupBytes key.key p ⟨flitsFor k, key.tag, s.regs.nodeId, node, key.sent[p], cred⟩ (packetBytes k)
      let key := { key with sent := key.sent.set p.val (key.sent[p] + 1) p.isLt }
      some ({ s with keys := s.keys.set slot.val (some key) slot.isLt }.setPort p
        { x with tx := x.tx ++ [SentFlits.group g], owed := x.owed - cred })

/-- The waiting responses of a port, each sent if its slot can send; its group returns the request's credit. -/
def State.pumpReplies (s : State) (p : Fin 12) : List PeerReply → State × List PeerReply
  | [] => (s, [])
  | r :: rs =>
    match (s.setPort p { s.port p with owed := (s.port p).owed + 1 }).sendPacket p r.slot r.node r.pkt with
    | some s => State.pumpReplies s p rs
    | none => let (s, left) := State.pumpReplies s p rs; (s, r :: left)

/-- The port and key slot of an import window that is usable (R401). -/
def State.importRoute (s : State) (w : Fin 32) : Option (Fin 12 × Fin 8) :=
  let x := s.imps[w]
  match portOf? x.port.toNat, slotOf? x.slot.toNat with
  | some p, some k => if x.en && (s.keys[k]).isSome && (s.port p).en then some (p, k) else none
  | _, _ => none

/-- The lowest request id that no sent request of a port holds: one whose late response may still come, only where there is no other
(R397 items 1 and 6). -/
def freeRid (stale : List (BitVec 12)) (rs : List PeerRequest) : BitVec 12 :=
  let free (n : Nat) : Bool := !(rs.any fun r => r.sent && r.rid.toNat == n)
  match (List.range 4096).find? fun n => free n && !(stale.any fun x => x.toNat == n) with
  | some n => BitVec.ofNat 12 n
  | none => match (List.range 4096).find? free with
    | some n => BitVec.ofNat 12 n
    | none => 0

/-- Whether a request may go out now (R397). -/
def mayGo (x : Port) (before : List PeerRequest) (r : PeerRequest) : Bool :=
  decide (0 < x.credits) && decide ((x.pending.filter fun q => q.sent).length < 4096) &&
  !(r.serial && before.any fun q => q.tile == r.tile && q.copy == r.copy)

/-- The requests of a port from one on, each sent if it may go. -/
def State.pumpRequests (s : State) (p : Fin 12) (before : List PeerRequest) : List PeerRequest → State
  | [] => s.setPort p { s.port p with pending := before }
  | r :: rs =>
    let stay (s : State) (r : PeerRequest) := State.pumpRequests s p (before ++ [r]) rs
    if r.sent || !mayGo (s.port p) before r then stay s r
    else
      let rid := freeRid (s.port p).stale (before ++ rs)
      match slotOf? (s.imps[r.win]).slot.toNat with
      | none => stay s r
      | some k =>
        match s.sendPacket p k (s.imps[r.win]).node { r.pkt with rid := rid.setWidth 16 } with
        | none => stay s r
        | some s =>
          let x := s.port p
          stay (s.setPort p { x with credits := x.credits - 1 }) { r with sent := true, at' := s.time, rid := rid }

/-- A port sends what it can. -/
def State.pump (s : State) (p : Fin 12) : State :=
  if s.carries p then
    let (s, left) := s.pumpReplies p (s.port p).replies
    let s := s.setPort p { s.port p with replies := left }
    s.pumpRequests p [] (s.port p).pending
  else s

/-- A request packet (R396). -/
def requestPacket (ty : Byte) (xw : BitVec 5) (aop : Byte) (len off : Nat) (data : List Byte) : Packet :=
  ⟨ty, 0, 0, 0, 0, xw.setWidth 8, aop, true, len, off, data⟩

/-- A request put on a port, and the window no longer drained (R401). -/
def State.enqueueRequest (s : State) (p : Fin 12) (r : PeerRequest) : State :=
  let x := s.port p
  let s := s.setPort p { x with pending := x.pending ++ [r] }
  { s with imps := s.imps.set r.win.val { s.imps[r.win] with drained := false } r.win.isLt }

/-- Whether any request of an import window is in flight. -/
def State.winBusy (s : State) (w : Fin 32) : Bool := s.ports.toList.any fun x => x.pending.any fun r => r.win == w

/-- A window that is usable is drained as soon as none of its requests is in flight; a revoked one waits for WINDOW_DRAINED. -/
def State.winEnded (s : State) (w : Fin 32) : State :=
  let x := s.imps[w]
  if x.en && !s.winBusy w then { s with imps := s.imps.set w.val { x with drained := true } w.isLt } else s

/-- The windows of some requests, each drained if none of its requests is left. -/
def State.winsEnded (s : State) (rs : List PeerRequest) : State := rs.foldl (fun s r => s.winEnded r.win) s

/-- The requests of a copy that a test picks leave every port. -/
def State.dropRequests (s : State) (pick : PeerRequest → Bool) : State :=
  let gone := s.ports.toList.flatMap fun x => x.pending.filter pick
  let s := { s with ports := s.ports.map fun (x : Port) => { x with pending := x.pending.filter fun r => !pick r } }
  s.winsEnded gone

/-- Whether a copy has a request in flight. -/
def State.copyBusy (s : State) (i : TileId) (id : Nat) : Bool :=
  s.ports.toList.any fun x => x.pending.any fun r => r.tile == i && r.copy == id

/-- A tile's copies changed. -/
def Tile.mapCopy (t : Tile) (id : Nat) (f : CopyCmd → CopyCmd) : Tile :=
  { t with copyq := t.copyq.map fun c => if c.id == id then f c else c }

/-- The context of a tile's launch. -/
def State.tileCtx (s : State) (t : Tile) : BitVec 16 :=
  match s.launch? t.pt.handle with
  | some l => l.ctx
  | none => 0

/-- A tile's copy as an accessor (R372). -/
def State.copyAccessor (s : State) (i : TileId) (stream : Bool) : Accessor :=
  ⟨if stream then .mstream else .copy, s.tileCtx (s.tile i), some i⟩

/-- The copy of a number in a tile's queue. -/
def Tile.copy? (t : Tile) (id : Nat) : Option CopyCmd := t.copyq.find? fun c => c.id == id

/-- A stream that fails for a cause which gives no record of its own writes one (R381): its KIND is a free value, its address that at which
the stream begins. DESIGN CHOICE, notes/assumptions/69.md. -/
def State.streamRecord (s : State) (i : TileId) (c : CopyCmd) (cause : CopyFailCause) : State :=
  if c.stream.isSome && (cause == .memory || cause == .fencedStack || cause == .window) then
    let s := { s with draws := s.draws + 1 }
    s.faultCode (s.copyAccessor i true) (Config.streamFault (s.draws - 1)).toNat false (field c.desc 0x0C 8)
  else s

/-- A copy that has failed and will post so; its unsent requests are dropped (R198). -/
def State.copyFails (s : State) (i : TileId) (id : Nat) (cause : CopyFailCause) : State :=
  let s := s.dropRequests fun r => r.tile == i && r.copy == id && !r.sent
  let s := match (s.tile i).copy? id with
    | some c => s.streamRecord i c cause
    | none => s
  s.setTile i ((s.tile i).mapCopy id fun c => { c with stage := .failing cause })

end Sys2Proof.Machine
end

