-- ==== Sys2Proof/Machine/Sync.lean ====
section
/-! DEFINITION. The Q-unit instructions but for copies: semaphores, fences and sprint hints (spec/06_isa_memory_and_sync.md
R182-R186, R188, R201), the arrival of posts, and the sleep of a waiting tile (01_machine_state.md R20, R21). -/

namespace Sys2Proof.Machine

/-! ## Posts -/

/-- A semaphore target that SPOST may name, or the detail of its trap 0x06 (R182). Where several details apply, a reserved field (0x02) goes
first, and the missing die-semaphore flag (0x03) before a site out of range (0x04). DESIGN CHOICE, notes/assumptions/34.md. -/
def postTarget (s : State) (i : TileId) (t : Tile) (v : Word) : Except Nat (TileId × Bool) :=
  let mode := bits v.toNat 30 2
  let idx := bits v.toNat 0 8
  let dsem := match s.launch? t.pt.handle with
    | some l => l.dsem
    | none => false
  if mode = 3 ∨ bits v.toNat 8 22 ≠ 0 ∨ (mode = 0 ∧ idx ≠ 0) then .error 0x02
  else if mode = 0 then .ok (i, false)
  else if mode = 1 then
    if t.crewN ≤ idx then .error 0x01 else .ok (crewTile i t idx, false)
  else if !dsem then .error 0x03
  else if 80 ≤ idx then .error 0x04
  else .ok (⟨i.die, siteOf idx⟩, true)

/-- The post that a tile sends to a target that passed its checks. -/
def tilePost (i j : TileId) (t : Tile) (sem : BitVec 6) (n : Word) (cerr wide : Bool) (seqNo : Nat) : Post :=
  ⟨i, j, sem, n, cerr, t.pt.handle, t.pt.serial, t.act == .prologue, wide, seqNo, none⟩

/-- SPOST (R183). -/
def execSpost (scope : PostScope) (sem : BitVec 6) (sa sb : SReg) (s : State) : Result :=
  s.runSlot "SPOST" (.spost scope sem sa sb) fun s i t _ =>
    match postTarget s i t (t.sreg sa) with
    | .error d => .trap 0x06 d
    | .ok (j, wide) =>
      .done { t with issueNo := t.issueNo + 1 } [] { posts := [tilePost i j t sem (t.sreg sb) false wide t.issueNo] } .seq

/-- Whether the sender's writes and gathers that the post covers are done (R260). -/
def State.postCovered (s : State) (p : Post) : Bool :=
  p.seqNo == 0 ||
  (!(s.crew.any fun a => a.src == p.src && decide (a.seqNo < p.seqNo)) &&
   !((s.tile p.src).sb.any fun e => decide (e.seqNo < p.seqNo) && (e.isLdc || e.isLdg || e.isStg)))

/-- Whether a tile takes a post: it still runs the point or prologue that the post belongs to, or, for MODE 0b10, any point or
prologue of the launch (R176, R183). -/
def Tile.takesPost (t : Tile) (p : Post) : Bool :=
  t.pt.handle == p.handle &&
  (if p.wide then t.act == .point || t.act == .prologue || t.act == .pended || t.act == .cut
   else t.pt.serial == p.serial &&
     (if p.pro then t.act == .prologue else t.act == .point || t.act == .pended || t.act == .cut))

/-- A post taken by its target: the count rises or saturates, and a failed copy's post sets the CERR bit (R183, R198). -/
def Tile.takePost (t : Tile) (p : Post) : Tile :=
  let t := t.addSem p.sem p.count
  if p.cerr then t.setCerr p.sem else t

/-! ## Waiting -/

/-- Whether a semaphore has saturated (R27). -/
def Tile.semSaturated (t : Tile) (e : BitVec 6) : Bool := t.k.semErr.getLsbD e.toNat

/-- The count of a semaphore. -/
def Tile.semCount (t : Tile) (e : BitVec 6) : Word := t.sems[e.toNat]'e.isLt

/-- SWAIT's slot (R184): a semaphore that had saturated when the bundle passed K traps (R51). -/
def swaitSlot (sem : BitVec 6) (sb : SReg) : SlotFn := fun _ _ t b =>
  let n := t.sreg sb
  if (b.semErr t).getLsbD sem.toNat then .trap 0x07 sem.toNat
  else if n ≤ t.semCount sem then .keep { t with sems := t.sems.set sem.toNat (t.semCount sem - n) sem.isLt }
  else .hold .swait

/-- SWAIT (R184). -/
def execSwait (sem : BitVec 6) (sb : SReg) (s : State) : Result := s.runSlot "SWAIT" (.swait sem sb) (swaitSlot sem sb)

/-- An SWAIT. -/
def isSwait : Instr → Bool | .swait _ _ => true | _ => false
/-- A FENCE. -/
def isFence : Instr → Bool | .fence _ _ => true | _ => false

/-- SWAIT_SATISFIED (R184): the count suffices, or the semaphore has saturated; a sleeping tile wakes first (R21). -/
def execSwaitSatisfied (t : TileId) (s : State) : Result :=
  let x := s.tile t
  match heldSlot x isSwait with
  | some (.swait sem sb) =>
    if heldFor x .swait && !x.asleep && (x.semSaturated sem || decide (x.sreg sb ≤ x.semCount sem)) then
      s.holdEnds t "SWAIT_SATISFIED" (.swait sem sb) (swaitSlot sem sb)
    else .refused (.notEnabled "SWAIT_SATISFIED")
  | _ => .refused (.notEnabled "SWAIT_SATISFIED")

/-- SPOLL (R185). -/
def execSpoll (sd : SReg) (sem : BitVec 6) (s : State) : Result :=
  s.runPure "SPOLL" (.spoll sd sem) fun t => t.setS sd (t.semCount sem)

/-- Whether the SWAIT that holds a tile's bundle still waits. -/
def stillWaits (x : Tile) : Bool :=
  heldFor x .swait && match heldSlot x isSwait with
    | some (.swait sem sb) => !x.semSaturated sem && decide (x.semCount sem < x.sreg sb)
    | _ => false

/-- The TIME in ns that 4,096 core cycles take in a bin, rounded up (R20, R337). -/
def sleepNs (b : Fin 8) : Nat := (4096 * 1000 + 1849 + 50 * b.val) / (1850 + 50 * b.val)

/-- The TIME at which a tile that waits in an SWAIT falls asleep. -/
def Tile.sleepAt (x : Tile) (b : Inflight) : Nat := b.waitFrom + sleepNs x.vf.bin

/-- The TIME of a tile's point deadline. -/
def State.deadlineAt (s : State) (x : Tile) : Nat :=
  match s.launch? x.pt.handle with
  | some l => x.pt.fireTime + l.pdeadline
  | none => 0

/-- A tile that has waited in one SWAIT for 4,096 cycles is to sleep before anything else happens to it (R20), unless its deadline came
first. DEDUCED, notes/assumptions/30.md. -/
def State.sleepDue (s : State) (x : Tile) : Bool :=
  stillWaits x && !x.asleep && match x.inflight with
    | some b => decide (x.sleepAt b ≤ s.time) && !(s.deadlineDue x && x.deadlineHere && decide (s.deadlineAt x < x.sleepAt b))
    | none => false

/-- A tile that falls asleep after 4,096 cycles of its wait; its clock stands from then on. -/
def State.fallAsleep (s : State) (i : TileId) : State :=
  let x := s.tile i
  match x.inflight with
  | some b =>
    (s.noteAbove i).setTile i { x.atCycle (holdStart x b + 4096) with
      asleep := true, woken := false, inflight := some { b with waitFrom := x.sleepAt b } }
  | none => s

/-- TILE_SLEEP (R20). -/
def execTileSleep (t : TileId) (s : State) : Result :=
  if s.sleepDue (s.tile t) then .next (s.fallAsleep t) else .refused (.notEnabled "TILE_SLEEP")

/-- Whether a post that arrives in a core cycle finds its tile asleep: 4,096 cycles of its wait were over by then. -/
def Tile.sleepsBy (x : Tile) (p : Post) : Bool :=
  stillWaits x && !x.asleep && match x.inflight, p.due with
    | some b, some a => decide (holdStart x b + 4096 ≤ a)
    | _, _ => false

/-- The cycle by which a post has come to a tile that waits in an SWAIT: that of a stream's post, or one that is not fixed, within the
4,096 cycles after which the tile sleeps. -/
def Tile.postAt (x : Tile) (p : Post) (draw : Nat) : Tile :=
  match x.inflight with
  | some b =>
    if stillWaits x && !x.asleep then
      { x with inflight := some { b with freeAt := match p.due with
          | some a => Nat.max b.freeAt a
          | none => Nat.min (holdStart x b + 4095) (x.stands + Config.waited draw % 4096) } }
    else x
  | none => x

/-- SEMAPHORE_POST_ARRIVAL (R183): a post arrives once what it covers is performed; a stream's own in its cycle (R429). A tile whose
wait has lasted its 4,096 cycles is asleep by then, and wakes (R21). -/
def execSemaphorePostArrival (i : Nat) (s : State) : Result :=
  match s.posts[i]? with
  | none => .refused (.notEnabled "SEMAPHORE_POST_ARRIVAL")
  | some p =>
    let x := s.tile p.dst
    if s.postCovered p && !p.early x then
      let s := { s with posts := s.posts.eraseIdx i, draws := s.draws + 1 }
      let s := if s.sleepDue x || x.sleepsBy p then s.fallAsleep p.dst else s
      let t := s.tile p.dst
      .next (if t.takesPost p then s.setTile p.dst { (t.postAt p s.draws).takePost p with woken := t.woken || t.asleep } else s)
    else .refused (.notEnabled "SEMAPHORE_POST_ARRIVAL")

/-- Whether an event has come that wakes a tile: a post, a stop, a hard cut, or its point's deadline since it fell asleep (R21). -/
def State.wakes (s : State) (x : Tile) : Bool :=
  x.woken || x.stopReq || x.cutReq.isSome || (s.deadlineDue x && match x.inflight with
    | some b => decide (b.waitFrom ≤ s.deadlineAt x)
    | none => false)

/-- TILE_WAKE (R21): the clock runs again and the plane is swept for 64 cycles; a bad cell traps 0x0F at the SWAIT's bundle (R20). Then a
tile that is to stop does so, and any other waits in its SWAIT from zero. DEDUCED, notes/assumptions/30.md. -/
def execTileWake (t : TileId) (s : State) : Result :=
  let x := s.tile t
  match x.inflight with
  | none => .refused (.notEnabled "TILE_WAKE")
  | some b =>
    if !x.asleep || !s.wakes x then .refused (.notEnabled "TILE_WAKE")
    else
      let x := { x.swept with asleep := false, woken := false, movedAt := s.time,
                              inflight := some { b with heldTo := x.k.cycle.toNat + 64, waitFrom := s.time } }
      match x.badPlane with
      | some d => .next (((s.setTile t x).takeTrap t 0x0F d 0 b.first b.next).boundary t)
      | none => .next (((s.noteAbove t).setTile t x).boundary t)

/-! ## Fences -/

/-- Whether everything that a FENCE of a kind waits for is done (R186). DEDUCED, notes/assumptions/32.md. -/
def fenceReady (s : State) (i : TileId) (t : Tile) (kind : FenceKind) : Bool :=
  let sp := !(s.crew.any fun a => a.src == i) && !(t.sb.any fun e => e.isLdc || e.isLdg || e.isStg)
  let cp := t.copyq.isEmpty
  match kind with
  | .sp => sp
  | .cp => cp
  | .all => sp && cp

/-- The code of a scope (R255). -/
def scopeNo : MemScope → Nat
  | .tile => 0 | .crew => 1 | .die => 2 | .pkg => 3 | .sys => 4

/-- FENCE's slot (R186, R264): of kind CP or ALL it performs the tile's copy writes at its scope. The accesses of earlier slots of its
own bundle have committed before it, and it waits for them too (R62, R257). DEDUCED, notes/assumptions/32.md. -/
def fenceSlot (kind : FenceKind) (scope : MemScope) : SlotFn := fun s i t _ =>
  if fenceReady s i t kind then .done t [] { raise := if kind = .sp then none else some (scopeNo scope) } .seq else .hold .fence

/-- FENCE (R186). -/
def execFence (kind : FenceKind) (scope : MemScope) (s : State) : Result :=
  s.runSlot "FENCE" (.fence kind scope) (fenceSlot kind scope)

/-- FENCE_COMMIT (R186). -/
def execFenceCommit (t : TileId) (s : State) : Result :=
  let x := s.tile t
  match heldSlot x isFence with
  | some (.fence kind scope) =>
    if heldFor x .fence && fenceReady s t x kind then s.holdEnds t "FENCE_COMMIT" (.fence kind scope) (fenceSlot kind scope)
    else .refused (.notEnabled "FENCE_COMMIT")
  | _ => .refused (.notEnabled "FENCE_COMMIT")

/-! ## Counts and hints -/

/-- CPYQ (R188): the free entries of the copy queue. -/
def execCpyq (sd : SReg) (s : State) : Result :=
  s.runPure "CPYQ" (.cpyq sd) fun t => t.setS sd (BitVec.ofNat 32 (32 - t.copyq.length))

/-- A sprint hint: without SPR in the launch record it has no effect (R201). -/
def sprintSlot (on : Bool) : SlotFn := fun s _ t _ =>
  let allowed := match s.launch? t.pt.handle with
    | some l => l.spr
    | none => false
  .keep (if allowed then { t with claim := on } else t)

/-- SPRINT CLAIM (R201). A slot that the zone has to give back goes first (R414). -/
def execSprintClaim (s : State) : Result :=
  (s.settleZone s.focus.die (zoneOf s.focus.site.val)).runSlot "SPRINT" .sprintClaim (sprintSlot true)

/-- SPRINT RELEASE (R201, R414): the zone gives back its slot if nothing of it runs above nominal. -/
def execSprintRelease (s : State) : Result :=
  settled s.focus (s.runSlot "SPRINT" .sprintRelease (sprintSlot false))

end Sys2Proof.Machine
end

