-- ==== Sys2Proof/Machine/Copies.lean ====
section
/-! DEFINITION. Copies: CPY and MSTREAM, their descriptors, and how the copy engine runs them (spec/06_isa_memory_and_sync.md
R187-R200; 07_isa_matrix.md R220-R225; 13_memory_system.md R365-R372). -/

namespace Sys2Proof.Machine

/-! ## Descriptor fields (R189) -/

/-- The kinds of a copy. -/
inductive CopyKind where
  | load | store | spconv | crew | amog | dtab
  deriving DecidableEq, Repr

/-- A descriptor's kind. -/
def dKind (d : List Byte) : Option CopyKind :=
  match field d 0 1 with
  | 1 => some .load | 2 => some .store | 3 => some .spconv | 4 => some .crew | 5 => some .amog | 7 => some .dtab | _ => none

/-- ORD. -/
def dOrd (d : List Byte) : Bool := bit (field d 1 1) 0
/-- RET. -/
def dRet (d : List Byte) : Bool := bit (field d 1 1) 2
/-- CSCOPE. -/
def dScope (d : List Byte) : Nat := field d 2 1
/-- SEM. -/
def dSem (d : List Byte) : BitVec 6 := BitVec.ofNat 6 (field d 3 1)
/-- STGT. -/
def dStgt (d : List Byte) : Word := BitVec.ofNat 32 (field d 4 4)
/-- TENSOR. -/
def dTensor (d : List Byte) : Nat := field d 8 2
/-- RANK. -/
def dRank (d : List Byte) : Nat := field d 0x0A 1
/-- An origin coordinate. -/
def dOrg (d : List Byte) (i : Nat) : Nat := field d (0x0C + 4 * i) 4
/-- An extent. -/
def dExt (d : List Byte) (i : Nat) : Nat := field d (0x20 + 2 * i) 2
/-- PITCH. -/
def dPitch (d : List Byte) : Nat := field d 0x2A 2
/-- SPADDR. -/
def dSp (d : List Byte) : Nat := field d 0x2C 4
/-- CONV. -/
def dConv (d : List Byte) : Nat := field d 0x30 1
/-- SLOT. -/
def dSlot (d : List Byte) : Nat := field d 0x31 1
/-- MODE of an MSTREAM. -/
def dMode (d : List Byte) : Nat := field d 0x32 1
/-- The source or peer address of an SPCONV or CREW copy. -/
def dSrc (d : List Byte) : Nat := field d 0x34 4
/-- The source or peer pitch. -/
def dSrcPitch (d : List Byte) : Nat := field d 0x38 2
/-- The linear address ORG1:ORG0 of tensor 0. -/
def dLinear (d : List Byte) : Nat := dOrg d 0 + 2 ^ 32 * dOrg d 1
/-- Rows of a copy whose RANK is 1 or 2. -/
def dRows (d : List Byte) : Nat := if dRank d = 2 then dExt d 1 else 1
/-- The width of an AMOG in bytes. -/
def dWidth (d : List Byte) : Nat := if field d 0x33 1 = 1 then 8 else 4

/-- The atomic operation of a code (R79). -/
def atomOf (n : Nat) : Option AtomOp :=
  [.add, .sub, .and, .or, .xor, .xch, .smin, .smax, .umin, .umax, .fmin, .fmax, .fadd, .cas][n]?

/-- Whether a region format is one of the floats that copies convert (R192). -/
def convFloat (f : Nat) : Bool := f == 1 || f == 2 || f == 3 || f == 4 || f == 5 || f == 10

/-- An allowed pair of formats (R192). -/
def convPair (c f : Nat) : Bool :=
  c == 0 || c == f || (convFloat c && convFloat f) || (c == 11 && (f == 1 || f == 10)) || (f == 11 && (c == 1 || c == 10))

/-- Whether a copy of a pair converts its elements. -/
def converts (c f : Nat) : Bool := c != 0 && c != f

/-- The FMT of the region that an address lies in; 0 outside every region. -/
def fmtAt (k : KRegs) (a : Nat) : Nat := if a < spadSize then regionFmt k a else 0

/-! ## Footprints (R191) -/

/-- Bytes that n elements of w bits take. -/
def rowBytes (n w : Nat) : Nat := (n * w + 7) / 8

/-- The footprint rules: rows of a byte length at an address and a pitch. An empty footprint has no row, so that only the rule on its
address is asked of it. DESIGN CHOICE, notes/assumptions/34.md. -/
def footprintOk (a pitch len rows : Nat) : Bool :=
  a % 16 == 0 &&
  (len == 0 || rows == 0 ||
    ((decide (len ≤ pitch * 16) || (rows == 1 && pitch == 0)) &&
     decide (a + (rows - 1) * pitch * 16 + len ≤ spadSize) &&
     regionOf a == regionOf (a + (rows - 1) * pitch * 16 + len - 1)))

/-- The byte ranges of a footprint. -/
def rowRanges (a pitch len rows : Nat) : List (Nat × Nat) := (List.range rows).map fun r => (a + r * pitch * 16, len)

/-- Whether two footprints share a byte (R193). -/
def rangesMeet (xs ys : List (Nat × Nat)) : Bool :=
  xs.any fun x => ys.any fun y => decide (x.1 < y.1 + y.2) && decide (y.1 < x.1 + x.2)

/-- Bits of an element on the source and the destination side of an SPCONV (R193). -/
def spconvBits (fs fd : Nat) : Nat × Nat :=
  if fs = 0 ∨ fd = 0 ∨ fs = fd then
    let w := if fs = 0 ∧ fd = 0 then 8 else regionBits (if fs = 0 then fd else fs)
    (w, w)
  else (regionBits fs, regionBits fd)

/-! ## Validation (R190) -/

/-- The first detail whose test fails. -/
def firstFail : List (Bool × Nat) → Option Nat
  | [] => none
  | (ok, d) :: rest => if ok then firstFail rest else some d

/-- A dimension of the box at or past a number is 0. -/
def extZeroFrom (d : List Byte) (n : Nat) : Bool := (List.range 5).all fun i => decide (i < n) || dExt d i == 0
/-- An origin at or past a number is 0. -/
def orgZeroFrom (d : List Byte) (n : Nat) : Bool := (List.range 5).all fun i => decide (i < n) || dOrg d i == 0

/-- RANK of a global box (R191). -/
def boxRank (d : List Byte) : Bool :=
  if dTensor d = 0 then dRank d == 1 || dRank d == 2 else decide (1 ≤ dRank d) && decide (dRank d ≤ 5)

/-- The dimension fields of a global box that must be 0: those at and past RANK, but for ORG1 and ORG2 of tensor 0 (R191). -/
def boxZeros (d : List Byte) : Bool :=
  orgZeroFrom d (if dTensor d = 0 then dRank d + 1 else dRank d) && extZeroFrom d (dRank d)

/-- RANK and the dimension fields of a global box (R191). -/
def boxOk (d : List Byte) : Bool := boxRank d && boxZeros d

/-- Whether whole elements of the converted format fill the box of a copy on tensor 0 (R191). -/
def wholeElems (d : List Byte) (f : Nat) : Bool :=
  let w := regionBits (dConv d) / 8
  dTensor d != 0 || !converts (dConv d) f || !convPair (dConv d) f ||
  (dExt d 0 % w == 0 && dOrg d 0 % w == 0 && (dRank d == 1 || dOrg d 2 % w == 0))

/-- Bits of an element on the global and the scratchpad side, when the tensor's element size is e bytes (R191, R192). -/
def sideBits (d : List Byte) (f e : Nat) : Nat × Nat :=
  let c := dConv d
  if converts c f then (regionBits c, regionBits f)
  else
    let w := if dTensor d = 0 then 8 else if c = 0 then 8 * e else regionBits c
    (w, w)

/-- Elements of a row of the box: EXT0 counts bytes on tensor 0. -/
def rowElems (d : List Byte) (f : Nat) : Nat :=
  if dTensor d = 0 then dExt d 0 * 8 / (sideBits d f 1).1 else dExt d 0

/-- Rows of the box. -/
def boxRows (d : List Byte) : Nat :=
  if dTensor d = 0 then dRows d else (List.range (dRank d - 1)).foldl (fun n i => n * dExt d (i + 1)) 1

/-- The scratchpad footprint of a LOAD or STORE whose element size is known (R191). -/
def boxFootprintOk (d : List Byte) (f e : Nat) : Bool :=
  footprintOk (dSp d) (dPitch d) (rowBytes (rowElems d f) (sideBits d f e).2) (boxRows d)

/-- The checks of a LOAD or STORE. A pair that is not allowed has no row length: only where it starts is checked. -/
def checksLoadStore (d : List Byte) (f : Nat) : List (Bool × Nat) :=
  [(field d 0x32 14 == 0 && boxZeros d, 0x02), (boxRank d && wholeElems d f, 0x05),
   (if convPair (dConv d) f then (dTensor d != 0 && dConv d == 0) || boxFootprintOk d f 1
    else dSp d % 16 == 0 && decide (dSp d < spadSize), 0x06),
   (convPair (dConv d) f, 0x07)]

/-- The checks of a DTAB; the size of a box of tensor 0 is known at issue (R196, R220). -/
def checksDtab (d : List Byte) : List (Bool × Nat) :=
  [(field d 0x32 14 == 0 && dConv d == 0 && dPitch d == 0 && dSp d == 0 && boxZeros d, 0x02),
   (boxRank d && (dTensor d != 0 || dExt d 0 * dRows d == 2096), 0x05), (decide (dSlot d ≤ 1), 0x08)]

/-- The fields that SPCONV and CREW leave 0. An EXT at or past RANK is one of them (0x02), as R191 has it for the kinds with a global box;
R193 and R194 name the extents up to RANK only. DESIGN CHOICE, notes/assumptions/34.md. -/
def localZeros (d : List Byte) : Bool :=
  dTensor d == 0 && dConv d == 0 && orgZeroFrom d 0 && extZeroFrom d (dRank d) && field d 0x3A 6 == 0

/-- RANK of a local copy. -/
def localDims (d : List Byte) : Bool := dRank d == 1 || dRank d == 2

/-- The checks of an SPCONV (R193). An odd EXT0 with a 4-bit source is tested (0x05) before the pair (0x07), also where the pair is not
allowed. DESIGN CHOICE, notes/assumptions/34.md. -/
def checksSpconv (d : List Byte) (k : KRegs) : List (Bool × Nat) :=
  let fs := fmtAt k (dSrc d)
  let fd := fmtAt k (dSp d)
  let (ws, wd) := spconvBits fs fd
  let n := dExt d 0
  [(localZeros d && field d 0x32 2 == 0, 0x02), (localDims d && (ws != 4 || n % 2 == 0), 0x05),
   (footprintOk (dSrc d) (dSrcPitch d) (rowBytes n ws) (dRows d) && footprintOk (dSp d) (dPitch d) (rowBytes n wd) (dRows d) &&
    !rangesMeet (rowRanges (dSrc d) (dSrcPitch d) (rowBytes n ws) (dRows d))
      (rowRanges (dSp d) (dPitch d) (rowBytes n wd) (dRows d)), 0x06),
   (fd == 0 || convPair fs fd, 0x07)]

/-- The checks of a CREW copy (R194). -/
def checksCrew (d : List Byte) (crewN : Nat) : List (Bool × Nat) :=
  let n := dExt d 0
  [(localZeros d, 0x02), (localDims d && n % 16 == 0, 0x05),
   (footprintOk (dSrc d) (dSrcPitch d) n (dRows d) && footprintOk (dSp d) (dPitch d) n (dRows d), 0x06),
   (decide (field d 0x32 1 ≤ 1) && decide (field d 0x33 1 < crewN), 0x09)]

/-- The checks of an AMOG (R195). The detail of a CAS with RET = 0 is the one of an invalid OPSPEC, 0x09. DESIGN CHOICE,
notes/assumptions/34.md. -/
def checksAmog (d : List Byte) : List (Bool × Nat) :=
  let w := dWidth d
  [(dConv d == 0 && dPitch d == 0 && field d 0x34 4 == 0 && boxZeros d && extZeroFrom d 0, 0x02), (decide (3 ≤ dScope d), 0x03),
   (boxRank d, 0x05),
   (!dRet d || (dSp d % w == 0 && decide (dSp d + w ≤ spadSize)), 0x06),
   (decide (field d 0x32 1 ≤ 13) && decide (field d 0x33 1 ≤ 1) && (field d 0x32 1 != 13 || dRet d), 0x09)]

/-- The checks that every kind shares, with whether the semaphore target stands. -/
def checksAll (d : List Byte) (kind : CopyKind) (tgtOk : Bool) : List (Bool × Nat) :=
  let fl := field d 1 1
  [(bits fl 3 5 == 0 && !bit fl 1 && (kind == .amog || !bit fl 2) && bits (field d 3 1) 6 2 == 0 && field d 0x0B 1 == 0 &&
    (kind == .dtab || dSlot d == 0), 0x02),
   (decide (dScope d ≤ 4), 0x03), (tgtOk, 0x04)]

/-- The lowest detail among some checks' failures. -/
def lowestFail (cs : List (Bool × Nat)) : Option Nat :=
  (cs.filter fun c => !c.1).foldl (fun m c => match m with
    | none => some c.2
    | some x => some (Nat.min x c.2)) none

/-- The detail of the first failure of a CPY's snapshot in the order of R190. -/
def copyCheck (s : State) (i : TileId) (t : Tile) (d : List Byte) : Option Nat :=
  match dKind d with
  | none => some 0x01
  | some kind =>
    let tgtOk := match postTarget s i t (dStgt d) with
      | .ok _ => true
      | .error _ => false
    lowestFail (checksAll d kind tgtOk ++ match kind with
      | .load | .store => checksLoadStore d (fmtAt t.k (dSp d))
      | .dtab => checksDtab d
      | .spconv => checksSpconv d t.k
      | .crew => checksCrew d t.crewN
      | .amog => checksAmog d)

/-- Whether a stream's CONV may stand with its mode (R223); with a MODE above 3, which fails itself (0x09), any B format, and SLOT 0.
DESIGN CHOICE, notes/assumptions/77.md. -/
def streamConvOk (mode c : Nat) : Bool :=
  let plain := decide (2 ≤ c) && decide (c ≤ 10)
  if mode ≤ 1 then plain else if mode ≤ 3 then c == 12 else plain || c == 12

/-- The detail of the first failure of an MSTREAM's snapshot (R223). -/
def streamCheck (d : List Byte) : Option Nat :=
  let mode := dMode d
  let c := dConv d
  let size := dExt d 0 * dRows d
  if field d 0 1 ≠ 1 then some 0x01
  else lowestFail
    [(bits (field d 1 1) 1 7 == 0 && field d 2 6 == 0 && field d 0x0B 1 == 0 && field d 0x2A 6 == 0, 0x02),
     (dTensor d == 0 && boxOk d &&
       (!((mode == 0 || mode == 2) && streamConvOk 4 c) || size == imageData c + imageScales c), 0x05),
     (streamConvOk mode c, 0x07),
     (decide (dSlot d ≤ if 1 ≤ mode ∧ mode ≤ 3 then 1 else 0), 0x08),
     (decide (mode ≤ 3) && field d 0x33 1 == 0 && field d 0x38 8 == 0 && (c == 12 || field d 0x34 4 == 0), 0x09)]

/-! ## Issue (R187, R222) -/

/-- A command at the end of a tile's copy queue, issued in a cycle. -/
def Tile.enqueue (t : Tile) (c : Nat) (d : List Byte) (stream : Option (BitVec 3 × BitVec 6)) : Tile :=
  { t with copyq := t.copyq ++ [⟨t.issueNo, c, d, stream, .queued, [], [], [], 1⟩], issueNo := t.issueNo + 1 }

/-- A CPY or MSTREAM slot. A full queue holds the slot before its address and its descriptor are looked at. DESIGN CHOICE,
notes/assumptions/34.md. -/
def queueSlot (sa : SReg) (stream : Option (BitVec 3 × BitVec 6)) (check : State → TileId → Tile → List Byte → Option Nat) :
    SlotFn := fun s i t b =>
  if 32 ≤ t.copyq.length then .hold .queueFull
  else atAddr ((t.sreg sa).toNat : Int) 64 64 fun a =>
    let d := t.ownBytes a 64
    match check s i t d with
    | some e => .trap 0x12 e
    | none => .done (t.enqueue (commitCycle t b) d stream) (accessesOf t.k a 64) {} .seq

/-- CPY (R187). -/
def execCpy (sa : SReg) (s : State) : Result := s.runOwn "CPY" (.cpy sa) (queueSlot sa none copyCheck)

/-- MSTREAM (R222). -/
def execMstream (mac : BitVec 3) (sa : SReg) (sem : BitVec 6) (s : State) : Result :=
  s.runOwn "MSTREAM" (.mstream mac sa sem) (queueSlot sa (some (mac, sem)) fun _ _ _ d => streamCheck d)

/-- A CPY or an MSTREAM. -/
def isQueued : Instr → Bool | .cpy _ | .mstream _ _ _ => true | _ => false

/-- CPY_QUEUE_SLOT_FREE (R187): a bundle held by a full queue goes on. -/
def execCpyQueueSlotFree (t : TileId) (s : State) : Result :=
  let x := s.tile t
  if heldFor x .queueFull && decide (x.copyq.length < 32) then
    match heldSlot x isQueued with
    | some (.cpy sa) => (s.flushOwn t).holdEnds t "CPY_QUEUE_SLOT_FREE" (.cpy sa) (queueSlot sa none copyCheck)
    | some (.mstream m sa e) =>
      (s.flushOwn t).holdEnds t "CPY_QUEUE_SLOT_FREE" (.mstream m sa e) (queueSlot sa (some (m, e)) fun _ _ _ d => streamCheck d)
    | _ => .refused (.notEnabled "CPY_QUEUE_SLOT_FREE")
  else .refused (.notEnabled "CPY_QUEUE_SLOT_FREE")

/-! ## The global box (R191, R366, R367) -/

/-- Why a copy does not start: it waits on a token, or fails. -/
inductive StartStop where
  | wait (token : Nat)
  | fail (c : CopyFailCause)
  deriving DecidableEq, Repr

/-- Fields of a tensor table entry. -/
def tExt (b : List Byte) (i : Nat) : Nat := field b (0x10 + 4 * i) 4
/-- A stride. -/
def tStr (b : List Byte) (i : Nat) : Int := sext (field b (0x28 + 8 * i) 8) 64
/-- ESIZE in bytes. -/
def tEsize (b : List Byte) : Nat := 2 ^ (field b 2 1)

/-- Whether an entry and a descriptor fit (R367), but for the alignment of the elements. -/
def tensorOk (b d : List Byte) (k : CopyKind) (f : Nat) (writes : Bool) : Bool :=
  let e := tEsize b
  bit (field b 0 1) 0 && bits (field b 0 1) 2 6 == 0 && field b 3 5 == 0 && field b 0x24 4 == 0 && field b 0x50 48 == 0 &&
  decide (field b 2 1 ≤ 3) && field b 1 1 == dRank d &&
  ((List.range 5).all fun i => decide (i < dRank d) || tExt b i == 0) &&
  ((List.range (dRank d)).all fun i => decide (dOrg d i + (if k = .amog then 1 else dExt d i) ≤ tExt b i)) &&
  (!writes || bit (field b 0 1) 1) &&
  (dConv d == 0 || regionBits (dConv d) == 8 * e) &&
  (k != .load && k != .store || dConv d != 0 || boxFootprintOk d f e) &&
  (k != .amog || dWidth d == e)

/-- Address offsets of the rows of a tensor box, dimension 1 fastest (R191). -/
def rowOffsets (b d : List Byte) : List Nat → List Int
  | [] => [0]
  | i :: is => (rowOffsets b d is).flatMap fun o => (List.range (dExt d i)).map fun c => o + ((dOrg d i + c : Nat) : Int) * tStr b i

/-- The runs of a row: one where the elements are adjacent, else one for each element. -/
def rowRuns (b d : List Byte) (n : Nat) (o : Int) : List (Nat × Nat) :=
  let e := tEsize b
  let at' (c : Nat) : Nat := wrap ((field b 8 8 : Int) + o + ((dOrg d 0 + c : Nat) : Int) * tStr b 0) 64
  if tStr b 0 = e then (if n = 0 then [] else [(at' 0, n * e)]) else (List.range n).map fun c => (at' c, e)

/-- A walk of a tile's copy that ended without an address: its record, and why the copy fails. -/
def State.walkFails (s : State) (a : Accessor) (e : WalkFault) (write : Bool) (va : Nat) (cause : CopyFailCause) : State × CopyFailCause :=
  (s.walkRecord a e write va, match e with
    | .cut _ => .fencedStack
    | _ => cause)

/-- The entry of a tensor for a tile's copy, or the record that its lack gives (R366): an entry that the die holds may be taken as it is
held, and one that is read is held from then on (R374). DESIGN CHOICE, notes/assumptions/78.md. -/
def State.tensorEntry (s : State) (i : TileId) (a : Accessor) (t : Nat) (write : Bool) : State × Except CopyFailCause (List Byte) :=
  let (s, e) := s.dieCtx i.die a.ctx
  match e with
  | .error e => let (s, x) := s.walkFails a e write 0 .tensor; (s, .error x)
  | .ok e =>
    if e.ttCount < t then (s.faultNow a .tensor write 0, .error .tensor)
    else
      let held := (s.die i.die).tensors.find? fun x => x.ctx == a.ctx && x.id == t
      match held, Config.tensorHeld s.draws with
      | some x, true => ({ s with draws := s.draws + 1 }, .ok x.bytes)
      | _, _ =>
        let pa := e.ttBase + 128 * (t - 1)
        let (s, r) := { s with draws := s.draws + 1 }.readFrom (some i.die) pa 128
        match r with
        | .error e => let (s, x) := s.walkFails a (e.walk pa) write 0 .tensor; (s, .error x)
        | .ok bs =>
          let rest := (s.die i.die).tensors.filter fun x => !(x.ctx == a.ctx && x.id == t)
          (s.setDie i.die { s.die i.die with tensors := rest ++ [⟨a.ctx, t, bs⟩] }, .ok bs)

/-- The virtual runs (address, length) of a copy's box in element order, and its element's bytes, or why the copy fails, with its
record written. -/
def State.boxRuns (s : State) (i : TileId) (a : Accessor) (d : List Byte) (k : CopyKind) (f : Nat) (writes : Bool) :
    State × Except CopyFailCause (List (Nat × Nat) × Nat) :=
  if dTensor d = 0 then
    if k = .amog then
      if dLinear d % dWidth d = 0 then (s, .ok ([(dLinear d, dWidth d)], dWidth d))
      else (s.faultNow a .tensor writes (dLinear d), .error .tensor)
    else
      let stride := if dRank d = 2 then dOrg d 2 else 0
      let runs := if dExt d 0 = 0 then []
        else (List.range (dRows d)).map fun r => ((dLinear d + r * stride) % 2 ^ 64, dExt d 0)
      (s, .ok (runs, (sideBits d f 1).1 / 8))
  else
    let (s, e) := s.tensorEntry i a (dTensor d) writes
    match e with
    | .error x => (s, .error x)
    | .ok b =>
      if !tensorOk b d k f writes then (s.faultNow a .tensor writes (field b 8 8), .error .tensor)
      else
        let n := if k = .amog then 1 else dExt d 0
        let offs := if k = .amog then
            [(List.range (dRank d - 1)).foldl (fun (o : Int) i => o + (dOrg d (i + 1) : Int) * tStr b (i + 1)) 0]
          else rowOffsets b d ((List.range (dRank d - 1)).map (· + 1))
        let runs := offs.flatMap (rowRuns b d n)
        match runs.find? fun r => r.1 % tEsize b != 0 with
        | some r => (s.faultNow a .tensor writes r.1, .error .tensor)
        | none => (s, .ok (runs, tEsize b))

/-! ## Translating a copy's accesses -/

/-- A part of a run that lies in one page, translated: its target, its virtual address and length, and where in the copy's image
it lies. -/
structure Piece where
  tgt : Target
  va  : Nat
  len : Nat
  off : Nat
  deriving DecidableEq, Repr

/-- Runs cut at pages, with their place in the image. -/
def cutRuns : Nat → List (Nat × Nat) → List (Nat × Nat × Nat)
  | _, [] => []
  | off, (a, n) :: rs =>
    let ps := pagesOf a n
    let lens := ps.map Prod.snd
    let offs := (List.range ps.length).map fun j => off + (lens.take j).foldl (· + ·) 0
    (ps.zip offs).map (fun p => (p.1.1 % 2 ^ 64, p.1.2, p.2)) ++ cutRuns (off + n) rs

/-- Whether a graft holds new translations of an address (R376). DESIGN CHOICE, notes/assumptions/38.md. -/
def State.graftHolds (s : State) (c : BitVec 16) (va : Nat) : Bool :=
  s.hbm.toList.any fun k => k.grBusy && k.grWait == 0 && k.job.ctx == c && k.job.va.toNat / 0x200000 == va / 0x200000

/-- Why a target cannot be reached by a tile's copy: no mapping region, a fenced stack or route, no usable window. -/
def State.targetStop (s : State) (i : TileId) (a : Accessor) (write : Bool) (p : Piece) : State × Option StartStop :=
  match p.tgt.space with
  | .dev =>
    let lines := (piecesOf p.tgt.addr p.len).map Prod.fst
    match lines.find? fun l => (s.coord l).isNone with
    | some l => (s.faultNow a .paErr write (Nat.max p.tgt.addr (l * 64)), some (.fail .translation))
    | none =>
      let stops (n : Fin 8) : Bool := (s.die n).fenced || s.routeBlocked i.die n
      (s, if lines.any fun l => ((s.coord l).map fun d => stops (coordStack d)).getD false then some (.fail .fencedStack) else none)
  | .host => (s, if s.linkBlocked i.die 0 then some (.fail .fencedStack) else none)
  | .win w =>
    if (s.imps[w]).size * 0x10000 ≤ p.tgt.addr then (s.faultNow a .badTte write p.va, some (.fail .translation))
    else (s, if s.linkBlocked i.die 1 then some (.fail .fencedStack)
      else if (s.importRoute w).isNone then some (.fail .window) else none)

/-- The pieces of a copy translated in order, and where it stops. -/
def State.translatePieces (s : State) (i : TileId) (a : Accessor) (write : Bool) :
    List (Nat × Nat × Nat) → State × List Piece × Option StartStop
  | [] => (s, [], none)
  | (va, n, off) :: rest =>
    if s.graftHolds a.ctx va then (s, [], some (.wait 0))
    else
      let (s, r) := s.translateFor i a.ctx va write
      match r with
      | .error .notPresent => let (s, tok) := s.faultWait a write va; (s, [], some (.wait tok))
      | .error e => let (s, x) := s.walkFails a e write va .translation; (s, [], some (.fail x))
      | .ok tgt =>
        let p : Piece := ⟨tgt, va, n, off⟩
        let (s, stop) := s.targetStop i a write p
        match stop with
        | some x => (s, [], some x)
        | none =>
          let (s, ps, x) := State.translatePieces s i a write rest
          (s, p :: ps, x)

/-- Parts of at most 2,048 bytes (R397). -/
def requestParts : Nat → Nat → Nat → List (Nat × Nat)
  | 0, _, _ => []
  | fuel + 1, o, n =>
    if n = 0 then [] else
      let k := Nat.min n 2048
      (o, k) :: requestParts fuel (o + k) (n - k)

/-- The requests of a piece that a window serves, put on its port; `data` is what a write sends. -/
def State.windowRequests (s : State) (i : TileId) (c : CopyCmd) (w : Fin 32) (p : Piece) (data : Option (List Byte)) : State :=
  match s.importRoute w with
  | none => s
  | some (port, _) =>
    let serial := dOrd c.desc || p.tgt.ord == 1
    let s := (requestParts (p.len / 2048 + 1) 0 p.len).foldl (fun s (o, n) =>
      let body := match data with
        | some bs => (bs.drop o).take n
        | none => []
      let ty := if data.isSome then ptWr else ptRd
      s.enqueueRequest port ⟨false, s.time, 0, i, c.id, w, requestPacket ty (s.imps[w]).xw 0 n (p.tgt.addr + o) body,
        p.tgt.leaf, p.off + o, serial, p.tgt.page⟩) s
    s.pump port

/-! ## Reading -/

/-- The bytes that pieces hold, in order: zeros, and a gap, where a peer has yet to send them. -/
def State.readPieces (s : State) (i : TileId) (c : CopyCmd) (a : Accessor) :
    List Piece → State × List Byte × List (Nat × Nat) × Option StartStop
  | [] => (s, [], [], none)
  | p :: ps =>
    match p.tgt.space with
    | .dev =>
      let (s, r) := s.readDevBy (.tile i) p.tgt.addr p.len
      match r with
      | .error .fenced => (s, [], [], some (.fail .fencedStack))
      | .error _ => (s, [], [], some (.fail .memory))
      | .ok bs => let (s, more, gs, x) := State.readPieces s i c a ps; (s, bs ++ more, gs, x)
    | .host =>
      let (s, bs) := s.hostRead (.tile i) p.tgt.addr p.len
      let (s, more, gs, x) := State.readPieces s i c a ps; (s, bs ++ more, gs, x)
    | .win w =>
      let s := s.windowRequests i c w p none
      let (s, more, gs, x) := State.readPieces s i c a ps
      (s, List.replicate p.len 0 ++ more, (p.off, p.len) :: gs, x)

/-- A copy's box read, with the element size of its tensor, or why it stops. -/
def State.readBox (s : State) (i : TileId) (c : CopyCmd) (a : Accessor) (k : CopyKind) (f : Nat) :
    State × Nat × List Byte × List (Nat × Nat) × Option StartStop :=
  let (s, r) := s.boxRuns i a c.desc k f false
  match r with
  | .error x => (s, 1, [], [], some (.fail x))
  | .ok (runs, e) =>
    let e := if dTensor c.desc = 0 then 1 else e
    let (s, ps, x) := s.translatePieces i a false (cutRuns 0 runs)
    match x with
    | some (.wait n) => (s, e, [], [], some (.wait n))
    | _ =>
      let (s, bs, gs, y) := s.readPieces i c a ps
      (s, e, bs, gs, match x with
        | some e => some e
        | none => y)

/-! ## Conversion (R192) -/

/-- The element type of a region format that copies convert. -/
def convType (f : Nat) : ElemType :=
  match f with
  | 2 => .bf16 | 3 => .f16 | 4 => .e4m3 | 5 => .e5m2 | 10 => .f64 | 11 => .p32 | _ => .f32

/-- Conversions round RNE, E5M2 overflows to infinity, and NUMV is ignored. -/
def convMode (t : ElemType) : VMode := ⟨t, fullMask, .rne, false, false, false⟩

/-- One element converted. -/
def convElem (src dst v : Nat) : Nat := (cvtElem (convMode (convType dst)) (convType src) (convType dst) v).v

/-- Elements converted, n of them. -/
def convBytes (src dst : Nat) : Nat → List Byte → List Byte
  | 0, _ => []
  | _, [] => []
  | n + 1, bs =>
    let w := regionBits src / 8
    bytesOfNat (regionBits dst / 8) (convElem src dst (natOfBytes (bs.take w))) ++ convBytes src dst n (bs.drop w)

/-- A list cut into parts of one length, n of them. -/
def chunks {α : Type} (k : Nat) : Nat → List α → List (List α)
  | 0, _ => []
  | n + 1, xs => xs.take k :: chunks k n (xs.drop k)

/-- The rows that a footprint gets, as writes. -/
def spadWrites (i : TileId) (a pitch unit : Nat) (rows : List (List Byte)) : List ElemWrite :=
  rows.zipIdx.map fun r => ⟨.spad i (a + r.2 * pitch * 16), r.1, unit, 0⟩

/-- The writes of a LOAD whose box is read (R192). -/
def loadWrites (i : TileId) (k : KRegs) (d image : List Byte) (esize : Nat) : List ElemWrite :=
  let f := fmtAt k (dSp d)
  let n := rowElems d f
  let (g, w) := sideBits d f esize
  let rows := chunks (rowBytes n g) (boxRows d) image
  spadWrites i (dSp d) (dPitch d) (Nat.max 1 (w / 8))
    (if converts (dConv d) f then rows.map (convBytes (dConv d) f n) else rows)

/-- The bytes that a STORE sends, in element order. -/
def storeBytes (t : Tile) (d : List Byte) (esize : Nat) : List Byte :=
  let f := fmtAt t.k (dSp d)
  let n := rowElems d f
  let (_, w) := sideBits d f esize
  (rowRanges (dSp d) (dPitch d) (rowBytes n w) (boxRows d)).flatMap fun r =>
    let bs := t.spadBytes r.1 r.2
    if converts (dConv d) f then convBytes f (dConv d) n bs else bs

/-! ## Starting (R197, R224) -/

/-- Whether the copies issued before let a command start: ORD, and the order of tables and streams (R196, R224). -/
def mayStart (q : List CopyCmd) (c : CopyCmd) : Bool :=
  let earlier := q.filter fun x => decide (x.id < c.id)
  let usesSlot (x : CopyCmd) : Bool := x.stream.isSome && dMode x.desc != 0 && dSlot x.desc == dSlot c.desc
  let fillsSlot (x : CopyCmd) : Bool := x.stream.isNone && dKind x.desc == some .dtab && dSlot x.desc == dSlot c.desc
  (!dOrd c.desc || earlier.isEmpty) &&
  (match c.stream with
   | some _ => dMode c.desc == 0 || !(earlier.any fillsSlot)
   | none => dKind c.desc != some .dtab || !(earlier.any usesSlot))

/-- The writes of a STORE: pieces in device and host memory, and requests for those behind a window. -/
def State.storePieces (s : State) (i : TileId) (c : CopyCmd) (unit : Nat) (data : List Byte) : List Piece → State × List ElemWrite
  | [] => (s, [])
  | p :: ps =>
    let bs := (data.drop p.off).take p.len
    match p.tgt.space with
    | .dev => let (s, ws) := State.storePieces s i c unit data ps; (s, ⟨.dev p.tgt.addr p.tgt.page p.tgt.leaf, bs, unit, p.tgt.ord⟩ :: ws)
    | .host => let (s, ws) := State.storePieces s i c unit data ps; (s, ⟨.hostMem p.tgt.addr p.tgt.page p.tgt.leaf, bs, unit, p.tgt.ord⟩ :: ws)
    | .win w => State.storePieces (s.windowRequests i c w p (some bs)) i c unit data ps

/-- A copy started, with what it will write, what it read, and what it still waits to read; or its wait or failure. -/
def State.putStarted (s : State) (i : TileId) (id : Nat) (ws : List ElemWrite) (image : List Byte) (gaps : List (Nat × Nat))
    (stop : Option StartStop) : State :=
  let s := s.setTile i ((s.tile i).mapCopy id fun c => { c with
    stage := (match stop with
      | some (.wait n) => .waiting n
      | _ => .started)
    writes := ws, image := image, gaps := gaps })
  match stop with
  | some (.fail e) => s.copyFails i id e
  | _ => s

/-- A LOAD, DTAB or stream starts: its box is read. -/
def State.startRead (s : State) (i : TileId) (c : CopyCmd) (k : CopyKind) : State :=
  let a := s.copyAccessor i c.stream.isSome
  let t := s.tile i
  let (s, e, image, gaps, stop) := s.readBox i c a k (fmtAt t.k (dSp c.desc))
  let ws := if k = .load ∧ c.stream.isNone then loadWrites i t.k c.desc image e else []
  (s.setTile i ((s.tile i).mapCopy c.id fun x => { x with esize := e })).putStarted i c.id ws image gaps stop

/-- A STORE starts: its footprint is read and its box translated. -/
def State.startStore (s : State) (i : TileId) (c : CopyCmd) : State :=
  let a := s.copyAccessor i false
  let t := s.tile i
  let (s, r) := s.boxRuns i a c.desc .store (fmtAt t.k (dSp c.desc)) true
  match r with
  | .error x => s.putStarted i c.id [] [] [] (some (.fail x))
  | .ok (runs, unit) =>
    let (s, ps, stop) := s.translatePieces i a true (cutRuns 0 runs)
    match stop with
    | some (.wait n) => s.putStarted i c.id [] [] [] (some (.wait n))
    | _ =>
      let (s, ws) := s.storePieces i c unit (storeBytes t c.desc unit) ps
      s.putStarted i c.id ws [] [] stop

/-- The comparand that an AMOG reads at execution (R195). -/
def amogComparand (t : Tile) (d : List Byte) : Nat := natOfBytes (t.spadBytes (dSp d) (dWidth d))

/-- An AMOG starts: its target is translated; a target behind a window is asked for the atomic. -/
def State.startAmog (s : State) (i : TileId) (c : CopyCmd) : State :=
  let a := s.copyAccessor i false
  let d := c.desc
  let t := s.tile i
  let (s, r) := s.boxRuns i a d .amog 0 true
  match r with
  | .error x => s.putStarted i c.id [] [] [] (some (.fail x))
  | .ok (runs, _) =>
    let (s, ps, stop) := s.translatePieces i a true (cutRuns 0 runs)
    match stop, ps with
    | none, [p] =>
      match p.tgt.space with
      | .dev => s.putStarted i c.id [⟨.dev p.tgt.addr p.tgt.page p.tgt.leaf, [], dWidth d, p.tgt.ord⟩] [] [] none
      | .host => s.putStarted i c.id [⟨.hostMem p.tgt.addr p.tgt.page p.tgt.leaf, [], dWidth d, p.tgt.ord⟩] [] [] none
      | .win w =>
        match s.importRoute w with
        | none => s.putStarted i c.id [] [] [] (some (.fail .window))
        | some (port, _) =>
          let aop := BitVec.ofNat 8 (field d 0x32 1 + 16 * field d 0x33 1)
          let cmp := if field d 0x32 1 = 13 then amogComparand t d else 0
          let body := bytesOfNat 8 (field d 0x38 8 % 2 ^ (8 * dWidth d)) ++ bytesOfNat 8 cmp ++ List.replicate 16 0
          let s := s.enqueueRequest port ⟨false, s.time, 0, i, c.id, w,
            requestPacket ptAmo (s.imps[w]).xw aop 0 p.tgt.addr body, p.tgt.leaf, 0, dOrd d || p.tgt.ord == 1, p.tgt.page⟩
          (s.pump port).putStarted i c.id [] (List.replicate (dWidth d) 0) [(0, dWidth d)] none
    | stop, _ => s.putStarted i c.id [] [] [] stop

/-- An SPCONV starts: its source is read (R193). -/
def State.startSpconv (s : State) (i : TileId) (c : CopyCmd) : State :=
  let t := s.tile i
  let d := c.desc
  let fs := fmtAt t.k (dSrc d)
  let fd := fmtAt t.k (dSp d)
  let (ws, wd) := spconvBits fs fd
  let n := dExt d 0
  let rows := (rowRanges (dSrc d) (dSrcPitch d) (rowBytes n ws) (dRows d)).map fun r =>
    let bs := t.spadBytes r.1 r.2
    if fs = 0 ∨ fd = 0 ∨ fs = fd then bs else convBytes fs fd n bs
  s.putStarted i c.id (spadWrites i (dSp d) (dPitch d) (Nat.max 1 (wd / 8)) rows) [] [] none

/-- The tile that a CREW copy names. -/
def crewPeer (i : TileId) (t : Tile) (d : List Byte) : TileId := crewTile i t (field d 0x33 1)

/-- A CREW copy starts: its source is read, at this tile or at the peer (R194). -/
def State.startCrew (s : State) (i : TileId) (c : CopyCmd) : State :=
  let t := s.tile i
  let d := c.desc
  let j := crewPeer i t d
  if !(s.tile j).serves t.pt.handle then s.putStarted i c.id [] [] [] (some (.fail .peerStopped))
  else
    let get := field d 0x32 1 == 1
    let n := dExt d 0
    let read (x : Tile) (a p : Nat) : List (List Byte) := (rowRanges a p n (dRows d)).map fun r => x.spadBytes r.1 r.2
    let ws := if get then spadWrites i (dSp d) (dPitch d) 1 (read (s.tile j) (dSrc d) (dSrcPitch d))
      else spadWrites j (dSrc d) (dSrcPitch d) 1 (read t (dSp d) (dPitch d))
    s.putStarted i c.id ws [] [] none

/-- A command begins its accesses. -/
def State.startCopy (s : State) (i : TileId) (c : CopyCmd) : State :=
  match c.stream, dKind c.desc with
  | some _, _ => s.startRead i c .load
  | none, some .load => s.startRead i c .load
  | none, some .dtab => s.startRead i c .dtab
  | none, some .store => s.startStore i c
  | none, some .amog => s.startAmog i c
  | none, some .spconv => s.startSpconv i c
  | none, some .crew => s.startCrew i c
  | none, none => s

/-- Whether the copy engine of a tile starts copies: not of a tile that is cut or whose launch's hard cut is being carried out at
it (R300). -/
def Tile.startsCopies (t : Tile) : Bool := t.act == .point || t.act == .prologue || t.act == .pended

/-- Whether what the tile committed before a command is done: its crew-space accesses performed, its gathers read and its scatters
written (R172, R197, R258). -/
def State.sourcesSettled (s : State) (i : TileId) (c : CopyCmd) : Bool :=
  !(s.crew.any fun a => a.src == i && decide (a.seqNo < c.id)) &&
  !((s.tile i).sb.any fun e => decide (e.seqNo < c.id) && (e.isLdg || e.isStg))

/-- A copy's accesses to the scratchpads of its tile and of its peer may meet those of others there (R35). -/
def State.copyMeets (s : State) (i : TileId) (c : CopyCmd) : State :=
  let s := s.setTile i ((s.tile i).beside i (s.tile i).stands)
  if dKind c.desc = some .crew ∧ c.stream.isNone then
    let j := crewPeer i (s.tile i) c.desc
    s.setTile j ((s.tile j).meetCrew j 0 (s.crewDepth j))
  else s

/-- COPY_START or MSTREAM_START: a queued command starts once what came before it is done, and ORD and its tables allow. -/
def State.startQueued (s : State) (mn : String) (i : TileId) (id : Nat) (stream : Bool) : Result :=
  let t := s.tile i
  match t.copy? id with
  | none => .refused (.notEnabled mn)
  | some c =>
    if c.stage == .queued && c.stream.isSome == stream && t.startsCopies && mayStart t.copyq c && s.sourcesSettled i c then
      .next ((s.startCopy i c).copyMeets i c)
    else .refused (.notEnabled mn)

/-- COPY_START (R197). -/
def execCopyStart (t : TileId) (id : Nat) (s : State) : Result := s.startQueued "COPY_START" t id false

/-- MSTREAM_START (R224). -/
def execMstreamStart (t : TileId) (id : Nat) (s : State) : Result := s.startQueued "MSTREAM_START" t id true

/-! ## Completing and failing (R197, R198) -/

/-- Whether every write can be made: device lines are mapped, not fenced, and readable where they are written in part. -/
def State.canPerform (s : State) (es : List ElemWrite) : Bool :=
  es.all fun e => match e.dest with
    | .dev pa _ _ =>
      match (s.writeDev pa e.data).2 with
      | .ok _ => true
      | .error _ => false
    | _ => true

/-- A copy leaves the queue and posts (R188, R197); a failed one with the CERR bit (R198). The post of a stream that ended in a core cycle
comes two cycles later (R429). A bundle that waits for copies may go on from then on. -/
def State.copyPost (s : State) (i : TileId) (c : CopyCmd) (cerr : Bool) (ended : Option Nat := none) : State :=
  let s := s.freed i [.fence, .pend, .queueFull]
  let t := s.tile i
  let tgt := match c.stream with
    | some _ => some (i, false)
    | none => match postTarget s i t (dStgt c.desc) with
      | .ok x => some x
      | .error _ => none
  let sem := match c.stream with
    | some (_, e) => e
    | none => dSem c.desc
  let s := s.setTile i { t with copyq := t.copyq.filter fun x => x.id != c.id }
  match tgt with
  | some (j, wide) => { s with posts := s.posts ++ [{ tilePost i j t sem 1 cerr wide 0 with due := ended.map (· + 2) }] }.settleStopped i
  | none => s.settleStopped i

/-- A tile's copy as a writer at its CSCOPE (R255, R263). -/
def State.copyWriter (s : State) (i : TileId) (c : CopyCmd) : Writer :=
  let t := s.tile i
  ⟨some i, c.id, t.pt.handle, t.pt.serial, s.tileCtx t,
    t.crewTiles i, dScope c.desc⟩

/-- The atomic of an AMOG on device or host memory, and the old value at SPADDR with RET (R195). -/
def State.performAmog (s : State) (i : TileId) (c : CopyCmd) : State × Bool :=
  let d := c.desc
  let w := dWidth d
  let t := s.tile i
  let op := (atomOf (field d 0x32 1)).getD .add
  let put (s : State) (old : Nat) : State :=
    if dRet d then s.setTile i ((s.tile i).setSpad (dSp d) (bytesOfNat w old)) else s
  let new (old : Nat) : List Byte :=
    bytesOfNat w (atomNew (8 * w) op old (field d 0x38 8 % 2 ^ (8 * w)) (amogComparand t d))
  match c.writes with
  | [e] =>
    match e.dest with
    | .dev pa pg lf =>
      let (s, r) := s.readDev .agent pa w
      match r with
      | .error x => (if x = .unmapped then s.faultNow (s.copyAccessor i false) .paErr true pa else s, false)
      | .ok bs =>
        let s := s.meets (.tile i) false (s.runsOf (piecesOf pa w))
        let s := (s.writeDevAs (s.copyWriter i c) lf e.ord pa (new (natOfBytes bs))).1
        let s := s.logWrites (copyWatch i c.id) [(pa, w, pg)]
        (put s (natOfBytes bs), true)
    | .hostMem a pg lf =>
      let old := natOfBytes (s.hostBytes a w)
      let x := s.copyWriter i c
      let s := (s.meets (.tile i) true [(a, w)]).hostStoreAs (if e.ord = 2 then x else { x with scope := 4 }) lf e.ord a (new old)
      (put (s.logOutside (copyWatch i c.id) [(a, w, pg)]) old, true)
    | .spad _ _ => (s, false)
  | _ => (put s (natOfBytes c.image), true)

/-- The symbol counts of a DTAB image (R220). -/
def imageCounts (b : List Byte) : List Nat := (List.range 16).map fun l => field b (0x10 + 2 * l) 2

/-- A decoder table from its image, or none where the image is invalid (R220). -/
def tableOf (b : List Byte) : Option DTable :=
  let nsym := field b 0 2
  let maxlen := field b 2 1
  let fl := field b 3 1
  let code := bit fl 0
  let book := bit fl 1
  let lcnt := imageCounts b
  let syms := (List.range 512).map fun j => field b (0x30 + 2 * j) 2
  let entries := (List.range 256).map fun j => BitVec.ofNat 32 (field b (0x430 + 4 * j) 4)
  let used := syms.take nsym
  let codeOk :=
    if code then
      decide (1 ≤ nsym) && decide (nsym ≤ 512) && decide (1 ≤ maxlen) && decide (maxlen ≤ 16) &&
      lcnt.foldl (· + ·) 0 == nsym && ((lcnt.drop maxlen).all fun x => x == 0) &&
      decide ((lcnt.zipIdx.foldl (fun n p => n + p.1 * 2 ^ (15 - p.2)) 0) ≤ 65536) &&
      (dedup used).length == nsym && (used.all fun x => decide (x < 512)) && ((syms.drop nsym).all fun x => x == 0)
    else nsym == 0 && maxlen == 0 && (lcnt.all fun x => x == 0) && (syms.all fun x => x == 0)
  if b.length = 2096 ∧ (code || book) ∧ bits fl 2 6 = 0 ∧ field b 4 12 = 0 ∧ codeOk ∧ (book || entries.all fun e => e == 0) then
    some ⟨maxlen, code, book, lcnt, syms, entries⟩
  else none

/-- Whether a peer that serves a CREW copy still does. -/
def State.peerServes (s : State) (i : TileId) (c : CopyCmd) : Bool :=
  dKind c.desc != some .crew || (s.tile (crewPeer i (s.tile i) c.desc)).serves (s.tile i).pt.handle

/-- A write moved on by some bytes. -/
def WriteDest.skip (d : WriteDest) (n : Nat) : WriteDest :=
  match d with
  | .spad t a => .spad t (a + n)
  | .dev pa pg lf => .dev (pa + n) pg lf
  | .hostMem a pg lf => .hostMem (a + n) pg lf

/-- The address at which a write begins, in its own space. -/
def WriteDest.addr : WriteDest → Nat
  | .spad _ a => a
  | .dev pa _ _ => pa
  | .hostMem a _ _ => a

/-- Whether a run of whole elements goes on where another ends. -/
def ElemWrite.follows (x w : ElemWrite) : Bool := x.dest == w.dest.skip w.data.length && x.unit == w.unit && x.ord == w.ord

/-- Runs of consecutive elements joined: one that goes on where the one before it ends, and one that lies below the one before it in the
same aligned word (R253). -/
def joinRuns : List ElemWrite → List ElemWrite
  | [] => []
  | w :: ws =>
    match joinRuns ws with
    | [] => [w]
    | x :: xs =>
      if x.follows w then { w with data := w.data ++ x.data } :: xs
      else if w.follows x && x.dest.addr / 4 == (w.dest.addr + w.data.length - 1) / 4 then { x with data := x.data ++ w.data } :: xs
      else w :: x :: xs

/-- What a copy's completion leaves, or none where it cannot complete. DESIGN CHOICE, notes/assumptions/33.md. -/
def State.finishCopy (s : State) (i : TileId) (c : CopyCmd) : Option State :=
  match dKind c.desc with
  | some .amog => match s.performAmog i c with
    | (s, true) => some s
    | (_, false) => none
  | some .dtab =>
    match tableOf c.image with
    | some d =>
      let t := s.tile i
      if h : dSlot c.desc < 2 then some (s.setTile i { t with dts := t.dts.set (dSlot c.desc) (some d) h }) else none
    | none => none
  | some .crew => if s.peerServes i c then some (s.performAll (copyWatch i c.id) (s.copyWriter i c) c.writes) else none
  | some .store => if s.canPerform c.writes then some (s.performAll (copyWatch i c.id) (s.copyWriter i c) (joinRuns c.writes)) else none
  | _ => if s.canPerform c.writes then some (s.performAll (copyWatch i c.id) (s.copyWriter i c) c.writes) else none

/-- Whether a tile's started copies have had their 10 us since the decision to stop it: they complete no more (R300). -/
def State.cutTimeUp (s : State) (i : TileId) : Bool :=
  match (s.tile i).cutReq with
  | some (n, _) => decide (n + 10000 < s.time)
  | none => false

/-- COPY_COMPLETE (R197). -/
def execCopyComplete (t : TileId) (id : Nat) (s : State) : Result :=
  match (s.tile t).copy? id with
  | none => .refused (.notEnabled "COPY_COMPLETE")
  | some c =>
    if c.stage == .started && c.stream.isNone && c.gaps.isEmpty && !s.copyBusy t id && !s.cutTimeUp t then
      match s.finishCopy t c with
      | some s => .next ((s.copyMeets t c).copyPost t c false)
      | none => .refused (.notEnabled "COPY_COMPLETE")
    else .refused (.notEnabled "COPY_COMPLETE")

/-- The lengths of the parts of n bytes at an address that are written whole: an aligned word that the bytes cover, and else single
elements of u bytes (R253). -/
def wordParts (u : Nat) : Nat → Nat → Nat → List Nat
  | 0, _, _ => []
  | fuel + 1, a, n =>
    if n = 0 then []
    else
      let k := if u < 4 && a % 4 == 0 && decide (4 ≤ n) then 4 else Nat.min n (Nat.max 1 u)
      k :: wordParts u fuel (a + k) (n - k)

/-- The parts of some bytes of one run, with the place of each in the bytes that the copy writes. -/
def cutParts (w : ElemWrite) : Nat → Nat → List Nat → List (ElemWrite × Nat)
  | _, _, [] => []
  | o, place, k :: ks => (⟨w.dest.skip o, (w.data.drop o).take k, w.unit, w.ord⟩, place + o) :: cutParts w (o + k) place ks

/-- The parts of a copy's writes that each land whole, in element order, each with its place in the bytes that the copy writes. -/
def splitWrites : Nat → List ElemWrite → List (ElemWrite × Nat)
  | _, [] => []
  | place, w :: ws =>
    cutParts w 0 place (wordParts w.unit w.data.length w.dest.addr w.data.length) ++ splitWrites (place + w.data.length) ws

/-- Whether a part of a LOAD's writes was read: none of the bytes that it was made from is still to come. -/
def partRead (k : KRegs) (c : CopyCmd) (x : ElemWrite × Nat) : Bool :=
  let d := c.desc
  let f := fmtAt k (dSp d)
  let u := Nat.max 1 x.1.unit
  let g := if converts (dConv d) f then regionBits (dConv d) / 8 else u
  let lo := x.2 / u * g
  let hi := (x.2 + x.1.data.length + u - 1) / u * g
  dKind d != some .load || !(c.gaps.any fun q => decide (q.1 < hi) && decide (lo < q.1 + q.2))

/-- Parts in order, those of SO pages only until one of these has not landed (R263). -/
def soPrefix : Bool → List (ElemWrite × Bool) → List ElemWrite
  | _, [] => []
  | open', (w, hit) :: ws =>
    if w.ord = 1 then (if open' && hit then [w] else []) ++ soPrefix (open' && hit) ws
    else (if hit then [w] else []) ++ soPrefix open' ws

/-- The parts of a failed copy's writes that took their new value: those named, where they were read and can be written. -/
def State.landedElems (s : State) (k : KRegs) (c : CopyCmd) (landed : List Nat) : List ElemWrite :=
  soPrefix true (((splitWrites 0 (joinRuns c.writes)).zipIdx).map fun x =>
    (x.1.1, landed.contains x.2 && partRead k c x.1 && s.canPerform [x.1.1]))

/-- The accounting of the writes that a failed copy could not make: an uncorrectable line is counted in its stack's bank (R361), a line
that no mapping region holds gives a PAERR record (R355). -/
def State.failedWrites (s : State) (i : TileId) (es : List ElemWrite) : State :=
  let a := s.copyAccessor i false
  match es.find? fun e => !s.canPerform [e] with
  | none => s
  | some e =>
    match e.dest with
    | .dev pa _ _ =>
      match (piecesOf pa (Nat.max 1 e.data.length)).find? fun p => match (s.reach .partialWrite p.1 (p.2.2 != 64)).2 with
          | .ok _ => false
          | .error _ => true with
      | some p =>
        match s.reach .partialWrite p.1 (p.2.2 != 64) with
        | (s, .error .unmapped) => s.faultNow a .paErr true (p.1 * 64 + p.2.1)
        | (s, _) => s
      | none => s
    | _ => s

/-- Whether a started copy may fail for a cause now (R198). -/
def State.mayFail (s : State) (i : TileId) (c : CopyCmd) (cause : CopyFailCause) : Bool :=
  match c.stage with
  | .failing x => x == cause
  | .started =>
    c.gaps.isEmpty && !s.copyBusy i c.id &&
    (match cause with
     | .image => dKind c.desc == some .dtab && (tableOf c.image).isNone
     | .peerStopped => !s.peerServes i c
     | .memory | .fencedStack =>
       (dKind c.desc == some .amog && !(s.performAmog i c).2) || !s.canPerform c.writes
     | _ => false)
  | _ => false

/-- COPY_FAIL (R198): the parts named have landed, the rest of the destination keeps its old values. -/
def execCopyFail (t : TileId) (id : Nat) (cause : CopyFailCause) (landed : List Nat) (s : State) : Result :=
  match (s.tile t).copy? id with
  | none => .refused (.notEnabled "COPY_FAIL")
  | some c =>
    if c.stream.isNone && s.mayFail t c cause then
      let s := if dKind c.desc = some .amog then
          (if landed.contains 0 && !c.writes.isEmpty || !(s.performAmog t c).2 then (s.performAmog t c).1 else s)
        else if dKind c.desc = some .dtab then
          (if cause = .image then
            let x := s.tile t
            if h : dSlot c.desc < 2 then s.setTile t { x with dts := x.dts.set (dSlot c.desc) none h } else s
          else s)
        else if dKind c.desc = some .crew ∧ !s.peerServes t c then s
        else
          (s.failedWrites t c.writes).performAll (copyWatch t c.id) (s.copyWriter t c) (s.landedElems (s.tile t).k c landed)
      .next ((s.copyMeets t c).copyPost t c true)
    else .refused (.notEnabled "COPY_FAIL")

/-! ## The weight decoder (R221, R224, R225) -/

/-- The canonical code: for each length from 1, its first code and the place of its first symbol. -/
def codeStarts (lcnt : List Nat) : List (Nat × Nat × Nat) :=
  (lcnt.foldl (fun (p : Nat × Nat × List (Nat × Nat × Nat)) n =>
    ((p.1 + n) * 2, p.2.1 + n, p.2.2 ++ [(p.1, n, p.2.1)])) (0, 0, [])).2.2

/-- The symbol of an l-bit code, if it is one. -/
def symbolOf (starts : List (Nat × Nat × Nat)) (syms : List Nat) (l code : Nat) : Option Nat :=
  match starts[l - 1]? with
  | some (first, n, j) => if first ≤ code ∧ code < first + n then syms[j + (code - first)]? else none
  | none => none

/-- A stream decoded bit by bit until so many bytes are out; `rev` holds the bytes so far, the last one first. -/
def decodeBits (starts : List (Nat × Nat × Nat)) (syms : List Nat) (maxlen need : Nat) :
    List Bool → Nat → Nat → Nat → List Byte → Option (List Byte)
  | [], _, _, have', rev => if have' = need then some rev.reverse else none
  | b :: bs, l, code, have', rev =>
    if have' = need then some rev.reverse
    else
      let l := l + 1
      let code := 2 * code + b.toNat
      match symbolOf starts syms l code with
      | some sym =>
        if sym < 256 then decodeBits starts syms maxlen need bs 0 0 (have' + 1) (BitVec.ofNat 8 sym :: rev)
        else
          let run := sym - 256 + 2
          if need < have' + run then none
          else decodeBits starts syms maxlen need bs 0 0 (have' + run) (List.replicate run (rev.headD 0) ++ rev)
      | none => if maxlen ≤ l then none else decodeBits starts syms maxlen need bs l code have' rev

/-- The codes that such a decoding takes in, `n` of them so far. -/
def decodeCodes (starts : List (Nat × Nat × Nat)) (syms : List Nat) (maxlen need : Nat) :
    List Bool → Nat → Nat → Nat → Nat → Nat
  | [], _, _, _, n => n
  | b :: bs, l, code, have', n =>
    if need ≤ have' then n
    else
      let l := l + 1
      let code := 2 * code + b.toNat
      match symbolOf starts syms l code with
      | some sym => decodeCodes starts syms maxlen need bs 0 0 (have' + if sym < 256 then 1 else sym - 256 + 2) (n + 1)
      | none => if maxlen ≤ l then n else decodeCodes starts syms maxlen need bs l code have' n

/-- The bits of bytes, each from bit 7 down. -/
def streamBits (bs : List Byte) : List Bool := bs.flatMap fun b => (List.range 8).map fun j => b.getLsbD (7 - j)

/-- The image that a stream gives its macro, or none where the stream fails (R224, R225). -/
def streamImage (t : Tile) (d bytes : List Byte) : Option (List Byte) :=
  let mode := dMode d
  let need := imageData (dConv d) + imageScales (dConv d)
  let table := (t.dts.toList.getD (dSlot d) none)
  if mode = 0 then some bytes
  else match table with
    | none => none
    | some x =>
      if (decide (2 ≤ mode) && !x.book) || (mode % 2 == 1 && !x.code) then none
      else if mode = 2 then some bytes
      else decodeBits (codeStarts x.lcnt) x.syms x.maxlen need (streamBits bytes) 0 0 0 []

/-- The macro that an image fills (R218, R224). -/
def streamMacro (t : Tile) (d image : List Byte) : MacroState :=
  let c := dConv d
  let im := image.toArray
  let book := match t.dts.toList.getD (dSlot d) none with
    | some x => x.entries
    | none => []
  fillMacro c (fun j => im.getD j 0) (fun q => im.getD (imageData c + q) 0) book (BitVec.ofNat 32 (field d 0x34 4))

/-- A stream whose bytes are all read and whose macro has done its earlier work. -/
def State.streamReady (s : State) (i : TileId) (c : CopyCmd) (m : BitVec 3) : Bool :=
  c.gaps.isEmpty && !s.copyBusy i c.id && !(s.tile i).macroBusy m.toNat c.id

/-- The codes that a stream's decoder takes in: for each one cycle (R224, R429). -/
def codeCount (x : DTable) (need : Nat) (bytes : List Byte) : Nat :=
  decodeCodes (codeStarts x.lcnt) x.syms x.maxlen need (streamBits bytes) 0 0 0 0

/-- The least cycles in which a fill places its weights once its bytes are there: in modes 0 and 2 one for each 16-byte beat of its data,
in modes 1 and 3 one for each code (R429). -/
def fillBeats (t : Tile) (d bytes : List Byte) : Nat :=
  if dMode d % 2 = 0 then imageData (dConv d) / 16
  else match t.dts.toList.getD (dSlot d) none with
    | some x => codeCount x (imageData (dConv d) + imageScales (dConv d)) bytes
    | none => 0

/-- The cycle in which a stream placed its last weight, or failed: after it was issued, after its macro's earlier work, and after some
cycles that are not fixed, for its bytes arrive at a time of their own. -/
def fillEnd (t : Tile) (m : BitVec 3) (c : CopyCmd) (beats draw : Nat) : Nat :=
  Nat.max (Nat.max c.cycle (t.macroEnd m.toNat) + beats) (t.freeCycle 0) + Config.waited draw

/-- MSTREAM_COMPLETE (R222, R429). -/
def execMstreamComplete (t : TileId) (id : Nat) (s : State) : Result :=
  let x := s.tile t
  match x.copy? id with
  | none => .refused (.notEnabled "MSTREAM_COMPLETE")
  | some c =>
    match c.stream, streamImage x c.desc c.image with
    | some (m, _), some im =>
      if c.stage == .started && s.streamReady t c m && !s.cutTimeUp t then
        let y := { x with macros := x.macros.set m.toNat (streamMacro x c.desc im) m.isLt }
        let e := fillEnd x m c (fillBeats x c.desc c.image) s.draws
        .next (({ s with draws := s.draws + 1 }.setTile t (y.macroDone (macroNo m.toNat) e)).copyPost t c false (some e))
      else .refused (.notEnabled "MSTREAM_COMPLETE")
    | _, _ => .refused (.notEnabled "MSTREAM_COMPLETE")

/-- Whether a stream may fail for a cause now (R225). A stream that a hard cut failed fails at once where earlier work of its macro
waits for a handler to end, for R300's 10 us do not wait for it; that work still uses the weights before it (R203). DESIGN CHOICE,
notes/assumptions/77.md. -/
def State.streamMayFail (s : State) (i : TileId) (c : CopyCmd) (m : BitVec 3) (cause : CopyFailCause) : Bool :=
  match c.stage with
  | .failing x => x == cause && (!(s.tile i).macroBusy m.toNat c.id || (x == .cut && (s.tile i).k.trapped))
  | .started => cause == .decode && s.streamReady i c m && (streamImage (s.tile i) c.desc c.image).isNone
  | _ => false

/-- MSTREAM_FAIL (R225). -/
def execMstreamFail (t : TileId) (id : Nat) (cause : CopyFailCause) (s : State) : Result :=
  let x := s.tile t
  match x.copy? id with
  | none => .refused (.notEnabled "MSTREAM_FAIL")
  | some c =>
    match c.stream with
    | some (m, _) =>
      if s.streamMayFail t c m cause then
        let e := fillEnd x m c 0 s.draws
        let y := { x with macros := x.macros.set m.toNat { x.macros[m.toNat]'m.isLt with fails := some c.id } m.isLt,
                          copyq := x.copyq.filter fun q => q.id != c.id }
        let y := (y.macroDone (macroNo m.toNat) e).settleMacro (macroNo m.toNat) s.draws
        .next (({ s with draws := s.draws + 1 }.setTile t y).copyPost t c true (some e))
      else .refused (.notEnabled "MSTREAM_FAIL")
    | none => .refused (.notEnabled "MSTREAM_FAIL")

end Sys2Proof.Machine
end

