-- ==== Sys2Proof/Machine/Trellis.lean ====
section
/-! DEFINITION. The T-unit instructions and the forest (spec/08_isa_trellis.md R231-R249): shape descriptors, the upward and
downward passes in F32 and in P32, and block moves. -/

namespace Sys2Proof.Machine

/-! ## Values of nodes (R240, R241) -/

/-- The TSTAT bits (R234). -/
def tUnf : BitVec 5 := 1
/-- OVF. -/
def tOvf : BitVec 5 := 2
/-- INV. -/
def tInv : BitVec 5 := 4
/-- FOVF. -/
def tFovf : BitVec 5 := 8
/-- FUNF. -/
def tFunf : BitVec 5 := 16

/-- An encoding and the TSTAT bits that its rounding set. -/
structure TRes where
  v  : Nat
  st : BitVec 5
  deriving DecidableEq, Repr

/-- An F32 rounding with its bits: FOVF on overflow, FUNF on a tiny non-zero inexact result. -/
def round32 (v : FVal) : TRes :=
  let r := roundVal fmtF32 .rne false v
  let mag := r.v % 2 ^ 31
  ⟨r.v, (if r.fl.ovf then tFovf else 0) ||| (if r.fl.inx && decide (0 < mag) && decide (mag < 0x800000) then tFunf else 0)⟩

/-- A P32 rounding with its bits (R95). -/
def round32P (m : Nat) (e : Int) : TRes :=
  if m = 0 then ⟨0, 0⟩
  else
    let r := roundP32 m e
    ⟨r.v, (if r.unf then tUnf else 0) ||| (if r.ovf then tOvf else 0)⟩

/-- A leaf's word as the engine reads it: NaNs canonical in F32, zeros canonical in P32 (R240, R241). -/
def leafVal (p32 : Bool) (v : Nat) : Nat :=
  if p32 then (if v / 2 ^ 20 = 0 then 0 else v)
  else if (fmtF32.decode v).isNaN then 0x7FC00000 else v

/-- The exact sum of finite values: an integer over a power of two, and whether all are zeros of negative sign. -/
def exactSum (xs : List FVal) : FVal :=
  let q := xs.foldl (fun (m : Int) v => match v with
    | .fin _ _ e => min m e
    | _ => m) 0
  let z := xs.foldl (fun (s : Int) v => match v with
    | .fin n m e => s + signed n (m * 2 ^ (e - q).toNat)
    | _ => s) 0
  FVal.ofInt z q (xs.all fun v => v.isZero && v.neg)

/-- A SUM node in F32. -/
def sum32 (xs : List Nat) : TRes :=
  let vs := xs.map fmtF32.decode
  let pos := vs.any fun v => v.isInf && !v.neg
  let neg := vs.any fun v => v.isInf && v.neg
  if vs.any FVal.isNaN then ⟨0x7FC00000, 0⟩
  else if pos && neg then ⟨0x7FC00000, tInv⟩
  else if pos || neg then round32 (.inf neg)
  else round32 (exactSum vs)

/-- A PROD node in F32. -/
def prod32 (xs : List Nat) : TRes :=
  let vs := xs.map fmtF32.decode
  if vs.any FVal.isNaN then ⟨0x7FC00000, 0⟩
  else if vs.any FVal.isZero && vs.any FVal.isInf then ⟨0x7FC00000, tInv⟩
  else round32 (vs.foldl FVal.mul (.fin false 1 0))

/-- A MAX node in F32: max_num, NaN children ignored. -/
def max32 (xs : List Nat) : TRes :=
  let best := xs.foldl (fun (b : Option Nat) v =>
    if (fmtF32.decode v).isNaN then b
    else match b with
      | some x => if (fmtF32.decode x).lessNum (fmtF32.decode v) then some v else some x
      | none => some v) none
  ⟨best.getD 0x7FC00000, 0⟩

/-- A SUM node in P32. -/
def sumP (xs : List Nat) : TRes :=
  let ps := xs.map p32Decode
  let q := ps.foldl (fun (m : Int) p => min m p.2) 0
  round32P (ps.foldl (fun s p => s + p.1 * 2 ^ (p.2 - q).toNat) 0) q

/-- A PROD node in P32: a zero child makes it zero. -/
def prodP (xs : List Nat) : TRes :=
  if xs.any fun v => (p32Decode v).1 == 0 then ⟨0, 0⟩
  else
    let p := xs.foldl (fun (a : Nat × Int) v => (a.1 * (p32Decode v).1, a.2 + (p32Decode v).2)) (1, 0)
    round32P p.1 p.2

/-- A MAX node in P32: words order as their values do. -/
def maxP (xs : List Nat) : TRes := ⟨xs.foldl (fun m v => Nat.max m (leafVal true v)) 0, 0⟩

/-- A node's value by its op code (R241). -/
def nodeVal (p32 : Bool) (op : Nat) (xs : List Nat) : TRes :=
  match p32, op with
  | false, 0 => sum32 xs
  | false, 1 => prod32 xs
  | false, _ => max32 xs
  | true, 0 => sumP xs
  | true, 1 => prodP xs
  | true, _ => maxP xs

/-! ## Descriptors (R236, R238) -/

/-- The entry count. -/
def shapeCount (d : BitVec 256) : Nat := shapeByte d 31
/-- Arity of a node entry. -/
def entryArity (x : Nat) : Nat := x % 32 + 2
/-- Op of a node entry. -/
def entryOp (x : Nat) : Nat := x / 32 % 4

/-- The entry at which the stack runs short, from an entry and a depth on, or the depth at the end. -/
def stackRun (d : BitVec 256) : Nat → Nat → Nat → Except Nat Nat
  | 0, _, depth => .ok depth
  | n + 1, j, depth =>
    let x := shapeByte d j
    if x < 128 then stackRun d n (j + 1) (depth + 1)
    else if depth < entryArity x then .error j
    else stackRun d n (j + 1) (depth - entryArity x + 1)

/-- The first failure of a descriptor: detail and byte index. -/
def shapeFault (d : BitVec 256) : Option (Nat × Nat) :=
  let c := shapeCount d
  if c = 0 ∨ 31 < c then some (0x01, 31)
  else match (List.range c).find? fun j => decide (0xE0 ≤ shapeByte d j) with
    | some j => some (0x02, j)
    | none =>
      match stackRun d c 0 0 with
      | .error j => some (0x03, j)
      | .ok depth =>
        if depth ≠ 1 then some (0x04, c - 1)
        else match (List.range (31 - c)).find? fun j => shapeByte d (c + j) != 0 with
          | some j => some (0x05, c + j)
          | none => none

/-! ## The passes -/

/-- The upward pass: for each entry its value and its children's entry numbers in push order, with the bits it set (R242). -/
def upward (d : BitVec 256) (p32 : Bool) (leaf : Nat → Nat) (base : Nat) :
    Nat → Nat → List Nat → List (Nat × List Nat) → BitVec 5 → List (Nat × List Nat) × BitVec 5
  | 0, _, _, out, st => (out, st)
  | n + 1, j, stack, out, st =>
    let x := shapeByte d j
    if x < 128 then upward d p32 leaf base n (j + 1) (j :: stack) (out ++ [(leafVal p32 (leaf (leafNo (base + x))), [])]) st
    else
      let k := entryArity x
      let kids := (stack.take k).reverse
      let r := nodeVal p32 (entryOp x) (kids.map fun c => (out.getD c (0, [])).1)
      upward d p32 leaf base n (j + 1) (j :: stack.drop k) (out ++ [(r.v, kids)]) (st ||| r.st)

/-- rnd of a product of two, and of a list (R243). -/
def rndProd (p32 : Bool) (xs : List Nat) : TRes := if p32 then prodP xs else prod32 xs

/-- The gradients of a node's children, in push order (R243). -/
def childGrads (p32 : Bool) (op value h : Nat) (kids : List Nat) : List Nat × BitVec 5 :=
  match op with
  | 0 => (kids.map fun _ => h, 0)
  | 1 =>
    let rs := kids.zipIdx.map fun x =>
      let inner := rndProd p32 (kids.eraseIdx x.2)
      let r := rndProd p32 [h, inner.v]
      (r.v, inner.st ||| r.st)
    (rs.map Prod.fst, rs.foldl (fun b r => b ||| r.2) 0)
  | _ =>
    let i := (kids.findIdx? fun v => v == value).getD 0
    (kids.zipIdx.map fun x => if x.2 = i then h else 0, 0)

/-- The downward pass from an entry down: gradients by entry number (R244). -/
def downward (d : BitVec 256) (p32 : Bool) (vals : List (Nat × List Nat)) :
    Nat → List (Nat × Nat) → BitVec 5 → List (Nat × Nat) × BitVec 5
  | 0, grads, st => (grads, st)
  | n + 1, grads, st =>
    let x := shapeByte d n
    if x < 128 then downward d p32 vals n grads st
    else
      let v := vals.getD n (0, [])
      let h := ((grads.find? fun g => g.1 == n).map Prod.snd).getD 0
      let (gs, st') := childGrads p32 (entryOp x) v.1 h (v.2.map fun c => (vals.getD c (0, [])).1)
      downward d p32 vals n (v.2.zip gs ++ grads) (st ||| st')

/-- rnd of a leaf's value and a gradient (R244). -/
def rndSum (p32 : Bool) (xs : List Nat) : TRes := if p32 then sumP xs else sum32 xs

/-- The gradients added into the leaf file one after another in post-order (R244). -/
def addGrads (d : BitVec 256) (p32 : Bool) (base goff : Nat) (grads : List (Nat × Nat)) :
    Nat → Nat → Cells Word → BitVec 5 → Cells Word × BitVec 5
  | 0, _, leaves, st => (leaves, st)
  | n + 1, j, leaves, st =>
    let x := shapeByte d j
    if x < 128 then
      let l := leafNo (base + x + goff)
      let g := ((grads.find? fun g => g.1 == j).map Prod.snd).getD 0
      let r := rndSum p32 [leafVal p32 (Cells.get 0 leaves l).toNat, g]
      addGrads d p32 base goff grads n (j + 1) (Cells.set 0 leaves l (BitVec.ofNat 32 r.v)) (st ||| r.st)
    else addGrads d p32 base goff grads n (j + 1) leaves st

/-! ## The instructions -/

/-- TCFG (R232). -/
def execTcfg (imm : BitVec 16) (s : State) : Result :=
  s.runSlot "TCFG" (.tcfg imm) fun _ _ t _ =>
    if imm.extractLsb' 1 3 == 0 && imm.extractLsb' 8 8 == 0 then .keep { t with k := { t.k with tcfg := imm } }
    else .trap 0x16 0x13

/-- TSHP (R237). -/
def execTshp (shp : BitVec 6) (sa : SReg) (s : State) : Result :=
  s.runOwn "TSHP" (.tshp shp sa) fun _ _ t _ =>
    atAddr ((t.sreg sa).toNat : Int) 32 32 fun a =>
      .done { t with shapes := t.shapes.set shp.toNat (BitVec.ofNat 256 (natOfBytes (t.ownBytes a 32))) shp.isLt }
        (accessesOf t.k a 32) {} .seq

/-- The leaf banks that an operation asks for, with the cycles that it takes in all of them at most. -/
def SbEntry.leafBanks (e : SbEntry) : List Nat :=
  (match e.work with
   | .trise d base dest _ => dest :: descLeaves d base
   | .tfall d base g k9 => g :: (descLeaves d base ++ descLeaves d (base + tcfgGoff k9))
   | .tld _ _ => List.range 16
   | _ => []).map (· % 16)

/-- The cycles for which a forest operation may wait for banks that operations committed before it use (R249). -/
def Tile.bankWait (t : Tile) (w : SbWork) : Nat :=
  let mine := SbEntry.leafBanks ⟨0, 0, 0, w, false, 0, []⟩
  ((t.sb.flatMap SbEntry.leafBanks).filter mine.contains).length

/-- A forest operation or TLD put on the scoreboard: where it may collide with one before it, its wait is a free value. DESIGN CHOICE,
notes/assumptions/80.md. -/
def Tile.addForest (t : Tile) (i : TileId) (b : Inflight) (w : SbWork) : Tile :=
  let late := if t.bankWait w = 0 then [] else [Config.forestWait i t.meets % (t.bankWait w + 1)]
  { t with sb := t.sb ++ [⟨t.freeEntry, t.issueNo, commitCycle t b, w, false, 0, late⟩], issueNo := t.issueNo + 1, meets := t.meets + 1 }

/-- A forest operation's slot (R239): the checks, then its entry with its snapshots. -/
def forestSlot (shp : BitVec 6) (sa sb : SReg) (w : BitVec 256 → Nat → Nat → BitVec 16 → SbWork) : SlotFn := fun _ i t b =>
  let x := (t.sreg sa).toNat
  let y := (t.sreg sb).toNat
  let d := t.shapes[shp.toNat]'shp.isLt
  if 1024 ≤ x then .trap 0x04 (x % 2 ^ 24)
  else if 1024 ≤ y then .trap 0x04 (y % 2 ^ 24)
  else match shapeFault d with
    | some (k, j) => .trap 0x13 (k + 256 * shp.toNat + 65536 * j)
    | none => .keep (t.addForest i b (w d x y t.k.tcfg))

/-- TRISE (R239). -/
def execTrise (shp : BitVec 6) (sa sb : SReg) (s : State) : Result :=
  s.runSlot "TRISE" (.trise shp sa sb) (forestSlot shp sa sb .trise)

/-- TFALL (R239). -/
def execTfall (shp : BitVec 6) (sa sb : SReg) (s : State) : Result :=
  s.runSlot "TFALL" (.tfall shp sa sb) (forestSlot shp sa sb .tfall)

/-- A word of the leaf file. -/
def Tile.leaf (t : Tile) (n : Nat) : Nat := (Cells.get 0 t.leaves n).toNat

/-- Leaves written, with fresh parity (R245). -/
def Tile.setLeaves (t : Tile) (ps : List (Nat × Word)) : Tile :=
  { t with leaves := Cells.setAll 0 t.leaves ps, leafBad := t.leafBad.filter fun n => !(ps.any fun p => p.1 == n) }

/-- A forest operation that met a bad leaf writes nothing; trap 0x10 is taken at the next bundle boundary (R246): at once where the tile
stands at one, and before a bundle no slot of which has committed, if it is held at K or would commit after the cycle in which the
operation would have written back. DEDUCED, notes/assumptions/24.md. -/
def State.leafFault (s : State) (i : TileId) (e : SbEntry) (n back : Nat) : State :=
  let t := s.tile i
  let met := Nat.max t.k.cycle.toNat (Nat.min (Nat.max e.cycle back) (t.freeCycle (Config.tileWait i t.meets)))
  let t := { t with sb := t.sb.erase e, cutHere := t.cutAtD, meets := t.meets + 1 }
  match t.inflight with
  | none =>
    if t.resume = 0 then ((s.setTile i (t.atCycle met)).takeTrap i 0x10 n 0 t.pc 0).boundary i
    else s.setTile i { t with leafTrap := some n }
  | some b =>
    if b.next = 0 && !b.passed && !b.atomSent && b.atomBack.isNone && (b.hold.isSome || decide (back < commitCycle t b)) then
      ((s.setTile i (t.atCycle met)).takeTrap i 0x10 n 0 b.first 0).boundary i
    else s.setTile i { t with leafTrap := some n }

/-- TRISE_WRITEBACK (R242): the root, the TSTAT bits and the conflict cycles (R235, R249). -/
def execTriseWriteback (t : TileId) (e : BitVec 4) (s : State) : Result :=
  let x := s.tile t
  match x.entry? e with
  | some ent =>
    match ent.work with
    | .trise d base dest k9 =>
      match x.badLeafOf ent with
      | some n => .next (s.leafFault t ent n ((x.due ent).getD 0))
      | none =>
        let c := shapeCount d
        let (vals, st) := upward d (k9.getLsbD 0) x.leaf base c 0 [] [] 0
        let R := readCycles (descLeaves d base)
        let y := (((x.setLeaves [(dest, BitVec.ofNat 32 (vals.getD (c - 1) (0, [])).1)]).raiseTstat st).addTconf (R - 1))
        .next (s.backDone t (y.entryDone ent (x.backCycle t ent)))
    | _ => .refused (.notEnabled "TRISE_WRITEBACK")
  | none => .refused (.notEnabled "TRISE_WRITEBACK")

/-- TFALL_WRITEBACK (R244). -/
def execTfallWriteback (t : TileId) (e : BitVec 4) (s : State) : Result :=
  let x := s.tile t
  match x.entry? e with
  | some ent =>
    match ent.work with
    | .tfall d base grad k9 =>
      let p32 := k9.getLsbD 0
      let goff := tcfgGoff k9
      let ls := grad :: descLeaves d base
      let ts := descLeaves d (base + goff)
      match x.badLeafOf ent with
      | some n => .next (s.leafFault t ent n ((x.due ent).getD 0))
      | none =>
        let c := shapeCount d
        let (vals, st) := upward d p32 x.leaf base c 0 [] [] 0
        let (grads, st2) := downward d p32 vals c [(c - 1, leafVal p32 (x.leaf grad))] 0
        let (leaves, st3) := addGrads d p32 base goff grads c 0 x.leaves 0
        let R := readCycles ls
        let W := bankLoad ts
        let y := (({ x with leaves := leaves }).raiseTstat (st ||| st2 ||| st3)).addTconf ((R - 1) + (W - 1))
        .next (s.backDone t (y.entryDone ent (x.backCycle t ent)))
    | _ => .refused (.notEnabled "TFALL_WRITEBACK")
  | none => .refused (.notEnabled "TFALL_WRITEBACK")

/-- The leaves of a block. -/
def blockLeaves (blk : BitVec 4) : List Nat := (List.range 64).map fun i => 64 * blk.toNat + i

/-- TLD (R245): the bytes are read at the commit. -/
def execTld (blk : BitVec 4) (sa : SReg) (s : State) : Result :=
  s.runOwn "TLD" (.tld blk sa) fun _ i t b =>
    atAddr ((t.sreg sa).toNat : Int) 256 16 fun a =>
      .done (t.addForest i b (.tld blk (wordsOfBytes (t.ownBytes a 256)))) (accessesOf t.k a 256) {} .seq

/-- TLD_WRITEBACK (R245). -/
def execTldWriteback (t : TileId) (e : BitVec 4) (s : State) : Result :=
  let x := s.tile t
  match x.entry? e with
  | some ent =>
    match ent.work with
    | .tld blk ws => .next (s.backDone t ((x.setLeaves ((blockLeaves blk).zip ws)).entryDone ent (x.backCycle t ent)))
    | _ => .refused (.notEnabled "TLD_WRITEBACK")
  | none => .refused (.notEnabled "TLD_WRITEBACK")

/-- A slot that reads a block's leaves: a bad one traps 0x10 (R246). -/
def readingBlock (t : Tile) (blk : BitVec 4) (k : SlotOut) : SlotOut :=
  match (blockLeaves blk).find? t.leafBad.contains with
  | some n => .trap 0x10 n
  | none => k

/-- The words of a block. -/
def Tile.block (t : Tile) (blk : BitVec 4) : List Word := (blockLeaves blk).map (Cells.get 0 t.leaves)

/-- TST (R245): the address is checked before the leaves of the block are read. DESIGN CHOICE, notes/assumptions/34.md. -/
def execTst (blk : BitVec 4) (sa : SReg) (s : State) : Result :=
  s.runOwn "TST" (.tst blk sa) fun _ _ t _ =>
    atAddr ((t.sreg sa).toNat : Int) 256 16 fun a =>
      readingBlock t blk (.done (t.ownStore a (bytesOfWords (t.block blk))) (accessesOf t.k a 256) {} .seq)

/-- TMVP (R245). -/
def execTmvp (pd : Line) (blk : BitVec 4) (s : State) : Result :=
  s.runSlot "TMVP" (.tmvp pd blk) fun _ _ t _ => readingBlock t blk (.keep (t.setLine pd (t.block blk)))

/-- TMVN (R245). -/
def execTmvn (blk : BitVec 4) (pa : Line) (s : State) : Result :=
  s.runSlot "TMVN" (.tmvn blk pa) fun _ _ t _ => readingLines t [pa] (.keep (t.setLeaves ((blockLeaves blk).zip (t.line pa))))

end Sys2Proof.Machine
end

