-- ==== Sys2Proof/Machine/Issue.lean ====
section
/-! DEFINITION. Bundles passing D and replays (spec/01_machine_state.md R50-R53; 02_formats_and_opcode_map.md R65-R68;
12_elastic_timing_and_margin.md R327-R336; 16_programs_elastic_timing.md R423, R424, R432), the point deadline
(11_traps_and_faults.md R318), the hang timeout (R319) and droop (15_power_and_thermal.md R416). -/

namespace Sys2Proof.Machine

/-! ## Forced flags (R334, R335) -/

/-- The flags that FLAGINJ forces at the bundle of a number. -/
def forcedFlags (t : Tile) (number : Nat) : Nat :=
  let v := t.k.flagInj.toNat
  let n := bits v 0 24
  let chosen := match bits v 30 2 with
    | 1 => n != 0 && decide (t.injBase < number) && (number - t.injBase) % n == 0
    | 2 => n != 0 && number == n && decide (t.injBase < n)
    | _ => false
  if chosen then bits v 28 2 + 1 else 0

/-! ## Issue -/

/-- A hard cut stops the tile here: a boundary with an empty loop stack, or the commit or trap entry that R300 names. -/
def Tile.cutStops (t : Tile) : Bool := t.cutReq.isSome && t.inflight.isNone && (t.loops.isEmpty || t.cutHere)

/-- The Cox's window has its last bundle: it ends before another bundle commits (R339). -/
def CoxWindow.over (c : CoxWindow) : Bool := !c.fresh && decide (2 ^ c.pol.wn ≤ c.bundles)

/-- The 16,384 cycles after a cut decision are over: the tile issues no more (R300 item 5). -/
def Tile.cutOver (t : Tile) : Bool :=
  match t.cutReq with
  | some (_, c) => decide (c + 16384 ≤ t.k.cycle.toNat)
  | none => false

/-- Whether a tile may issue a bundle that passes D in a cycle: it runs, it stands at a boundary, nothing is to be taken there first, and
nothing is due before. -/
def State.mayIssue (s : State) (i : TileId) (t : Tile) (d : Nat) : Bool :=
  (t.act == .point || t.act == .prologue) && t.inflight.isNone && !t.asleep && !t.stopReq && !t.cutStops && !t.cutOver &&
  !(s.deadlineDue t && t.deadlineHere) && !t.cox.over && !s.regs.viral && !s.cutDue t.pt.handle && !s.owed i d

/-- The tile with a bundle that passed D in a cycle. -/
def Tile.issued (t : Tile) (is : List Instr) (d : Nat) : Tile :=
  let hasV := is.any isV
  let number := if t.sameNo && !t.k.trapped then t.bundleNo else t.bundleNo + 1
  let b : Inflight :=
    { first := t.pc, words := t.nextWords, start := t.resume, next := t.resume,
      snap := t.snapAt d, depth := bundleDepth t.k.vcfg (t.halfWidthAt d) is, dCycle := d, extra := 0,
      flagsDue := if number = t.bundleNo then 0 else forcedFlags t number, flags := 0, injected := true, hold := none,
      waitFrom := 0, freeAt := 0, passed := false, errAtK := 0, heldTo := 0, atomSent := false, atomBack := none, accs := [], lost := 0 }
  { t with k := { t.k with hw := t.k.hw && decide (d ≤ t.hwEnd) }, inflight := some b, resume := 0, bundleNo := number,
           sameNo := t.sameNo && t.k.trapped, cutHere := false,
           pipe := { t.pipe with lastD := d, lastV := if hasV then d else t.pipe.lastV, loose := false } }

/-- BUNDLE_ISSUE (R68, R74, R419, R423): the checks at D, and then the bundle is in flight. Past the critical threshold of its die
the tile's clock stands, and in a barred bin the tile does not run (R337). DESIGN CHOICE, notes/assumptions/71.md. -/
def execBundleIssue (t : TileId) (stall : Nat) (s : State) : Result :=
  let x := s.tile t
  let d := x.passAt stall
  if s.mayIssue t x d && !(s.die t.die).crit && !s.barred t then
    match checkBundle x.k.vcfg x.nextWords x.resume with
    | .error (c, e, m) => .next (((s.setTile t (x.atCycle (Nat.max d x.pipe.lastC))).takeTrap t c e m x.pc 0).boundary t)
    | .ok is =>
      if heldAtD x is then .refused (.notEnabled "BUNDLE_ISSUE")
      else .next (s.setTile t { (x.beside t d).issued is d with movedAt := s.time })
  else .refused (.notEnabled "BUNDLE_ISSUE")

/-! ## Replay -/

/-- Whether a slot of a bundle holds it at K, with so many copies before it in the bundle. A slot that double-faults holds nothing
(R309). -/
def slotHold (s : State) (i : TileId) (t : Tile) (ahead : Nat) (ins : Instr) : Option HoldKind :=
  if t.k.trapped && (handlerFault t ins).isSome then none
  else match ins with
  | .swait e sb => if !t.semSaturated e && decide (t.semCount e < t.sreg sb) then some .swait else none
  | .fence k _ => if fenceReady s i t k then none else some .fence
  | .pend => if pendReady t then none else some .pend
  | .mwait m => if macroIdle t m then none else some .mwait
  | .cpy _ | .mstream _ _ _ => if 32 ≤ t.copyq.length + ahead then some .queueFull else none
  | _ => none

/-- Whether any slot of a list still to run holds its bundle at K. -/
def anyHolds (s : State) (i : TileId) (t : Tile) : Nat → List Instr → Bool
  | _, [] => false
  | n, ins :: rest => (slotHold s i t n ins).isSome || anyHolds s i t (if isQueued ins then n + 1 else n) rest

/-- Whether a flag may still squash a tile's bundle: it has not left K, where it is tested in its last cycle, or in the cycle in which its
last hold releases; no slot of it has committed in this pass, and no CREW ATOM is out (R51, R327). -/
def State.flaggable (s : State) (i : TileId) (t : Tile) (b : Inflight) : Bool :=
  b.next == b.start && !b.passed && !b.atomSent && b.atomBack.isNone && !anyHolds s i t 0 b.rest &&
  (b.hold.isNone || (t.cutReq.isNone && !t.asleep)) && !s.owed i (commitCycle t (b.released t))

/-- The bundle after a first or second flag (R328, R329): the cycles added, and the special registers as they stand when the new pass
passes D; its width and depth stay. D then lasts two or four cycles; CYCLE is taken in the first of them. DESIGN CHOICE,
notes/assumptions/74.md. -/
def Inflight.replayed (b : Inflight) (t : Tile) : Inflight :=
  let second := b.flags == 1
  let cost := if second then 4 * b.depth + 11 else 2 * b.depth + 6
  let b' := { b with flags := b.flags + 1, flagsDue := b.flagsDue - 1, injected := b.injected && b.flagsDue != 0, extra := b.extra + cost,
                     heldTo := if b.heldTo = 0 then 0 else b.heldTo + cost }
  let d := commitCycle t b' - (if second then 4 * b.depth + 11 else 2 * b.depth + 5)
  { b' with snap := t.snapAt d }

/-- REPLAY_REISSUE (R328-R331): a flag, forced or real, found at K; the third takes trap 0x0E, and any other is a corrected error (R319).
DESIGN CHOICE, notes/assumptions/28.md. -/
def execReplayReissue (t : TileId) (s : State) : Result :=
  let x := s.tile t
  match x.inflight with
  | none => .refused (.notEnabled "REPLAY_REISSUE")
  | some b =>
    if !s.flaggable t x b then .refused (.notEnabled "REPLAY_REISSUE")
    else
      let b := b.released x
      if b.flags = 2 then
        let s := s.setTile t (x.atCycle (commitCycle x b - 4))
        .next ((s.takeTrap t 0x0E 0 0 b.first b.start (b.injected && b.flagsDue != 0)).boundary t)
      else
        let x := { x with k := { x.k with replays := satAdd32 x.k.replays 1 }, movedAt := s.time }
        let y := { x with inflight := some (b.replayed x), cox := { x.cox with replays := x.cox.replays + 1 } }
        let s := (s.setTile t y).setFstat 0
        .next (if b.flags = 1 then s.twoStepRise t (commitCycle x b - 2) else s)

/-! ## The point deadline (R318) and the hang timeout (R319) -/

/-- POINT_DEADLINE (R318): a hold, or a wait at D, is abandoned in a cycle that is not fixed. DEDUCED, notes/assumptions/16.md. -/
def execPointDeadline (t : TileId) (s : State) : Result :=
  let x := s.tile t
  if s.deadlineDue x && x.deadlineHere && !s.sleepDue x then
    let c := Nat.max x.k.cycle.toNat (x.freeCycle (Config.waited s.draws))
    let x := { x with pt := { x.pt with deadlineTaken := true } }
    match x.inflight with
    | some b =>
      let s := { s with draws := s.draws + 1 }.setTile t (x.atCycle (c + 1))
      .next ((s.takeTrap t 0x0D 0 0 b.first b.next).boundary t)
    | none =>
      let s := { s with draws := s.draws + 1 }.setTile t (x.atCycle c)
      .next ((s.takeTrap t 0x0D 0 0 x.pc 0).boundary t)
  else .refused (.notEnabled "POINT_DEADLINE")

/-- 1 ms in ns. -/
def oneMs : Nat := 1000000

/-- Whether a rule holds a tile's next bundle: at K, at D by the scoreboard, by a CREW ATOM that is out, asleep, past its die's
critical threshold, or in a barred bin. -/
def State.heldByRule (s : State) (i : TileId) (t : Tile) : Bool :=
  t.asleep || t.waitsAtD || (s.die i.die).crit || s.barred i || match t.inflight with
    | some b => b.hold.isSome || b.atomSent
    | none => false

/-- TILE_HANG_TIMEOUT (R319): a tile that has neither committed nor been held by a rule for 1 ms is a Tile-class error; its record has
KIND 3. DESIGN CHOICE, notes/assumptions/12.md. -/
def execTileHangTimeout (t : TileId) (s : State) : Result :=
  let x := s.tile t
  if (x.act == .point || x.act == .prologue) && !s.heldByRule t x && decide (x.movedAt + oneMs ≤ s.time) then
    .next (({ s with draws := s.draws + 1 }.setTile t (x.atStop t)).fenceTile t (Config.hangCause s.draws).toNat)
  else .refused (.notEnabled "TILE_HANG_TIMEOUT")

/-! ## Droop (R416) -/

/-- DROOP: the detector fires in a cycle after the last commit and the last D; the stretcher runs for six cycles and half-width issue for
64, both counted from this firing. DESIGN CHOICE, notes/assumptions/49.md. -/
def execDroop (t : TileId) (s : State) : Result :=
  let x := s.tile t
  let d := s.die t.die
  if d.dth == 0 || x.asleep then .refused (.notEnabled "DROOP")
  else
    let c := Nat.max x.k.cycle.toNat x.pipe.lastD + Config.waited s.draws
    let y := { x with k := { x.k with hw := true }, hwFrom := c + 1, hwEnd := c + 64, stretchEnd := c + 6,
                      pipe := { x.pipe with hwOld := x.pipe.hwOld ++ [(x.hwFrom, x.hwEnd)] } }
    .next (({ s with draws := s.draws + 1 }.setTile t y).setDie t.die { d with droopCnt := Nat.min (d.droopCnt + 1) 0xFFFF })

/-- A tile none of whose bundles passes D before a cycle. -/
def Tile.reach (t : Tile) (c : Nat) : Tile := { t with pipe := { t.pipe with nextD := Nat.max t.pipe.nextD c } }

/-- HALF_WIDTH_END: STATUS.HW falls after the 64 cycles; the bundles that pass D from then on do so in later cycles. -/
def execHalfWidthEnd (t : TileId) (s : State) : Result :=
  let x := s.tile t
  if x.k.hw then
    let y := x.reach (x.hwEnd + 1)
    .next (s.setTile t { y with k := { y.k with hw := false } })
  else .refused (.notEnabled "HALF_WIDTH_END")

/-- STRETCH_END: the six stretched cycles are over. -/
def execStretchEnd (t : TileId) (s : State) : Result :=
  let x := s.tile t
  if x.stretchEnd = 0 then .refused (.notEnabled "STRETCH_END")
  else .next (s.setTile t { x.reach (x.stretchEnd + 1) with stretchEnd := 0 })

end Sys2Proof.Machine
end

