-- ==== Sys2Proof/Machine/SavedWork.lean ====
section
/-! DEFINITION. The scoreboard section of a context image: the pending entries with their operands and held results, and where the saved
tile stood in its bundle, as bytes and back (spec/10_launches_and_the_frontier.md R303). The layout is the device's own form. DESIGN
CHOICE, notes/assumptions/46.md. -/

namespace Sys2Proof.Machine

/-- A list brought to a length by cutting it or by zeros after it. -/
def padTo (n : Nat) (bs : List Byte) : List Byte := (bs ++ List.replicate (n - bs.length) 0).take n

/-- A layout record's bytes. -/
def layoutBytes (l : LayoutRec) : List Byte :=
  bytesOfWords l.strides.toList ++ (l.extents.toList.flatMap fun e => bytesOfNat 2 e.toNat) ++ List.replicate 8 0

/-! ## Pieces -/

/-- A plane line as two bytes. -/
def savedLine (l : Line) : List Byte :=
  bytesOfNat 1 (match l.dir with
    | .row => 0 | .col => 1 | .diag => 2 | .anti => 3) ++ bytesOfNat 1 l.idx.toNat

/-- The line of two bytes. -/
def lineSaved (bs : List Byte) : Line :=
  ⟨match field bs 0 1 with
    | 0 => .row | 1 => .col | 2 => .diag | _ => .anti, BitVec.ofNat 6 (field bs 1 1)⟩

/-- Addresses, four bytes each. -/
def savedAddrs (as : List Nat) : List Byte := as.flatMap (bytesOfNat 4)

/-- n addresses. -/
def addrsSaved (bs : List Byte) (n : Nat) : List Nat := (List.range n).map fun j => field bs (4 * j) 4

/-- n words. -/
def wordsSaved (bs : List Byte) (n : Nat) : List Word := wordsOfBytes (bs.take (4 * n))

/-- Lanes that may hold a word, five bytes each. -/
def savedLanes (ws : List (Option Word)) : List Byte :=
  ws.flatMap fun x => match x with
    | some w => [1] ++ bytesOfNat 4 w.toNat
    | none => bytesOfNat 5 0

/-- 64 lanes. -/
def lanesSaved (bs : List Byte) : List (Option Word) :=
  (List.range 64).map fun j => if field bs (5 * j) 1 = 1 then some (BitVec.ofNat 32 (field bs (5 * j + 1) 4)) else none

/-! ## The work of an entry -/

/-- The bytes of an entry's work, its kind first. -/
def savedWork : SbWork → List Byte
  | .mmul acc dbl zf rows f l base _ =>
    [0] ++ bytesOfNat 1 acc.toNat ++ bytesOfNat 1 (dbl.toNat + 2 * zf.toNat) ++ bytesOfNat 1 rows ++ bytesOfNat 1 f.toNat ++
    layoutBytes l ++ bytesOfNat 4 base.toNat
  | .mldw m f a _ => [1] ++ bytesOfNat 1 m.toNat ++ bytesOfNat 1 f.toNat ++ bytesOfNat 4 a
  | .trise d b x k => [2] ++ bytesOfNat 32 d.toNat ++ bytesOfNat 4 b ++ bytesOfNat 4 x ++ bytesOfNat 2 k.toNat
  | .tfall d b x k => [3] ++ bytesOfNat 32 d.toNat ++ bytesOfNat 4 b ++ bytesOfNat 4 x ++ bytesOfNat 2 k.toNat
  | .tld b ws => [4] ++ bytesOfNat 1 b.toNat ++ bytesOfWords ws
  | .ldc pd ws => [5] ++ savedLine pd ++ (match ws with
    | some ws => [1] ++ bytesOfWords ws
    | none => [0])
  | .ldg pd as tk => [6] ++ savedLine pd ++ savedAddrs as ++ savedLanes tk
  | .stg ws as => [7] ++ savedAddrs as ++ savedLanes ws

/-- The work that such bytes stand for; nothing written before the restore is old to it. -/
def workSaved (bs : List Byte) : SbWork :=
  let b := bs.drop 1
  match field bs 0 1 with
  | 0 => .mmul (BitVec.ofNat 4 (field b 0 1)) (bit (field b 1 1) 0) (bit (field b 1 1) 1) (field b 2 1) (BitVec.ofNat 4 (field b 3 1))
      (layoutOf ((b.drop 4).take 32)) (BitVec.ofNat 32 (field b 36 4)) 0
  | 1 => .mldw (BitVec.ofNat 3 (field b 0 1)) (BitVec.ofNat 4 (field b 1 1)) (field b 2 4) 0
  | 2 => .trise (BitVec.ofNat 256 (field b 0 32)) (field b 32 4) (field b 36 4) (BitVec.ofNat 16 (field b 40 2))
  | 3 => .tfall (BitVec.ofNat 256 (field b 0 32)) (field b 32 4) (field b 36 4) (BitVec.ofNat 16 (field b 40 2))
  | 4 => .tld (BitVec.ofNat 4 (field b 0 1)) (wordsSaved (b.drop 1) 64)
  | 5 => .ldc (lineSaved b) (if field b 2 1 = 1 then some (wordsSaved (b.drop 3) 64) else none)
  | 6 => .ldg (lineSaved b) (addrsSaved (b.drop 2) 64) (lanesSaved (b.drop 258))
  | _ => .stg (lanesSaved (b.drop 256)) (addrsSaved b 64)

/-- An entry in 1,024 bytes. -/
def savedEntry (e : SbEntry) : List Byte :=
  padTo 1024 (bytesOfNat 1 e.num.toNat ++ bytesOfNat 8 e.seqNo ++ bytesOfNat 8 e.cycle ++ bytesOfNat 8 e.paid ++ savedWork e.work)

/-- The entry that such bytes stand for, its place counted from a number on: the resume has released it, and it writes back in its turn
(R75). -/
def entrySaved (base : Nat) (bs : List Byte) : SbEntry :=
  ⟨BitVec.ofNat 4 (field bs 0 1), base + field bs 1 8, field bs 9 8, workSaved (bs.drop 25), true, field bs 17 8, []⟩

/-! ## The section -/

/-- The scoreboard section of a tile: how many entries, the slot to resume at, whether the next bundle keeps its number, the bundle
numbers of FLAGINJ, the next place in the issue order, the places of failed fills behind earlier work of the macros, and the entries. -/
def savedSection (t : Tile) : List Byte :=
  padTo 0x10000 (padTo 128 (bytesOfNat 1 t.sb.length ++ bytesOfNat 1 t.resume ++ bytesOfNat 2 t.sameNo.toNat ++
    bytesOfNat 8 t.bundleNo ++ bytesOfNat 8 t.injBase ++ bytesOfNat 8 t.issueNo ++
    t.macros.toList.flatMap fun m => bytesOfNat 8 (match m.fails with
      | some q => q + 1
      | none => 0)) ++ t.sb.flatMap savedEntry)

/-- The place of a failed fill behind earlier work of a macro, from a scoreboard section. -/
def failsSaved (base : Nat) (bs : List Byte) (m : Nat) : Option Nat :=
  if field bs (28 + 8 * m) 8 = 0 then none else some (base + field bs (28 + 8 * m) 8 - 1)

/-- A tile with what a scoreboard section holds, the places in the issue order counted on from its own. -/
def Tile.ofSection (t : Tile) (bs : List Byte) : Tile :=
  { t with sb := (List.range (Nat.min 16 (field bs 0 1))).map fun j => entrySaved t.issueNo ((bs.drop (128 + 1024 * j)).take 1024),
           resume := field bs 1 1, sameNo := field bs 2 2 == 1, bundleNo := field bs 4 8, injBase := field bs 12 8,
           issueNo := t.issueNo + field bs 20 8 }

end Sys2Proof.Machine
end

