-- ==== Sys2Proof/Machine/Harrow.lean ====
section
/-! DEFINITION. The Harrow (spec/10_launches_and_the_frontier.md R276, R280-R289, R296, R297): the frontier, readiness, crews,
launch entry (01_machine_state.md R43-R48), the firing, start and completion of points, and the completion of a launch. -/

namespace Sys2Proof.Machine

/-! ## The iteration space of a launch record (R276, R288) -/

/-- NDIM. -/
def recNdim (r : List Byte) : Nat := field r 9 1
/-- An extent. -/
def recExt (r : List Byte) (i : Nat) : Nat := field r (0x0C + 4 * i) 4
/-- NDEP. -/
def recNdep (r : List Byte) : Nat := field r 0x0A 1
/-- A component of a dependence vector. -/
def recDep (r : List Byte) (v i : Nat) : Int := sext (field r (0x18 + 4 * v + i) 1) 8
/-- A component of the chain vector. -/
def recChainV (r : List Byte) (i : Nat) : Int := sext (field r (0x2C + i) 1) 8
/-- Whether the record names a die. -/
def recNames (r : List Byte) (d : Nat) : Bool := bit (field r 8 1) d
/-- The inner extent. -/
def innerExt (r : List Byte) : Nat := recExt r (recNdim r - 1)
/-- Rows of one step of dimension 0, where it is not the inner one. -/
def rowsPer (r : List Byte) : Nat := if recNdim r = 3 then recExt r 1 else 1
/-- All rows of the space. -/
def allRows (r : List Byte) : Nat := if recNdim r = 1 then 1 else recExt r 0 * rowsPer r

/-- The coordinates of a row and an inner index. -/
def coordOf (r : List Byte) (row inner : Nat) : Nat × Nat × Nat :=
  match recNdim r with
  | 1 => (inner, 0, 0)
  | 2 => (row, inner, 0)
  | _ => (row / recExt r 1, row % recExt r 1, inner)

/-- The serial of a row and an inner index. -/
def serialOf (r : List Byte) (row inner : Nat) : Nat := row * innerExt r + inner

/-- Row and inner index of a point moved by a vector, or none where it leaves the space. -/
def shifted (r : List Byte) (p : Nat × Nat × Nat) (v : Nat → Int) : Option (Nat × Nat) :=
  let x : Int := (p.1 : Int) - v 0
  let y : Int := (p.2.1 : Int) - v 1
  let z : Int := (p.2.2 : Int) - v 2
  let inside (c : Int) (i : Nat) : Bool := decide (0 ≤ c) && decide (c < if i < recNdim r then (recExt r i : Int) else 1)
  if inside x 0 && inside y 1 && inside z 2 then
    match recNdim r with
    | 1 => some (0, x.toNat)
    | 2 => some (x.toNat, y.toNat)
    | _ => some (x.toNat * recExt r 1 + y.toNat, z.toNat)
  else none

/-- The dies that a record names, lowest first. -/
def namedDies (r : List Byte) : List (Fin 8) := (List.finRange 8).filter fun d => recNames r d.val

/-- The first row of a named die's block and the row after its last (R288). -/
def blockOf (r : List Byte) (d : Fin 8) : Nat × Nat :=
  let named := namedDies r
  let m := named.length
  if m ≤ 1 then (0, allRows r)
  else
    let rank := (named.filter fun x => decide (x.val < d.val)).length
    let q := (recExt r 0 + m - 1) / m
    let lo := Nat.min (rank * q) (recExt r 0)
    let hi := Nat.min ((rank + 1) * q) (recExt r 0)
    (lo * rowsPer r, hi * rowsPer r)

/-- The named die that owns a row. -/
def ownerOf (r : List Byte) (row : Nat) : Option (Fin 8) :=
  (namedDies r).find? fun d => decide ((blockOf r d).1 ≤ row) && decide (row < (blockOf r d).2)

/-! ## The frontier (R280, R282) -/

/-- Whether a point is behind a frontier. -/
def Frontier.behind (f : Frontier) (row inner : Nat) : Bool :=
  decide (row < f.b) ||
  (decide (row < f.t) && match f.rows[row - f.b]? with
    | some x => x.full || decide (inner < x.c) || (decide (x.c < inner) && decide (inner - x.c ≤ 64) && x.window.getLsbD (inner - x.c - 1))
    | none => false)

/-- The low one bits of a number, at most n of them. -/
def lowOnes : Nat → Nat → Nat
  | 0, _ => 0
  | n + 1, v => if v % 2 = 1 then lowOnes n (v / 2) + 1 else 0

/-- A row after the completion of the point at an inner index (R282 item 2). -/
def RowState.complete (x : RowState) (e inner : Nat) : RowState :=
  let v := 2 * x.window.toNat ||| 2 ^ (inner - x.c)
  let a := lowOnes 66 v
  if e ≤ x.c + a then ⟨0, true, 0⟩ else ⟨x.c + a, false, BitVec.ofNat 64 (v / 2 ^ (a + 1))⟩

/-- Full rows retired from the bottom of the band (R282 item 3). -/
def retireRows : Nat → List RowState → Nat × List RowState
  | b, [] => (b, [])
  | b, x :: xs => if x.full then retireRows (b + 1) xs else (b, x :: xs)

/-- A frontier after the completion of a point. -/
def Frontier.complete (f : Frontier) (e row inner : Nat) : Frontier :=
  match f.rows[row - f.b]? with
  | some x =>
    let (b, rows) := retireRows f.b (f.rows.set (row - f.b) (x.complete e inner))
    { f with b := b, rows := rows }
  | none => f

/-- Row T opened (R282 item 1). -/
def Frontier.openRow (f : Frontier) : Frontier := { f with t := f.t + 1, rows := f.rows ++ [⟨0, false, 0⟩] }

/-- Whether a die's block is complete. -/
def DieLaunch.done (p : DieLaunch) : Bool := p.fr.b == p.rowHi && p.fr.t == p.rowHi

/-! ## Readiness (R281, R287) -/

/-- A launch's part on a die. -/
def Launch.part? (l : Launch) (d : Fin 8) : Option DieLaunch := l.parts.find? fun p => p.die == d

/-- The frontier of a die as a part sees it: its own, or its mirror of another's. -/
def DieLaunch.sees (p : DieLaunch) (d : Fin 8) : Option Frontier :=
  if d = p.die then some p.fr else (p.mirrors.find? fun m => m.1 == d.val).map Prod.snd

/-- The record of a launch or ghost that holds a handle. -/
def State.recordOf (s : State) (h : BitVec 16) : Option (List Byte) :=
  match s.launches.find? fun l => l.isResident && l.handle == h with
  | some l => some l.record
  | none => (s.ghosts.find? fun g => g.handle == h).map Ghost.record

/-- The parts of a launch or ghost that holds a handle. -/
def State.partsOf (s : State) (h : BitVec 16) : List DieLaunch :=
  match s.launches.find? fun l => l.isResident && l.handle == h with
  | some l => l.parts
  | none => match s.ghosts.find? fun g => g.handle == h with
    | some g => g.parts
    | none => []

/-- The chain condition of a point (R287). -/
def State.chainMet (s : State) (l : Launch) (p : DieLaunch) (pt : Nat × Nat × Nat) : Bool :=
  !l.chained || match s.recordOf l.chainH with
    | none => true
    | some r =>
      match shifted r pt (recChainV l.record) with
      | none => true
      | some (row, inner) =>
        match ownerOf r row with
        | none => true
        | some o => match p.chain.find? fun m => m.1 == o.val with
          | some m => m.2.behind row inner
          | none => false

/-- Whether a point is ready on a die. -/
def State.pointReady (s : State) (l : Launch) (p : DieLaunch) (row inner : Nat) : Bool :=
  let pt := coordOf l.record row inner
  ((List.range (recNdep l.record)).all fun v =>
    match shifted l.record pt (recDep l.record v) with
    | none => true
    | some (qr, qi) =>
      match ownerOf l.record qr with
      | none => true
      | some o => match p.sees o with
        | some f => f.behind qr qi
        | none => false) &&
  s.chainMet l p pt

/-- Whether a point of an open row is eligible to fire (R283). -/
def State.pointEligible (s : State) (l : Launch) (p : DieLaunch) (row inner : Nat) : Bool :=
  !p.fr.behind row inner && !(p.runs.any fun r => r.serial == serialOf l.record row inner) && s.pointReady l p row inner

/-- The inner indexes of an open row that may fire. -/
def RowState.bound (x : RowState) (e : Nat) : List Nat :=
  if x.full then [] else (List.range 65).filterMap fun j => if x.c + j < e then some (x.c + j) else none

/-- The eligible point with the lowest row, and then the lowest inner index. -/
def State.nextPoint (s : State) (l : Launch) (p : DieLaunch) : Option (Nat × Nat) :=
  p.fr.rows.zipIdx.findSome? fun x =>
    let row := p.fr.b + x.2
    ((x.1.bound (innerExt l.record)).find? fun n => s.pointEligible l p row n).map fun n => (row, n)

/-! ## Parts changed, waits and priorities -/

/-- A launch's part on a die changed. -/
def State.mapPart (s : State) (h : BitVec 16) (d : Fin 8) (f : DieLaunch → DieLaunch) : State :=
  { s with launches := s.launches.map fun l =>
      if l.handle == h then { l with parts := l.parts.map fun p => if p.die == d then f p else p } else l }

/-- Whether a launch may fire points at a TIME: while it is resident, and as it drains up to the end of the firing-decision interval in
which its first PREEMPT came (R299, R427). -/
def Launch.fires (l : Launch) (time : Nat) : Bool :=
  l.phase == .resident ||
  (l.phase == .draining && l.preempts.all fun p => !p.late && time / 4 == p.since / 4)

/-- Whether a launch may fire on a die: it has a cut point to restore there, or an eligible point (R283, R305). -/
def State.hasWork (s : State) (l : Launch) (p : DieLaunch) : Bool :=
  l.fires s.time && ((l.restores.any fun c => c.die == p.die) || (s.nextPoint l p).isSome)

/-- floor(w / 1 ms) of a part that waits (R296). -/
def State.waitedMs (s : State) (p : DieLaunch) : Nat :=
  match p.waiting with
  | some t => (s.time - t) / 1000000
  | none => 0

/-- The effective priority of a launch on a die (R296). -/
def State.effPrio (s : State) (l : Launch) (p : DieLaunch) : Nat := Nat.min 3 (l.f 4 1 + s.waitedMs p)

/-- Reservations of a die whose launches have fallen below priority 3 end (R297). -/
def State.checkReserve (s : State) (d : Fin 8) : State :=
  let x := s.die d
  s.setDie d { x with reserve := x.reserve.filter fun r => match s.launch? r.1 with
    | some l => match l.part? d with
      | some p => s.effPrio l p == 3
      | none => false
    | none => false }

/-- Since when each launch has held an eligible point, brought up to date on a die (R296), with the reservations that this ends. -/
def State.refreshWaits (s : State) (d : Fin 8) : State :=
  let one (l : Launch) (p : DieLaunch) : DieLaunch :=
    if p.die == d then
      (if s.hasWork l p then { p with waiting := some (p.waiting.getD s.time) } else { p with waiting := none, boost := 0 })
    else p
  State.checkReserve { s with launches := s.launches.map fun l => { l with parts := l.parts.map (one l) } } d

/-- Waits brought up to date on every die. -/
def State.refreshAll (s : State) : State := (List.finRange 8).foldl State.refreshWaits s

/-- PRIORITY_AGE (R296): another millisecond of waiting raises a launch's priority. -/
def execPriorityAge (d : Fin 8) (h : BitVec 16) (s : State) : Result :=
  match s.launch? h with
  | none => .refused (.notEnabled "PRIORITY_AGE")
  | some l => match l.part? d with
    | none => .refused (.notEnabled "PRIORITY_AGE")
    | some p =>
      if l.f 4 1 + p.boost < s.effPrio l p then .next (s.mapPart h d fun p => { p with boost := p.boost + 1 })
      else .refused (.notEnabled "PRIORITY_AGE")

/-! ## Rectangles (R285, R286, R297) -/

/-- Whether a tile is busy: it runs a point or a prologue, or is characterised (R285, R342). -/
def Tile.busy (t : Tile) : Bool := t.act != .idle || t.sweep.isSome

/-- Whether a tile is free: its site is enabled and it is not busy. -/
def State.tileFree (s : State) (i : TileId) : Bool := (s.site i).live.state == .enabled && !(s.tile i).busy

/-- The sites that reservations keep from other launches than one. -/
def State.reservedFrom (s : State) (d : Fin 8) (h : BitVec 16) : List Nat :=
  ((s.die d).reserve.filter fun r => r.1 != h).flatMap fun r => match s.launch? r.1 with
    | some l => rectSites l.shape r.2
    | none => []

/-- Whether a rectangle is free for a launch. -/
def State.rectFree (s : State) (d : Fin 8) (h : BitVec 16) (shape corner : Nat) : Bool :=
  ((rectTiles d shape corner).all s.tileFree) &&
  !((rectSites shape corner).any fun n => (s.reservedFrom d h).contains n)

/-- Whether a tile has completed launch entry for a launch, and has entered no other since. -/
def Tile.hasEntered (t : Tile) (l : Launch) : Bool := t.entered == l.uid

/-- The rectangle chosen for a launch: one whose tiles have all entered it, else the lowest corner (R286). -/
def State.chooseRect (s : State) (l : Launch) (d : Fin 8) : Option Nat :=
  let free := (legalCorners l.shape).filter (s.rectFree d l.handle l.shape)
  match free.find? fun c => (rectTiles d l.shape c).all fun i => (s.tile i).hasEntered l with
  | some c => some c
  | none => free.head?

/-- RECTANGLE_RESERVATION (R297): the rectangle of enabled sites with the fewest busy tiles, among those that share no site with
another launch's reservation, which no second one could fire into. DESIGN CHOICE, notes/assumptions/70.md. -/
def execRectangleReservation (d : Fin 8) (h : BitVec 16) (s : State) : Result :=
  match s.launch? h with
  | none => .refused (.notEnabled "RECTANGLE_RESERVATION")
  | some l => match l.part? d with
    | none => .refused (.notEnabled "RECTANGLE_RESERVATION")
    | some p =>
      let busy (c : Nat) : Nat := ((rectTiles d l.shape c).filter fun i => (s.tile i).busy).length
      let waited := match p.waiting with
        | some t => decide (t + 100000 ≤ s.time)
        | none => false
      let kept := s.reservedFrom d h
      let usable := (legalCorners l.shape).filter fun c =>
        ((rectTiles d l.shape c).all fun i => (s.site i).live.state == .enabled) && !((rectSites l.shape c).any kept.contains)
      let best := usable.foldl (fun (b : Option Nat) c => match b with
        | none => some c
        | some x => if busy c < busy x then some c else some x) none
      match best with
      | some c =>
        if s.effPrio l p == 3 && waited && (s.chooseRect l d).isNone && !((s.die d).reserve.any fun r => r.1 == h) then
          .next (s.setDie d { s.die d with reserve := (s.die d).reserve ++ [(h, c)] })
        else .refused (.notEnabled "RECTANGLE_RESERVATION")
      | none => .refused (.notEnabled "RECTANGLE_RESERVATION")

/-! ## Launch entry and point start (R43, R47, R48) -/

/-- The k-registers at point start (R24). -/
def KRegs.atStart (k : KRegs) (h : BitVec 16) (serial : Nat) : KRegs :=
  { KRegs.reset with numv := k.numv, hw := k.hw, cycle := k.cycle, cycleHi := k.cycleHi, regions := k.regions, launchId := h,
                     pointSer := BitVec.ofNat 32 serial }

/-- Scalars from the list of s1 on; the rest are 0. -/
def scalars (vs : List Nat) : Vector Word 64 := Vector.ofFn fun r => if r.val = 0 then 0 else BitVec.ofNat 32 (vs.getD (r.val - 1) 0)

/-- The base of the argument block (R36). -/
def argBase : Nat := 0x1FF000

/-- The values of R43 with given s1 to s7, from a word on. -/
def Tile.begin (t : Tile) (pc : BitVec 16) (vs : List Nat) : Tile :=
  { t with pc := pc, resume := 0, loops := [], scal := scalars vs, sems := Vector.replicate 64 0,
           k := t.k.atStart t.pt.handle t.pt.serial, sb := [], copyq := [], inflight := none, asleep := false, woken := false,
           raced := [], dueLate := false, bundleNo := 0, sameNo := false, injBase := 0, leafTrap := none, stopReq := false,
            cutReq := none, cutHere := false,
           claim := false, pipe := { t.pipe with writes := [], backs := [], loose := true, lastAccs := [], bcounts := [], acounts := [] } }

/-- A member starts its point (R43). -/
def Tile.startPoint (t : Tile) (entry : BitVec 16) : Tile :=
  { t.begin entry ((t.pt.coord.toList.map fun w => w.toNat) ++ [t.pt.rank, t.pt.crewSize, argBase, t.pt.serial % 2 ^ 32]) with
    act := .point }

/-- A tile starts the prologue (R48). -/
def Tile.startPrologue (t : Tile) (entry : BitVec 16) : Tile :=
  { t.begin entry [0, 0, 0, 0, 1, argBase, 0] with act := .prologue }

/-- Launch entry but for the prologue (R47). -/
def Tile.enterLaunch (t : Tile) (l : Launch) : Tile :=
  let arg := (l.arg.map fun b => b)
  let code := l.code.toArray
  { t.begin 0 [] with
    plane := [], planeBad := [], masks := Vector.replicate 8 0, leaves := [], leafBad := [], shapes := Vector.replicate 64 0,
    acc := [], accBad := [], macros := Vector.replicate 8 MacroState.empty, lays := Vector.replicate 4 LayoutRec.empty,
    dts := Vector.replicate 2 none, spad := Cells.setRange 0 [] argBase arg,
    istore := Cells.tabulate 0 (Nat.min 65536 code.size) fun j => code.getD j 0, entered := l.uid,
    k := { (t.begin 0 []).k with numv := BitVec.ofNat 2 (l.f 3 1),
                                 regions := Vector.ofFn fun r : Fin 16 => BitVec.ofNat 32 (l.f (0x80 + 4 * r.val) 4) } }

/-- The context of a member of a fired point. -/
def memberCtx (l : Launch) (serial : Nat) (co : Vector Word 3) (corner rank time : Nat) : PointCtx :=
  let (w, h) := shapeDims l.shape
  ⟨l.handle, serial, co, rank, w * h, l.shape, corner, time, false⟩

/-- A member takes a fired point: at once ready to start if it has entered the launch, else through launch entry and the
prologue (R286). -/
def Tile.takePoint (t : Tile) (l : Launch) (c : PointCtx) : Tile :=
  if t.hasEntered l then { t with pt := c, act := .entering }
  else
    let t := { t with pt := c }.enterLaunch l
    if bit (l.f 2 1) 0 then t.startPrologue (BitVec.ofNat 16 (l.f 0x3E 2)) else { t with act := .entering }

/-- Coordinates as words. -/
def coordWords (p : Nat × Nat × Nat) : Vector Word 3 := #v[BitVec.ofNat 32 p.1, BitVec.ofNat 32 p.2.1, BitVec.ofNat 32 p.2.2]

/-- The members of a rectangle changed, each with its rank. -/
def State.mapCrew (s : State) (d : Fin 8) (shape corner : Nat) (f : Nat → Tile → Tile) : State :=
  (rectTiles d shape corner).zipIdx.foldl (fun s x => s.setTile x.1 (f x.2 (s.tile x.1))) s

/-- A launch that fires a point waits no longer, unless it has another (R296); the reservation that it fires into ends (R297). -/
def State.fired (s : State) (l : Launch) (d : Fin 8) (corner : Nat) (r : PointRun) : State :=
  let s := s.mapPart l.handle d fun p => { p with runs := p.runs ++ [r], waiting := none, boost := 0 }
  let x := s.die d
  (s.setDie d { x with served := some l.handle, reserve := x.reserve.filter fun r => r != (l.handle, corner) }).refreshWaits d

/-- A point fired into a rectangle (R286). -/
def State.firePoint (s : State) (l : Launch) (d : Fin 8) (corner row inner : Nat) : State :=
  let serial := serialOf l.record row inner
  let co := coordWords (coordOf l.record row inner)
  let s := s.mapCrew d l.shape corner fun rank t => { t.takePoint l (memberCtx l serial co corner rank s.time) with movedAt := s.time }
  s.fired l d corner ⟨serial, corner, false, s.time, none⟩

/-! ## Restoring a cut point (R303, R305) -/

/-- Words from bytes at an offset. -/
def imageWords (im : List Byte) (o n : Nat) : List Word := wordsOfBytes ((im.drop o).take (4 * n))

/-- A file of words from image words. -/
def cellsOf (ws : List Word) : Cells Word :=
  let a := ws.toArray
  Cells.tabulate 0 a.size fun j => a.getD j 0

/-- The special registers of an image; CYCLE, its snapshot and STATUS.HW are the tile's own. -/
def KRegs.ofImage (old : KRegs) (w : Nat → Nat) : KRegs :=
  let st := w 0
  { numv := BitVec.ofNat 2 (bits st 5 2), trapped := bit st 4, hw := old.hw, sr := BitVec.ofNat 3 (bits st 0 3),
    tpc := BitVec.ofNat 16 (w 1), tcause := BitVec.ofNat 32 (w 2), tmask := BitVec.ofNat 8 (w 3), tsb := BitVec.ofNat 16 (w 4),
    cycle := old.cycle, cycleHi := old.cycleHi, vflags := BitVec.ofNat 5 (w 7), vcfg := BitVec.ofNat 16 (w 8),
    tcfg := BitVec.ofNat 16 (w 9), tstat := BitVec.ofNat 5 (w 10), tconf := BitVec.ofNat 32 (w 11),
    bconf := BitVec.ofNat 32 (w 12), aconf := BitVec.ofNat 32 (w 13), segcnt := BitVec.ofNat 32 (w 14),
    segsig := BitVec.ofNat 32 (w 15), launchId := BitVec.ofNat 16 (w 17), pointSer := BitVec.ofNat 32 (w 18),
    replays := BitVec.ofNat 32 (w 26), flagInj := BitVec.ofNat 32 (w 27), semErr := BitVec.ofNat 64 (w 28 + 2 ^ 32 * w 48),
    cerr := BitVec.ofNat 64 (w 30 + 2 ^ 32 * w 31), mcfg := BitVec.ofNat 16 (w 29),
    regions := Vector.ofFn fun r : Fin 16 => BitVec.ofNat 32 (w (32 + r.val)) }

/-- A macro's tag from its code in an image. -/
def tagOfCode (n : Nat) : MacroTag := if n = 0 then .none else if n = 1 then .invalid else .fmt (BitVec.ofNat 4 (n - 2))

/-- A macro's tag as a code in an image. -/
def codeOfTag : MacroTag → Nat
  | .none => 0
  | .invalid => 1
  | .fmt c => c.toNat + 2

/-- The copies that an image saved, as queued commands from an issue number on (R300). -/
def savedCopies (im : List Byte) (seqNo : Nat) : List CopyCmd :=
  (List.range (Nat.min 32 (field im 0x580 4))).map fun j =>
    let d := (im.drop (0x6800 + 64 * j)).take 64
    let b := field d 2 1
    if bit b 7 then
      ⟨seqNo + j, 0, d.take 2 ++ List.replicate 6 0 ++ d.drop 8, some (BitVec.ofNat 3 b, BitVec.ofNat 6 (field d 3 1)), .queued, [], [], [], 1⟩
    else ⟨seqNo + j, 0, d, none, .queued, [], [], [], 1⟩

/-- A tile that has done launch entry for a restored point, with the image's state (R305). -/
def Tile.restoreImage (t : Tile) (im : List Byte) : Tile :=
  let w (o : Nat) : Nat := field im o 4
  let depth := Nat.min 6 (w 0x00C)
  let loops := ((List.range depth).map fun j =>
    (⟨BitVec.ofNat 32 (w (0x010 + 16 * j)), BitVec.ofNat 32 (w (0x014 + 16 * j)), BitVec.ofNat 16 (w (0x018 + 16 * j)),
      BitVec.ofNat 16 (w (0x01C + 16 * j))⟩ : LoopEntry)).reverse
  let mac (m : Nat) : MacroState :=
    ⟨cellsOf (imageWords im (0x29000 + 0x10000 * m) 16384),
     (let a := ((im.drop (0xA9000 + 512 * m)).take 512).toArray
      Cells.tabulate 0 512 fun q => a.getD q 0),
     BitVec.ofNat 32 (w (0xAA000 + 8 * m + 4)), tagOfCode (field im (0xAA000 + 8 * m) 1),
     failsSaved t.issueNo ((im.drop 0xAB000).take 0x10000) m⟩
  let t := t.ofSection ((im.drop 0xAB000).take 0x10000)
  let sp := ((im.drop 0xBB000).take spadSize).toArray
  { t with
    pc := BitVec.ofNat 16 (w 0), loops := loops,
    scal := Vector.ofFn fun r => if r.val = 0 then 0 else BitVec.ofNat 32 (w (0x100 + 4 * r.val)),
    masks := Vector.ofFn fun m => if m.val = 0 then 0 else BitVec.ofNat 256 (field im (0x200 + 32 * m.val) 32),
    k := t.k.ofImage fun n => w (0x300 + 4 * n),
    sems := Vector.ofFn fun e => BitVec.ofNat 32 (w (0x400 + 4 * e.val)),
    lays := Vector.ofFn fun l => layoutOf ((im.drop (0x500 + 32 * l.val)).take 32),
    plane := cellsOf (imageWords im 0x1000 4096), leaves := cellsOf (imageWords im 0x5000 1024),
    shapes := Vector.ofFn fun h => BitVec.ofNat 256 (field im (0x6000 + 32 * h.val) 32),
    dts := Vector.ofFn fun j => if field im (0x7000 + 0x1000 * j.val + 2096) 1 = 0 then none
      else tableOf ((im.drop (0x7000 + 0x1000 * j.val)).take 2096),
    acc := cellsOf (imageWords im 0x9000 32768), macros := Vector.ofFn fun m => mac m.val,
    spad := Cells.tabulate 0 spadSize fun a => sp.getD a 0,
    copyq := savedCopies im t.issueNo, issueNo := t.issueNo + 32 }

/-- A member of a restored point: it has loaded the code and its image, and waits for the start; no prologue runs, and a new
point on the tile needs launch entry again (R305). -/
def Tile.takeRestored (t : Tile) (l : Launch) (c : PointCtx) (im : List Byte) : Tile :=
  { ({ t with pt := c }.enterLaunch l).restoreImage im with
    entered := 0, act := if field im 8 4 = 1 then .pended else .entering }

/-- The rectangle for a cut point: its own corner under DSEM, else any that may be chosen (R305). -/
def State.restoreRect (s : State) (l : Launch) (d : Fin 8) (c : CutPoint) : Option Nat :=
  if l.dsem then (if s.rectFree d l.handle l.shape c.corner then some c.corner else none) else s.chooseRect l d

/-- A cut point restored into a rectangle: it counts as fired. -/
def State.fireRestore (s : State) (l : Launch) (d : Fin 8) (corner : Nat) (c : CutPoint) : State :=
  let s := s.mapCrew d l.shape corner fun rank t =>
    { t.takeRestored l (memberCtx l c.serial c.coord corner rank s.time) (c.images.getD rank []) with movedAt := s.time }
  let s := s.setLaunch { l with restores := l.restores.erase c }
  s.fired l d corner ⟨c.serial, corner, false, s.time, some c⟩

/-! ## The Harrow's events -/

/-- ROW_OPEN (R282, R426): row T opens when a point of it with inner index 0 to 64 is ready; none opens for a launch that fires no more. -/
def execRowOpen (d : Fin 8) (h : BitVec 16) (s : State) : Result :=
  match s.launch? h with
  | none => .refused (.notEnabled "ROW_OPEN")
  | some l => match l.part? d with
    | none => .refused (.notEnabled "ROW_OPEN")
    | some p =>
      let f := p.fr
      let some' := (List.range 65).any fun n => decide (n < innerExt l.record) && s.pointReady l p f.t n
      if l.fires s.time && decide (f.t < p.rowHi) && decide (f.t - f.b < 1024) && some' then
        .next ((s.mapPart h d fun p => { p with fr := p.fr.openRow }).refreshWaits d)
      else .refused (.notEnabled "ROW_OPEN")

/-- The launches of a die in resident-slot order from the one after the last served (R296). -/
def Die.serveOrder (x : Die) : List (BitVec 16) :=
  match x.slots.findIdx? fun h => some h == x.served with
  | some n => x.slots.drop (n + 1) ++ x.slots.take (n + 1)
  | none => x.slots

/-- What a launch could fire now on a die: a cut point with its rectangle, or a point with its rectangle. -/
def State.fireChoice (s : State) (l : Launch) (p : DieLaunch) : Option (Nat × (CutPoint ⊕ (Nat × Nat))) :=
  if !l.fires s.time then none
  else match l.restores.find? fun c => c.die == p.die with
    | some c => (s.restoreRect l p.die c).map fun k => (k, .inl c)
    | none => match s.nextPoint l p, s.chooseRect l p.die with
      | some q, some k => some (k, .inr q)
      | _, _ => none

/-- Whether a die's Harrow fires: not in a fence, and not in the viral state. -/
def State.harrowRuns (s : State) (d : Fin 8) : Bool := !(s.die d).fenced && !s.regs.viral

/-- A die's next firing decision comes 4 ns of TIME after the one before it at the earliest (R284). -/
def State.decides (s : State) (d : Fin 8) : State :=
  let now := match (s.die d).decided with
    | some t => Nat.max s.time (t + 4)
    | none => s.time
  { s with time := now }.setDie d { s.die d with decided := some now }

/-- POINT_FIRE (R283, R284, R286, R296): of the launches of the highest effective priority that can fire, the next after the one last
served. -/
def execPointFire (d : Fin 8) (s : State) : Result :=
  let s := s.decides d
  let cands : List (Launch × Nat × Nat × (CutPoint ⊕ (Nat × Nat))) :=
    ((s.die d).serveOrder.filterMap s.launch?).filterMap fun l => match l.part? d with
      | some p => (s.fireChoice l p).map fun c => (l, s.effPrio l p, c)
      | none => none
  let top := cands.foldl (fun m c => Nat.max m c.2.1) 0
  match cands.find? fun c => c.2.1 == top with
  | some (l, _, corner, .inl c) => if s.harrowRuns d then .next (s.fireRestore l d corner c) else .refused (.notEnabled "POINT_FIRE")
  | some (l, _, corner, .inr (row, inner)) =>
    if s.harrowRuns d then .next (s.firePoint l d corner row inner) else .refused (.notEnabled "POINT_FIRE")
  | none => .refused (.notEnabled "POINT_FIRE")

/-- A point in flight of a launch on a die. -/
def State.run? (s : State) (d : Fin 8) (h : BitVec 16) (serial : Nat) : Option (Launch × PointRun) :=
  match s.launch? h with
  | none => none
  | some l => match l.part? d with
    | none => none
    | some p => (p.runs.find? fun r => r.serial == serial).map fun r => (l, r)

/-- POINT_START (R286): every member has entered the launch, and all start; members of a restored point go on from their images. -/
def execPointStart (d : Fin 8) (h : BitVec 16) (serial : Nat) (s : State) : Result :=
  match s.run? d h serial with
  | none => .refused (.notEnabled "POINT_START")
  | some (l, r) =>
    let crew := rectTiles d l.shape r.corner
    let ready (t : Tile) : Bool := t.act == .entering || (r.cut.isSome && t.act == .pended)
    if !r.started && s.harrowRuns d && !s.cutDue h && crew.all (fun i => ready (s.tile i)) then
      let s := s.mapCrew d l.shape r.corner fun _ t =>
        let t := { t with movedAt := s.time }
        if r.cut.isSome then { t with act := if t.act = .pended then .pended else .point, pt := { t.pt with fireTime := s.time } }
        else t.startPoint (BitVec.ofNat 16 (l.f 0x3C 2))
      .next (s.mapPart h d fun p => { p with runs := p.runs.map fun x => if x.serial == serial then { x with started := true } else x })
    else .refused (.notEnabled "POINT_START")

/-- A frontier's change as the same die's chained launches see it at once. -/
def State.chainSees (s : State) (h : BitVec 16) (src d : Fin 8) (f : Frontier) : State :=
  { s with launches := s.launches.map fun l =>
      if l.chained && l.chainH == h then
        { l with parts := l.parts.map fun p =>
            if p.die == d then { p with chain := (src.val, f) :: p.chain.filter fun m => m.1 != src.val } else p }
      else l }

/-- A launch's mirrors on a die of another die's frontier. -/
def State.mirrorSees (s : State) (h : BitVec 16) (src d : Fin 8) (f : Frontier) : State :=
  s.mapPart h d fun p =>
    if p.die == src then p else { p with mirrors := (src.val, f) :: p.mirrors.filter fun m => m.1 != src.val }

/-- The scope of a launch's point completions (R267, R289): the declared one, DIE where a point may depend on another, PKG for several
dies and where a launch on another die is chained to this one. DEDUCED, notes/assumptions/79.md. -/
def State.pointScope (s : State) (l : Launch) : Nat :=
  let after := s.launches.filter fun x => x.chain && x.chainH == l.handle && !x.gone
  let far := decide (1 < (namedDies l.record).length) || after.any fun x => namedDies x.record != namedDies l.record
  Nat.max (field l.record 6 1) (if far then 3 else if 0 < recNdep l.record ∨ !after.isEmpty then 2 else 0)

/-- A point's completion is a release of the copy writes that its members made, those before a hard cut among them, at the point
scope; those to UO pages only as far as a FENCE raised them (R267). -/
def State.coverPoint (s : State) (l : Launch) (crew : List TileId) (r : PointRun) : State :=
  let mine (e : NarrowWrite) : Bool := e.by'.handle == l.handle && e.by'.serial == r.serial && match e.by'.tile with
    | some i => crew.contains i || r.cut.isSome
    | none => false
  ({ s with narrow := s.narrow.map fun e => if mine e then { e with covered := true } else e }).raise
    (fun e => mine e && e.ord != 2) (s.pointScope l) crew

/-- POINT_COMPLETION (R267, R282): the last PEND has committed and the members' crew accesses are performed. -/
def execPointCompletion (d : Fin 8) (h : BitVec 16) (serial : Nat) (s : State) : Result :=
  match s.run? d h serial with
  | none => .refused (.notEnabled "POINT_COMPLETION")
  | some (l, r) =>
    let crew := rectTiles d l.shape r.corner
    let settled := !(s.crew.any fun a => crew.contains a.src)
    if r.started && settled && crew.all (fun i => (s.tile i).act == .pended) then
      let s := (s.coverPoint l crew r).mapCrew d l.shape r.corner fun _ t => { t with act := .idle, cutReq := none }
      let e := innerExt l.record
      let s := s.mapPart h d fun p => { p with
        runs := p.runs.filter fun x => x.serial != serial, fr := p.fr.complete e (serial / e) (serial % e) }
      let s := match (s.launch? h).bind fun l => l.part? d with
        | some p => s.chainSees h d d p.fr
        | none => s
      .next (s.refreshWaits d)
    else .refused (.notEnabled "POINT_COMPLETION")

/-- MIRROR_UPDATE (R288): a die's mirror takes another die's frontier as it stands; it does not come where both routes pass a fenced die
(R383). -/
def execMirrorUpdate (d : Fin 8) (h : BitVec 16) (src : Fin 8) (s : State) : Result :=
  match (s.partsOf h).find? fun p => p.die == src with
  | none => .refused (.notEnabled "MIRROR_UPDATE")
  | some p =>
    if s.routeBlocked src d then .refused (.notEnabled "MIRROR_UPDATE")
    else .next (((s.mirrorSees h src d p.fr).chainSees h src d p.fr).refreshWaits d)

/-! ## Completion of a launch (R269, R289, R299) -/

/-- The launches chained to one that has completed need it no longer. DEDUCED, notes/assumptions/39.md. -/
def State.unchain (s : State) (h : BitVec 16) : State :=
  { s with launches := s.launches.map fun l => if l.chained && l.chainH == h then { l with chained := false } else l }

/-- LAUNCH_COMPLETION (R289): the completion store; the PREEMPTs that drained it end with STATUS DONE (R299). -/
def execLaunchCompletion (h : BitVec 16) (s : State) : Result :=
  match s.launch? h with
  | none => .refused (.notEnabled "LAUNCH_COMPLETION")
  | some l =>
    if l.isResident && l.restores.isEmpty && (l.parts.all fun p => p.done && p.runs.isEmpty) && !s.regs.viral then
      let s := s.storeCword l 0
      let s := s.endPreempts l 4
      .next (((s.leaveDies h).dropLaunch h).unchain h).refreshAll
    else .refused (.notEnabled "LAUNCH_COMPLETION")

end Sys2Proof.Machine
end

