-- ==== Sys2Proof/Machine/Frontend.lean ====
section
/-! DEFINITION. The command front-end (spec/10_launches_and_the_frontier.md R275-R279, R291-R295, R302): queues, commands,
admission, WAIT, SIGNAL, BARRIER and KILL. -/

namespace Sys2Proof.Machine

/-! ## Queues (R291-R293) -/

/-- Entries of a queue's ring. -/
def Queue.entries (x : Queue) : Nat := 2 ^ x.size

/-- The queue past the command at QHEAD. -/
def Queue.advance (x : Queue) : Queue := { x with head := (x.head + 1) % x.entries, fetched := none, begun := false }

/-- The interrupt that QCTL.IRQ enables on ERR or ADM (R292). -/
def State.queueIrq (s : State) (q : Fin 16) : State := if (s.queue q).irq then s.raiseVector q.val else s

/-- The queue stops at the command at QHEAD (R293). -/
def State.queueErr (s : State) (q : Fin 16) (code : Nat) : State :=
  (s.setQueue q { s.queue q with err := true, errCode := BitVec.ofNat 8 code, fetched := none, begun := false }).queueIrq q

/-- The command at QHEAD completes: the queue moves on, then NOTIFY and INTR act (R295). -/
def State.completeFetched (s : State) (q : Fin 16) (cmd : List Byte) : State :=
  let x := s.queue q
  (if x.fetched.isSome then s.setQueue q x.advance else s).notify q cmd

/-- A command that goes on running while its queue reads on (R270). -/
def State.startRunning (s : State) (q : Fin 16) (cmd : List Byte) : State :=
  let x := s.queue q
  s.setQueue q { x.advance with running := x.running ++ [(x.index, cmd)] }

/-- A QTAIL write (R291). -/
def State.writeQtail (s : State) (q : Fin 16) (v : Word) : State :=
  let x := s.queue q
  if !x.en then s
  else if x.entries ≤ v.toNat then s.setQueue q { x with tailErr := true }
  else s.setQueue q { x with tail := v.toNat }

/-- A QCTL write (R291, R292). DEDUCED, notes/assumptions/41.md. -/
def State.writeQctl (s : State) (q : Fin 16) (v : Word) : State :=
  let x := s.queue q
  let en := v.getLsbD 0
  let x := { x with en := en, irq := v.getLsbD 1, diagOk := v.getLsbD 2, ctx := if x.en then x.ctx else v.extractLsb' 16 16,
                    head := if en && !x.en then 0 else x.head, tail := if en && !x.en then 0 else x.tail,
                    fetched := if (en && !x.en) || (!en && !x.begun) then none else x.fetched,
                    begun := x.begun && !(en && !x.en) }
  s.setQueue q x

/-- QSTAT.ERR cleared: the command at QHEAD is passed over (R293). -/
def State.clearQerr (s : State) (q : Fin 16) : State :=
  let x := s.queue q
  if x.err then s.setQueue q { x.advance with err := false } else s

/-- Whether the host's writes to the front-end window and its aperture accesses are performed: after READY, and not in the viral state
(R322, R386). -/
def State.frontOpen (s : State) : Bool := s.regs.ready && !s.regs.viral

/-- QTAIL_WRITE (R291). -/
def execQtailWrite (q : Fin 16) (v : Word) (s : State) : Result := .next (if !s.frontOpen then s else s.writeQtail q v)

/-- QCTL_WRITE (R291). -/
def execQctlWrite (q : Fin 16) (v : Word) (s : State) : Result := .next (if !s.frontOpen then s else s.writeQctl q v)

/-- QSTAT_ERR_CLEAR (R293). -/
def execQstatErrClear (q : Fin 16) (s : State) : Result := .next (if !s.frontOpen then s else s.clearQerr q)

/-! ## Commands (R294) -/

/-- OP. -/
def cOp (c : List Byte) : Nat := field c 0 1
/-- HANDLE. -/
def cHandle (c : List Byte) : BitVec 16 := BitVec.ofNat 16 (field c 4 2)
/-- ADDR. -/
def cAddr (c : List Byte) : Nat := field c 8 8
/-- VALUE. -/
def cValue (c : List Byte) : Nat := field c 0x10 8
/-- LEN. -/
def cLen (c : List Byte) : Nat := field c 0x18 8

/-- The lowest code among the rules of the command table that a command breaks. DEDUCED, notes/assumptions/42.md. -/
def commandError (c : List Byte) : Option Nat :=
  let op := cOp c
  let fl := field c 1 1
  let notify := bit fl 0
  let useScope := op == 2 || op == 3 || notify
  let none' (used : Bool) (o n : Nat) : Bool := used || field c o n == 0
  firstFail
    [(decide (1 ≤ op) && decide (op ≤ 7), 0x01),
     (field c 3 1 == 0 && field c 6 2 == 0 && field c 0x30 16 == 0 && bits fl 3 5 == 0 && (!bit fl 2 || op == 2) &&
      none' (op == 1 || op == 4 || op == 5 || op == 6) 4 2 && none' (decide (1 ≤ op) && decide (op ≤ 5)) 8 8 &&
      none' (decide (1 ≤ op) && decide (op ≤ 4)) 0x10 8 && none' (op == 4 || op == 5) 0x18 8 &&
      none' notify 0x20 16 && none' useScope 2 1, 0x02),
     (!useScope || field c 2 1 == 3 || field c 2 1 == 4, 0x03),
     (cAddr c % (if op = 1 then 64 else if op = 2 ∨ op = 3 then 8 else if op = 4 ∨ op = 5 then 4096 else 1) == 0 &&
      (!notify || field c 0x20 8 % 8 == 0), 0x04),
     (op != 1 || decide (cValue c < 2 ^ 62), 0x05),
     ((op != 4 && op != 5) || decide (4096 ≤ cLen c), 0x06)]

/-- COMMAND_FETCH (R294): the next command is read at QHEAD; a malformed one stops the queue. -/
def execCommandFetch (q : Fin 16) (s : State) : Result :=
  let x := s.queue q
  let held := s.launches.any fun l => l.phase == .waiting && l.queue == q
  if x.en && !x.err && x.fetched.isNone && x.head != x.tail && !held && !s.regs.viral then
    let (s, r) := s.feRead x.ctx (x.base.toNat + 64 * x.head) 64
    .next <| match r with
      | none => s.queueErr q 0x07
      | some c => match commandError c with
        | some e => s.queueErr q e
        | none => s.setQueue q { s.queue q with fetched := some c, begun := false, index := x.index + 1 }
  else .refused (.notEnabled "COMMAND_FETCH")

/-- The command of an operation that a queue has read and that has not begun. -/
def State.toBegin (s : State) (q : Fin 16) (op : Nat) : Option (List Byte) :=
  match (s.queue q).fetched with
  | some c => if cOp c = op ∧ !(s.queue q).begun ∧ !s.regs.viral then some c else none
  | none => none

/-! ## Admission (R277, R278) -/

/-- A dependence or chain component within -8 to 8. -/
def smallComp (x : Int) : Bool := decide (-8 ≤ x) && decide (x ≤ 8)

/-- A used dependence vector is in range, uses no unused component, and is lexicographically positive. -/
def depOk (r : List Byte) (v : Nat) : Bool :=
  let c := (List.range 3).map (recDep r v)
  c.all smallComp && (c.drop (recNdim r)).all (fun x => x == 0) &&
  match c.find? fun x => x != 0 with
  | some x => decide (0 < x)
  | none => false

/-- The alignment and length limits of the code image and the argument block. -/
def codeFits (r : List Byte) : Bool :=
  decide (1 ≤ field r 0x38 4) && decide (field r 0x38 4 ≤ 65536) && field r 0x30 8 % 256 == 0
/-- The limits of the argument block. -/
def argFits (r : List Byte) : Bool := decide (field r 0x42 2 ≤ 4096) && field r 0x48 8 % 16 == 0

/-- The detail of the first failure of a record in the order of R277, from 0x02 on. -/
def recordDetail (s : State) (q : Fin 16) (h : BitVec 16) (resume : Bool) (r : List Byte) : Option Nat :=
  let fl := field r 2 1
  let nd := recNdim r
  let len := field r 0x38 4
  let chain := bit fl 5
  let ch := BitVec.ofNat 16 (field r 0x28 2)
  firstFail
    [(field r 0 2 == 2 && bits fl 6 2 == 0 && bits (field r 4 1) 2 6 == 0 && field r 0x0B 1 == 0 && field r 0x2A 2 == 0 &&
      field r 0x2F 1 == 0 && field r 0x60 32 == 0 && field r 0xC0 64 == 0 &&
      ((List.range 4).all fun v => field r (0x1B + 4 * v) 1 == 0), 0x02),
     ((field r 3 1 == 1 || field r 3 1 == 2) && decide (field r 5 1 ≤ 4) && decide (1 ≤ field r 6 1) &&
      decide (field r 6 1 ≤ 3) && decide (2 ≤ field r 7 1) && decide (field r 7 1 ≤ 4), 0x03),
     (decide (1 ≤ nd) && decide (nd ≤ 3) && ((List.range 3).all fun i =>
        if i < nd then decide (1 ≤ recExt r i) && decide (recExt r i ≤ 2 ^ 20) else recExt r i == 0), 0x04),
     (decide (recNdep r ≤ 4) && ((List.range 4).all fun v =>
        if v < recNdep r then depOk r v else field r (0x18 + 4 * v) 3 == 0), 0x05),
     (!(namedDies r).isEmpty && ((namedDies r).all fun d => !(s.die d).fenced) &&
      (nd != 1 || (namedDies r).length == 1), 0x06),
     ((namedDies r).all fun d => s.hasRect d (field r 5 1), 0x07),
     (if chain then
        ((List.range 3).all fun i => smallComp (recChainV r i) && (decide (i < nd) || recChainV r i == 0)) &&
        (match s.recordOf ch with
         | some p => recNdim p == nd
         | none => true)
      else ch == 0 && field r 0x2C 3 == 0, 0x08),
     (!(s.launches.any fun l => l.handle == h && !l.gone) && (resume || !(s.ghosts.any fun g => g.handle == h)), 0x09),
     (codeFits r && decide (field r 0x3C 2 < len) && decide (field r 0x3E 2 < len) && decide (field r 0x40 2 < len) &&
      argFits r && field r 0x50 8 % 8 == 0 && field r 0x58 8 % 256 == 0, 0x0A),
     ((List.range 16).all fun j =>
        let w := field r (0x80 + 4 * j) 4
        bits w 4 3 != 7 && decide (bits w 0 4 ≤ 12) && bits w 24 8 == 0, 0x0B),
     (!bit fl 4 || (s.queue q).diagOk, 0x0C)]

/-- The code image and the argument block read; none where one cannot be read. They are read before their limits are checked, since
detail 0x01 comes first; of a length above its limit only the limit's bytes are read, and an address is taken as it stands. DESIGN
CHOICE, notes/assumptions/70.md. -/
def State.readParts (s : State) (c : BitVec 16) (r : List Byte) : State × Option (List Word × List Byte) :=
  let (s, code) := s.feRead c (field r 0x30 8) (4 * Nat.min 65536 (field r 0x38 4))
  match code with
  | none => (s, none)
  | some code =>
    let (s, arg) := s.feRead c (field r 0x48 8) (Nat.min 4096 (field r 0x42 2))
    (s, arg.map fun a => (wordsOfBytes code, a))

/-- A failed admission (R278): QADMIT and ADM, then the completion word with bit 63 where the record could be read and its CWORD
is aligned; the command completes. -/
def State.failAdmission (s : State) (q : Fin 16) (cmd : List Byte) (detail seqVal : Nat) (record : Option (List Byte)) : State :=
  let x := s.queue q
  let s := (s.setQueue q { x with adm := true, admInfo := BitVec.ofNat 32 (field cmd 4 2 * 65536 + detail) }).queueIrq q
  let s := match record with
    | some r => if field r 0x50 8 % 8 = 0 then s.feWord (cwordScope r) x.ctx (field r 0x50 8) (seqVal + faultBit) else s
    | none => s
  s.completeFetched q cmd

/-- A launch's part on a die at admission, with its frontier. -/
def newPart (d : Fin 8) (f : Frontier) (lo hi : Nat) : DieLaunch := ⟨d, f, lo, hi, [], [], [], none, 0⟩

/-- The parts of a launch that starts afresh: empty bands at the foot of each block (R288). -/
def freshParts (r : List Byte) : List DieLaunch :=
  (namedDies r).map fun d => let (lo, hi) := blockOf r d; newPart d ⟨lo, lo, []⟩ lo hi

/-! ## Residency (R279) -/

/-- Whether every die that a launch names has a free resident slot. -/
def State.slotsFree (s : State) (l : Launch) : Bool := (namedDies l.record).all fun d => decide ((s.die d).slots.length < 16)

/-- The point completions of a predecessor become known to a launch that is chained to it: what they cover is performed where its tiles can
read it (R267). -/
def State.chainRelease (s : State) (l : Launch) : State :=
  match s.recordOf l.chainH with
  | some r =>
    if l.chain then
      s.raise (fun e => e.by'.tile.isSome && e.by'.handle == l.chainH && e.covered && e.ord != 2)
        (if namedDies r = namedDies l.record then 2 else 3) []
    else s
  | none => s

/-- A waiting launch becomes resident on all its dies; it is chained if its predecessor is resident or a ghost then (R287), and it
replaces a ghost of its own handle (R305). -/
def State.makeResident (s : State) (h : BitVec 16) : State :=
  match s.launch? h with
  | none => s
  | some l =>
    let chained := l.chain && (s.recordOf l.chainH).isSome
    let chain := if chained then (s.partsOf l.chainH).map fun p => (p.die.val, p.fr) else []
    let parts := l.parts.map fun p =>
      { p with mirrors := (l.parts.filter fun x => x.die != p.die).map fun x => (x.die.val, x.fr), chain := chain }
    let s := s.setLaunch { l with phase := .resident, chained := chained, parts := parts }
    let s := { s.chainRelease l with ghosts := s.ghosts.filter fun g => g.handle != h }
    let s := (namedDies l.record).foldl (fun s d => s.setDie d { s.die d with slots := (s.die d).slots ++ [h] }) s
    s.refreshAll

/-- A launch that passed every check: resident at once, or waiting while it holds its queue. -/
def State.takeLaunch (s : State) (q : Fin 16) (cmd : List Byte) (l : Launch) : State :=
  let s := { s with launches := s.launches ++ [{ l with uid := s.nextId + 1 }], nextId := s.nextId + 1 }
  if s.slotsFree l then (s.makeResident l.handle).completeFetched q cmd
  else s.setQueue q { s.queue q with begun := true }

/-- LAUNCH_RESIDENT (R279): a waiting launch finds its slots, and the command that admitted it completes. -/
def execLaunchResident (h : BitVec 16) (s : State) : Result :=
  match s.launch? h with
  | none => .refused (.notEnabled "LAUNCH_RESIDENT")
  | some l =>
    if l.phase == .waiting && s.slotsFree l && !s.regs.viral then
      let q := l.queue
      let s := s.makeResident h
      .next (match (s.queue q).fetched with
        | some c => s.completeFetched q c
        | none => s)
    else .refused (.notEnabled "LAUNCH_RESIDENT")

/-- Whether a handle's last launch has faulted or been killed and its completion word is still to be stored. -/
def State.unreaped (s : State) (h : BitVec 16) : Bool := s.launches.any fun l => l.handle == h && l.gone

/-- A launch as admitted. -/
def newLaunch (q : Fin 16) (ctx h : BitVec 16) (seqVal : Nat) (r : List Byte) (code : List Word) (arg : List Byte)
    (parts : List DieLaunch) (restores : List CutPoint) : Launch :=
  ⟨0, h, .waiting, seqVal, ctx, q, r, code, arg, parts, false, 0, 0, 0, 0, [], restores, [], false, []⟩

/-- LAUNCH (R277-R279). -/
def execLaunch (q : Fin 16) (s : State) : Result :=
  match s.toBegin q 1 with
  | none => .refused (.notEnabled "LAUNCH")
  | some cmd =>
    let h := cHandle cmd
    if s.unreaped h then .refused (.notEnabled "LAUNCH")
    else
      let ctx := (s.queue q).ctx
      let (s, r) := s.feRead ctx (cAddr cmd) 256
      .next <| match r with
        | none => s.failAdmission q cmd 0x01 (cValue cmd) none
        | some r =>
          let (s, ps) := s.readParts ctx r
          match ps with
          | none => s.failAdmission q cmd 0x01 (cValue cmd) (some r)
          | some (code, arg) =>
            match recordDetail s q h false r with
            | some e => s.failAdmission q cmd e (cValue cmd) (some r)
            | none => s.takeLaunch q cmd (newLaunch q ctx h (cValue cmd) r code arg (freshParts r) [])

/-! ## WAIT, SIGNAL and BARRIER (R295) -/

/-- A WAIT reads its word: it completes, goes on waiting, or stops its queue. Every failure to read it writes one record. -/
def State.waitRead (s : State) (q : Fin 16) (cmd : List Byte) : State :=
  let (s, r) := s.feReadGo .front true (s.queue q).ctx (cAddr cmd) 8
  match r with
  | none => s.queueErr q 0x11
  | some bs =>
    let w := natOfBytes bs
    if bit w 63 || decide (cValue cmd % 2 ^ 62 ≤ w % 2 ^ 62) then
      if bit (field cmd 1 1) 2 && bit w 63 then (s.notify q cmd).queueErr q 0x10 else s.completeFetched q cmd
    else s.setQueue q { s.queue q with begun := true }

/-- WAIT (R295). -/
def execWait (q : Fin 16) (s : State) : Result :=
  match s.toBegin q 2 with
  | none => .refused (.notEnabled "WAIT")
  | some cmd => .next (s.waitRead q cmd)

/-- WAIT_POLL (R295). -/
def execWaitPoll (q : Fin 16) (s : State) : Result :=
  match (s.queue q).fetched with
  | none => .refused (.notEnabled "WAIT_POLL")
  | some cmd =>
    if cOp cmd == 2 && (s.queue q).begun && !s.regs.viral then .next (s.waitRead q cmd) else .refused (.notEnabled "WAIT_POLL")

/-- SIGNAL (R295). -/
def execSignal (q : Fin 16) (s : State) : Result :=
  match s.toBegin q 3 with
  | none => .refused (.notEnabled "SIGNAL")
  | some cmd =>
    .next ((s.feStore (field cmd 2 1) (s.queue q).ctx (cAddr cmd) (bytesOfNat 8 (cValue cmd))).1.completeFetched q cmd)

/-- BARRIER (R295). -/
def execBarrier (q : Fin 16) (s : State) : Result :=
  match s.toBegin q 7 with
  | none => .refused (.notEnabled "BARRIER")
  | some cmd =>
    if (s.queue q).running.isEmpty then .next (s.completeFetched q cmd) else .refused (.notEnabled "BARRIER")

/-! ## KILL (R279, R302) -/

/-- A resident launch killed: its tiles stop without saving, it leaves its dies, its dependants fault, and its completion word is
stored when its tiles have stopped and their started copies have ended (R302). -/
def State.killResident (s : State) (l : Launch) : State :=
  let s := s.setLaunch { l with phase := .killed }
  let s := s.stopLaunchTiles l.handle
  let s := s.endPreempts l 3
  let s := s.leaveDies l.handle
  let s := s.faultDependants l.handle
  (s.reap l.handle).refreshAll

/-- A waiting launch killed: it never becomes resident, and the command that admitted it completes (R279). -/
def State.killWaiting (s : State) (l : Launch) : State :=
  let s := (s.dropLaunch l.handle).storeCword l killBits
  match (s.queue l.queue).fetched with
  | some c => s.completeFetched l.queue c
  | none => s

/-- A ghost killed: it is removed, its completion word is written, its dependants fault. DEDUCED, notes/assumptions/44.md. -/
def State.killGhost (s : State) (g : Ghost) : State :=
  let s := { s with ghosts := s.ghosts.filter fun x => x.handle != g.handle }
  let s := s.storeWord g.handle g.ctx g.record (g.seqVal + killBits)
  (s.faultDependants g.handle).refreshAll

/-- KILL (R302): it completes when the completion word of the launch is stored (R295). A handle that nothing holds has no effect. -/
def execKill (q : Fin 16) (s : State) : Result :=
  match s.toBegin q 6 with
  | none => .refused (.notEnabled "KILL")
  | some cmd =>
    let h := cHandle cmd
    .next <| match s.launches.find? fun l => l.handle == h && !l.gone with
      | some l =>
        if l.phase == .waiting then (s.killWaiting l).completeFetched q cmd
        else (s.startRunning q cmd).killResident { l with kills := l.kills ++ [(q, (s.queue q).index)] }
      | none => match s.ghosts.find? fun g => g.handle == h with
        | some g => (s.killGhost g).completeFetched q cmd
        | none => s.completeFetched q cmd

end Sys2Proof.Machine
end

