-- ==== Sys2Proof/Machine/Preempt.lean ====
section
/-! DEFINITION. Pre-emption and resume (spec/10_launches_and_the_frontier.md R290, R298-R305, R317): draining, the hard cut, the
save area with its frontier records and context images, and the restart from one. -/

namespace Sys2Proof.Machine

/-! ## PREEMPT (R299) -/

/-- Whether a ghost is needed for a launch and none of the 64 is free. -/
def State.ghostsFull (s : State) (h : BitVec 16) : Bool := !(s.dependants h).isEmpty && decide (64 ≤ s.ghosts.length)

/-- PREEMPTs that find no free ghost for the launch: STATUS BUSY, and the launch goes on. DEDUCED, notes/assumptions/45.md. -/
def State.preemptBusy (s : State) (l : Launch) : State :=
  ((s.setLaunch { l with phase := .resident, preempts := [] }).endPreempts l 5).refreshAll

/-- The cut decision reaches a member of a started point: it is asked to stop, and wakes if it sleeps (R21). A bundle whose CREW ATOM is
out commits, and the tile stops at the boundary after it (R181, R300 item 3). -/
def Tile.askCut (t : Tile) (time : Nat) : Tile :=
  if t.act = .point then
    let out := match t.inflight with
      | some b => b.atomSent || b.atomBack.isSome || (b.hold.isSome && decide (b.start < b.next))
      | none => false
    { t with cutReq := some (time, t.k.cycle.toNat), woken := t.asleep, cutHere := t.cutHere || out }
  else t

/-- A member of a point whose crew is still in launch entry stops at its next boundary without a save. -/
def State.abandonMember (s : State) (i : TileId) : State :=
  let s := s.setTile i { s.tile i with entered := 0 }
  if (s.tile i).mayStop then (s.stopTile i).settleStopped i else s.setTile i { s.tile i with stopReq := true }

/-- The cut decision for one point in flight on a die. -/
def State.cutRun (s : State) (l : Launch) (d : Fin 8) (r : PointRun) : State :=
  let crew := rectTiles d l.shape r.corner
  if r.started then crew.foldl (fun s i => s.setTile i ((s.tile i).askCut s.time)) s
  else crew.foldl State.abandonMember s

/-- The launch after the cut decision: points not started leave, a cut point among them waits to be restored again. -/
def Launch.afterCut (l : Launch) : Launch :=
  let back := l.parts.flatMap fun x => x.runs.filterMap fun r => if r.started then none else r.cut
  { l with preempts := l.preempts.map fun p => { p with late := true }, restores := back ++ l.restores,
           parts := l.parts.map fun x => { x with runs := x.runs.filter fun r => r.started } }

/-- The cut decision at the earliest deadline of several (R299 item 4): every point in flight whose crew has started is hard-cut. -/
def State.cutNow (s : State) (h : BitVec 16) : State :=
  match s.launch? h with
  | none => s
  | some l =>
    if s.ghostsFull h then s.preemptBusy l
    else
      (l.parts.foldl (fun s x => x.runs.foldl (fun s r => s.cutRun l x.die r) s) s).setLaunch l.afterCut

/-- PREEMPT_DEADLINE (R299 item 4). Nothing of the launch goes on before it. -/
def execPreemptDeadline (h : BitVec 16) (s : State) : Result :=
  if s.cutDue h then .next (s.cutNow h) else .refused (.notEnabled "PREEMPT_DEADLINE")

/-- PREEMPT (R299): every named die stops firing the launch, and the launch drains; a deadline that is past cuts at
once. One of a launch that drains already joins the drain. DESIGN CHOICE, notes/assumptions/70.md. -/
def execPreempt (q : Fin 16) (s : State) : Result :=
  match s.toBegin q 4 with
  | none => .refused (.notEnabled "PREEMPT")
  | some cmd =>
    let ctx := (s.queue q).ctx
    .next <| match s.launch? (cHandle cmd) with
      | some l =>
        if l.phase != .resident && l.phase != .draining then (s.saveStatus ctx (cAddr cmd) 3).completeFetched q cmd
        else if s.ghostsFull l.handle then (s.saveStatus ctx (cAddr cmd) 5).completeFetched q cmd
        else
          let p : PreemptRun := ⟨q, (s.queue q).index, cAddr cmd, cLen cmd, cValue cmd, l.cutting, s.time⟩
          let s := ((s.startRunning q cmd).setLaunch { l with phase := .draining, preempts := l.preempts ++ [p] }).refreshAll
          if s.cutDue l.handle then s.cutNow l.handle else s
      | none => (s.saveStatus ctx (cAddr cmd) 3).completeFetched q cmd

/-! ## The save area (R290, R298) -/

/-- Bytes of a context image. -/
def imageSize : Nat := 0x2BB000

/-- Zeros up to a multiple of n bytes. -/
def roundUp (n k : Nat) : Nat := (k + n - 1) / n * n

/-- An open-row entry. -/
def rowEntry (x : RowState) : List Byte :=
  if x.full then bytesOfNat 8 (2 ^ 20) ++ bytesOfNat 8 0 else bytesOfNat 8 (x.c % 2 ^ 20) ++ bytesOfNat 8 x.window.toNat

/-- A cut-point entry whose rank-0 image stands at an offset. -/
def cutEntry (shape : Nat) (c : CutPoint) (image : Nat) : List Byte :=
  bytesOfNat 8 c.serial ++ (c.coord.toList.flatMap fun w => bytesOfNat 4 w.toNat) ++ bytesOfNat 1 shape ++ [0] ++
  bytesOfNat 2 c.corner ++ bytesOfNat 8 image

/-- Bytes of a die's frontier record. -/
def recordLength (p : DieLaunch) (cuts : List CutPoint) : Nat := 64 + 16 * p.fr.rows.length + 32 * cuts.length

/-- A die's frontier record; `image` is the offset of its first cut point's image. -/
def frontierRecord (l : Launch) (p : DieLaunch) (cuts : List CutPoint) (image : Nat) : List Byte :=
  let n := cuts.length
  let (w, h) := shapeDims l.shape
  bytesOfNat 2 l.handle.toNat ++ [2] ++ bytesOfNat 1 p.die.val ++ bytesOfNat 2 (p.done.toNat + 2 * (decide (0 < n)).toNat) ++
  bytesOfNat 2 0 ++ bytesOfNat 8 p.fr.b ++ bytesOfNat 8 p.fr.t ++ bytesOfNat 4 p.fr.rows.length ++ bytesOfNat 4 n ++
  bytesOfNat 8 p.rowLo ++ bytesOfNat 8 p.rowHi ++ bytesOfNat 4 (recordLength p cuts) ++ List.replicate 12 0 ++
  p.fr.rows.flatMap rowEntry ++ cuts.zipIdx.flatMap fun c => cutEntry l.shape c.1 (image + c.2 * (w * h) * imageSize)

/-- The cut points of a die, in order. -/
def cutsOf (cuts : List CutPoint) (d : Fin 8) : List CutPoint := cuts.filter fun c => c.die == d

/-- The save area of a launch and its cut points. -/
def saveArea (l : Launch) (status time : Nat) (cuts : List CutPoint) : List Byte :=
  let lens := l.parts.map fun p => roundUp 64 (recordLength p (cutsOf cuts p.die))
  let recs := lens.foldl (· + ·) 0
  let base := roundUp 4096 (0x140 + recs)
  let ordered := l.parts.flatMap fun p => cutsOf cuts p.die
  let images := ordered.flatMap CutPoint.images
  let used := if images.isEmpty then 0x140 + recs else base + images.length * imageSize
  let before (p : DieLaunch) : Nat := ((ordered.filter fun c => decide (c.die.val < p.die.val)).flatMap CutPoint.images).length
  let body := l.parts.flatMap fun p =>
    let cs := cutsOf cuts p.die
    padTo (roundUp 64 (recordLength p cs)) (frontierRecord l p cs (base + before p * imageSize))
  let head := l.record.take 256 ++ bytesOfNat 1 status ++ bytesOfNat 1 l.parts.length ++ bytesOfNat 2 l.handle.toNat ++
    bytesOfNat 4 ordered.length ++ bytesOfNat 8 l.seqVal ++ bytesOfNat 8 time ++ bytesOfNat 8 used ++ List.replicate 32 0
  if images.isEmpty then head ++ body else padTo base (head ++ body) ++ images.flatMap id

/-- The launch leaves its dies after a save; its frontier stays as a ghost if resident launches chain to it (R299 item 6). -/
def State.leaveSaved (s : State) (l : Launch) : State :=
  let g : Ghost := ⟨l.handle, l.record, l.seqVal, l.ctx, l.queue, l.parts⟩
  let s := if (s.dependants l.handle).isEmpty then s else { s with ghosts := s.ghosts ++ [g] }
  ((s.leaveDies l.handle).dropLaunch l.handle).refreshAll

/-- A PREEMPT's save area written; data past LEN are cut, and STATUS is NOSPACE (R299 item 5). -/
def State.writeSave (s : State) (area : List Byte) (p : PreemptRun) : State :=
  let ctx := (s.queue p.queue).ctx
  if p.len < area.length then ((s.feWrite ctx p.save (area.take p.len)).1).saveStatus ctx p.save 2
  else (s.feWrite ctx p.save area).1

/-- The save areas written and the PREEMPTs completed, a release at PKG (R273); a launch one of whose areas was too short is killed
(R299). -/
def State.finishPreempts (s : State) (l : Launch) (status : Nat) (cuts : List CutPoint) : State :=
  let area := saveArea l status s.time cuts
  let s := s.raiseCovered l.handle 3
  let s := l.preempts.foldl (fun s p => s.writeSave area p) s
  let s := if l.preempts.any fun p => decide (p.len < area.length) then s.killResident { l with preempts := [] } else s.leaveSaved l
  l.preempts.foldl (fun s p => s.completeRunning p.queue p.index) s

/-- A draining launch. -/
def State.draining (s : State) (h : BitVec 16) : Option Launch :=
  match s.launch? h with
  | some l => if l.phase = .draining ∧ !s.regs.viral then some l else none
  | none => none

/-- PREEMPT_DRAIN_END (R299): no point is left in flight before any deadline. A launch all of whose points are complete completes
instead. -/
def execPreemptDrainEnd (h : BitVec 16) (s : State) : Result :=
  match s.draining h with
  | none => .refused (.notEnabled "PREEMPT_DRAIN_END")
  | some l =>
    let idle := l.parts.all fun x => x.runs.isEmpty
    let all := l.restores.isEmpty && l.parts.all DieLaunch.done
    if idle && !l.cutting && !all then
      .next (if s.ghostsFull h then s.preemptBusy l else s.finishPreempts l 0 l.restores)
    else .refused (.notEnabled "PREEMPT_DRAIN_END")

/-! ## The hard cut (R299 item 4, R300) -/

/-- A tile that stops for the cut before a word, at a slot of its bundle. -/
def Tile.cutAt (t : Tile) (pc : BitVec 16) (slot : Nat) : Tile :=
  { t with act := .cut, pc := pc, resume := slot, sameNo := t.inflight.isSome || t.sameNo, inflight := none, cutHere := false }

/-- HARD_CUT_STOP (R300 items 1 to 4). -/
def execHardCutStop (t : TileId) (s : State) : Result :=
  let x := s.tile t
  if x.act != .point || x.cutReq.isNone then .refused (.notEnabled "HARD_CUT_STOP")
  else match x.inflight with
    | some b =>
      if b.hold.isSome && b.next == b.start && !x.asleep then .next (s.setTile t ((x.atStop t).cutAt b.first b.next))
      else .refused (.notEnabled "HARD_CUT_STOP")
    | none =>
      if x.cutStops || x.waitsAtD then .next (s.setTile t ((x.atStop t).cutAt x.pc x.resume)) else .refused (.notEnabled "HARD_CUT_STOP")

/-- CUT_CYCLE_LIMIT (R300 item 5): 16,384 core cycles after the decision the tile stops at a boundary. -/
def execCutCycleLimit (t : TileId) (s : State) : Result :=
  let x := s.tile t
  match x.cutReq with
  | some (_, c) =>
    if x.act == .point && x.inflight.isNone && decide (c + 16384 ≤ x.k.cycle.toNat) then .next (s.setTile t (x.cutAt x.pc x.resume))
    else .refused (.notEnabled "CUT_CYCLE_LIMIT")
  | none => .refused (.notEnabled "CUT_CYCLE_LIMIT")

/-- CUT_COPY_TIMEOUT (R300): a started copy of a cut tile that has not completed 10 us after the decision fails. -/
def execCutCopyTimeout (t : TileId) (id : Nat) (s : State) : Result :=
  let x := s.tile t
  match x.cutReq, x.copy? id with
  | some (n, _), some c =>
    let going := match c.stage with
      | .started | .waiting _ => true
      | _ => false
    if going && decide (n + 10000 ≤ s.time) then .next (s.copyFails t id .cut) else .refused (.notEnabled "CUT_COPY_TIMEOUT")
  | _, _ => .refused (.notEnabled "CUT_COPY_TIMEOUT")

/-! ## Context images (R303) -/

/-- A decoder slot's image with its full byte. -/
def tableBytes (d : Option DTable) : List Byte :=
  padTo 0x1000 <| match d with
    | none => []
    | some x =>
      let nsym := if x.code then x.lcnt.foldl (· + ·) 0 else 0
      bytesOfNat 2 nsym ++ bytesOfNat 1 x.maxlen ++ bytesOfNat 1 (x.code.toNat + 2 * x.book.toNat) ++ List.replicate 12 0 ++
      padTo 32 (x.lcnt.flatMap (bytesOfNat 2)) ++ padTo 1024 (x.syms.flatMap (bytesOfNat 2)) ++
      padTo 1024 (bytesOfWords x.entries) ++ [1]

/-- A saved copy's 64 bytes: a stream's macro and semaphore stand in bytes 2 and 3 (R300). -/
def savedBytes (c : CopyCmd) : List Byte :=
  match c.stream with
  | none => padTo 64 c.desc
  | some (m, e) => padTo 64 (c.desc.take 2 ++ bytesOfNat 1 (0x80 + m.toNat) ++ bytesOfNat 1 e.toNat ++ List.replicate 4 0 ++ c.desc.drop 8)

/-- A special register as it is saved: CYCLE's high half in k6. -/
def savedK (t : Tile) (i : TileId) (n : Nat) : Word :=
  if n = 6 then t.k.cycle.extractLsb' 32 32 else kRead t.kNow t.loops i (BitVec.ofNat 6 n)

/-- The control block, with a CRC. -/
def controlBlock (t : Tile) (i : TileId) (crc : Nat) : List Byte :=
  let a := bytesOfNat 4 t.pc.toNat ++ bytesOfNat 4 0 ++ bytesOfNat 4 (decide (t.act = .pended)).toNat ++
    bytesOfNat 4 t.loops.length ++ loopBytes t.loops
  let b := padTo 0x100 a ++ bytesOfWords t.scal.toList ++ ((List.finRange 8).flatMap fun m => bytesOfNat 32 (t.mask (BitVec.ofFin m)).toNat) ++
    ((List.range 64).flatMap fun n => bytesOfNat 4 (savedK t i n).toNat) ++ bytesOfWords t.sems.toList ++
    (t.lays.toList.flatMap layoutBytes) ++ bytesOfNat 4 t.copyq.length
  let c := padTo 0x600 b ++ bytesOfNat 2 t.pt.handle.toNat ++ List.replicate 6 0 ++ bytesOfNat 8 t.pt.serial ++
    bytesOfNat 1 t.pt.rank ++ bytesOfNat 1 t.pt.shape
  padTo 0xFFC c ++ bytesOfNat 4 crc

/-- The sections after the control block. -/
def imageTail (t : Tile) : List Byte :=
  bytesOfWords (Cells.dense 0 0 4096 t.plane) ++ bytesOfWords (Cells.dense 0 0 1024 t.leaves) ++
  (t.shapes.toList.flatMap fun h => bytesOfNat 32 h.toNat) ++ padTo 0x800 (t.copyq.flatMap savedBytes) ++
  (t.dts.toList.flatMap tableBytes) ++ bytesOfWords (Cells.dense 0 0 32768 t.acc) ++
  (t.macros.toList.flatMap fun m => bytesOfWords (Cells.dense 0 0 16384 m.cells)) ++
  (t.macros.toList.flatMap fun m => Cells.dense 0 0 512 m.scales) ++
  padTo 0x1000 (t.macros.toList.flatMap fun m => bytesOfNat 1 (codeOfTag m.tag) ++ List.replicate 3 0 ++ bytesOfNat 4 m.tscale.toNat) ++
  savedSection t ++ Cells.dense 0 0 spadSize t.spad

/-- The CRC-32C of an image with the word at 0xFFC taken as 0. -/
def imageCrc (im : List Byte) : Nat := crcFeed 0 (im.take 0xFFC ++ List.replicate 4 0 ++ im.drop 0x1000)

/-- The context image of a cut tile. DESIGN CHOICE, notes/assumptions/46.md. -/
def contextImage (t : Tile) (i : TileId) : List Byte :=
  let rest := imageTail t
  controlBlock t i (crcFeed 0 (controlBlock t i 0 ++ rest)) ++ rest

/-- The images of a crew in rank order. -/
def State.crewImages (s : State) (crew : List TileId) : List (List Byte) := crew.map fun i => contextImage (s.tile i) i

/-- The cut point of a point in flight on a die. -/
def State.cutPoint (s : State) (l : Launch) (d : Fin 8) (r : PointRun) : CutPoint :=
  let crew := rectTiles d l.shape r.corner
  let coord := match crew.head? with
    | some i => (s.tile i).pt.coord
    | none => Vector.replicate 3 0
  ⟨d, r.serial, coord, r.corner, s.crewImages crew⟩

/-- The cut points of all dies of a launch. -/
def State.cutPoints (s : State) (l : Launch) : List CutPoint := l.parts.flatMap fun p => p.runs.map (s.cutPoint l p.die)

/-- The members of the points in flight of a launch. -/
def Launch.members (l : Launch) : List TileId := l.parts.flatMap fun p => p.runs.flatMap fun r => rectTiles p.die l.shape r.corner

/-- What a save's parity check finds first in a tile: a cause and its detail (R303). -/
def Tile.badParity (t : Tile) : Option (Nat × Nat) :=
  match t.planeBad.head?, t.leafBad.head?, t.accBad.head? with
  | some c, _, _ => some (0x0F, c / 64 + 256 * (c % 64))
  | none, some n, _ => some (0x10, n)
  | none, none, some a => some (0x11, a / 2048 + 16 * (a / 128 % 16))
  | none, none, none => none

/-- Whether a launch's hard cut is ready to be saved: every tile of it has stopped or committed its PEND, holds only copies that
never started, no post or crew-space access of it is on its way (R300, R301), and no point of it is complete but for its completion's
being told (R267). -/
def State.cutSettled (s : State) (l : Launch) : Bool :=
  (allTiles.all fun i =>
    let t := s.tile i
    !t.runs l.handle || t.ended || ((t.act == .cut || t.act == .pended) && t.copyq.all fun c => c.stage == .queued)) &&
  !(s.posts.any fun p => p.handle == l.handle) && !(s.crew.any fun a => a.handle == l.handle) &&
  !(l.parts.any fun x => x.runs.any (s.runEnds l x.die))

/-- CONTEXT_SAVE (R300, R301, R303): the images and records are written with STATUS LATE, and the tiles are free. -/
def execContextSave (h : BitVec 16) (s : State) : Result :=
  match s.draining h with
  | none => .refused (.notEnabled "CONTEXT_SAVE")
  | some l =>
    if l.cutting && s.cutSettled l && !s.ghostsFull h then
      match l.members.findSome? fun i => (s.tile i).badParity.map fun c => (i, c) with
      | some (i, cause, detail) => .next (s.takeTrap i cause detail 0 (s.tile i).pc (s.tile i).resume)
      | none =>
        let cuts := s.cutPoints l
        let s := l.members.foldl (fun s i => s.setTile i (s.tile i).freed) s
        .next (s.finishPreempts { l with parts := l.parts.map fun x => { x with runs := [] } } 1 (cuts ++ l.restores))
    else .refused (.notEnabled "CONTEXT_SAVE")

/-! ## RESUME (R304, R305) -/

/-- A frontier record that starts a list matches a die's block and breaks no rule of detail 0x21. -/
def frontierOk (r : List Byte) (d : Fin 8) (b : List Byte) : Bool :=
  let (lo, hi) := blockOf r d
  let bot := field b 8 8
  let top := field b 0x10 8
  let n := field b 0x18 4
  let k := field b 0x1C 4
  let e := innerExt r
  field b 2 1 == 2 && field b 3 1 == d.val && decide (64 + 16 * n + 32 * k ≤ b.length) &&
  field b 0x20 8 == lo && field b 0x28 8 == hi && decide (lo ≤ bot) && decide (bot ≤ top) && decide (top ≤ hi) &&
  n == top - bot && decide (n ≤ 1024) && field b 0x30 4 == 64 + 16 * n + 32 * k &&
  bits (field b 4 2) 2 14 == 0 && bit (field b 4 2) 1 == decide (0 < k) && field b 6 2 == 0 && field b 0x34 12 == 0 &&
  ((List.range n).all fun j =>
    let p := field b (64 + 16 * j) 8
    let w := field b (72 + 16 * j) 8
    bits p 21 43 == 0 &&
    (if bit p 20 then p == 2 ^ 20 && w == 0
     else decide (p < e) && ((List.range 64).all fun x => !bit w x || decide (p + 1 + x < e)))) &&
  ((List.range k).all fun j =>
    let o := 64 + 16 * n + 32 * j
    let row := field b o 8 / e
    field b (o + 0x15) 1 == 0 && field b (o + 0x14) 1 == field r 5 1 && decide (bot ≤ row) && decide (row < top) &&
    (legalCorners (field r 5 1)).contains (field b (o + 0x16) 2))

/-- The frontier of a record. -/
def frontierOf (b : List Byte) : Frontier :=
  ⟨field b 8 8, field b 0x10 8, (List.range (field b 0x18 4)).map fun j =>
    let p := field b (64 + 16 * j) 8
    ⟨p % 2 ^ 20, bit p 20, BitVec.ofNat 64 (field b (72 + 16 * j) 8)⟩⟩

/-- The cut points of a record, their images taken from the save area. -/
def cutsIn (area : List Byte) (shape : Nat) (d : Fin 8) (b : List Byte) : List CutPoint :=
  let (w, h) := shapeDims shape
  (List.range (field b 0x1C 4)).map fun j =>
    let e := (b.drop (64 + 16 * field b 0x18 4 + 32 * j)).take 32
    ⟨d, field e 0 8, Vector.ofFn fun i : Fin 3 => BitVec.ofNat 32 (field e (8 + 4 * i.val) 4), field e 0x16 2,
     chunks imageSize (w * h) (area.drop (field e 0x18 8))⟩

/-- Bytes that a record takes in the save area. -/
def recordSpan (b : List Byte) : Nat := roundUp 64 (64 + 16 * field b 0x18 4 + 32 * field b 0x1C 4)

/-- The records of the named dies from an offset on: parts and cut points, or none where a record breaks detail 0x21. -/
def savedParts (area r : List Byte) : List (Fin 8) → Nat → Option (List DieLaunch × List CutPoint)
  | [], _ => some ([], [])
  | d :: ds, o =>
    let b := area.drop o
    if frontierOk r d b then
      match savedParts area r ds (o + recordSpan b) with
      | some (ps, cs) =>
        let (lo, hi) := blockOf r d
        some (newPart d (frontierOf b) lo hi :: ps, cutsIn area (field r 5 1) d b ++ cs)
      | none => none
    else none

/-- Every image of a cut point is whole and has its CRC (R304). -/
def imagesOk (c : CutPoint) : Bool := c.images.all fun im => im.length == imageSize && field im 0xFFC 4 == imageCrc im

/-- The sites of a cut crew are all enabled. -/
def State.sitesEnabled (s : State) (shape : Nat) (c : CutPoint) : Bool :=
  (rectTiles c.die shape c.corner).all fun i => (s.site i).live.state == .enabled

/-- What a save area holds for a launch, or the detail of its first failure from 0x20 on; `hdr` is its first 0x140 bytes. Reserved bytes of
the header that are not 0 make it invalid (R8 item 3), with detail 0x21: no detail is named for them. DEDUCED,
notes/assumptions/43.md. -/
def State.savedLaunch (s : State) (ctx : BitVec 16) (cmd hdr : List Byte) : State × Except Nat (List DieLaunch × List CutPoint) :=
  let r := hdr.take 256
  let used := field hdr 0x118 8
  if 1 < field hdr 0x100 1 ∨ cLen cmd < used then (s, .error 0x20)
  else
    let (s, area) := s.feRead ctx (cAddr cmd) (Nat.max used 0x140)
    match area with
    | none => (s, .error 0x01)
    | some area =>
      if field hdr 0x101 1 ≠ (namedDies r).length ∨ field hdr 0x120 32 ≠ 0 then (s, .error 0x21)
      else match savedParts area r (namedDies r) 0x140 with
        | none => (s, .error 0x21)
        | some (ps, cs) =>
          if !(cs.all imagesOk) then (s, .error 0x22)
          else if bit (field r 2 1) 2 && !(cs.all (s.sitesEnabled (field r 5 1))) then (s, .error 0x23)
          else (s, .ok (ps, cs))

/-- The copies that cut points made before their save belong to the launch that resumes them: their points' completions cover them
(R267). -/
def State.adopt (s : State) (old h : BitVec 16) (cuts : List CutPoint) : State :=
  { s with narrow := s.narrow.map fun e =>
      if e.by'.tile.isSome && e.by'.handle == old && !e.covered && cuts.any fun c => c.serial == e.by'.serial then
        { e with by' := { e.by' with handle := h } }
      else e }

/-- RESUME (R304, R305). -/
def execResume (q : Fin 16) (s : State) : Result :=
  match s.toBegin q 5 with
  | none => .refused (.notEnabled "RESUME")
  | some cmd =>
    let h := cHandle cmd
    if s.unreaped h then .refused (.notEnabled "RESUME")
    else
      let ctx := (s.queue q).ctx
      let (s, hdr) := s.feRead ctx (cAddr cmd) 0x140
      .next <| match hdr with
        | none => s.failAdmission q cmd 0x01 0 none
        | some hdr =>
          let r := hdr.take 256
          let seqVal := field hdr 0x108 8 % 2 ^ 62
          let (s, ps) := s.readParts ctx r
          match ps with
          | none => s.failAdmission q cmd 0x01 seqVal (some r)
          | some (code, arg) =>
            match recordDetail s q h true r with
            | some e => s.failAdmission q cmd e seqVal (some r)
            | none =>
              let (s, sv) := s.savedLaunch ctx cmd hdr
              match sv with
              | .error e => s.failAdmission q cmd e seqVal (some r)
              | .ok (parts, cuts) =>
                (s.adopt (BitVec.ofNat 16 (field hdr 0x102 2)) h cuts).takeLaunch q cmd (newLaunch q ctx h seqVal r code arg parts cuts)

end Sys2Proof.Machine
end

