-- ==== Sys2Proof/Machine/Power.lean ====
section
/-! DEFINITION. Power, sprint, over-current and heat (spec/15_power_and_thermal.md R407-R420). -/

namespace Sys2Proof.Machine

/-! ## The V/F sequencer (R408, R409) -/

/-- The bin whose frequency a tile is to have: the requested one, capped by its present voltage and by the one that it goes to, so that the
frequency falls before the voltage (R408, R409). -/
def State.goalBin (s : State) (i : TileId) : Fin 8 :=
  let b := s.requestedBin i
  let m := s.allowedBin i (min (s.tile i).vf.mv (s.targetMv i))
  if b.val ≤ m then b else dieOf m

/-- One 5 mV step towards a target. -/
def stepMv (v goal : Int) : Int := if v + 5 ≤ goal then v + 5 else if goal + 5 ≤ v then v - 5 else goal

/-- VOLTAGE_STEP (R409): up before the frequency, down after it; the frequency never exceeds what the voltage allows (R408). -/
def execVoltageStep (t : TileId) (s : State) : Result :=
  let x := s.tile t
  let goal := s.targetMv t
  if x.sweep.isSome || x.cox.over then .refused (.notEnabled "VOLTAGE_STEP")
  else if x.vf.mv < goal ∨ (goal < x.vf.mv ∧ x.vf.bin = s.goalBin t) then
    .next ((s.setTile t { x with vf := { x.vf with mv := stepMv x.vf.mv goal } }).capBin t)
  else .refused (.notEnabled "VOLTAGE_STEP")

/-- FREQUENCY_CHANGE (R409, R412, R414): the clock takes the goal's bin at a cycle boundary; the tile's Cox window starts afresh, and
the zone gives back its slot when the last tile is at nominal. -/
def execFrequencyChange (t : TileId) (s : State) : Result :=
  let x := s.tile t
  let b := s.goalBin t
  if x.sweep = none ∧ x.cox.over = false ∧ x.vf.bin ≠ b ∧ s.targetMv t ≤ x.vf.mv then
    let z := zoneOf t.site.val
    let s := s.noteAbove t
    let s := s.setBin t b
    .next ((s.noteAbove t).settleZone t.die z)
  else .refused (.notEnabled "FREQUENCY_CHANGE")

/-! ## Sprint (R412-R415) -/

/-- The interval length in ns. -/
def PkgRegs.interval (r : PkgRegs) : Nat := r.ivl * 1000

/-- A sprinting zone begins its two-step fall. -/
def State.startFall (s : State) (d : Fin 8) (z : Fin 4) : State :=
  if (s.zone d z).sprinting && (s.zone d z).fall == .none then
    (s.mapZone d z fun x => { x with fall := .midpoint none }).settleZone d z
  else s

/-- A sprinting zone goes to bin 1 with no midpoint step. -/
def State.fallNow (s : State) (d : Fin 8) (z : Fin 4) : State :=
  if (s.zone d z).sprinting then (s.mapZone d z fun x => { x with fall := .toNominal }).settleZone d z else s

/-- SPRINT_INTERVAL_END (R412, R414): an interval in which the zone ran above nominal costs a permit; the last one starts the fall. -/
def execSprintIntervalEnd (d : Fin 8) (z : Fin 4) (s : State) : Result :=
  let x := s.zone d z
  let l := s.regs.interval
  let stop := (x.ivlEnd / l + 1) * l
  if l ≠ 0 ∧ stop ≤ s.time then
    let ran := x.ranAbove || s.zoneAbove d z
    let left := if ran then x.permits - 1 else x.permits
    let s := s.mapZone d z fun y => { y with permits := left, ranAbove := s.zoneAbove d z, ivlEnd := stop }
    .next (if left = 0 then s.startFall d z else s)
  else .refused (.notEnabled "SPRINT_INTERVAL_END")

/-- PERMIT_REFILL (R412): 20 us with no tile above nominal. -/
def execPermitRefill (d : Fin 8) (z : Fin 4) (s : State) : Result :=
  let x := s.zone d z
  if !s.zoneAbove d z && decide (x.lastAbove + 20000 ≤ s.time) then
    .next (s.mapZone d z fun y => { y with permits := Nat.min 64 (y.permits + 1), lastAbove := y.lastAbove + 20000 })
  else .refused (.notEnabled "PERMIT_REFILL")

/-- Whether a zone claims a slot (R413, R415). -/
def State.zoneClaims (s : State) (d : Fin 8) (z : Fin 4) : Bool :=
  let x := s.zone d z
  !x.sprinting && (zoneTiles d z).any s.claims && decide (s.regs.rearm ≤ x.permits) && s.regs.ocSticky == 0 && !x.sprT &&
  decide (s.regs.refuseTil ≤ s.time)

/-- SPRINT_SLOT_GRANT (R413): a claim is granted while a slot is free; a tie goes by RR, which flips. DEDUCED, notes/assumptions/48.md. -/
def execSprintSlotGrant (d : Fin 8) (z : Fin 4) (s : State) : Result :=
  let s := s.settleDie d
  let all := List.finRange 4
  let free := s.regs.spz - (all.filter fun y => (s.zone d y).sprinting).length
  let asking := all.filter fun y => s.zoneClaims d y
  let tie := decide (free < asking.length)
  let order := if (s.die d).rr then asking.reverse else asking
  let winners := if tie then order.take free else [z]
  if asking.contains z && decide (0 < free) && winners.contains z then
    let s := winners.foldl (fun s y => s.mapZone d y fun x => { x with sprinting := true, fall := .none }) s
    .next (if tie then s.setDie d { s.die d with rr := !(s.die d).rr } else s)
  else .refused (.notEnabled "SPRINT_SLOT_GRANT")

/-- MIDPOINT_HOLD_END (R414): 10 us at the midpoint bin, then bin 1. -/
def execMidpointHoldEnd (d : Fin 8) (z : Fin 4) (s : State) : Result :=
  match (s.zone d z).fall with
  | .midpoint (some t) =>
    if t + 10000 ≤ s.time then .next ((s.mapZone d z fun x => { x with fall := .toNominal }).settleZone d z)
    else .refused (.notEnabled "MIDPOINT_HOLD_END")
  | _ => .refused (.notEnabled "MIDPOINT_HOLD_END")

/-- Every zone of the package, by die and then by number. -/
def allZones : List (Fin 8 × Fin 4) := (List.finRange 8).flatMap fun d => (List.finRange 4).map fun z => (d, z)

/-- The sprinting zone with the fewest permits, the first among equals. -/
def State.poorestSprint (s : State) : Option (Fin 8 × Fin 4) :=
  (allZones.filter fun p => (s.zone p.1 p.2).sprinting).foldl (fun (b : Option (Fin 8 × Fin 4)) p =>
    match b with
    | none => some p
    | some q => if (s.zone p.1 p.2).permits < (s.zone q.1 q.2).permits then some p else some q) none

/-- POWER_MEASURE (R415): power over the limit in force ends a sprint and refuses new claims for 1 ms. -/
def execPowerMeasure (watts : Nat) (s : State) : Result :=
  let s := s.settleAll
  let s := s.setRegs { s.regs with watts := watts }
  let limit := if (s.poorestSprint).isSome then s.regs.spl else s.regs.noml
  if limit < watts then
    let s := s.setRegs { s.regs with refuseTil := s.time + 1000000 }
    .next (match s.poorestSprint with
      | some (d, z) => s.startFall d z
      | none => s)
  else .next s

/-! ## Over-current (R417) -/

/-- OVERCURRENT_ALARM: the sticky bit; where it was 0 every sprinting zone drops to bin 1. -/
def execOvercurrentAlarm (bit : Fin 19) (s : State) : Result :=
  let r := s.regs
  let m := BitVec.twoPow 19 bit.val
  let rose := !r.ocSticky.getLsbD bit.val
  let s := s.setRegs { r with ocSticky := r.ocSticky ||| m, ocAlarm := r.ocAlarm ||| m,
                              ocSince := if r.ocAlarm.getLsbD bit.val then r.ocSince else r.ocSince.set bit.val s.time bit.isLt }
  .next (if rose then allZones.foldl (fun s p => s.fallNow p.1 p.2) s else s)

/-- OVERCURRENT_PERSIST: an alarm that has held for 10 us puts the tiles it affects in bin 0. -/
def execOvercurrentPersist (bit : Fin 19) (s : State) : Result :=
  let r := s.regs
  if r.ocAlarm.getLsbD bit.val && !r.ocPersist.getLsbD bit.val && decide (r.ocSince[bit] + 10000 ≤ s.time) then
    .next (s.setRegs { r with ocPersist := r.ocPersist ||| BitVec.twoPow 19 bit.val })
  else .refused (.notEnabled "OVERCURRENT_PERSIST")

/-- OVERCURRENT_ALARM_END: the alarm is over, and so is its hold. -/
def execOvercurrentAlarmEnd (bit : Fin 19) (s : State) : Result :=
  let r := s.regs
  let m := ~~~(BitVec.twoPow 19 bit.val)
  if r.ocAlarm.getLsbD bit.val then .next (s.setRegs { r with ocAlarm := r.ocAlarm &&& m, ocPersist := r.ocPersist &&& m })
  else .refused (.notEnabled "OVERCURRENT_ALARM_END")

/-- A write of 1s to OCSTICKY. -/
def State.clearSticky (s : State) (v : BitVec 19) : State := s.setRegs { s.regs with ocSticky := s.regs.ocSticky &&& ~~~v }

/-- OCSTICKY_CLEAR. -/
def execOcstickyClear (v : Word) (s : State) : Result := .next (if !s.frontOpen then s else s.clearSticky (v.setWidth 19))

/-! ## Temperature (R418, R419) -/

/-- An error-log entry whose detail the spec does not give. DESIGN CHOICE, notes/assumptions/13.md. -/
def State.logPlain (s : State) (cls src unit : Nat) : State :=
  { s with draws := s.draws + 1 }.logError cls src unit (bytesOfNat 52 (Config.logDetail s.draws).toNat)

/-- The highest of some temperatures. -/
def highest : List Int → Int
  | [] => 0
  | [x] => x
  | x :: xs => max x (highest xs)

/-- A zone's temperature: the highest of its tiles, whatever the states of their sites (R411, R418). -/
def State.zoneTemp (s : State) (d : Fin 8) (z : Fin 4) : Int := highest ((zoneTiles d z).map fun i => (s.tile i).temp)

/-- A die's temperature: the highest of its zones. -/
def State.dieTemp (s : State) (d : Fin 8) : Int := highest ((List.finRange 4).map (s.zoneTemp d))

/-- The thresholds of THRESH in degrees Celsius (R421): sprint, throttle, critical. -/
def PkgRegs.threshold (r : PkgRegs) (n : Nat) : Int := (bits r.thresh.toNat (8 * n) 8 : Nat)

/-- Whether 4 ms have passed since a thermal state last changed. -/
def heldLong (time : Nat) : Option Nat → Bool
  | none => true
  | some t => decide (t + 4000000 ≤ time)

/-- Since when a temperature has stayed at or below its threshold less 3 degrees. -/
def coolSince (time : Nat) (old : Option Nat) (temp thr : Int) : Option Nat := if temp ≤ thr - 3 then some (old.getD time) else none

/-- Whether the dwell of 2 ms is over. -/
def dwelt (time : Nat) : Option Nat → Bool
  | none => false
  | some t => decide (t + 2000000 ≤ time)

/-- A thermal state after a reading: set at its threshold, released when the dwell is over. -/
def thermalNext (on : Bool) (time : Nat) (cool : Option Nat) (temp thr : Int) : Bool :=
  if on then !dwelt time cool else decide (thr ≤ temp)

/-- A zone after a reading (R418): each state changes no sooner than 4 ms after its last change. -/
def Zone.heat (z : Zone) (time : Nat) (temp spr thr : Int) : Zone :=
  let sc := coolSince time z.sprCool temp spr
  let tc := coolSince time z.thrCool temp thr
  let sp := if heldLong time z.sprChange then thermalNext z.sprT time sc temp spr else z.sprT
  let th := if heldLong time z.thrChange then thermalNext z.thrT time tc temp thr else z.thrT
  { z with sprT := sp, thrT := th, sprCool := sc, thrCool := tc, sprChange := if sp = z.sprT then z.sprChange else some time,
           thrChange := if th = z.thrT then z.thrChange else some time }

/-- The clocks of a die's tiles stop or run again at the critical threshold: what waited was held by that rule (R319, R419). -/
def State.clocksTurn (s : State) (d : Fin 8) : State :=
  s.mapTiles (fun x => { x with movedAt := s.time, pipe := { x.pipe with loose := true } }) (tilesOf d)

/-- A tile's sensor reads a temperature: the states of its zone and its die follow (R418), a sprint ends past the sprint threshold (R414),
and a crossing of the critical threshold is logged (R419). -/
def State.readSensor (s : State) (i : TileId) (temp : Int) : State :=
  let z := zoneOf i.site.val
  let s := s.setTile i { s.tile i with temp := temp }
  let old := s.zone i.die z
  let s := s.mapZone i.die z fun x => x.heat s.time (s.zoneTemp i.die z) (s.regs.threshold 0) (s.regs.threshold 1)
  let s := if (s.zone i.die z).sprT && !old.sprT then s.fallNow i.die z else s
  let x := s.die i.die
  let cool := coolSince s.time x.critCool (s.dieTemp i.die) (s.regs.threshold 2)
  let crit := thermalNext x.crit s.time cool (s.dieTemp i.die) (s.regs.threshold 2)
  let s := s.setDie i.die { x with crit := crit, critCool := cool }
  let s := if crit = x.crit then s else s.clocksTurn i.die
  if crit && !x.crit then s.logPlain 0 4 i.die.val else s

/-- THERMAL_CROSSING (R418, R419): a sensor reads no less than before. DESIGN CHOICE, notes/assumptions/72.md. -/
def execThermalCrossing (t : TileId) (temp : Int) (s : State) : Result :=
  if (s.tile t).temp ≤ temp then .next (s.readSensor t temp) else .refused (.notEnabled "THERMAL_CROSSING")

/-- THERMAL_RELEASE (R418): a sensor reads no more than before. DESIGN CHOICE, notes/assumptions/72.md. -/
def execThermalRelease (t : TileId) (temp : Int) (s : State) : Result :=
  if temp ≤ (s.tile t).temp then .next (s.readSensor t temp) else .refused (.notEnabled "THERMAL_RELEASE")

/-! ## Energy (R420) -/

/-- A read of ENLO_i: the accumulator as it stands by then, its high half kept for the reader. DESIGN CHOICE, notes/assumptions/14.md. -/
def State.energyLow (s : State) (port : EnergyPort) (i : Fin 19) : State × Word :=
  let e := s.energy[i] + BitVec.ofNat 64 (Config.energyUsed s.draws i.val)
  let hi := some (e.extractLsb' 32 32)
  let s := { s with energy := s.energy.set i.val e i.isLt, draws := s.draws + 1 }
  let r := match port with
    | .host => { s.regs with snapHost := s.regs.snapHost.set i.val hi i.isLt }
    | .sideband => { s.regs with snapSide := s.regs.snapSide.set i.val hi i.isLt }
  (s.setRegs r, e.setWidth 32)

/-- A read of ENHI_i. -/
def State.energyHigh (s : State) (port : EnergyPort) (i : Fin 19) : Word :=
  match port with
  | .host => (s.regs.snapHost[i]).getD 0
  | .sideband => (s.regs.snapSide[i]).getD 0

/-- The bits of a list, bit 0 first. -/
def packBits (bs : List Bool) : Nat := bs.foldr (fun b n => b.toNat + 2 * n) 0

/-- FSTAT: DFENCED follows the dies whose fence has been told, and VIRAL the package (R321, R323). -/
def State.fstat (s : State) : Nat :=
  let r := s.regs
  packBits [r.corr, r.dfence, r.pfault, r.tfence] + 2 ^ 16 * packBits (s.dies.toList.map fun x => x.fenced && !x.fencing) +
    (if r.viral then 2 ^ 31 else 0)

/-- What a PLDM sensor reads (R403). -/
def State.sensor (s : State) : PldmSensor → Int
  | .dieTemp d => s.dieTemp d
  | .power => (s.regs.watts : Int)
  | .rail d high => if high then s.railHi d else s.railLo d
  | .fstat => (s.fstat : Int)
  | .viral => if s.regs.viral then 1 else 0

/-- ENERGY_READ (R403, R420): a half of an energy counter, or over the sideband port another PLDM sensor, in four bytes. DESIGN
CHOICE, notes/assumptions/72.md. -/
def execEnergyRead (port : EnergyPort) (what : EnergySource) (high : Bool) (s : State) : Result :=
  match what with
  | .sensor x =>
    if port = .host ∨ high = true then .refused (.notEnabled "ENERGY_READ")
    else .next { s with reply := some ⟨0, bytesOfNat 4 (wrap (s.sensor x) 32)⟩ }
  | .counter i =>
    if high then .next { s with reply := some ⟨0, bytesOfNat 4 (s.energyHigh port i).toNat⟩ }
    else
      let (s, w) := s.energyLow port i
      .next { s with reply := some ⟨0, bytesOfNat 4 w.toNat⟩ }

end Sys2Proof.Machine
end

