-- ==== Sys2Proof/Machine/Margin.lean ====
section
/-! DEFINITION. The Cox, characterisation, verification and the writes of the Margin Record Store
(spec/12_elastic_timing_and_margin.md R338-R352). -/

namespace Sys2Proof.Machine

/-! ## Window ends (R339, R340) -/

/-- The floor of a bin (R340). -/
def BinRec.floor (b : BinRec) : Int := b.ffv + 2 + b.age

/-- RATE after a window with r replays (R350). -/
def BinRec.withRate (b : BinRec) (r wn : Nat) : BinRec := { b with rate := Nat.min 0xFFFF ((7 * b.rate + r * 2 ^ (24 - wn)) / 8) }

/-- HOLDFAIL counts a window that the ceiling could not help; the fourth retires the tile (R340), and it counts no further (R349). -/
def State.holdFail (s : State) (i : TileId) : State :=
  let n := Nat.min 4 ((s.site i).live.holdfail + 1)
  let s := s.mapSite i fun r => { r with holdfail := n }
  if n = 4 then s.retireSite i else s

/-- BAR set for a bin and every higher one: a write is due at once, and the tile leaves the barred bin (R340, R351, R408). -/
def State.barFrom (s : State) (i : TileId) (b : Fin 8) : State :=
  ((s.mapSite i fun r => { r with bins := Vector.ofFn fun j : Fin 8 =>
    if b.val ≤ j.val then { r.bins[j] with bar := true } else r.bins[j] }).writeSiteDue i).capBin i

/-- A tile's next window, which keeps a quiet run that goes on. -/
def State.nextWindow (s : State) (i : TileId) (quiet : Option Nat) : State :=
  let s := s.newWindow i
  let t := s.tile i
  s.setTile i { t with cox := { t.cox with quietAt := quiet } }

/-- A fall by one step: the write is due when the offset has held for 10 ms (R340, R351). -/
def State.fallOne (s : State) (i : TileId) (b : Fin 8) : State :=
  let s := s.mapSite i fun r => r.mapBin b fun x => { x with offset := x.offset - 1 }
  s.setSite i { s.site i with fallAt := some s.time }

/-- A window that ended with a rise of one step. -/
def State.roseNow (s : State) (i : TileId) : State :=
  s.setTile i { s.tile i with cox := { (s.tile i).cox with roseAt := some (s.tile i).k.cycle.toNat } }

/-- COX_WINDOW_END (R340, R350): the first row of the table that applies. -/
def execCoxWindowEnd (t : TileId) (canaries : Nat) (s : State) : Result :=
  let x := s.tile t
  let c := x.cox
  let p := c.pol
  let b := x.vf.bin
  if !c.over then .refused (.notEnabled "COX_WINDOW_END")
  else
    let r := c.replays
    let s : State := { s with draws := s.draws + 1 }
    let s := s.mapSite t fun q => q.mapBin b fun y => y.withRate r p.wn
    let e := (s.site t).live.bins[b]
    let start := c.quietAt.getD c.begun
    let quiet := decide (r < p.floor) && decide (canaries ≤ p.canlim)
    .next <|
      if p.limit < r ∧ e.offset < p.ceil then
        (((s.mapSite t fun q => { q with holdfail := 0 }).riseTo t b (e.offset + 1)).newWindow t).roseNow t
      else if p.limit < r ∧ e.offset = p.ceil ∧ 2 ≤ b.val then (s.barFrom t b).newWindow t
      else if p.limit < r ∧ e.offset = p.ceil then (s.holdFail t).newWindow t
      else if quiet && decide (start + p.quiet * 1000000 ≤ s.time) && decide (e.floor ≤ e.offset - 1) then
        (s.fallOne t b).nextWindow t (some s.time)
      else if quiet then s.nextWindow t (some start)
      else s.newWindow t

/-! ## Ageing (R341) -/

/-- An hour in ns. -/
def oneHour : Nat := 3600000000000

/-- The effect of a reading on one bin: AGE never falls, and only a new AGE acts on the offset. DEDUCED, notes/assumptions/50.md. -/
def State.ageBin (s : State) (i : TileId) (age : Nat) (b : Fin 8) : State :=
  if age ≤ ((s.site i).live.bins[b]).age then s
  else
    let s := s.mapSite i fun r => r.mapBin b fun x => { x with age := age }
    let e := (s.site i).live.bins[b]
    if e.offset < e.floor then
      (if e.floor ≤ (s.tile i).cox.pol.ceil then s.riseTo i b e.floor else s.holdFail i)
    else s

/-- AGEING_READ (R341): the slowdown in parts per thousand, read once for each hour of TIME. -/
def execAgeingRead (t : TileId) (slowdown : Nat) (s : State) : Result :=
  let x := s.tile t
  if x.aged < s.time / oneHour ∧ x.cox.over = false then
    .next ((List.finRange 8).foldl (fun s b => s.ageBin t (Nat.min 15 (slowdown / 5)) b) (s.setTile t { x with aged := x.aged + 1 }))
  else .refused (.notEnabled "AGEING_READ")

/-! ## Self-characterisation (R342) -/

/-- The sweep of one bin from an offset on: FFV, where the windows are just those that the sweep runs. -/
def sweepBin (limit : Nat) : Int → List TestWindow → Option Int
  | _, [] => none
  | o, w :: ws =>
    if 4 * limit < w.replays || w.third then (if ws.isEmpty then some o else none)
    else if o = -128 then (if ws.isEmpty then some o else none)
    else sweepBin limit (o - 1) ws

/-- A bin after its sweep. -/
def BinRec.swept (b : BinRec) (ffv ceil : Int) : BinRec :=
  { b with ffv := ffv, age := 0, bar := decide (ceil < ffv + 2), offset := if ceil < ffv + 2 then b.offset else min ceil (ffv + 4) }

/-- Whether a characterisation may begin, or go on with its next bin: in a maintenance window, on a tile that runs nothing. -/
def State.maySweep (s : State) (i : TileId) : Bool :=
  (s.die i.die).maint && (s.tile i).act == .idle && (s.site i).live.state != .retired

/-- The last bin is done: a tile whose bin 1 is barred is retired, any other has its record written. -/
def State.sweepEnd (s : State) (i : TileId) : State :=
  if ((s.site i).live.bins[1]).bar then s.retireSite i else s.writeSiteDue i

/-- CHARACTERISATION (R342): the sweep of one bin, bin 7 first and bin 0 last, with the windows that it ran; the site is busy from the
first to the last. A change of BAR or FFV makes a write due (R351). A later point needs launch entry again. -/
def execCharacterisation (t : TileId) (windows : List TestWindow) (s : State) : Result :=
  let x := s.tile t
  let b := x.sweep.getD 7
  let old := (s.site t).live.bins[b]
  let c := (s.die t.die).cox
  match sweepBin c.limit old.offset windows with
  | none => .refused (.notEnabled "CHARACTERISATION")
  | some f =>
    if s.maySweep t && !x.cox.over && !s.regs.viral then
      let s := s.noteAbove t
      let s := s.mapSite t fun r => r.mapBin b fun y => y.swept f c.ceil
      let next := if b.val = 0 then none else some (dieOf (b.val - 1))
      let s := (s.setTile t { x with entered := 0, sweep := next, vf := ⟨s.vref b + 5 * f, b⟩ }).newWindow t
      .next (if next.isNone then s.sweepEnd t
        else if f = old.ffv ∧ decide (c.ceil < f + 2) = old.bar then s else s.writeSiteDue t)
    else .refused (.notEnabled "CHARACTERISATION")

/-! ## Verification (R343) -/

/-- TIMING_VERIFICATION (R343): OFFSET_1 rises by two, and one window of the test kernel decides. -/
def execTimingVerification (t : TileId) (replays : Nat) (third : Bool) (s : State) : Result :=
  let r := (s.site t).live
  let c := (s.die t.die).cox
  if r.state == .fenced && (s.site t).verify && !(s.tile t).cox.over then
    let s := s.setVerify t false
    let old := (r.bins[1]).offset
    let s := if old < c.ceil then s.riseTo t 1 (min (old + 2) c.ceil) else s
    let s := s.setTile t { s.tile t with entered := 0 }
    .next (if replays ≤ c.limit ∧ !third then
        ((s.mapSite t fun r => r.setState .enabled).writeSiteDue t).setFstat 3
      else s.retireSite t)
  else .refused (.notEnabled "TIMING_VERIFICATION")

/-! ## Writes of the store (R348, R351) -/

/-- MRS_FALL_WRITE (R351 item 2): a fall has held for 10 ms. -/
def execMrsFallWrite (t : TileId) (s : State) : Result :=
  match (s.site t).fallAt with
  | some n =>
    if n + 10000000 ≤ s.time then .next ((s.setSite t { s.site t with fallAt := none }).writeSiteDue t)
    else .refused (.notEnabled "MRS_FALL_WRITE")
  | none => .refused (.notEnabled "MRS_FALL_WRITE")

/-- MRS_DEFERRED_WRITE (R351 item 4): 60 s after the last write, with the values live now. -/
def execMrsDeferredWrite (t : TileId) (s : State) : Result :=
  let x := s.site t
  let ready := match x.lastWrite with
    | some n => decide (n + sixtySeconds ≤ s.ltime)
    | none => true
  if x.due && ready then .next (s.writeSiteNow t) else .refused (.notEnabled "MRS_DEFERRED_WRITE")

/-- A header written to copy A and then to copy B (R348). -/
def State.writeHeader (s : State) (h : MrsHeader) : State :=
  { s with headers := Vector.replicate 2 { h with hseq := (h.hseq + 1) % 2 ^ 32, bad := false },
           regs := { s.regs with headTear := some (s.time, s.headers[1]) } }

/-- LLAST_WRITE (R348). -/
def execLlastWrite (s : State) : Result := .next (s.writeHeader { s.headers[0] with llast := s.ltime })

/-! ## The image of the store (R347-R350) -/

/-- A bin entry's bytes. -/
def binBytes (b : BinRec) : List Byte :=
  bytesOfNat 1 (wrap b.offset 8) ++ bytesOfNat 1 (wrap b.ffv 8) ++ bytesOfNat 1 (128 * b.bar.toNat + b.age % 16) ++ [0] ++
  bytesOfNat 2 b.rate ++ bytesOfNat 2 0 ++ bytesOfNat 4 b.bwrites ++ bytesOfNat 4 0

/-- A site record's bytes with a CRC word. -/
def siteBytesWith (r : SiteRec) (crc : Nat) : List Byte :=
  bytesOfNat 1 r.stByte.toNat ++ bytesOfNat 1 r.fcause.toNat ++ bytesOfNat 1 r.holdfail ++ [0] ++ bytesOfNat 4 r.rseq ++
  bytesOfNat 8 r.tfence ++ bytesOfNat 8 r.segt0 ++ bytesOfNat 8 r.segt1 ++ List.replicate 28 0 ++ bytesOfNat 4 crc ++
  r.bins.toList.flatMap binBytes

/-- A site record's bytes. -/
def siteBytes (r : SiteRec) : List Byte := siteBytesWith r (crcFeed 0 (siteBytesWith r 0))

/-- A header's bytes with a CRC word. -/
def headerBytesWith (h : MrsHeader) (crc : Nat) : List Byte :=
  bytesOfNat 4 2 ++ bytesOfNat 4 h.hseq ++ h.vref.toList.flatMap (bytesOfNat 2) ++ bytesOfNat 8 h.lbase ++ bytesOfNat 8 h.llast ++
  List.replicate 20 0 ++ bytesOfNat 4 crc

/-- A header's bytes. -/
def headerBytes (h : MrsHeader) : List Byte := headerBytesWith h (crcFeed 0 (headerBytesWith h 0))

/-- One copy of the store: header, then 640 site records; zeros after them. -/
def State.mrsImage (s : State) : List Byte :=
  headerBytes s.headers[0] ++ s.sites.toList.flatMap fun x => siteBytes x.copyA

end Sys2Proof.Machine
end

