-- ==== Sys2Proof/Machine/MemServices.lean ====
section
/-! DEFINITION. The services of the memory controllers (spec/13_memory_system.md R357-R364, R372-R376): mapping installation, error
banks, scrubbing, answers to faults, invalidation and the Graft engine. -/

namespace Sys2Proof.Machine

/-! ## Mapping (R357, R358) -/

/-- A number as a mapping region. -/
def regionNo (v : BitVec 2) : Fin 4 := ⟨v.toNat, v.isLt⟩

/-- A MAPROW_HI write: the shadow row is stored, ROW moves on. -/
def State.storeRow (s : State) (v : Word) : State :=
  let r := s.regs
  let row := r.mapRowSel.toNat
  let k := regionNo r.mapSel
  let value : BitVec 33 := BitVec.ofBool (v.getLsbD 0) ++ r.mapRowLo
  let shadows := if h : row < 33 then
      s.shadows.set k.val { s.shadows[k] with rows := (s.shadows[k]).rows.set row value h } k.isLt
    else s.shadows
  { s with shadows := shadows, regs := { r with mapRowHi := v.getLsbD 0, mapRowSel := r.mapRowSel + 1 } }

/-- A MAPCTL write: RSEL, and with ACT the start of a rank check. -/
def State.writeMapctl (s : State) (v : Word) : State :=
  let r := { s.regs with mapSel := v.setWidth 2 }
  s.setRegs (if v.getLsbD 8 && r.mapBusy.isNone then { r with mapBusy := some r.mapSel } else r)

/-- MAPROW_STORE (R357). -/
def execMaprowStore (v : Word) (s : State) : Result := .next (if s.regs.viral then s else s.storeRow v)

/-- MAP_ACTIVATE (R358). -/
def execMapActivate (v : Word) (s : State) : Result := .next (if s.regs.viral then s else s.writeMapctl v)

/-- MAP_CHECK_DONE (R358): a matrix of full rank is installed with its bounds. -/
def execMapCheckDone (s : State) : Result :=
  match s.regs.mapBusy with
  | none => .refused (.notEnabled "MAP_CHECK_DONE")
  | some v =>
    let k := regionNo v
    let n := rank33 (s.shadows[k]).rows
    let s := s.setRegs { s.regs with mapBusy := none, mapDone := true, mapRank := BitVec.ofNat 6 n,
                                     mapErr := s.regs.mapErr || n != 33 }
    .next (if n = 33 then { s with maps := s.maps.set k.val s.shadows[k] k.isLt } else s)

/-! ## Error banks and scrubbing (R360-R363) -/

/-- EBSTAT.VALID cleared. -/
def State.clearBank (s : State) (n : Fin 8) : State :=
  s.setStack n { s.stack n with ebValid := false, ebUe := false, ebOvf := false }

/-- EBSTAT_CLEAR (R360). -/
def execEbstatClear (n : Fin 8) (s : State) : Result := .next (if s.regs.viral then s else s.clearBank n)

/-- The coordinate of a place in a stack's base pass: rows in order, each in every bank and column (R362). DESIGN CHOICE,
notes/assumptions/52.md. -/
def passCoord (n : Fin 8) (p : Nat) : Nat := n.val * 2 ^ 30 + p % 2 ^ 15 * 2 ^ 15 + p / 2 ^ 15 % 2 ^ 15

/-- The line read by the scrubber: a corrected error is written back, an uncorrectable one stays (R359, R362). -/
def State.scrubLine (s : State) (n : Fin 8) (d : Nat) : State :=
  match s.errorAt d with
  | none => s
  | some e =>
    match e.symbol with
    | some sym => { s.corrected d (s.paOf d) sym .scrub with
        lineErr := (s.corrected d (s.paOf d) sym .scrub).lineErr.filter fun x => x.line != d }
    | none => s.setStack n ((s.stack n).countError true (s.paOf d) 0xFF .scrub s.time)

/-- SCRUB_READ (R362): the next line of the base pass, or a line of a hot row. -/
def execScrubRead (n : Fin 8) (line : Nat) (s : State) : Result :=
  let k := s.stack n
  let base := line == passCoord n k.scrubPos
  let hot := k.hot.any fun h => h.row == coordRowKey line
  if k.scrubEn && !(s.die n).fenced && decide (line / 2 ^ 30 = n.val) && (base || hot) then
    let s := s.scrubLine n line
    let k := s.stack n
    .next (if base then
        (if k.scrubPos + 1 = 2 ^ 30 then s.setStack n { k with scrubPos := 0, passes := k.passes + 1 }
         else s.setStack n { k with scrubPos := k.scrubPos + 1 })
      else s)
  else .refused (.notEnabled "SCRUB_READ")

/-- The rows of a stack whose score has reached PTH. -/
def Stack.dueRows (k : Stack) : List Nat := (k.hot.filter fun h => decide (k.pth.toNat ≤ h.score)).map HotRow.row

/-- SCORE_HALVING (R363): TIME has passed a multiple of 24 hours, and every score is halved for each. -/
def execScoreHalving (s : State) : Result :=
  if (s.regs.halvings + 1) * oneDay ≤ s.time then
    let s := s.halveDue
    .next ((List.finRange 8).foldl (fun s n => (s.stack n).dueRows.foldl (fun s r => s.pruneRow n r) s) s)
  else .refused (.notEnabled "SCORE_HALVING")

/-! ## Answers to faults (R373) -/

/-- Copies of every tile that a test picks, each treated in turn. -/
def State.eachCopy (s : State) (pick : TileId → CopyCmd → Bool) (f : State → TileId → CopyCmd → State) : State :=
  allTiles.foldl (fun s i => ((s.tile i).copyq.filter (pick i)).foldl (fun s c => f s i c) s) s

/-- The record with a token, once it stands in the ring. -/
def State.tokenHeld (s : State) : Bool := s.faults.any fun w => w.token == s.regs.frTok.toNat && !w.held

/-- The accesses that wait on FRTOK's token walk again. -/
def State.retryToken (s : State) : State :=
  let tok := s.regs.frTok.toNat
  if s.tokenHeld then
    let s := { s with faults := s.faults.filter fun w => w.token != tok,
                      hbm := s.hbm.map fun (k : Stack) => if k.grWait = tok then { k with grWait := 0 } else k }
    s.eachCopy (fun _ c => c.stage == .waiting tok) fun s i c => s.startCopy i c
  else s

/-- The copies that grafts hold walk again (R376). -/
def State.releaseHeld (s : State) : State := s.eachCopy (fun _ c => c.stage == .waiting 0) fun s i c => s.startCopy i c

/-- A graft ends with a result: its hold is released, and the copies that it held walk (R376, R377). -/
def State.endGraft (s : State) (n : Fin 8) (result : BitVec 2) : State :=
  (s.setStack n { s.stack n with grBusy := false, grWait := 0, grResult := result }).releaseHeld

/-- The accesses that wait on FRTOK's token fail. -/
def State.failToken (s : State) : State :=
  let tok := s.regs.frTok.toNat
  if s.tokenHeld then
    let s := { s with faults := s.faults.filter fun w => w.token != tok }
    let s := (List.finRange 8).foldl (fun s n => if (s.stack n).grWait = tok then s.endGraft n 3 else s) s
    s.eachCopy (fun _ c => c.stage == .waiting tok) fun s i c => s.copyFails i c.id .translation
  else s

/-- FAULT_RETRY (R373). An answer that no record awaits is ignored. -/
def execFaultRetry (s : State) : Result := .next (if s.regs.viral then s else s.retryToken)

/-- FAULT_FAIL (R373). -/
def execFaultFail (s : State) : Result := .next (if s.regs.viral then s else s.failToken)

/-- Held records written while the ring has space, oldest first. -/
def State.flushHeld (s : State) : State :=
  s.faults.foldl (fun s w =>
    if w.held && !s.regs.fqFull then
      { s.pushFault w.record with faults := s.faults.map fun x => if x.token == w.token then { x with held := false } else x }
    else s) s

/-- FQHEAD written. -/
def State.writeFqhead (s : State) (v : Word) : State := (s.setRegs { s.regs with fqHead := v }).flushHeld

/-- FQHEAD_WRITE (R373). -/
def execFqheadWrite (v : Word) (s : State) : Result := .next (if s.regs.viral then s else s.writeFqhead v)

/-! ## Invalidation (R374) -/

/-- Whether a page of a context lies in the range of the running invalidation. -/
def PkgRegs.covers (r : PkgRegs) (c : BitVec 16) (va size : Nat) : Bool :=
  let j := r.invJob
  (j.all || j.ctx == c) &&
  (j.len == 0 || (decide (va < j.va.toNat / 0x10000 * 0x10000 + j.len.toNat * 0x10000) &&
    decide (j.va.toNat / 0x10000 * 0x10000 < va + size)))

/-- The writes that a copy has still to perform or to give up: it has started, or is failing. -/
def CopyCmd.openWrites (c : CopyCmd) : List ElemWrite :=
  match c.stage with
  | .started | .failing _ => c.writes
  | _ => []

/-- The leaf that a global write was translated through. -/
def WriteDest.leaf? : WriteDest → Option VPage
  | .dev _ _ lf => some lf
  | .hostMem _ _ lf => some lf
  | .spad _ _ => none

/-- Whether an access translated through a leaf that meets the range, in it or beside it, is still to be performed. -/
def State.rangeBusy (s : State) : Bool :=
  (allTiles.any fun i =>
    let c := s.tileCtx (s.tile i)
    (s.tile i).copyq.any fun x => (x.openWrites.filterMap fun w => w.dest.leaf?).any fun lf => s.regs.covers c lf.base lf.size) ||
  (s.ports.toList.any fun p => p.pending.any fun r => s.regs.covers (s.tileCtx (s.tile r.tile)) r.leaf.base r.leaf.size)

/-- INVCTL.GO. -/
def State.startInvalidate (s : State) : State :=
  let r := s.regs
  if r.invBusy then s else s.setRegs { r with invBusy := true, invJob := ⟨r.invAll, r.invCtx, r.invVa, r.invLen⟩ }

/-- INVALIDATE (R374): ignored while one is running. -/
def execInvalidate (s : State) : Result := .next (if s.regs.viral then s else s.startInvalidate)

/-- The leaves that a test picks dropped from every TLB. -/
def State.dropLeaves (s : State) (pick : TlbEntry → Bool) : State :=
  { s with dies := s.dies.map fun (d : Die) => { d with tlb := d.tlb.filter fun e => !pick e },
           tiles := s.tiles.map fun (t : Tile) => { t with tlb := t.tlb.filter fun e => !pick e } }

/-- The context entries and tensor entries of the contexts that a test picks dropped from every die. -/
def State.dropContexts (s : State) (pick : BitVec 16 → Bool) : State :=
  { s with dies := s.dies.map fun (d : Die) =>
      { d with ctxs := d.ctxs.filter fun p => !pick p.1, tensors := d.tensors.filter fun x => !pick x.ctx } }

/-- INVALIDATE_DONE (R374): the TLBs have dropped the leaves that meet the range, with the context and tensor entries where it is the
whole context, and what was translated through such leaves is performed at SYS. -/
def execInvalidateDone (s : State) : Result :=
  if s.regs.invBusy && !s.rangeBusy then
    let j := s.regs.invJob
    let s := s.dropLeaves fun e => s.regs.covers e.ctx e.va e.size
    let s := if j.len = 0 then s.dropContexts fun c => j.all || j.ctx == c else s
    let s := s.raise (fun e => s.regs.covers e.by'.ctx e.leaf.base e.leaf.size) 4 []
    .next (s.setRegs { s.regs with invBusy := false })
  else .refused (.notEnabled "INVALIDATE_DONE")

/-! ## The Graft engine (R375-R377) -/

/-- A graft starts. -/
def State.startGraft (s : State) (n : Fin 8) : State :=
  let k := s.stack n
  if k.grBusy then s else s.setStack n { k with grBusy := true, job := ⟨k.grVa, k.grDst, k.grCtx, k.grForce⟩ }

/-- GRAFT_REQUEST (R376, R377): ignored while one is running. -/
def execGraftRequest (n : Fin 8) (s : State) : Result := .next (if s.regs.viral then s else s.startGraft n)

/-- What a graft's walk finds: the address of the level-3 entry with its 32 leaves, a page to wait for, or how it ends. -/
inductive GraftWalk where
  | found (entry : Nat) (leaves : List Nat)
  | wait
  /-- it ends with a result, and with the record of a fault if it met one -/
  | ends (result : BitVec 2) (fault : Option WalkFault)
  deriving DecidableEq, Repr

/-- The walk to the level-3 entry, from a table on (R376 step 1): a malformed entry is a fault and no entry to graft, a table that
cannot be read fails the request (R369, R377). DEDUCED, notes/assumptions/51.md. -/
def State.graftGo (s : State) (n : Fin 8) (va : Nat) : Nat → Nat → Nat → State × GraftWalk
  | 0, _, _ => (s, .ends 2 none)
  | fuel + 1, lvl, table =>
    let at' := table + 8 * (va / 2 ^ levelShift lvl % 2 ^ levelBits lvl)
    let (s, r) := s.readFrom (some n) at' 8
    match r with
    | .error e => (s, .ends 3 (some (e.walk at')))
    | .ok bs =>
      let tte := natOfBytes bs
      if !bit tte 0 then (s, if lvl = 3 then .ends 2 none else .wait)
      else if !tteOk lvl tte then (s, .ends 2 (some .badTte))
      else if bit tte 1 then (s, .ends 2 none)
      else if lvl = 3 then
        let table := bits tte 8 31 * 256
        let (s, r) := s.readFrom (some n) table 256
        match r with
        | .error e => (s, .ends 3 (some (e.walk table)))
        | .ok bs =>
          let ls := (List.range 32).map fun j => field bs (8 * j) 8
          (s, if ls.any fun l => bit l 0 && !tteOk 4 l then .ends 2 (some .badTte) else .found at' ls)
      else State.graftGo s n va fuel (lvl + 1) (bits tte 8 31 * 256)

/-- Whether 32 leaves may be grafted: present, device memory, alike in ORD, W and WATCH, and in the stack. -/
def State.leavesFit (s : State) (n : Fin 8) (ls : List Nat) : Bool :=
  ls.all fun l =>
    bit l 0 && tteOk 4 l && bits l 6 2 == 0 && bits l 2 4 == bits (ls.headD 0) 2 4 &&
    (List.range 1024).all fun j => (s.coord (bits l 16 36 * 1024 + j)).map coordStack == some n

/-- Whether the destination page lies in the stack. -/
def State.destFits (s : State) (n : Fin 8) (dst : Nat) : Bool :=
  dst % 0x200000 == 0 && (List.range 32768).all fun j => (s.coord (dst / 64 + j)).map coordStack == some n

/-- Whether a frame has accesses in flight, those of failing copies among them (R375). -/
def State.frameBusy (s : State) (frame : Nat) : Bool :=
  allTiles.any fun i => (s.tile i).copyq.any fun c => c.openWrites.any fun w => match w.dest with
    | .dev pa _ _ => pa / 0x10000 == frame
    | _ => false

/-- The frames copied in order, or none where a line cannot be read. -/
def State.copyFrames (s : State) (dst : Nat) : List Nat → State × Bool
  | [] => (s, true)
  | f :: fs =>
    let (s, r) := s.readDev .agent (f * 0x10000) 0x10000
    match r with
    | .error _ => (s, false)
    | .ok bs => State.copyFrames (s.writeDev dst bs).1 (dst + 0x10000) fs

/-- The Graft engine as an accessor. -/
def grafter (c : BitVec 16) : Accessor := ⟨.graft, c, none⟩

/-- The leaves found: the frames are copied and the level-3 entry becomes a leaf (R376 steps 3 to 6). -/
def State.graftLeaves (s : State) (n : Fin 8) (entry : Nat) (ls : List Nat) : State :=
  let k := s.stack n
  let dst := k.job.dst.toNat * 128
  let (s, ok) := s.copyFrames dst (ls.map fun l => bits l 16 36)
  if !ok then s.endGraft n 3
  else
    let leaf := dst / 0x10000 * 2 ^ 16 + bits (ls.headD 0) 2 4 * 4 + 3
    let (s, r) := s.writeDev entry (bytesOfNat 8 leaf)
    match r with
    | .error _ => s.endGraft n 3
    | .ok _ =>
      let base := k.job.va.toNat / 0x200000 * 0x200000
      let meets (c : BitVec 16) (va size : Nat) : Bool := c == k.job.ctx && decide (va < base + 0x200000) && decide (base < va + size)
      let s := s.dropLeaves fun e => meets e.ctx e.va e.size
      (s.raise (fun e => meets e.by'.ctx e.leaf.base e.leaf.size) 4 []).endGraft n 1

/-- Whether the entry of a context cannot be read where it stands. -/
def State.ctxUnread (s : State) (d : Option (Fin 8)) (c : BitVec 16) : Bool :=
  decide (c.toNat < s.regs.ctxCount) && match (s.readFrom d (s.regs.ctxBase + 64 * c.toNat) 64).2 with
    | .ok _ => false
    | .error _ => true

/-- GRAFT_DONE (R376): the engine's work, once the in-flight counts allow it. DEDUCED, notes/assumptions/51.md. -/
def execGraftDone (n : Fin 8) (s : State) : Result :=
  let k := s.stack n
  if !k.grBusy || k.grWait != 0 then .refused (.notEnabled "GRAFT_DONE")
  else
    let va := k.job.va.toNat
    let a := grafter k.job.ctx
    let unread := s.ctxUnread (some n) k.job.ctx
    let (s, e) := s.ctxEntry (some n) k.job.ctx
    match e with
    | .error e => .next ((s.walkRecord a e false va).endGraft n (if unread then 3 else 2))
    | .ok e =>
      let (s, w) := s.graftGo n va 4 0 e.root
      match w with
      | .ends r f => .next ((match f with
          | some f => s.walkRecord a f false va
          | none => s).endGraft n r)
      | .wait =>
        let (s, tok) := s.faultWait a false va
        .next (s.setStack n { s.stack n with grWait := tok }).releaseHeld
      | .found entry ls =>
        if !s.leavesFit n ls || !s.destFits n (k.job.dst.toNat * 128) then .next (s.endGraft n 2)
        else if ls.any fun l => s.frameBusy (bits l 16 36) then
          (if k.job.force then .refused (.notEnabled "GRAFT_DONE") else .next (s.endGraft n 2))
        else .next (s.graftLeaves n entry ls)

end Sys2Proof.Machine
end

