-- ==== Sys2Proof/Machine/Links.lean ====
section
/-! DEFINITION. Peer links (spec/14_package_links_and_management.md R393-R402): flit groups as they arrive, the requests that a
peer makes through export windows, the answers to this package's requests, and how links and windows end. -/

namespace Sys2Proof.Machine

/-! ## Ports -/

/-- One more, saturating. -/
def satInc (w : Word) : Word := satAdd32 w 1

/-- A port of a viral package that carries flits tells its peer (R322, R394). -/
def Port.tellViral (x : Port) : Port := if x.en && x.up && !x.fenced then { x with tx := x.tx ++ [SentFlits.viral] } else x

/-- The bits of LSTAT whose change raises vector 26: UP, FENCED, VIRALIN (R392). -/
def Port.notice (x : Port) : Bool × Bool × Bool := (x.up, x.fenced, x.viralIn)

/-- A port's state replaced; a change that LSTAT shows raises vector 26. -/
def State.putPort (s : State) (p : Fin 12) (x : Port) : State :=
  let changed := (s.port p).notice != x.notice
  let s := s.setPort p x
  if changed then s.raiseVector 26 else s

/-- A port fenced for a flit group whose extent cannot be known (R395). -/
def State.fenceBadGroup (s : State) (p : Fin 12) : State :=
  let x := s.port p
  (s.putPort p { x with fenced := true, authDrop := satInc x.authDrop }).logPlain 0 3 p.val

/-- The key slot under which a group arrives: its tag, and the port in its mask (R399). -/
def State.slotFor (s : State) (p : Fin 12) (tag : BitVec 16) : Option (Fin 8) :=
  (List.finRange 8).find? fun k => match s.keys[k] with
    | some x => x.tag == tag && x.ports.getLsbD p.val
    | none => false

/-- The packets of an accepted group's payload, at most n, put with those that a port has to serve (R396, R399). A packet that does not lie
wholly in the group is dropped with the rest, as one of an invalid type. PRESUMED, notes/assumptions/58.md. -/
def Port.takePackets (x : Port) (slot : Fin 8) (g : GroupHeader) : Nat → List Byte → Port
  | 0, _ => x
  | n + 1, bs =>
    let k := packetAt bs
    let size := 32 + packetRound (packetExtent k.ptype k.len)
    if bs.length < 32 ∨ k.ptype = 0 then x
    else if 7 ≤ k.ptype.toNat ∨ bs.length < size then { x with authDrop := satInc x.authDrop }
    else if k.owntag ≠ g.owntag ∨ k.node ≠ g.node then Port.takePackets { x with tagDrop := satInc x.tagDrop } slot g n (bs.drop size)
    else Port.takePackets { x with rx := x.rx ++ [(slot, k)] } slot g n (bs.drop size)

/-- Whether a packet is a request. -/
def isRequest (k : Packet) : Bool := k.ptype == ptRd || k.ptype == ptWr || k.ptype == ptAmo

/-- Whether a request of an export window waits at a port. -/
def State.expBusy (s : State) (w : Fin 32) : Bool :=
  s.ports.toList.any fun x => x.rx.any fun r => isRequest r.2 && r.2.xw.toNat == w.val

/-- The open export windows are drained where none of their requests waits; a revoked one waits for WINDOW_DRAINED (R401). -/
def State.noteDrained (s : State) : State :=
  { s with exps := Vector.ofFn fun w : Fin 32 =>
      let x := s.exps[w]
      if x.en then { x with drained := !s.expBusy w } else x }

/-- FLIT_GROUP_RECEIVE (R395, R399): the bytes of a group, from a port of the peer. PRESUMED, notes/assumptions/58.md. -/
def execFlitGroupReceive (p : Fin 12) (a : ArrivingGroup) (s : State) : Result :=
  let x := s.port p
  let g := groupHeader a.bytes
  if !x.en || !x.up then .refused (.notEnabled "FLIT_GROUP_RECEIVE")
  else if x.fenced || s.regs.viral then .next s
  else if g.nflit = 0 ∨ 16 < g.nflit then .next (s.fenceBadGroup p)
  else match s.slotFor p g.owntag with
    | none => .next (s.setPort p { x with tagDrop := satInc x.tagDrop })
    | some k =>
      match s.keys[k] with
      | none => .next s
      | some key =>
        let later := match key.lastIn[p] with
          | some n => decide (n < g.gcnt)
          | none => true
        match if later && g.dnode == s.regs.nodeId then openGroup key.key a.sender a.bytes else none with
        | none => .next (s.setPort p { x with authDrop := satInc x.authDrop })
        | some payload =>
          let key := { key with lastIn := key.lastIn.set p.val (some g.gcnt) p.isLt }
          let x := { x with credits := Nat.min 64 (x.credits + g.rcred) }
          let s := { s with keys := s.keys.set k.val (some key) k.isLt }.setPort p (x.takePackets k g 128 payload)
          .next (s.noteDrained.pump p)

/-- VIRAL_FLIT_RECEIVE (R322, R394). -/
def execViralFlitReceive (p : Fin 12) (s : State) : Result :=
  let x := s.port p
  if x.en && x.up then .next (s.putPort p { x with viralIn := true, fenced := true })
  else .refused (.notEnabled "VIRAL_FLIT_RECEIVE")

/-- INVALID_FLIT (R394). -/
def execInvalidFlit (p : Fin 12) (ftype : Byte) (s : State) : Result :=
  let x := s.port p
  if x.en && x.up && decide (3 ≤ ftype.toNat) then
    .next (if x.fenced then s else s.setPort p { x with authDrop := satInc x.authDrop })
  else .refused (.notEnabled "INVALID_FLIT")

/-! ## Serving a request (R396, R397, R400) -/

/-- Response statuses. -/
def stOk : Byte := 0
/-- The window is closed. -/
def stRevoked : Byte := 1
/-- The request may not be made. -/
def stNoAccess : Byte := 2
/-- The memory cannot give it. -/
def stMemErr : Byte := 3
/-- The stack is fenced. -/
def stFenced : Byte := 4

/-- The bytes that a request reaches. -/
def reachOf (k : Packet) : Nat := if k.ptype = ptAmo then (if k.aop.getLsbD 4 then 8 else 4) else k.len

/-- Whether a request keeps the rules of R396. -/
def requestOk (k : Packet) : Bool :=
  let n := reachOf k
  let amo := k.ptype == ptAmo
  let data (o n : Nat) : Nat := field k.data o n
  k.zeros && k.status == 0 && decide (k.rid.toNat < 4096) && decide (k.xw.toNat < 32) &&
  (if amo then
    k.len == 0 && k.offset % n == 0 && decide (k.aop.toNat % 16 ≤ 13) && decide (k.aop.toNat < 32) &&
    (k.aop.toNat % 16 == 13 || data 8 8 == 0) && data 16 16 == 0
  else
    k.aop == 0 && decide (1 ≤ k.len) && decide (k.len ≤ 2048) &&
    k.data.length == (if k.ptype = ptWr then k.len else 0)) &&
  decide (k.offset / 0x10000 = (k.offset + n - 1) / 0x10000)

/-- The status of a request before its access: OK, REVOKED or NOACCESS. DEDUCED, notes/assumptions/59.md. -/
def State.windowStatus (s : State) (k : Packet) : Byte :=
  let x := s.exps[winOf k.xw.toNat]
  if k.xw.toNat < 32 ∧ !x.en then stRevoked
  else
    let tagOk := match slotOf? x.slot.toNat with
      | some n => (match s.keys[n] with
        | some key => key.tag == k.owntag
        | none => false)
      | none => false
    if requestOk k && tagOk && decide (k.offset + reachOf k ≤ x.size * 0x10000) && (k.ptype == ptRd || x.w) then stOk
    else stNoAccess

/-- The physical address of a request. -/
def State.windowPa (s : State) (k : Packet) : Nat := (s.exps[winOf k.xw.toNat]).base * 0x10000 + k.offset

/-- A peer as an accessor. -/
def peerAccessor : Accessor := ⟨.peer, 0, none⟩

/-- The status of a memory access that failed; a line in no mapping region has its record (R355). DEDUCED, notes/assumptions/54.md. -/
def State.peerError (s : State) (e : MemErr) (write : Bool) (pa : Nat) : State × Byte :=
  match e with
  | .unmapped => (s.faultNow peerAccessor .paErr write pa, stMemErr)
  | .uncorrectable => (s, stMemErr)
  | .fenced => (s, stFenced)

/-- The watch identity of a peer's write (R380). -/
def peerWatch (p : Fin 12) (k : Packet) : WatchSrc := ⟨4, p.val, k.owntag.toNat * 65536 + k.node.toNat⟩

/-- A request performed: its status and the data of its response. -/
def State.serve (s : State) (p : Fin 12) (k : Packet) : State × Byte × List Byte :=
  let st := s.windowStatus k
  let pa := s.windowPa k
  let empty : List Byte := if k.ptype = ptAmo then List.replicate 32 0 else []
  if st ≠ stOk then (s, st, empty)
  else if k.ptype = ptRd then
    let (s, r) := s.readDevBy (.peer p) pa k.len
    match r with
    | .ok bs => (s, stOk, bs)
    | .error e => let (s, st) := s.peerError e false pa; (s, st, [])
  else if k.ptype = ptWr then
    let made := (s.madeRanges pa k.len).map fun x => (x.1, x.2, none)
    let (s, r) := s.writeDev pa k.data
    let s := s.logWrites (peerWatch p k) made
    match r with
    | .ok _ => (s, stOk, [])
    | .error e => let (s, st) := s.peerError e true pa; (s, st, [])
  else
    let w := reachOf k
    let (s, r) := s.readDev .agent pa w
    match r with
    | .error e => let (s, st) := s.peerError e true pa; (s, st, empty)
    | .ok bs =>
      let old := natOfBytes bs
      let op := (atomOf (k.aop.toNat % 16)).getD .add
      let new := atomNew (8 * w) op old (field k.data 0 w) (field k.data 8 w)
      let s := (s.writeDev pa (bytesOfNat w new)).1
      (s.logWrites (peerWatch p k) [(pa, w, none)], stOk, bytesOfNat 32 old)

/-- The type of the response to a request. -/
def responseType (ty : Byte) : Byte := if ty = ptRd then ptRdRsp else if ty = ptWr then ptWrAck else ptAmoRsp

/-- A response. -/
def responseTo (k : Packet) (st : Byte) (data : List Byte) : Packet :=
  ⟨responseType k.ptype, st, 0, 0, k.rid, 0, 0, true, if k.ptype = ptRd then data.length else 0, 0, data⟩

/-- The response of a request put among those that a port has to send. -/
def State.answer (s : State) (p : Fin 12) (slot : Fin 8) (k : Packet) (st : Byte) (data : List Byte) : State :=
  let x := s.port p
  s.setPort p { x with replies := x.replies ++ [⟨slot, k.node, responseTo k st data⟩] }

/-- A packet that waits at a port, taken from it. -/
def State.takeRx (s : State) (p : Fin 12) (ty : Byte) (k : Packet) : Option (State × Fin 8) :=
  let x := s.port p
  match x.rx.find? fun r => r.2 == k && k.ptype == ty with
  | some r => if s.regs.viral || x.fenced then none else some (s.setPort p { x with rx := x.rx.erase r }, r.1)
  | none => none

/-- A request served and answered. -/
def State.request (s : State) (mn : String) (p : Fin 12) (ty : Byte) (k : Packet) : Result :=
  match s.takeRx p ty k with
  | none => .refused (.notEnabled mn)
  | some (s, slot) =>
    let (s, st, data) := s.serve p k
    .next ((s.answer p slot k st data).noteDrained.pump p)

/-- RD (R397). -/
def execRd (p : Fin 12) (pkt : Packet) (s : State) : Result := s.request "RD" p ptRd pkt
/-- WR (R397). -/
def execWr (p : Fin 12) (pkt : Packet) (s : State) : Result := s.request "WR" p ptWr pkt
/-- AMO (R397). -/
def execAmo (p : Fin 12) (pkt : Packet) (s : State) : Result := s.request "AMO" p ptAmo pkt

/-! ## Responses (R397, R402) -/

/-- A part of a list of parts taken out of it. -/
def cutGap (o n : Nat) (gs : List (Nat × Nat)) : List (Nat × Nat) :=
  gs.flatMap fun g =>
    if g.1 + g.2 ≤ o ∨ o + n ≤ g.1 then [g]
    else
      (if g.1 < o then [(g.1, o - g.1)] else []) ++ (if o + n < g.1 + g.2 then [(o + n, g.1 + g.2 - (o + n))] else [])

/-- Bytes that a peer sent put into a copy's image; a LOAD whose last bytes came has its writes made. -/
def State.fillImage (s : State) (i : TileId) (id : Nat) (off : Nat) (bs : List Byte) : State :=
  let t := s.tile i
  match t.copy? id with
  | none => s
  | some c =>
    let c := { c with image := c.image.take off ++ bs ++ c.image.drop (off + bs.length), gaps := cutGap off bs.length c.gaps }
    let load := c.stream.isNone && dKind c.desc == some .load && c.gaps.isEmpty
    let ws := if load then loadWrites i t.k c.desc c.image c.esize else c.writes
    s.setTile i (t.mapCopy id fun _ => { c with writes := ws })

/-- A request that has ended leaves its port, and its window is drained if it was the last one. -/
def State.endRequest (s : State) (p : Fin 12) (r : PeerRequest) : State :=
  let x := s.port p
  (s.setPort p { x with pending := x.pending.erase r }).winEnded r.win

/-- A response that arrived: matched by its RID with a request of its kind, or dropped. DEDUCED, notes/assumptions/60.md. -/
def State.response (s : State) (mn : String) (p : Fin 12) (ty req : Byte) (k : Packet) : Result :=
  match s.takeRx p ty k with
  | none => .refused (.notEnabled mn)
  | some (s, _) =>
    let x := s.port p
    if x.stale.any fun n => n.setWidth 16 == k.rid then
      .next (s.setPort p { x with stale := x.stale.erase (k.rid.setWidth 12) })
    else match x.pending.find? fun r => r.sent && r.rid.setWidth 16 == k.rid && r.pkt.ptype == req with
    | none => .next s
    | some r =>
      if k.status ≠ 0 then .next (((s.endRequest p r).copyFails r.tile r.copy .window).pump p)
      else
        let n := if req = ptAmo then reachOf r.pkt else r.pkt.len
        if req = ptRd ∧ k.data.length ≠ n then .next s
        else
          let s := s.endRequest p r
          let s := if req = ptRd then s else s.logOutside (copyWatch r.tile r.copy) [(r.pkt.offset, reachOf r.pkt, r.page)]
          .next ((if req = ptWr then s else s.fillImage r.tile r.copy r.off (k.data.take n)).pump p)

/-- RDRSP (R397). -/
def execRdrsp (p : Fin 12) (pkt : Packet) (s : State) : Result := s.response "RDRSP" p ptRdRsp ptRd pkt
/-- WRACK (R397). -/
def execWrack (p : Fin 12) (pkt : Packet) (s : State) : Result := s.response "WRACK" p ptWrAck ptWr pkt
/-- AMORSP (R397). -/
def execAmorsp (p : Fin 12) (pkt : Packet) (s : State) : Result := s.response "AMORSP" p ptAmoRsp ptAmo pkt

/-- Whether a request's port or key slot cannot send it now. -/
def State.stuck (s : State) (p : Fin 12) (r : PeerRequest) : Bool :=
  !s.carries p || match slotOf? (s.imps[r.win]).slot.toNat with
    | some k => match s.keys[k] with
      | some key => decide (keyLimit ≤ key.sent[p])
      | none => true
    | none => true

/-- PEER_REQUEST_TIMEOUT (R399): 20 us without an answer; a request that cannot be sent times out as well. -/
def execPeerRequestTimeout (p : Fin 12) (rid : BitVec 12) (s : State) : Result :=
  let x := s.port p
  match x.pending.find? fun r => r.rid == rid && (r.sent || s.stuck p r) && decide (r.at' + 20000 ≤ s.time) with
  | none => .refused (.notEnabled "PEER_REQUEST_TIMEOUT")
  | some r =>
    let s := s.setPort p { x with timeouts := satInc x.timeouts, stale := if r.sent then x.stale ++ [rid] else x.stale }
    .next (((s.endRequest p r).copyFails r.tile r.copy .window).pump p)

/-! ## Links going down and up -/

/-- Some requests of a port fail, and their copies with them. -/
def State.failRequests (s : State) (p : Fin 12) (rs : List PeerRequest) : State :=
  rs.foldl (fun s r => (s.endRequest p r).copyFails r.tile r.copy .window) s

/-- A link goes down: what is in flight on it fails with TIMEOUT (R394). DEDUCED, notes/assumptions/60.md. -/
def State.dropLink (s : State) (p : Fin 12) : State :=
  let x := s.port p
  if x.up then
    let s := s.putPort p { x with up := false, credits := 0, owed := 0, rx := [], replies := [], stale := [],
                                  timeouts := satAdd32 x.timeouts x.pending.length }
    (s.failRequests p x.pending).noteDrained
  else s

/-- LINK_DOWN (R394). -/
def execLinkDown (p : Fin 12) (s : State) : Result :=
  if (s.port p).up then .next (s.dropLink p) else .refused (.notEnabled "LINK_DOWN")

/-- LINK_UP (R397): 64 request credits each way. A viral package says so on a link that comes up (R394). -/
def execLinkUp (p : Fin 12) (s : State) : Result :=
  let x := s.port p
  let y := { x with up := true, credits := 64, owed := 0 }
  if x.en && !x.up then .next ((s.putPort p (if s.regs.viral then y.tellViral else y)).pump p)
  else .refused (.notEnabled "LINK_UP")

/-- LCTL written: clearing EN takes the link down. -/
def State.writeLctl (s : State) (p : Fin 12) (en : Bool) : State :=
  let s := if en then s else s.dropLink p
  s.setPort p { s.port p with en := en }

/-- KEY_EXHAUSTED (R393). -/
def execKeyExhausted (p : Fin 12) (slot : Fin 8) (s : State) : Result :=
  let x := s.port p
  match s.keys[slot] with
  | none => .refused (.notEnabled "KEY_EXHAUSTED")
  | some k =>
    if keyLimit ≤ k.sent[p] ∧ !x.keyExh then .next (s.setPort p { x with keyExh := true })
    else .refused (.notEnabled "KEY_EXHAUSTED")

/-! ## Revocation (R402) -/

/-- The requests of an import window that a test picks fail; the late response of one that was sent is dropped (R397). -/
def State.failWindow (s : State) (w : Fin 32) (pick : PeerRequest → Bool) : State :=
  (List.finRange 12).foldl (fun s p =>
    let x := s.port p
    let rs := x.pending.filter fun r => r.win == w && pick r
    let s := s.setPort p { x with stale := x.stale ++ (rs.filter PeerRequest.sent).map PeerRequest.rid }
    (s.failRequests p rs).pump p) s

/-- EN := 0 at a window: it starts no new request. -/
def State.revoke (s : State) (kind : WindowKind) (w : Fin 32) : State :=
  match kind with
  | .imp =>
    let x := s.imps[w]
    if x.en then
      let s := { s with imps := s.imps.set w.val { x with en := false } w.isLt }
      let s := s.failWindow w fun r => !r.sent
      { s with imps := s.imps.set w.val { s.imps[w] with drained := !s.winBusy w } w.isLt }
    else s
  | .exp =>
    let x := s.exps[w]
    if x.en then { s with exps := s.exps.set w.val { x with en := false, drained := !s.expBusy w } w.isLt } else s

/-- Whether a window is usable, and whether it is drained. -/
def State.windowBits (s : State) (kind : WindowKind) (w : Fin 32) : Bool × Bool :=
  match kind with
  | .imp => ((s.imps[w]).en, (s.imps[w]).drained)
  | .exp => ((s.exps[w]).en, (s.exps[w]).drained)

/-- WINDOW_EN_CLEAR (R402). -/
def execWindowEnClear (kind : WindowKind) (w : Fin 32) (s : State) : Result :=
  if (s.windowBits kind w).1 && !s.regs.viral then .next (s.revoke kind w) else .refused (.notEnabled "WINDOW_EN_CLEAR")

/-- The requests of a revoked export window that still wait at a port answered with REVOKED. -/
def State.refuseRequests (s : State) (w : Fin 32) (p : Fin 12) : State :=
  let x := s.port p
  let mine (r : Fin 8 × Packet) : Bool := isRequest r.2 && r.2.xw.toNat == w.val
  let s := s.setPort p { x with rx := x.rx.filter fun r => !mine r }
  ((x.rx.filter mine).foldl (fun s r => s.answer p r.1 r.2 stRevoked (if r.2.ptype = ptAmo then List.replicate 32 0 else [])) s).pump p

/-- A window of which no request is left. -/
def State.drain (s : State) (kind : WindowKind) (w : Fin 32) : State :=
  match kind with
  | .imp =>
    let s := s.failWindow w fun _ => true
    { s with imps := s.imps.set w.val { s.imps[w] with drained := true } w.isLt }
  | .exp =>
    let s := (List.finRange 12).foldl (fun s p => s.refuseRequests w p) s
    { s with exps := s.exps.set w.val { s.exps[w] with drained := true } w.isLt }

/-- WINDOW_DRAINED (R402): the last requests of a revoked window have ended; a WINDOW_REVOKE that waits is answered (R404). -/
def execWindowDrained (kind : WindowKind) (w : Fin 32) (s : State) : Result :=
  let (en, drained) := s.windowBits kind w
  let asked := s.regs.revoking == some (kind, w)
  if (en && !drained) || (drained && !asked) then .refused (.notEnabled "WINDOW_DRAINED")
  else
    let s := if drained then s else s.drain kind w
    .next (if asked then { s with regs := { s.regs with revoking := none }, reply := some ⟨0, []⟩ } else s)

end Sys2Proof.Machine
end

