-- ==== Sys2Proof/Machine/Regs.lean ====
section
/-! DEFINITION. The control space and the aperture (spec/14_package_links_and_management.md R388-R392, R401; 10 R291-R293; 11 R323;
12 R338; 13 R357-R380; 15 R421): what a register reads as, what a write of it does, and the host's accesses. -/

namespace Sys2Proof.Machine

/-! ## Parts of words -/

/-- One bit as a number. -/
def b1 (x : Bool) : Nat := x.toNat

/-- The low or the high half of a 64-bit register. -/
def half (x : Dword) (high : Bool) : Nat := if high then x.toNat / 2 ^ 32 else x.toNat % 2 ^ 32

/-- A 64-bit register with one half written. -/
def putHalf (x : Dword) (high : Bool) (v : Word) : Dword :=
  if high then BitVec.ofNat 64 (v.toNat * 2 ^ 32 + x.toNat % 2 ^ 32) else BitVec.ofNat 64 (x.toNat / 2 ^ 32 * 2 ^ 32 + v.toNat)

/-- A value with its n low bits 0. DESIGN CHOICE, notes/assumptions/55.md. -/
def dropLow (v : Word) (n : Nat) : Word := BitVec.ofNat 32 (v.toNat / 2 ^ n * 2 ^ n)

/-- A physical address (PA[38:0]) in a 64-bit register with one half written. -/
def putPa (x : Dword) (high : Bool) (v : Word) (low : Nat) : Dword :=
  if high then putHalf x true (BitVec.ofNat 32 (v.toNat % 128)) else putHalf x false (dropLow v low)

/-- A number below n, if it is. -/
def fin? (n k : Nat) : Option (Fin n) := if h : k < n then some ⟨k, h⟩ else none

/-- What a function of a number below n gives, else 0. -/
def at' {n : Nat} (k : Nat) (f : Fin n → Nat) : Nat :=
  match fin? n k with
  | some i => f i
  | none => 0

/-- A change named by a number below n, if it is one. -/
def on' {n : Nat} (s : State) (k : Nat) (f : Fin n → State) : State :=
  match fin? n k with
  | some i => f i
  | none => s

/-! ## Reading (R387-R392) -/

/-- The PA of the area that firmware reserves for the dump: the last 16 MiB of a stack (R406). DESIGN CHOICE, notes/assumptions/56.md. -/
def dumpLoc (n : Fin 8) : Nat := n.val * 2 ^ 36 + 0xFFF000000

/-- The dump that is held: one that is still being written is not (R406). -/
def State.dumpHeld (s : State) : Option (List Byte) := if s.time < s.regs.dumpEnd then none else s.regs.dump

/-- The code of LASTRST. -/
def ResetKind.code : ResetKind → Nat
  | .cold => 0 | .package => 1 | .hostLink => 2

/-- PKGSTAT (R387). -/
def State.pkgStat (s : State) : Nat := b1 s.regs.ready + 2 * b1 s.dumpHeld.isSome + 16 * s.regs.lastRst.code

/-- A register of a queue (R291). -/
def readQueue (x : Queue) (o : Nat) : Nat :=
  match o with
  | 0x00 => half x.base false
  | 0x04 => half x.base true
  | 0x08 => x.size
  | 0x0C => packBits [x.en, x.irq, x.diagOk] + 65536 * x.ctx.toNat
  | 0x10 => x.head
  | 0x14 => x.tail
  | 0x18 => packBits [x.err, x.adm, x.tailErr] + 256 * x.errCode.toNat
  | 0x1C => x.admInfo.toNat
  | _ => 0

/-- A register of the vector table (R392). -/
def readVector (e : VecEntry) (o : Nat) : Nat :=
  match o with
  | 0 => half e.addr false
  | 4 => half e.addr true
  | 8 => e.data.toNat
  | _ => packBits [e.mask, e.pend]

/-- A register of a device memory window (R390). -/
def readDmw (w : DmWindow) (o : Nat) : Nat :=
  match o with
  | 0 => half w.base false
  | 4 => half w.base true
  | 8 => w.ctx.toNat + 65536 * w.size + 2 ^ 30 * b1 w.mode + 2 ^ 31 * b1 w.en
  | _ => 0

/-- A power register but for the energy counters (R421). -/
def State.readPower (s : State) (o : Nat) : Nat :=
  let r := s.regs
  if o = 0 then 65536 * r.spl + r.noml
  else if o = 4 then 65536 * r.rearm + 256 * r.ivl + r.spz
  else if o = 8 then r.ocSticky.toNat
  else if o = 0xC then r.thresh.toNat
  else if 0x20 ≤ o ∧ o < 0x40 then at' (n := 8) ((o - 0x20) / 4) fun d => 65536 * (s.die d).droopCnt + (s.die d).dth.toNat
  else if 0x40 ≤ o ∧ o < 0x60 then at' (n := 8) ((o - 0x40) / 4) fun d =>
    let zs := (s.die d).zones.toList
    packBits (zs.map Zone.sprT ++ zs.map Zone.thrT ++ [(s.die d).crit])
  else if 0x60 ≤ o ∧ o < 0x80 then at' (n := 8) ((o - 0x60) / 4) fun d =>
    ((s.settleDie d).die d).zones.toList.foldr (fun z n => z.permits + 128 * b1 z.sprinting + 256 * n) 0
  else if 0x80 ≤ o ∧ o < 0xA0 then at' (n := 8) ((o - 0x80) / 4) fun d =>
    65536 * (wrap (s.railHi d) 16) + wrap (s.railLo d) 16
  else 0

/-- The front-end window (R389). -/
def State.readFront (s : State) (o : Nat) : Nat :=
  if o = 0 then s.pkgStat
  else if o = 8 then dumpLoc s.regs.dumpDie % 2 ^ 32
  else if o = 0xC then dumpLoc s.regs.dumpDie / 2 ^ 32
  else if o = 0x10 then s.regs.linkErr.toNat
  else if 0x100 ≤ o ∧ o < 0x200 then at' (n := 16) ((o - 0x100) / 16) fun w => readDmw s.dmws[w] (o % 16)
  else if o = 0x800 then s.fstat
  else if o = 0x804 then s.regs.fctl.toNat
  else if 0x1000 ≤ o ∧ o < 0x1400 then at' (n := 16) ((o - 0x1000) / 64) fun q => readQueue s.queues[q] (o % 64)
  else if 0x2000 ≤ o ∧ o < 0x2200 then at' (n := 32) ((o - 0x2000) / 16) fun v => readVector s.vecs[v] (o % 16)
  else if 0x3000 ≤ o ∧ o < 0x3200 then s.readPower (o - 0x3000)
  else 0

/-- A register of a stack's block (R360, R364, R377, R379, R380). -/
def readStack (k : Stack) (o : Nat) : Nat :=
  if 0x60 ≤ o ∧ o < 0xA0 then at' (n := 8) ((o - 0x60) / 8) fun i =>
    if o % 8 = 0 then (k.watch[i]).lo.toNat else (k.watch[i]).hi.toNat
  else match o with
    | 0x00 => 2 ^ 29 * packBits [k.ebOvf, k.ebUe, k.ebValid]
    | 0x04 => 65536 * k.ueCnt.toNat + k.ceCnt.toNat
    | 0x08 => k.ebPa % 2 ^ 32
    | 0x0C => k.ebPa / 2 ^ 32
    | 0x10 => 65536 * k.ebSrc.toNat + k.ebSym.toNat
    | 0x18 => half k.ebTime false
    | 0x1C => half k.ebTime true
    | 0x20 => 256 * k.pth.toNat + packBits [k.scrubEn, k.prune]
    | 0x24 => 65536 * k.spares + k.passes.toNat
    | 0x40 => half k.grVa false
    | 0x44 => half k.grVa true
    | 0x48 => k.grDst.toNat
    | 0x4C => 65536 * k.grCtx.toNat + 2 * b1 k.grForce
    | 0x50 => 256 * b1 k.grBusy + k.grResult.toNat
    | 0xA0 => half k.wlBase false
    | 0xA4 => half k.wlBase true
    | 0xA8 => k.wlSize.toNat
    | 0xAC => k.wlHead.toNat
    | 0xB0 => k.wlTail.toNat
    | 0xB4 => k.wlLost.toNat
    | 0xB8 => packBits [k.wlEn, k.wlIrq]
    | _ => 0

/-- The memory-control window (R357, R373, R374). -/
def State.readMem (s : State) (o : Nat) : Nat :=
  let r := s.regs
  if 0x1000 ≤ o ∧ o < 0x1800 then at' (n := 8) ((o - 0x1000) / 256) fun n => readStack s.hbm[n] (o % 256)
  else if 0x20 ≤ o ∧ o < 0x30 then at' (n := 4) ((o - 0x20) / 4) fun n =>
    let g := s.shadows[n]
    g.base + 65536 * g.limit + 2 ^ 31 * b1 g.en
  else match o with
    | 0x000 => 65536 * b1 r.mapBusy.isSome + r.mapSel.toNat
    | 0x004 => 256 * r.mapRank.toNat + packBits [r.mapDone, r.mapErr]
    | 0x008 => r.mapRowSel.toNat
    | 0x00C => r.mapRowLo.toNat
    | 0x010 => b1 r.mapRowHi
    | 0x200 => r.ctxBase % 2 ^ 32
    | 0x204 => r.ctxBase / 2 ^ 32
    | 0x208 => r.ctxCount
    | 0x210 => half r.fqBase false
    | 0x214 => half r.fqBase true
    | 0x218 => r.fqSize
    | 0x21C => r.fqHead.toNat
    | 0x220 => r.fqTail.toNat
    | 0x224 => r.fqLost.toNat
    | 0x230 => r.frTok.toNat
    | 0x240 => r.invCtx.toNat + 2 ^ 31 * b1 r.invAll
    | 0x244 => half r.invVa false
    | 0x248 => half r.invVa true
    | 0x24C => r.invLen.toNat
    | 0x250 => 256 * b1 r.invBusy
    | _ => 0

/-- A Cox register (R338). -/
def readCox (c : CoxRegs) (o : Nat) : Nat :=
  match o with
  | 0x0 => c.wn
  | 0x4 => 65536 * c.floor + c.limit
  | 0x8 => c.quiet
  | 0xC => 256 * c.canlim + wrap c.ceil 8
  | _ => 0

/-- A register of a port (R401). -/
def readPort (x : Port) (o : Nat) : Nat :=
  match o with
  | 0x00 => b1 x.en
  | 0x04 => packBits [x.up, x.fenced, x.viralIn, x.keyExh]
  | 0x08 => x.tagDrop.toNat
  | 0x0C => x.authDrop.toNat
  | 0x10 => x.timeouts.toNat
  | _ => 0

/-- A register of an import window (R401). -/
def readImp (x : ImportWin) (o : Nat) : Nat :=
  match o with
  | 0x00 => x.node.toNat + 2 ^ 20 * x.port.toNat + 2 ^ 24 * x.slot.toNat + 2 ^ 30 * packBits [x.drained, x.en]
  | 0x04 => x.xw.toNat
  | 0x08 => x.size % 65536 * 65536
  | 0x0C => x.size / 65536
  | _ => 0

/-- A register of an export window (R401). -/
def readExp (x : ExportWin) (o : Nat) : Nat :=
  match o with
  | 0x00 => 2 ^ 24 * x.slot.toNat + 2 ^ 29 * packBits [x.w, x.drained, x.en]
  | 0x08 => x.base % 65536 * 65536
  | 0x0C => x.base / 65536
  | 0x10 => x.size % 65536 * 65536
  | 0x14 => x.size / 65536
  | _ => 0

/-- The link window (R401). -/
def State.readLink (s : State) (o : Nat) : Nat :=
  if o = 0 then 65536 * s.regs.ownTag.toNat + s.regs.nodeId.toNat
  else if 0x100 ≤ o ∧ o < 0xD00 then at' (n := 12) ((o - 0x100) / 256) fun p => readPort s.ports[p] (o % 256)
  else if 0x2000 ≤ o ∧ o < 0x2400 then at' (n := 32) ((o - 0x2000) / 32) fun w => readImp s.imps[w] (o % 32)
  else if 0x4000 ≤ o ∧ o < 0x4400 then at' (n := 32) ((o - 0x4000) / 32) fun w => readExp s.exps[w] (o % 32)
  else 0

/-- A slot of the error log: slot 0 is the header (R405). -/
def State.logSlot (s : State) (n : Nat) : Nat := if n = 0 then s.regs.logNext else (Cells.get 0 s.errLog n).toNat

/-- The word at an aligned offset of the control space but for the energy counters; unassigned offsets read 0 (R389). -/
def State.ctlRead (s : State) (off : Nat) : Nat :=
  if off < 0x100000 then s.readFront off
  else if off < 0x200000 then s.readMem (off - 0x100000)
  else if off < 0x200200 then readCox (s.die (dieOf ((off - 0x200000) / 64))).cox (off % 64)
  else if 0x300000 ≤ off ∧ off < 0x310000 then s.readLink (off - 0x300000)
  else if 0x400000 ≤ off ∧ off < 0x410000 then bits (s.logSlot ((off - 0x400000) / 64)) (8 * (off % 64)) 32
  else 0

/-- A read of a word of the control space by the host or over the sideband. -/
def State.regRead (s : State) (port : EnergyPort) (off : Nat) : State × Word :=
  if 0x3100 ≤ off ∧ off < 0x3198 then
    match fin? 19 ((off - 0x3100) / 8) with
    | some i => if off % 8 = 0 then s.energyLow port i else (s, s.energyHigh port i)
    | none => (s, 0)
  else (s, BitVec.ofNat 32 (s.ctlRead off))

/-! ## Writing (R7, R8) -/

/-- FSTAT bits cleared by writing 1. -/
def State.clearFstat (s : State) (v : Word) : State :=
  let r := s.regs
  s.setRegs { r with corr := r.corr && !v.getLsbD 0, dfence := r.dfence && !v.getLsbD 1, pfault := r.pfault && !v.getLsbD 2,
                     tfence := r.tfence && !v.getLsbD 3 }

/-- A register of a queue written. While the queue is read its ring stays (R291). -/
def State.writeQueue (s : State) (q : Fin 16) (o : Nat) (v : Word) : State :=
  let x := s.queue q
  let ring (y : Queue) : State := if x.en then s else s.setQueue q y
  match o with
  | 0x00 => ring { x with base := putHalf x.base false (dropLow v 6) }
  | 0x04 => ring { x with base := putHalf x.base true v }
  | 0x08 => if 4 ≤ v.toNat % 32 ∧ v.toNat % 32 ≤ 16 then ring { x with size := v.toNat % 32 } else s
  | 0x0C => s.writeQctl q v
  | 0x14 => s.writeQtail q v
  | 0x18 =>
    let s := s.setQueue q { x with tailErr := x.tailErr && !v.getLsbD 2, adm := x.adm && !v.getLsbD 1 }
    if v.getLsbD 0 then s.clearQerr q else s
  | _ => s

/-- MASK of a vector written: clearing it with PEND set sends the held message (R392). -/
def State.writeMask (s : State) (v : Fin 32) (mask : Bool) : State :=
  let e := s.vecs[v]
  let s := { s with vecs := s.vecs.set v.val { e with mask := mask, pend := e.pend && mask } v.isLt }
  if e.pend && !mask then s.raiseVector v.val else s

/-- A register of the vector table written. -/
def State.writeVector (s : State) (v : Fin 32) (o : Nat) (w : Word) : State :=
  let e := s.vecs[v]
  let put (e : VecEntry) : State := { s with vecs := s.vecs.set v.val e v.isLt }
  match o with
  | 0 => put { e with addr := putHalf e.addr false w }
  | 4 => put { e with addr := putHalf e.addr true w }
  | 8 => put { e with data := w }
  | _ => s.writeMask v (w.getLsbD 0)

/-- A register of a device memory window written. -/
def State.writeDmw (s : State) (n : Fin 16) (o : Nat) (v : Word) : State :=
  let w := s.dmws[n]
  let put (w : DmWindow) : State := { s with dmws := s.dmws.set n.val w n.isLt }
  let size := v.toNat / 65536 % 64
  match o with
  | 0 => put { w with base := putHalf w.base false v }
  | 4 => put { w with base := putHalf w.base true v }
  | 8 => put { w with en := v.getLsbD 31, mode := v.getLsbD 30, ctx := v.setWidth 16,
                      size := if 21 ≤ size ∧ size ≤ 32 then size else w.size }
  | _ => s

/-- SPCTL written: REARM and IVL keep values that they cannot take. -/
def PkgRegs.writeSpctl (r : PkgRegs) (v : Word) : PkgRegs :=
  let rearm := v.toNat / 65536 % 256
  let ivl := v.toNat / 256 % 256
  { r with rearm := if 1 ≤ rearm ∧ rearm ≤ 64 then rearm else r.rearm, ivl := if ivl = 0 then r.ivl else ivl }

/-- A power register written (R421). -/
def State.writePower (s : State) (o : Nat) (v : Word) : State :=
  if o = 4 then s.setRegs (s.regs.writeSpctl v)
  else if o = 8 then s.clearSticky (v.setWidth 19)
  else if o = 0xC then s.setRegs { s.regs with thresh := BitVec.ofNat 32 (v.toNat % 2 ^ 24) }
  else if 0x20 ≤ o ∧ o < 0x40 then on' (n := 8) s ((o - 0x20) / 4) fun d =>
    s.setDie d { s.die d with droopCnt := v.toNat / 65536, dth := v.setWidth 5 }
  else s

/-- The front-end window written. -/
def State.writeFront (s : State) (o : Nat) (v : Word) : State :=
  if o = 0x10 then s.setRegs { s.regs with linkErr := v }
  else if 0x100 ≤ o ∧ o < 0x200 then on' (n := 16) s ((o - 0x100) / 16) fun w => s.writeDmw w (o % 16) v
  else if o = 0x800 then s.clearFstat v
  else if o = 0x804 then s.setRegs { s.regs with fctl := v.setWidth 4 }
  else if 0x1000 ≤ o ∧ o < 0x1400 then on' (n := 16) s ((o - 0x1000) / 64) fun q => s.writeQueue q (o % 64) v
  else if 0x2000 ≤ o ∧ o < 0x2200 then on' (n := 32) s ((o - 0x2000) / 16) fun x => s.writeVector x (o % 16) v
  else if 0x3000 ≤ o ∧ o < 0x3200 then s.writePower (o - 0x3000) v
  else s

/-- A register of a stack's block that only holds what is written to it. -/
def Stack.put (k : Stack) (o : Nat) (v : Word) : Stack :=
  if 0x60 ≤ o ∧ o < 0xA0 then
    match fin? 8 ((o - 0x60) / 8) with
    | some i =>
      let w := k.watch[i]
      let w := if o % 8 = 0 then { w with lo := v } else { w with hi := v &&& 0x87FFFFFF }
      { k with watch := k.watch.set i.val w i.isLt }
    | none => k
  else match o with
    | 0x04 => { k with ueCnt := v.extractLsb' 16 16, ceCnt := v.setWidth 16 }
    | 0x20 => { k with pth := if v.toNat / 256 % 256 = 0 then k.pth else v.extractLsb' 8 8, prune := v.getLsbD 1,
                       scrubEn := v.getLsbD 0 }
    | 0x40 => { k with grVa := putHalf k.grVa false (dropLow v 21) }
    | 0x44 => { k with grVa := putHalf k.grVa true v }
    | 0x48 => { k with grDst := dropLow v 14 }
    | 0x4C => { k with grCtx := v.extractLsb' 16 16, grForce := v.getLsbD 1 }
    | 0xA0 => { k with wlBase := putPa k.wlBase false v 12 }
    | 0xA4 => { k with wlBase := putPa k.wlBase true v 12 }
    | 0xA8 => if 6 ≤ v.toNat % 32 ∧ v.toNat % 32 ≤ 16 then { k with wlSize := v.setWidth 5 } else k
    | 0xAC => { k with wlHead := v }
    | 0xB4 => { k with wlLost := k.wlLost &&& ~~~v }
    | 0xB8 => { k with wlEn := v.getLsbD 0, wlIrq := v.getLsbD 1 }
    | _ => k

/-- A register of a stack's block written. A lower pruning score prunes the rows that have reached it, after the halvings that
are due (R363). -/
def State.writeStack (s : State) (n : Fin 8) (o : Nat) (v : Word) : State :=
  if o = 0 then (if v.getLsbD 31 then s.clearBank n else s)
  else
    let s := if o = 0x20 then s.halveDue else s
    let s := s.setStack n ((s.stack n).put o v)
    if o = 0x4C ∧ v.getLsbD 0 then s.startGraft n
    else if o = 0x20 then (s.stack n).dueRows.foldl (fun s r => s.pruneRow n r) s
    else s

/-- A shadow of a region's bounds written (R357). -/
def State.writeRegion (s : State) (n : Fin 4) (v : Word) : State :=
  { s with shadows := s.shadows.set n.val { s.shadows[n] with en := v.getLsbD 31, limit := v.toNat / 65536 % 512,
                                                              base := v.toNat % 512 } n.isLt }

/-- FRACT written (R373). -/
def State.writeFract (s : State) (v : Word) : State :=
  if v.toNat % 4 = 1 then s.retryToken else if v.toNat % 4 = 2 then s.failToken else s

/-- The memory-control window written. -/
def State.writeMem (s : State) (o : Nat) (v : Word) : State :=
  let r := s.regs
  if 0x1000 ≤ o ∧ o < 0x1800 then on' (n := 8) s ((o - 0x1000) / 256) fun n => s.writeStack n (o % 256) v
  else if 0x20 ≤ o ∧ o < 0x30 then on' (n := 4) s ((o - 0x20) / 4) fun n => s.writeRegion n v
  else match o with
    | 0x000 => s.writeMapctl v
    | 0x004 => s.setRegs { r with mapErr := r.mapErr && !v.getLsbD 1, mapDone := r.mapDone && !v.getLsbD 0 }
    | 0x008 => s.setRegs { r with mapRowSel := v.setWidth 6 }
    | 0x00C => s.setRegs { r with mapRowLo := v }
    | 0x010 => s.storeRow v
    | 0x200 => s.setRegs { r with ctxBase := (putPa (BitVec.ofNat 64 r.ctxBase) false v 6).toNat }
    | 0x204 => s.setRegs { r with ctxBase := (putPa (BitVec.ofNat 64 r.ctxBase) true v 6).toNat }
    | 0x208 => if v.toNat % 2 ^ 17 ≤ 65536 then s.setRegs { r with ctxCount := v.toNat % 2 ^ 17 } else s
    | 0x210 => s.setRegs { r with fqBase := putHalf r.fqBase false (dropLow v 12) }
    | 0x214 => s.setRegs { r with fqBase := putHalf r.fqBase true v }
    | 0x218 => if 7 ≤ v.toNat % 32 ∧ v.toNat % 32 ≤ 16 then (s.setRegs { r with fqSize := v.toNat % 32 }).flushHeld else s
    | 0x21C => s.writeFqhead v
    | 0x224 => s.setRegs { r with fqLost := r.fqLost &&& ~~~v }
    | 0x230 => s.setRegs { r with frTok := v }
    | 0x234 => s.writeFract v
    | 0x240 => s.setRegs { r with invAll := v.getLsbD 31, invCtx := v.setWidth 16 }
    | 0x244 => s.setRegs { r with invVa := putHalf r.invVa false v }
    | 0x248 => s.setRegs { r with invVa := putHalf r.invVa true v }
    | 0x24C => s.setRegs { r with invLen := v }
    | 0x250 => if v.getLsbD 0 then s.startInvalidate else s
    | _ => s

/-- A Cox register with a word written to it (R338). -/
def CoxRegs.put (c : CoxRegs) (o : Nat) (v : Word) : CoxRegs :=
  let wn := v.toNat % 32
  match o with
  | 0x0 => if 5 ≤ wn ∧ wn ≤ 24 then { c with wn := wn } else c
  | 0x4 => { c with floor := v.toNat / 65536, limit := v.toNat % 65536 }
  | 0x8 => if v.toNat % 65536 = 0 then c else { c with quiet := v.toNat % 65536 }
  | 0xC => { c with canlim := v.toNat / 256 % 65536, ceil := sext (v.toNat % 256) 8 }
  | _ => c

/-- The Cox block of a die written. -/
def State.writeCox (s : State) (d : Fin 8) (o : Nat) (v : Word) : State := s.setDie d { s.die d with cox := (s.die d).cox.put o v }

/-- A register of a port written (R401). -/
def State.writePort (s : State) (p : Fin 12) (o : Nat) (v : Word) : State :=
  match o with
  | 0x00 => s.writeLctl p (v.getLsbD 0)
  | 0x08 => s.setPort p { s.port p with tagDrop := v }
  | 0x0C => s.setPort p { s.port p with authDrop := v }
  | 0x10 => s.setPort p { s.port p with timeouts := v }
  | _ => s

/-- A register of an import window written: while it is usable, only EN. -/
def State.writeImp (s : State) (w : Fin 32) (o : Nat) (v : Word) : State :=
  let x := s.imps[w]
  let put (x : ImportWin) : State := { s with imps := s.imps.set w.val x w.isLt }
  if x.en then (if o = 0 ∧ !v.getLsbD 31 then s.revoke .imp w else s)
  else match o with
    | 0x00 => put { x with en := v.getLsbD 31, slot := v.extractLsb' 24 4, port := v.extractLsb' 20 4, node := v.setWidth 16,
                           drained := if v.getLsbD 31 then !s.winBusy w else x.drained }
    | 0x04 => put { x with xw := v.setWidth 5 }
    | 0x08 => put { x with size := x.size / 65536 * 65536 + v.toNat / 65536 }
    | 0x0C => put { x with size := v.toNat * 65536 + x.size % 65536 }
    | _ => s

/-- A register of an export window written: while it is open, only EN. -/
def State.writeExp (s : State) (w : Fin 32) (o : Nat) (v : Word) : State :=
  let x := s.exps[w]
  let put (x : ExportWin) : State := { s with exps := s.exps.set w.val x w.isLt }
  if x.en then (if o = 0 ∧ !v.getLsbD 31 then s.revoke .exp w else s)
  else match o with
    | 0x00 => put { x with en := v.getLsbD 31, w := v.getLsbD 29, slot := v.extractLsb' 24 4,
                           drained := if v.getLsbD 31 then !s.expBusy w else x.drained }
    | 0x08 => put { x with base := x.base / 65536 * 65536 + v.toNat / 65536 }
    | 0x0C => put { x with base := v.toNat % 128 * 65536 + x.base % 65536 }
    | 0x10 => put { x with size := x.size / 65536 * 65536 + v.toNat / 65536 }
    | 0x14 => put { x with size := v.toNat % 128 * 65536 + x.size % 65536 }
    | _ => s

/-- The link window written. -/
def State.writeLink (s : State) (o : Nat) (v : Word) : State :=
  if 0x100 ≤ o ∧ o < 0xD00 then on' (n := 12) s ((o - 0x100) / 256) fun p => s.writePort p (o % 256) v
  else if 0x2000 ≤ o ∧ o < 0x2400 then on' (n := 32) s ((o - 0x2000) / 32) fun w => s.writeImp w (o % 32) v
  else if 0x4000 ≤ o ∧ o < 0x4400 then on' (n := 32) s ((o - 0x4000) / 32) fun w => s.writeExp w (o % 32) v
  else s

/-- A word of the control space written at an aligned offset; writes of unassigned and read-only offsets are discarded, and before
READY those of the front-end window (R386). DESIGN CHOICE, notes/assumptions/55.md. -/
def State.ctlWrite (s : State) (off : Nat) (v : Word) : State :=
  if off < 0x100000 then (if s.regs.ready then s.writeFront off v else s)
  else if off < 0x200000 then s.writeMem (off - 0x100000) v
  else if off < 0x200200 then s.writeCox (dieOf ((off - 0x200000) / 64)) (off % 64) v
  else if 0x300000 ≤ off ∧ off < 0x310000 then s.writeLink (off - 0x300000) v
  else s

/-! ## The host's accesses (R388, R390, R391) -/

/-- Bytes of the control space: BAR0. -/
def controlSize : Nat := 0x2000000

/-- Whether an access of the control space is one that R388 allows. -/
def ctlAligned (off n : Nat) : Bool := (n == 4 || n == 8) && off % n == 0

/-- An access that LINKERR counts. -/
def State.countLinkErr (s : State) : State := s.setRegs { s.regs with linkErr := satAdd32 s.regs.linkErr 1 }

/-- What a reader gets. -/
def State.replies (s : State) (code : Byte) (data : List Byte) : State := { s with reply := some ⟨code, data⟩ }

/-- A number of all-ones bytes. -/
def allOnes (n : Nat) : List Byte := List.replicate n 0xFF

/-- HOST_READ (R388, R391): the lower word first. A viral package answers with error status and all ones (R322). DEDUCED,
notes/assumptions/57.md. -/
def execHostRead (off : Nat) (size : Nat) (s : State) : Result :=
  if controlSize < off + size then .refused (.notEnabled "HOST_READ")
  else if s.regs.viral then .next (s.replies 1 (allOnes size))
  else if !ctlAligned off size then .next (s.countLinkErr.replies 0 (allOnes size))
  else
    let (s, lo) := s.regRead .host off
    if size = 4 then .next (s.replies 0 (bytesOfNat 4 lo.toNat))
    else
      let (s, hi) := s.regRead .host (off + 4)
      .next (s.replies 0 (bytesOfNat 4 lo.toNat ++ bytesOfNat 4 hi.toNat))

/-- HOST_WRITE (R388, R391): of the control space, or by the host's own software of its memory. -/
def execHostWrite (dst : HostDest) (addr : Nat) (data : List Byte) (s : State) : Result :=
  match dst with
  | .hostMem => .next { s.settleAt true addr data.length with hostMem := Cells.setRange 0 s.hostMem addr data }
  | .control =>
    if controlSize < addr + data.length then .refused (.notEnabled "HOST_WRITE")
    else if s.regs.viral then .next s
    else if !ctlAligned addr data.length then .next s.countLinkErr
    else
      let w (o : Nat) : Word := BitVec.ofNat 32 (field data o 4)
      let s := s.ctlWrite addr (w 0)
      .next (if data.length = 8 then s.ctlWrite (addr + 4) (w 4) else s)

/-- REGISTER_WRITE (R7). -/
def execRegisterWrite (off : Nat) (v : Word) (s : State) : Result :=
  if controlSize < off + 4 then .refused (.notEnabled "REGISTER_WRITE")
  else if s.regs.viral then .next s
  else .next (if off % 4 = 0 then s.ctlWrite off v else s.countLinkErr)

/-- VECTOR_UNMASK (R392). -/
def execVectorUnmask (v : Fin 32) (s : State) : Result := .next (if !s.frontOpen then s else s.writeMask v false)

/-- Bytes that an aperture access reads or writes. -/
def apertureLength : ApertureOp → Nat
  | .read n => n
  | .write bs => bs.length

/-- An aperture access that completes with error status. -/
def State.apertureError (s : State) (acc : ApertureOp) : State :=
  match acc with
  | .read n => s.replies 1 (allOnes n)
  | .write _ => s.replies 1 []

/-- The watch identity of a host write (R380). -/
def hostWatch : WatchSrc := ⟨3, 0xFFFF, 0⟩

/-- The result of a host access by physical address that failed; a line in no mapping region has its record (R355). -/
def State.hostError (s : State) (e : MemErr) (write : Bool) (pa : Nat) (acc : ApertureOp) : State :=
  (if e = .unmapped then s.faultNow (frontEnd 0) .paErr write pa else s).apertureError acc

/-- A host access at a physical address. -/
def State.hostPhys (s : State) (pa : Nat) (acc : ApertureOp) : State :=
  match acc with
  | .read n =>
    let (s, r) := s.readDevBy .host pa n
    match r with
    | .ok bs => s.replies 0 bs
    | .error e => s.hostError e false pa acc
  | .write bs =>
    let made := (s.madeRanges pa bs.length).map fun x => (x.1, x.2, none)
    let (s, r) := s.writeDev pa bs
    let s := s.logWrites hostWatch made
    match r with
    | .ok _ => s.replies 0 []
    | .error e => s.hostError e true pa acc

/-- A host access at a virtual address. -/
def State.hostVirt (s : State) (c : BitVec 16) (va : Nat) (acc : ApertureOp) : State :=
  match acc with
  | .read n =>
    let (s, r) := s.feReadGo .host false c va n
    match r with
    | some bs => s.replies 0 bs
    | none => s.apertureError acc
  | .write bs =>
    let (s, ok) := s.feWriteGo hostWatch (frontWriter c 4) false c bs (pagesOf va bs.length)
    if ok then s.replies 0 [] else s.apertureError acc

/-- APERTURE_ACCESS (R390). DEDUCED, notes/assumptions/57.md. -/
def execApertureAccess (off : Nat) (acc : ApertureOp) (s : State) : Result :=
  match fin? 16 (off / 2 ^ 32) with
  | none => .refused (.notEnabled "APERTURE_ACCESS")
  | some n =>
    let w := s.dmws[n]
    let f := off % 2 ^ 32
    if !s.frontOpen then .next (s.apertureError acc)
    else if !w.en || decide (2 ^ w.size < f + Nat.max 1 (apertureLength acc)) then .next (s.apertureError acc)
    else if w.mode then .next (s.hostVirt w.ctx ((w.base.toNat + f) % 2 ^ 64) acc)
    else .next (s.hostPhys (w.base.toNat + f) acc)

end Sys2Proof.Machine
end

