-- ==== Sys2Proof/Machine/Contain.lean ====
section
/-! DEFINITION. The die fence, the viral state and the dump (spec/11_traps_and_faults.md R319-R322;
14_package_links_and_management.md R406). -/

namespace Sys2Proof.Machine

/-! ## The dump (R406) -/

/-- The words at consecutive offsets of the control space, as bytes. -/
def State.ctlBytes (s : State) (off words : Nat) : List Byte := (List.range words).flatMap fun j => bytesOfNat 4 (s.ctlRead (off + 4 * j))

/-- The resident launches on a die. -/
def State.residents (s : State) (d : Fin 8) : List (Launch × DieLaunch) :=
  s.launches.filterMap fun l => if l.isResident then (l.part? d).map fun p => (l, p) else none

/-- The seven sections after the header, in order. -/
def State.dumpSections (s : State) : List (List Byte) :=
  let dies := List.finRange 8
  [s.ctlBytes 0x800 1 ++ bytesOfNat 4 s.regs.ocSticky.toNat ++ bytesOfNat 4 s.pkgStat,
   dies.flatMap fun n => s.ctlBytes (0x101000 + 0x100 * n.val) 8,
   (List.range 1024).flatMap fun n => bytesOfNat 64 (s.logSlot n),
   s.launches.flatMap fun l => l.records.flatMap id,
   dies.flatMap fun d => (s.residents d).flatMap fun x => frontierRecord x.1 x.2 [] 0,
   (List.range 16).flatMap (fun q => s.ctlBytes (0x1000 + 0x40 * q) 8) ++
     dies.flatMap fun d => (s.residents d).flatMap fun x => x.1.record.take 256,
   (List.range 12).flatMap (fun p => s.ctlBytes (0x300100 + 0x100 * p) 5) ++
     (List.range 32).flatMap (fun w => s.ctlBytes (0x302000 + 0x20 * w) 4) ++
     (List.range 32).flatMap fun w => s.ctlBytes (0x304000 + 0x20 * w) 6]

/-- The header's place of each section: offset and length. -/
def sectionTable : Nat → List (List Byte) → List Byte
  | _, [] => []
  | at', x :: xs => bytesOfNat 8 at' ++ bytesOfNat 8 x.length ++ sectionTable (at' + x.length) xs

/-- The 4 KiB header with a CRC word. -/
def dumpHeader (crc time cls entry : Nat) (sections : List (List Byte)) : List Byte :=
  padTo 4096 (bytesOfNat 2 2 ++ bytesOfNat 2 sections.length ++ bytesOfNat 4 crc ++ bytesOfNat 8 time ++ bytesOfNat 8 cls ++
    bytesOfNat 8 0 ++ bytesOfNat 64 entry ++ sectionTable 4096 sections)

/-- A dump of a cause class with its error-log entry. DESIGN CHOICE, notes/assumptions/56.md. -/
def State.dumpImage (s : State) (cls entry : Nat) : List Byte :=
  let xs := s.dumpSections
  let body := xs.flatMap id
  dumpHeader (crcFeed 0 (dumpHeader 0 s.time cls entry xs ++ body)) s.time cls entry xs ++ body

/-- A dump taken: it is written within a second, and held (R406). DESIGN CHOICE, notes/assumptions/56.md. -/
def State.takeDump (s : State) (cls entry : Nat) : State :=
  { s with draws := s.draws + 1 }.setRegs
    { s.regs with dump := some (s.dumpImage cls entry), dumpEnd := s.time + Config.dumpTime s.draws % 1000000001 }

/-! ## The viral state (R322) -/

/-- Every tile stops; each that runs ends what it has started. -/
def State.stopTiles (s : State) (ts : List TileId) : State :=
  ts.foldl (fun s i => if (s.tile i).act = .idle ∨ (s.tile i).act = .stopped then s else s.stopTile i) s

/-- The last entry of the error log. -/
def State.lastEntry (s : State) : Nat := s.logSlot (if s.regs.logNext = 1 then 1023 else s.regs.logNext - 1)

/-- A package-fatal error of a source: nothing but viral flits leaves the package from now on (R394), every tile stops, and the state is
dumped. DEDUCED, notes/assumptions/64.md. -/
def State.enterViral (s : State) (src unit : Nat) : State :=
  if s.regs.viral then s
  else
    let s : State := { s with ports := s.ports.map Port.tellViral }
    let s := s.setRegs { s.regs with viral := true }
    let s := (s.stopTiles allTiles).logPlain 4 src unit
    s.takeDump 4 s.lastEntry

/-- VIRAL_ENTRY (R322). -/
def execViralEntry (s : State) : Result :=
  if s.regs.viral then .refused (.notEnabled "VIRAL_ENTRY")
  else .next (({ s with draws := s.draws + 1 }).enterViral (Config.errorSource s.draws).toNat 0)

/-! ## The die fence (R321) -/

/-- The record of a tile that a die fence stops (R313, R321 step 4). -/
def State.fenceRecord (s : State) (i : TileId) : State :=
  let t := s.tile i
  if t.act = .idle ∨ t.act = .stopped then s
  else s.captureRecord t.pt.handle i.die 3 (trapRecord t i (if t.k.trapped then 1 else 3) 3 s.time 0 0)

/-- Whether a started copy has yet to write what a fence keeps it from reaching. -/
def State.copyCut (s : State) (i : TileId) (c : CopyCmd) : Bool :=
  c.stage == .started && ((s.copyBusy i c.id && s.linkBlocked i.die 1) || c.writes.any fun w => match w.dest with
    | .dev pa _ _ =>
      (match s.coord (pa / 64) with
       | some x => (s.die (coordStack x)).fenced || s.routeBlocked i.die (coordStack x)
       | none => false)
    | .hostMem _ _ _ => s.linkBlocked i.die 0
    | .spad _ _ => false)

/-- A launch that a fence ends: a resident one faults, a waiting one never becomes resident and its command completes. -/
def State.fenceLaunch (s : State) (l : Launch) : State :=
  if l.phase == .waiting then
    let s := (s.dropLaunch l.handle).storeCword l faultBit
    match (s.queue l.queue).fetched with
    | some c => s.completeFetched l.queue c
    | none => s
  else s.faultLaunch l.handle

/-- A tile comes to its fence: a sleeping one wakes and sweeps its plane before it gives up its state, where a bad cell traps 0x0F (R20,
R21); the clock of any other that runs has gone on (R25). -/
def State.sweepFirst (s : State) (i : TileId) : State :=
  let t := s.tile i
  match t.inflight with
  | some b =>
    if t.asleep then
      let s := s.setTile i { t.swept with asleep := false }
      match t.badPlane with
      | some d => s.takeTrap i 0x0F d 0 b.first b.start
      | none => s
    else s.setTile i (t.atStop i)
  | none => if t.act == .idle || t.act == .stopped then s else s.setTile i (t.atStop i)

/-- The steps of a die fence for an error of a source; the last two come when the launches that name the die are done with. DEDUCED,
notes/assumptions/63.md. -/
def State.fenceDie (s : State) (d : Fin 8) (src : Nat) : State :=
  let s := s.setDie d { s.die d with fenced := true, fencing := true }
  let s := (tilesOf d).foldl State.sweepFirst s
  let s := (tilesOf d).foldl State.fenceRecord s
  let s := s.stopTiles (tilesOf d)
  let s := s.eachCopy s.copyCut fun s i c => s.copyFails i c.id .fencedStack
  let s := (s.launches.filter fun l => l.names d && !l.gone).foldl State.fenceLaunch s
  let s := (tilesOf d).foldl State.settleStopped s
  (s.logPlain 3 src d.val).settleFences

/-- DIE_FENCE (R321). -/
def execDieFence (d : Fin 8) (s : State) : Result :=
  if (s.die d).fenced || s.regs.viral then .refused (.notEnabled "DIE_FENCE")
  else .next (({ s with draws := s.draws + 1 }).fenceDie d (Config.errorSource s.draws).toNat)

/-- DIE_FENCE_TIMEOUT (R321): the ports of a failing die are not blocked in time, and the error is package-fatal. -/
def execDieFenceTimeout (d : Fin 8) (s : State) : Result :=
  if (s.die d).fenced || s.regs.viral then .refused (.notEnabled "DIE_FENCE_TIMEOUT")
  else
    let s := ((tilesOf d).foldl State.sweepFirst s).stopTiles (tilesOf d)
    .next (({ s with draws := s.draws + 1 }).enterViral (Config.errorSource s.draws).toNat d.val)

end Sys2Proof.Machine
end

