-- ==== Sys2Proof/Machine/Reset.lean ====
section
/-! DEFINITION. Power and reset (spec/14_package_links_and_management.md R385-R387; 12_elastic_timing_and_margin.md R348, R352). -/

namespace Sys2Proof.Machine

/-! ## The check of the Margin Record Store (R352) -/

/-- Which of two copies is used, by their CRC marks and sequence numbers: A, B, or none. -/
def useCopy (badA badB : Bool) (seqA seqB : Nat) : Option Bool :=
  if badA && badB then none else if badA then some false else if badB then some true else some (decide (seqB ≤ seqA))

/-- A site after the check: both copies and the live record are the copy used; with both bad it is left as it is. -/
def Site.checked (x : Site) : Site :=
  match useCopy x.badA x.badB x.copyA.rseq x.copyB.rseq with
  | none => { x with live := x.copyA, due := false, fallAt := none, tear := none }
  | some a =>
    let r := if a then x.copyA else x.copyB
    { x with live := r, copyA := r, copyB := r, badA := false, badB := false, due := false, fallAt := none, tear := none }

/-- The headers after the check. -/
def checkedHeaders (h : Vector MrsHeader 2) : Vector MrsHeader 2 :=
  match useCopy (h[0]).bad (h[1]).bad (h[0]).hseq (h[1]).hseq with
  | none => h
  | some a => Vector.replicate 2 (if a then h[0] else h[1])

/-- Whether both copies of a record or of the header fail their CRC. -/
def State.storeLost (s : State) : Bool := ((s.headers[0]).bad && (s.headers[1]).bad) || s.sites.toList.any fun x => x.badA && x.badB

/-! ## Bring-up (R386) -/

/-- A tile as its die powers up: nominal bin at its recorded offset, or bin 0 where bin 1 is barred (R352, R408). -/
def bringUpTile (x : Site) (v1 : Nat) : Tile :=
  { Tile.reset with vf := ⟨(v1 : Int) + 5 * (x.live.bins[1]).offset, if (x.live.bins[1]).bar then 0 else 1⟩ }

/-- What no reset of the package touches: the store, the host's memory, and the model's own bookkeeping. -/
def State.keepAll (s : State) (t : State) : State :=
  { t with sites := s.sites, headers := s.headers, hostMem := s.hostMem, inbox := s.inbox, focus := s.focus,
           draws := s.draws, nextId := s.nextId }

/-- What a package reset keeps besides: the error log, the sticky over-current cause with the alarms as they stand, the energy
counters, the rows remapped, the dump, and what the sensors read. -/
def State.keepPackage (s : State) (t : State) : State :=
  { t with
    errLog := s.errLog, energy := s.energy,
    tiles := Vector.ofFn fun n : Fin 640 => { Tile.reset with temp := (s.tiles[n]).temp },
    hbm := Vector.ofFn fun n : Fin 8 =>
      { t.hbm[n] with spares := (s.hbm[n]).spares, spareUse := (s.hbm[n]).spareUse, remapped := (s.hbm[n]).remapped },
    regs := { t.regs with logNext := s.regs.logNext, ocSticky := s.regs.ocSticky, ocAlarm := s.regs.ocAlarm, dump := s.regs.dump, dumpEnd := s.regs.dumpEnd,
                          lastRst := .package } }

/-- LTIME runs on: LBASE takes LLAST, and the header is written (R348). -/
def State.rebase (s : State) : State :=
  let h := s.headers[0]
  s.writeHeader { h with lbase := h.llast }

/-- Firmware reserves room for the dump in the lowest-numbered stack that is not fenced (R406). -/
def State.reserveDump (s : State) : State :=
  s.setRegs { s.regs with dumpDie := ((List.finRange 8).find? fun d => !(s.die d).fenced).getD 0 }

/-- The steps of bring-up after what the reset keeps: the store is checked, LTIME rebased, the tiles power up at their records'
voltages, the sensors are read, and a UCIe module that fails training fences its die (R384): of which dies is free. A store that
is lost is package-fatal, and no later step runs: READY is not set. -/
def State.bringUp (s : State) : State :=
  let untrained := Config.untrained s.draws
  let s := { s with draws := s.draws + 1 }
  let lost := s.storeLost
  let s := { s with sites := s.sites.map Site.checked, headers := checkedHeaders s.headers }
  let s := if lost then s else s.rebase
  let v1 := (s.headers[0]).vref[1]
  let s := { s with tiles := Vector.ofFn fun n : Fin 640 => { bringUpTile s.sites[n] v1 with temp := (s.tiles[n]).temp } }
  let s := allZones.foldl (fun s p => match zoneTiles p.1 p.2 with
    | i :: _ => s.readSensor i (s.tile i).temp
    | [] => s) s
  if lost then (s.setRegs { s.regs with ready := false }).enterViral 5 0
  else ((List.finRange 8).foldl (fun s d => if untrained.getLsbD d.val then s.fenceDie d 2 else s) s).reserveDump

/-- COLD_RESET (R385): power is applied. -/
def execColdReset (s : State) : Result :=
  if s.regs.powered then .refused (.notEnabled "COLD_RESET") else .next (s.keepAll State.reset).bringUp

/-- A reset of the package (R385). DEDUCED, notes/assumptions/65.md. -/
def State.resetPackage (s : State) : State := (s.keepPackage (s.keepAll State.reset)).bringUp

/-- PACKAGE_RESET (R385). -/
def execPackageReset (s : State) : Result := .next s.resetPackage

/-- HOST_LINK_RESET (R385): all package state stays. -/
def execHostLinkReset (s : State) : Result := .next (s.setRegs { s.regs with lastRst := .hostLink })

/-- A record as a write leaves it in which power is lost; copy B held `old` before (R351 item 5). -/
def Site.torn (x : Site) (old : SiteRec) (bad : Bool) : TornStage → Site
  | .inA => { x with badA := true, copyB := old, badB := bad }
  | .between => { x with copyB := old, badB := bad }
  | .inB => { x with badB := true }

/-- The headers as a write leaves them in which power is lost (R348). -/
def tornHeaders (h : Vector MrsHeader 2) (old : MrsHeader) : TornStage → Vector MrsHeader 2
  | .inA => #v[{ h[0] with bad := true }, old]
  | .between => #v[h[0], old]
  | .inB => #v[h[0], { h[1] with bad := true }]

/-- The package without power: only the store stays, and what is outside the package. -/
def State.powerOff (s : State) : State := { s.keepAll State.reset with regs := { PkgRegs.reset with powered := false, ready := false } }

/-- POWER_REMOVAL (R385): only the store stays. Power lost at the TIME of a write to the store may be lost in it (R348, R351, R353).
DEDUCED, notes/assumptions/66.md. -/
def execPowerRemoval (torn : Option (StoreWrite × TornStage)) (s : State) : Result :=
  match torn with
  | none => .next s.powerOff
  | some (.header, g) => match s.regs.headTear with
    | some (t, old) =>
      if t = s.time then .next { s.powerOff with headers := tornHeaders s.headers old g } else .refused (.notEnabled "POWER_REMOVAL")
    | none => .refused (.notEnabled "POWER_REMOVAL")
  | some (.site i, g) => match (s.site i).tear with
    | some (t, old, bad) =>
      if t = s.time then .next (s.powerOff.setSite i ((s.site i).torn old bad g)) else .refused (.notEnabled "POWER_REMOVAL")
    | none => .refused (.notEnabled "POWER_REMOVAL")

end Sys2Proof.Machine
end

