-- ==== Sys2Proof/Machine/Scalar.lean ====
section
/-! DEFINITION. NOP and the S-unit instructions (spec/02_formats_and_opcode_map.md R78, 04_isa_scalar_and_control.md R114-R121):
32-bit integer work on the scalar file. -/

namespace Sys2Proof.Machine

/-! ## The functions -/

/-- Signed division truncating toward zero, with its two settled cases (R118). -/
def sdiv (a b : Word) : Word :=
  if b = 0 then 0xFFFFFFFF
  else if a = 0x80000000 ∧ b = 0xFFFFFFFF then 0x80000000
  else BitVec.ofInt 32 (a.toInt.tdiv b.toInt)
/-- Unsigned division (R118). -/
def udiv (a b : Word) : Word := if b = 0 then 0xFFFFFFFF else BitVec.ofNat 32 (a.toNat / b.toNat)
/-- Signed remainder, of the dividend's sign (R118). -/
def srem (a b : Word) : Word :=
  if b = 0 then a
  else if a = 0x80000000 ∧ b = 0xFFFFFFFF then 0
  else BitVec.ofInt 32 (a.toInt.tmod b.toInt)
/-- Unsigned remainder (R118). -/
def urem (a b : Word) : Word := if b = 0 then a else BitVec.ofNat 32 (a.toNat % b.toNat)
/-- 1 for true, 0 for false. -/
def flagWord (p : Bool) : Word := if p then 1 else 0
/-- Bits [63:32] of a signed product (R117). -/
def mulHigh (a b : Word) : Word := BitVec.ofInt 32 (a.toInt * b.toInt / 2 ^ 32)
/-- Bits [63:32] of an unsigned product (R117). -/
def mulHighU (a b : Word) : Word := BitVec.ofNat 32 (a.toNat * b.toNat / 2 ^ 32)
/-- A shift amount, bits [4:0] (R117). -/
def amount (b : Word) : Nat := (b.extractLsb' 0 5).toNat
/-- The number of leading zero bits (R121). -/
def leadingZeros (a : Word) : Word := if a = 0 then 32 else BitVec.ofNat 32 (31 - Nat.log2 a.toNat)
/-- The number of one bits (R121). -/
def popCount (a : Word) : Word := BitVec.ofNat 32 ((List.range 32).foldl (fun n i => n + (a.getLsbD i).toNat) 0)
/-- Bit i moved to bit 31 - i (R121). -/
def bitReverse (a : Word) : Word := BitVec.ofNat 32 ((List.range 32).foldl (fun n i => 2 * n + (a.getLsbD i).toNat) 0)
/-- The absolute value; of the most negative number, itself (R121). -/
def absWord (a : Word) : Word := if a.toInt < 0 then -a else a
/-- The signed smaller of two. -/
def minWord (a b : Word) : Word := if a.toInt ≤ b.toInt then a else b
/-- The signed larger of two. -/
def maxWord (a b : Word) : Word := if a.toInt ≤ b.toInt then b else a

/-! ## The instructions -/

/-- NOP (R78): nothing but the bundle's own commit. -/
def execNop (s : State) : Result := s.runPure "NOP" .nop fun t => t

/-- ADD (R117). -/
def execAdd (sd sa sb : SReg) (s : State) : Result :=
  s.runPure "ADD" (.add sd sa sb) fun t => t.setS sd (t.sreg sa + t.sreg sb)

/-- SUB (R117). -/
def execSub (sd sa sb : SReg) (s : State) : Result :=
  s.runPure "SUB" (.sub sd sa sb) fun t => t.setS sd (t.sreg sa - t.sreg sb)

/-- MUL (R117). -/
def execMul (sd sa sb : SReg) (s : State) : Result :=
  s.runPure "MUL" (.mul sd sa sb) fun t => t.setS sd (t.sreg sa * t.sreg sb)

/-- MULH (R117). -/
def execMulh (sd sa sb : SReg) (s : State) : Result :=
  s.runPure "MULH" (.mulh sd sa sb) fun t => t.setS sd (mulHigh (t.sreg sa) (t.sreg sb))

/-- MULHU (R117). -/
def execMulhu (sd sa sb : SReg) (s : State) : Result :=
  s.runPure "MULHU" (.mulhu sd sa sb) fun t => t.setS sd (mulHighU (t.sreg sa) (t.sreg sb))

/-- DIV (R118). -/
def execDiv (sd sa sb : SReg) (s : State) : Result :=
  s.runPure "DIV" (.div sd sa sb) fun t => t.setS sd (sdiv (t.sreg sa) (t.sreg sb))

/-- DIVU (R118). -/
def execDivu (sd sa sb : SReg) (s : State) : Result :=
  s.runPure "DIVU" (.divu sd sa sb) fun t => t.setS sd (udiv (t.sreg sa) (t.sreg sb))

/-- REM (R118). -/
def execRem (sd sa sb : SReg) (s : State) : Result :=
  s.runPure "REM" (.rem sd sa sb) fun t => t.setS sd (srem (t.sreg sa) (t.sreg sb))

/-- REMU (R118). -/
def execRemu (sd sa sb : SReg) (s : State) : Result :=
  s.runPure "REMU" (.remu sd sa sb) fun t => t.setS sd (urem (t.sreg sa) (t.sreg sb))

/-- AND (R117). -/
def execAnd (sd sa sb : SReg) (s : State) : Result :=
  s.runPure "AND" (.and sd sa sb) fun t => t.setS sd (t.sreg sa &&& t.sreg sb)

/-- OR (R117). -/
def execOr (sd sa sb : SReg) (s : State) : Result :=
  s.runPure "OR" (.or sd sa sb) fun t => t.setS sd (t.sreg sa ||| t.sreg sb)

/-- XOR (R117). -/
def execXor (sd sa sb : SReg) (s : State) : Result :=
  s.runPure "XOR" (.xor sd sa sb) fun t => t.setS sd (t.sreg sa ^^^ t.sreg sb)

/-- SHL (R117). -/
def execShl (sd sa sb : SReg) (s : State) : Result :=
  s.runPure "SHL" (.shl sd sa sb) fun t => t.setS sd (t.sreg sa <<< amount (t.sreg sb))

/-- SHR (R117). -/
def execShr (sd sa sb : SReg) (s : State) : Result :=
  s.runPure "SHR" (.shr sd sa sb) fun t => t.setS sd (t.sreg sa >>> amount (t.sreg sb))

/-- SRA (R117). -/
def execSra (sd sa sb : SReg) (s : State) : Result :=
  s.runPure "SRA" (.sra sd sa sb) fun t => t.setS sd ((t.sreg sa).sshiftRight (amount (t.sreg sb)))

/-- SEQ (R117). -/
def execSeq (sd sa sb : SReg) (s : State) : Result :=
  s.runPure "SEQ" (.seq sd sa sb) fun t => t.setS sd (flagWord (t.sreg sa == t.sreg sb))

/-- SLT (R117). -/
def execSlt (sd sa sb : SReg) (s : State) : Result :=
  s.runPure "SLT" (.slt sd sa sb) fun t => t.setS sd (flagWord (decide ((t.sreg sa).toInt < (t.sreg sb).toInt)))

/-- SLTU (R117). -/
def execSltu (sd sa sb : SReg) (s : State) : Result :=
  s.runPure "SLTU" (.sltu sd sa sb) fun t => t.setS sd (flagWord (decide ((t.sreg sa).toNat < (t.sreg sb).toNat)))

/-- MIN (R117). -/
def execMin (sd sa sb : SReg) (s : State) : Result :=
  s.runPure "MIN" (.min sd sa sb) fun t => t.setS sd (minWord (t.sreg sa) (t.sreg sb))

/-- MAX (R117). -/
def execMax (sd sa sb : SReg) (s : State) : Result :=
  s.runPure "MAX" (.max sd sa sb) fun t => t.setS sd (maxWord (t.sreg sa) (t.sreg sb))

/-- ADDI (R117). -/
def execAddi (sd sa : SReg) (imm : BitVec 8) (s : State) : Result :=
  s.runPure "ADDI" (.addi sd sa imm) fun t => t.setS sd (t.sreg sa + imm.signExtend 32)

/-- ANDI (R117). -/
def execAndi (sd sa : SReg) (imm : BitVec 8) (s : State) : Result :=
  s.runPure "ANDI" (.andi sd sa imm) fun t => t.setS sd (t.sreg sa &&& imm.setWidth 32)

/-- ORI (R117). -/
def execOri (sd sa : SReg) (imm : BitVec 8) (s : State) : Result :=
  s.runPure "ORI" (.ori sd sa imm) fun t => t.setS sd (t.sreg sa ||| imm.setWidth 32)

/-- SHLI (R117). -/
def execShli (sd sa : SReg) (amt : BitVec 5) (s : State) : Result :=
  s.runPure "SHLI" (.shli sd sa amt) fun t => t.setS sd (t.sreg sa <<< amt.toNat)

/-- SHRI (R117). -/
def execShri (sd sa : SReg) (amt : BitVec 5) (s : State) : Result :=
  s.runPure "SHRI" (.shri sd sa amt) fun t => t.setS sd (t.sreg sa >>> amt.toNat)

/-- SRAI (R117). -/
def execSrai (sd sa : SReg) (amt : BitVec 5) (s : State) : Result :=
  s.runPure "SRAI" (.srai sd sa amt) fun t => t.setS sd ((t.sreg sa).sshiftRight amt.toNat)

/-- SETLO (R119). -/
def execSetlo (sd : SReg) (imm : BitVec 16) (s : State) : Result :=
  s.runPure "SETLO" (.setlo sd imm) fun t => t.setS sd (imm.setWidth 32)

/-- SETHI (R119). -/
def execSethi (sd : SReg) (imm : BitVec 16) (s : State) : Result :=
  s.runPure "SETHI" (.sethi sd imm) fun t => t.setS sd (imm ++ 0#16 : BitVec 32)

/-- SEL (R120): s[D] is the condition. -/
def execSel (sd sa sb : SReg) (s : State) : Result :=
  s.runPure "SEL" (.sel sd sa sb) fun t => t.setS sd (if t.sreg sd ≠ 0 then t.sreg sa else t.sreg sb)

/-- CLZ (R121). -/
def execClz (sd sa : SReg) (s : State) : Result :=
  s.runPure "CLZ" (.clz sd sa) fun t => t.setS sd (leadingZeros (t.sreg sa))

/-- POPC (R121). -/
def execPopc (sd sa : SReg) (s : State) : Result :=
  s.runPure "POPC" (.popc sd sa) fun t => t.setS sd (popCount (t.sreg sa))

/-- BREV (R121). -/
def execBrev (sd sa : SReg) (s : State) : Result :=
  s.runPure "BREV" (.brev sd sa) fun t => t.setS sd (bitReverse (t.sreg sa))

/-- SEXTB (R121). -/
def execSextb (sd sa : SReg) (s : State) : Result :=
  s.runPure "SEXTB" (.sextb sd sa) fun t => t.setS sd (((t.sreg sa).setWidth 8).signExtend 32)

/-- SEXTH (R121). -/
def execSexth (sd sa : SReg) (s : State) : Result :=
  s.runPure "SEXTH" (.sexth sd sa) fun t => t.setS sd (((t.sreg sa).setWidth 16).signExtend 32)

/-- ZEXTB (R121). -/
def execZextb (sd sa : SReg) (s : State) : Result :=
  s.runPure "ZEXTB" (.zextb sd sa) fun t => t.setS sd (((t.sreg sa).setWidth 8).setWidth 32)

/-- ZEXTH (R121). -/
def execZexth (sd sa : SReg) (s : State) : Result :=
  s.runPure "ZEXTH" (.zexth sd sa) fun t => t.setS sd (((t.sreg sa).setWidth 16).setWidth 32)

/-- ABS (R121). -/
def execAbs (sd sa : SReg) (s : State) : Result :=
  s.runPure "ABS" (.abs sd sa) fun t => t.setS sd (absWord (t.sreg sa))

/-- NOT (R121). -/
def execNot (sd sa : SReg) (s : State) : Result :=
  s.runPure "NOT" (.not sd sa) fun t => t.setS sd (~~~(t.sreg sa))

end Sys2Proof.Machine
end

