-- ==== Sys2Proof/Machine/Sideband.lean ====
section
/-! DEFINITION. The vendor commands of the sideband port (spec/14_package_links_and_management.md R398, R403-R406). Each leaves its
completion code and data in the reply. -/

namespace Sys2Proof.Machine

/-! ## Completion codes (R404) -/

/-- OK. -/
def ccOk : Byte := 0
/-- Unknown command. -/
def ccUnknown : Byte := 1
/-- Bad field. -/
def ccField : Byte := 2
/-- Wrong state. -/
def ccState : Byte := 3
/-- Not in a secured session. -/
def ccSecured : Byte := 4
/-- Busy. -/
def ccBusy : Byte := 5

/-- A command answered with a code alone. -/
def State.done (s : State) (code : Byte) : State := s.replies code []

/-! ## Reading -/

/-- STICKY_READ. -/
def execStickyRead (s : State) : Result := .next (s.replies ccOk (bytesOfNat 4 s.regs.ocSticky.toNat))

/-- MRS_READ: the copy in use. -/
def execMrsRead (off len : Nat) (s : State) : Result :=
  if 1 ≤ len ∧ len ≤ 1024 ∧ off + len ≤ 0x20000 then .next (s.replies ccOk ((padTo 0x20000 s.mrsImage |>.drop off).take len))
  else .next (s.done ccField)

/-- DUMP_READ: the bytes of the dump held, zeros after them in its 16 MiB. -/
def execDumpRead (off len : Nat) (s : State) : Result :=
  match s.dumpHeld with
  | none => .next (s.done ccState)
  | some d =>
    if 1 ≤ len ∧ len ≤ 1024 ∧ off + len ≤ 0x1000000 then .next (s.replies ccOk (padTo len (d.drop off)))
    else .next (s.done ccField)

/-- REG_READ. -/
def execRegRead (off : Nat) (s : State) : Result :=
  if off % 4 = 0 ∧ off + 4 ≤ controlSize then
    let (s, w) := s.regRead .sideband off
    .next (s.replies ccOk (bytesOfNat 4 w.toNat))
  else .next (s.done ccField)

/-- ERRLOG_READ. -/
def execErrlogRead (idx : Nat) (s : State) : Result :=
  if idx < 1024 then .next (s.replies ccOk (bytesOfNat 64 (s.logSlot idx))) else .next (s.done ccField)

/-- A command code that is not assigned. -/
def execUnknownVendorCommand (code : Byte) (s : State) : Result :=
  if code = 0 ∨ 0x10 ≤ code.toNat then .next (s.done ccUnknown) else .refused (.notEnabled "UNKNOWN_VENDOR_COMMAND")

/-! ## Changing the package -/

/-- STICKY_CLEAR. -/
def execStickyClear (s : State) : Result := .next ((s.setRegs { s.regs with ocSticky := 0 }).done ccOk)

/-- A site fenced by management: a fence without a trap, with its record; a sleeping tile sweeps its plane first (R21, R313, R320). -/
def State.manageFence (s : State) (i : TileId) : State :=
  let s := s.sweepFirst i
  if (s.site i).live.state == .fenced then s else s.fenceTile i 0xFF

/-- A fenced or spare site enabled by management. -/
def State.manageEnable (s : State) (i : TileId) : State :=
  (((s.mapSite i fun r => r.setState .enabled).setVerify i false).writeSiteDue i).setFstat 3

/-- SITE_SET: state 0 enables and state 2 fences, as R349 numbers them. DEDUCED, notes/assumptions/67.md. -/
def execSiteSet (die site state : Byte) (s : State) : Result :=
  if 8 ≤ die.toNat ∨ 80 ≤ site.toNat ∨ (state ≠ 0 ∧ state ≠ 2) then .next (s.done ccField)
  else
    let i : TileId := ⟨dieOf die.toNat, siteOf site.toNat⟩
    .next <| match (s.site i).live.state with
      | .retired => s.done ccState
      | .enabled => (if state = 0 then s else s.manageFence i).done ccOk
      | .fenced => (if state = 0 then s.manageEnable i else s).done ccOk
      | .spare => (if state = 0 then s.manageEnable i else s.manageFence i).done ccOk

/-- MAINT. A sweep that the end of the window meets is given up; what its bins have measured stands. DESIGN CHOICE,
notes/assumptions/81.md. -/
def execMaint (die : Byte) (isOpen : Bool) (s : State) : Result :=
  if 8 ≤ die.toNat then .next (s.done ccField)
  else
    let d := dieOf die.toNat
    let s := if isOpen then s else s.mapTiles (fun t => { t with sweep := none }) (tilesOf d)
    .next ((s.setDie d { s.die d with maint := isOpen }).done ccOk)

/-- The values that POWER_SET governs. -/
def PkgRegs.powerValues (r : PkgRegs) : List Byte := bytesOfNat 2 r.noml ++ bytesOfNat 2 r.spl ++ bytesOfNat 1 r.spz

/-- POWER_SET. DEDUCED, notes/assumptions/67.md. -/
def execPowerSet (nominal sprint zones : Nat) (s : State) : Result :=
  if 2600 < nominal ∨ 2600 < sprint ∨ 4 < zones then .next (s.done ccField)
  else
    let s := s.setRegs { s.regs with noml := nominal, spl := sprint, spz := zones }
    .next (s.replies ccOk s.regs.powerValues)

/-- DUMP_TRIGGER: a snapshot, or the declaration of a package-fatal error; neither while a dump is being written. -/
def execDumpTrigger (what : Byte) (s : State) : Result :=
  if what.toNat ≤ 1 ∧ s.time < s.regs.dumpEnd then .next (s.done ccState)
  else if what = 0 then .next ((s.takeDump 0 0).done ccOk)
  else if what = 1 then .next ((s.enterViral 4 0).done ccOk)
  else .next (s.done ccField)

/-- PKG_RESET: OK, and then the reset. -/
def execPkgReset (s : State) : Result := .next (s.resetPackage.done ccOk)

/-! ## Owner, keys, ports and windows -/

/-- A tile of which nothing that a program left stays: its clock, its power and its timing do. -/
def Tile.wiped (t : Tile) : Tile :=
  { Tile.reset with k := { KRegs.reset with hw := t.k.hw, cycle := t.k.cycle }, hwFrom := t.hwFrom, hwEnd := t.hwEnd,
                    stretchEnd := t.stretchEnd, meets := t.meets, cox := t.cox, vf := t.vf, aged := t.aged, sweep := t.sweep,
                    temp := t.temp,
                    pipe := { t.pipe with writes := [], backs := [], loose := true, lastAccs := [], bcounts := [], acounts := [] } }

/-- A port with nothing on its way. -/
def Port.wiped (x : Port) : Port := { x with rx := [], tx := [], pending := [], replies := [], stale := [] }

/-- What OWNER_SET clears (R398): keys, windows, memory and the error log, and what else a former owner left: its dump, its
translations, waiting faults, ghosts, tiles and packets. -/
def State.newOwner (s : State) (tag node : BitVec 16) : State :=
  { s with keys := State.reset.keys, imps := State.reset.imps, exps := State.reset.exps, gmem := [], lineErr := [], narrow := [],
           errLog := [], dies := s.dies.map fun x => { x with tlb := [], ctxs := [], tensors := [] },
           tiles := s.tiles.map Tile.wiped, ports := s.ports.map Port.wiped, faults := [], ghosts := [], launches := [], posts := [], crew := [],
           regs := { s.regs with ownTag := tag, nodeId := node, logNext := 1, dump := none, dumpEnd := 0 } }

/-- OWNER_SET. A launch whose completion word is still to be stored counts as resident. DEDUCED, notes/assumptions/61.md. -/
def execOwnerSet (secured : Bool) (tag node : BitVec 16) (s : State) : Result :=
  if !secured then .next (s.done ccSecured)
  else if (s.launches.any fun l => l.isResident || l.gone) || (s.queues.toList.any Queue.en) then .next (s.done ccState)
  else .next ((s.newOwner tag node).done ccOk)

/-- KEYEXH as the loaded keys have it. -/
def State.refreshExhausted (s : State) : State :=
  { s with ports := Vector.ofFn fun p : Fin 12 =>
      let x := s.ports[p]
      { x with keyExh := x.keyExh && s.keys.toList.any fun k => match k with
          | some k => decide (keyLimit ≤ k.sent[p])
          | none => false } }

/-- Every port sends what it can. -/
def State.pumpAll (s : State) : State := (List.finRange 12).foldl State.pump s

/-- The requests that have not been sent and whose window no longer names a valid slot or an enabled port fail with NOACCESS (R401). -/
def State.failUnrouted (s : State) : State :=
  (List.finRange 32).foldl (fun s w => if (s.importRoute w).isNone then s.failWindow w fun r => !r.sent else s) s

/-- KEY_LOAD: a slot loaded or cleared; its group counts start at 0 (R395). -/
def execKeyLoad (secured : Bool) (slot : Nat) (tag : BitVec 16) (mask : BitVec 12) (key : Option (BitVec 256)) (s : State) : Result :=
  if !secured then .next (s.done ccSecured)
  else match fin? 8 slot with
    | none => .next (s.done ccField)
    | some k =>
      let x := key.map fun v => (⟨tag, v, mask, Vector.replicate 12 0, Vector.replicate 12 none⟩ : KeySlot)
      let s := { s with keys := s.keys.set k.val x k.isLt }
      .next (s.failUnrouted.refreshExhausted.pumpAll.done ccOk)

/-- PORT_SET: its answer is LSTAT. -/
def execPortSet (port : Nat) (enable : Bool) (s : State) : Result :=
  match fin? 12 port with
  | none => .next (s.done ccField)
  | some p =>
    let x := s.port p
    let y := if enable then { x with fenced := false, viralIn := false } else { x with fenced := true }
    let s := s.putPort p (if s.regs.viral && x.fenced then y.tellViral else y)
    let s := s.pump p
    .next (s.replies ccOk (bytesOfNat 4 (readPort (s.port p) 4)))

/-- WINDOW_REVOKE: OK once the window is drained. DEDUCED, notes/assumptions/61.md. -/
def execWindowRevoke (kind : WindowKind) (num : Nat) (s : State) : Result :=
  match fin? 32 num with
  | none => .next (s.done ccField)
  | some w =>
    if s.regs.revoking.isSome then .next (s.done ccBusy)
    else
      let s := s.revoke kind w
      let drained := match kind with
        | .imp => (s.imps[w]).drained
        | .exp => (s.exps[w]).drained
      .next (if drained then s.done ccOk else { s with regs := { s.regs with revoking := some (kind, w) }, reply := none })

end Sys2Proof.Machine
end

