-- ==== Sys2Proof/Machine/Dispatch.lean ====
section
/-! DEFINITION. The meaning of every instruction: one arm per constructor. -/

namespace Sys2Proof.Machine

/-- What an instruction or event does to the machine. -/
def exec (i : Instr) (s : State) : Host.Outcome State Fault Refusal :=
  match i with
  | .nop => Sys2Proof.Machine.execNop s
  | .add sd sa sb => Sys2Proof.Machine.execAdd sd sa sb s
  | .sub sd sa sb => Sys2Proof.Machine.execSub sd sa sb s
  | .mul sd sa sb => Sys2Proof.Machine.execMul sd sa sb s
  | .mulh sd sa sb => Sys2Proof.Machine.execMulh sd sa sb s
  | .mulhu sd sa sb => Sys2Proof.Machine.execMulhu sd sa sb s
  | .div sd sa sb => Sys2Proof.Machine.execDiv sd sa sb s
  | .divu sd sa sb => Sys2Proof.Machine.execDivu sd sa sb s
  | .rem sd sa sb => Sys2Proof.Machine.execRem sd sa sb s
  | .remu sd sa sb => Sys2Proof.Machine.execRemu sd sa sb s
  | .and sd sa sb => Sys2Proof.Machine.execAnd sd sa sb s
  | .or sd sa sb => Sys2Proof.Machine.execOr sd sa sb s
  | .xor sd sa sb => Sys2Proof.Machine.execXor sd sa sb s
  | .shl sd sa sb => Sys2Proof.Machine.execShl sd sa sb s
  | .shr sd sa sb => Sys2Proof.Machine.execShr sd sa sb s
  | .sra sd sa sb => Sys2Proof.Machine.execSra sd sa sb s
  | .addi sd sa imm => Sys2Proof.Machine.execAddi sd sa imm s
  | .andi sd sa imm => Sys2Proof.Machine.execAndi sd sa imm s
  | .ori sd sa imm => Sys2Proof.Machine.execOri sd sa imm s
  | .shli sd sa amt => Sys2Proof.Machine.execShli sd sa amt s
  | .shri sd sa amt => Sys2Proof.Machine.execShri sd sa amt s
  | .srai sd sa amt => Sys2Proof.Machine.execSrai sd sa amt s
  | .setlo sd imm => Sys2Proof.Machine.execSetlo sd imm s
  | .sethi sd imm => Sys2Proof.Machine.execSethi sd imm s
  | .seq sd sa sb => Sys2Proof.Machine.execSeq sd sa sb s
  | .slt sd sa sb => Sys2Proof.Machine.execSlt sd sa sb s
  | .sltu sd sa sb => Sys2Proof.Machine.execSltu sd sa sb s
  | .min sd sa sb => Sys2Proof.Machine.execMin sd sa sb s
  | .max sd sa sb => Sys2Proof.Machine.execMax sd sa sb s
  | .sel sd sa sb => Sys2Proof.Machine.execSel sd sa sb s
  | .clz sd sa => Sys2Proof.Machine.execClz sd sa s
  | .popc sd sa => Sys2Proof.Machine.execPopc sd sa s
  | .brev sd sa => Sys2Proof.Machine.execBrev sd sa s
  | .sextb sd sa => Sys2Proof.Machine.execSextb sd sa s
  | .sexth sd sa => Sys2Proof.Machine.execSexth sd sa s
  | .zextb sd sa => Sys2Proof.Machine.execZextb sd sa s
  | .zexth sd sa => Sys2Proof.Machine.execZexth sd sa s
  | .abs sd sa => Sys2Proof.Machine.execAbs sd sa s
  | .not sd sa => Sys2Proof.Machine.execNot sd sa s
  | .br off => Sys2Proof.Machine.execBr off s
  | .brz sr off => Sys2Proof.Machine.execBrz sr off s
  | .brnz sr off => Sys2Proof.Machine.execBrnz sr off s
  | .brlz sr off => Sys2Proof.Machine.execBrlz sr off s
  | .jr sa => Sys2Proof.Machine.execJr sa s
  | .call off => Sys2Proof.Machine.execCall off s
  | .callr sa => Sys2Proof.Machine.execCallr sa s
  | .loop sc off => Sys2Proof.Machine.execLoop sc off s
  | .loopi count off => Sys2Proof.Machine.execLoopi count off s
  | .lbrk => Sys2Proof.Machine.execLbrk s
  | .lidx sd level => Sys2Proof.Machine.execLidx sd level s
  | .pend => Sys2Proof.Machine.execPend s
  | .pendCommit t => Sys2Proof.Machine.execPendCommit t s
  | .segchk sa sb => Sys2Proof.Machine.execSegchk sa sb s
  | .trap imm => Sys2Proof.Machine.execTrap imm s
  | .rte => Sys2Proof.Machine.execRte s
  | .bkpt imm => Sys2Proof.Machine.execBkpt imm s
  | .movk sd k => Sys2Proof.Machine.execMovk sd k s
  | .kmov k sa => Sys2Proof.Machine.execKmov k sa s
  | .tstamp pair => Sys2Proof.Machine.execTstamp pair s
  | .vadd pd pa pb => Sys2Proof.Machine.execVadd pd pa pb s
  | .vsub pd pa pb => Sys2Proof.Machine.execVsub pd pa pb s
  | .vmul pd pa pb => Sys2Proof.Machine.execVmul pd pa pb s
  | .vfma pd pa pb => Sys2Proof.Machine.execVfma pd pa pb s
  | .vfms pd pa pb => Sys2Proof.Machine.execVfms pd pa pb s
  | .vfnma pd pa pb => Sys2Proof.Machine.execVfnma pd pa pb s
  | .vmin pd pa pb => Sys2Proof.Machine.execVmin pd pa pb s
  | .vmax pd pa pb => Sys2Proof.Machine.execVmax pd pa pb s
  | .vabs pd pa => Sys2Proof.Machine.execVabs pd pa s
  | .vneg pd pa => Sys2Proof.Machine.execVneg pd pa s
  | .vrcp pd pa => Sys2Proof.Machine.execVrcp pd pa s
  | .vrsq pd pa => Sys2Proof.Machine.execVrsq pd pa s
  | .vexp2 pd pa => Sys2Proof.Machine.execVexp2 pd pa s
  | .vlog2 pd pa => Sys2Proof.Machine.execVlog2 pd pa s
  | .vcvt pd pa src dst => Sys2Proof.Machine.execVcvt pd pa src dst s
  | .vcmp cond md pa pb => Sys2Proof.Machine.execVcmp cond md pa pb s
  | .vsel pd pa pb => Sys2Proof.Machine.execVsel pd pa pb s
  | .vand pd pa pb => Sys2Proof.Machine.execVand pd pa pb s
  | .vor pd pa pb => Sys2Proof.Machine.execVor pd pa pb s
  | .vxor pd pa pb => Sys2Proof.Machine.execVxor pd pa pb s
  | .vshl pd pa pb => Sys2Proof.Machine.execVshl pd pa pb s
  | .vshr pd pa pb => Sys2Proof.Machine.execVshr pd pa pb s
  | .vsra pd pa pb => Sys2Proof.Machine.execVsra pd pa pb s
  | .vadds pd pa sb => Sys2Proof.Machine.execVadds pd pa sb s
  | .vmuls pd pa sb => Sys2Proof.Machine.execVmuls pd pa sb s
  | .vfmas pd pa sb => Sys2Proof.Machine.execVfmas pd pa sb s
  | .vbcast pd sa => Sys2Proof.Machine.execVbcast pd sa s
  | .viota pd => Sys2Proof.Machine.execViota pd s
  | .vshuf pd pa pb => Sys2Proof.Machine.execVshuf pd pa pb s
  | .vscan pd pa op => Sys2Proof.Machine.execVscan pd pa op s
  | .vred sd pa op => Sys2Proof.Machine.execVred sd pa op s
  | .vcfg imm => Sys2Proof.Machine.execVcfg imm s
  | .ldl pd sa imm => Sys2Proof.Machine.execLdl pd sa imm s
  | .stl ps sa imm => Sys2Proof.Machine.execStl ps sa imm s
  | .ldlx pd sa sb => Sys2Proof.Machine.execLdlx pd sa sb s
  | .stlx ps sa sb => Sys2Proof.Machine.execStlx ps sa sb s
  | .ldw sd sa imm => Sys2Proof.Machine.execLdw sd sa imm s
  | .stw ss sa imm => Sys2Proof.Machine.execStw ss sa imm s
  | .ldc pd sa => Sys2Proof.Machine.execLdc pd sa s
  | .stc ps sa => Sys2Proof.Machine.execStc ps sa s
  | .ldg pd sa pb => Sys2Proof.Machine.execLdg pd sa pb s
  | .stg ps sa pb => Sys2Proof.Machine.execStg ps sa pb s
  | .atom op sd sa space sb => Sys2Proof.Machine.execAtom op sd sa space sb s
  | .ldm m sa imm => Sys2Proof.Machine.execLdm m sa imm s
  | .stm m sa imm => Sys2Proof.Machine.execStm m sa imm s
  | .mmul acc sa rows lay => Sys2Proof.Machine.execMmul acc sa rows lay s
  | .mmulz acc sa rows lay => Sys2Proof.Machine.execMmulz acc sa rows lay s
  | .mmuld accPair sa rows lay => Sys2Proof.Machine.execMmuld accPair sa rows lay s
  | .mmuldz accPair sa rows lay => Sys2Proof.Machine.execMmuldz accPair sa rows lay s
  | .mstream mac sa sem => Sys2Proof.Machine.execMstream mac sa sem s
  | .mldw mac sa => Sys2Proof.Machine.execMldw mac sa s
  | .mva pd half acc row => Sys2Proof.Machine.execMva pd half acc row s
  | .mvaz pd half acc row => Sys2Proof.Machine.execMvaz pd half acc row s
  | .macz acc => Sys2Proof.Machine.execMacz acc s
  | .mlay lay sa => Sys2Proof.Machine.execMlay lay sa s
  | .mcfg imm => Sys2Proof.Machine.execMcfg imm s
  | .mwait mac => Sys2Proof.Machine.execMwait mac s
  | .mwaitCommit t => Sys2Proof.Machine.execMwaitCommit t s
  | .trise shp sa sb => Sys2Proof.Machine.execTrise shp sa sb s
  | .tfall shp sa sb => Sys2Proof.Machine.execTfall shp sa sb s
  | .tld blk sa => Sys2Proof.Machine.execTld blk sa s
  | .tst blk sa => Sys2Proof.Machine.execTst blk sa s
  | .tmvp pd blk => Sys2Proof.Machine.execTmvp pd blk s
  | .tmvn blk pa => Sys2Proof.Machine.execTmvn blk pa s
  | .tshp shp sa => Sys2Proof.Machine.execTshp shp sa s
  | .tcfg imm => Sys2Proof.Machine.execTcfg imm s
  | .spost scope sem sa sb => Sys2Proof.Machine.execSpost scope sem sa sb s
  | .swait sem sb => Sys2Proof.Machine.execSwait sem sb s
  | .swaitSatisfied t => Sys2Proof.Machine.execSwaitSatisfied t s
  | .spoll sd sem => Sys2Proof.Machine.execSpoll sd sem s
  | .fence kind scope => Sys2Proof.Machine.execFence kind scope s
  | .fenceCommit t => Sys2Proof.Machine.execFenceCommit t s
  | .cpy sa => Sys2Proof.Machine.execCpy sa s
  | .cpyQueueSlotFree t => Sys2Proof.Machine.execCpyQueueSlotFree t s
  | .cpyq sd => Sys2Proof.Machine.execCpyq sd s
  | .sprintClaim => Sys2Proof.Machine.execSprintClaim s
  | .sprintRelease => Sys2Proof.Machine.execSprintRelease s
  | .bundleIssue t stall => Sys2Proof.Machine.execBundleIssue t stall s
  | .replayReissue t => Sys2Proof.Machine.execReplayReissue t s
  | .tileSleep t => Sys2Proof.Machine.execTileSleep t s
  | .tileWake t => Sys2Proof.Machine.execTileWake t s
  | .semaphorePostArrival ix => Sys2Proof.Machine.execSemaphorePostArrival ix s
  | .crewAccessArrival ix => Sys2Proof.Machine.execCrewAccessArrival ix s
  | .crewAtomReturn t => Sys2Proof.Machine.execCrewAtomReturn t s
  | .ldcWriteback t e => Sys2Proof.Machine.execLdcWriteback t e s
  | .ldgWriteback t e => Sys2Proof.Machine.execLdgWriteback t e s
  | .stgWriteback t e => Sys2Proof.Machine.execStgWriteback t e s
  | .mmulWriteback t e => Sys2Proof.Machine.execMmulWriteback t e s
  | .mldwFillDone t e => Sys2Proof.Machine.execMldwFillDone t e s
  | .triseWriteback t e => Sys2Proof.Machine.execTriseWriteback t e s
  | .tfallWriteback t e => Sys2Proof.Machine.execTfallWriteback t e s
  | .tldWriteback t e => Sys2Proof.Machine.execTldWriteback t e s
  | .copyStart t id => Sys2Proof.Machine.execCopyStart t id s
  | .copyComplete t id => Sys2Proof.Machine.execCopyComplete t id s
  | .copyFail t id cause landed => Sys2Proof.Machine.execCopyFail t id cause landed s
  | .mstreamStart t id => Sys2Proof.Machine.execMstreamStart t id s
  | .mstreamComplete t id => Sys2Proof.Machine.execMstreamComplete t id s
  | .mstreamFail t id cause => Sys2Proof.Machine.execMstreamFail t id cause s
  | .pointDeadline t => Sys2Proof.Machine.execPointDeadline t s
  | .tileHangTimeout t => Sys2Proof.Machine.execTileHangTimeout t s
  | .halfWidthEnd t => Sys2Proof.Machine.execHalfWidthEnd t s
  | .stretchEnd t => Sys2Proof.Machine.execStretchEnd t s
  | .droop t => Sys2Proof.Machine.execDroop t s
  | .rowOpen d h => Sys2Proof.Machine.execRowOpen d h s
  | .pointFire d => Sys2Proof.Machine.execPointFire d s
  | .pointStart d h serial => Sys2Proof.Machine.execPointStart d h serial s
  | .pointCompletion d h serial => Sys2Proof.Machine.execPointCompletion d h serial s
  | .mirrorUpdate d h src => Sys2Proof.Machine.execMirrorUpdate d h src s
  | .priorityAge d h => Sys2Proof.Machine.execPriorityAge d h s
  | .rectangleReservation d h => Sys2Proof.Machine.execRectangleReservation d h s
  | .launchCompletion h => Sys2Proof.Machine.execLaunchCompletion h s
  | .qtailWrite q v => Sys2Proof.Machine.execQtailWrite q v s
  | .qctlWrite q v => Sys2Proof.Machine.execQctlWrite q v s
  | .qstatErrClear q => Sys2Proof.Machine.execQstatErrClear q s
  | .commandFetch q => Sys2Proof.Machine.execCommandFetch q s
  | .launch q => Sys2Proof.Machine.execLaunch q s
  | .launchResident h => Sys2Proof.Machine.execLaunchResident h s
  | .wait q => Sys2Proof.Machine.execWait q s
  | .waitPoll q => Sys2Proof.Machine.execWaitPoll q s
  | .signal q => Sys2Proof.Machine.execSignal q s
  | .preempt q => Sys2Proof.Machine.execPreempt q s
  | .preemptDrainEnd h => Sys2Proof.Machine.execPreemptDrainEnd h s
  | .preemptDeadline h => Sys2Proof.Machine.execPreemptDeadline h s
  | .hardCutStop t => Sys2Proof.Machine.execHardCutStop t s
  | .cutCycleLimit t => Sys2Proof.Machine.execCutCycleLimit t s
  | .cutCopyTimeout t id => Sys2Proof.Machine.execCutCopyTimeout t id s
  | .contextSave h => Sys2Proof.Machine.execContextSave h s
  | .resume q => Sys2Proof.Machine.execResume q s
  | .kill q => Sys2Proof.Machine.execKill q s
  | .barrier q => Sys2Proof.Machine.execBarrier q s
  | .dieFence d => Sys2Proof.Machine.execDieFence d s
  | .dieFenceTimeout d => Sys2Proof.Machine.execDieFenceTimeout d s
  | .viralEntry => Sys2Proof.Machine.execViralEntry s
  | .coxWindowEnd t canaries => Sys2Proof.Machine.execCoxWindowEnd t canaries s
  | .ageingRead t slowdown => Sys2Proof.Machine.execAgeingRead t slowdown s
  | .characterisation t windows => Sys2Proof.Machine.execCharacterisation t windows s
  | .timingVerification t replays third => Sys2Proof.Machine.execTimingVerification t replays third s
  | .mrsFallWrite t => Sys2Proof.Machine.execMrsFallWrite t s
  | .mrsDeferredWrite t => Sys2Proof.Machine.execMrsDeferredWrite t s
  | .llastWrite => Sys2Proof.Machine.execLlastWrite s
  | .coldReset => Sys2Proof.Machine.execColdReset s
  | .packageReset => Sys2Proof.Machine.execPackageReset s
  | .hostLinkReset => Sys2Proof.Machine.execHostLinkReset s
  | .hostRead off size => Sys2Proof.Machine.execHostRead off size s
  | .hostWrite dst addr data => Sys2Proof.Machine.execHostWrite dst addr data s
  | .apertureAccess off acc => Sys2Proof.Machine.execApertureAccess off acc s
  | .registerWrite off v => Sys2Proof.Machine.execRegisterWrite off v s
  | .vectorUnmask v => Sys2Proof.Machine.execVectorUnmask v s
  | .maprowStore v => Sys2Proof.Machine.execMaprowStore v s
  | .mapActivate v => Sys2Proof.Machine.execMapActivate v s
  | .mapCheckDone => Sys2Proof.Machine.execMapCheckDone s
  | .ebstatClear n => Sys2Proof.Machine.execEbstatClear n s
  | .scrubRead n line => Sys2Proof.Machine.execScrubRead n line s
  | .scoreHalving => Sys2Proof.Machine.execScoreHalving s
  | .faultRetry => Sys2Proof.Machine.execFaultRetry s
  | .faultFail => Sys2Proof.Machine.execFaultFail s
  | .invalidate => Sys2Proof.Machine.execInvalidate s
  | .invalidateDone => Sys2Proof.Machine.execInvalidateDone s
  | .graftRequest n => Sys2Proof.Machine.execGraftRequest n s
  | .graftDone n => Sys2Proof.Machine.execGraftDone n s
  | .flitGroupReceive p g => Sys2Proof.Machine.execFlitGroupReceive p g s
  | .viralFlitReceive p => Sys2Proof.Machine.execViralFlitReceive p s
  | .rd p pkt => Sys2Proof.Machine.execRd p pkt s
  | .wr p pkt => Sys2Proof.Machine.execWr p pkt s
  | .amo p pkt => Sys2Proof.Machine.execAmo p pkt s
  | .rdrsp p pkt => Sys2Proof.Machine.execRdrsp p pkt s
  | .wrack p pkt => Sys2Proof.Machine.execWrack p pkt s
  | .amorsp p pkt => Sys2Proof.Machine.execAmorsp p pkt s
  | .peerRequestTimeout p rid => Sys2Proof.Machine.execPeerRequestTimeout p rid s
  | .linkDown p => Sys2Proof.Machine.execLinkDown p s
  | .linkUp p => Sys2Proof.Machine.execLinkUp p s
  | .keyExhausted p slot => Sys2Proof.Machine.execKeyExhausted p slot s
  | .windowEnClear kind w => Sys2Proof.Machine.execWindowEnClear kind w s
  | .windowDrained kind w => Sys2Proof.Machine.execWindowDrained kind w s
  | .stickyRead => Sys2Proof.Machine.execStickyRead s
  | .stickyClear => Sys2Proof.Machine.execStickyClear s
  | .mrsRead off len => Sys2Proof.Machine.execMrsRead off len s
  | .siteSet die site state => Sys2Proof.Machine.execSiteSet die site state s
  | .maint die isOpen => Sys2Proof.Machine.execMaint die isOpen s
  | .powerSet nominal sprint zones => Sys2Proof.Machine.execPowerSet nominal sprint zones s
  | .dumpTrigger what => Sys2Proof.Machine.execDumpTrigger what s
  | .dumpRead off len => Sys2Proof.Machine.execDumpRead off len s
  | .regRead off => Sys2Proof.Machine.execRegRead off s
  | .errlogRead idx => Sys2Proof.Machine.execErrlogRead idx s
  | .pkgReset => Sys2Proof.Machine.execPkgReset s
  | .ownerSet secured tag node => Sys2Proof.Machine.execOwnerSet secured tag node s
  | .keyLoad secured slot tag mask key => Sys2Proof.Machine.execKeyLoad secured slot tag mask key s
  | .portSet port enable => Sys2Proof.Machine.execPortSet port enable s
  | .windowRevoke kind num => Sys2Proof.Machine.execWindowRevoke kind num s
  | .unknownVendorCommand code => Sys2Proof.Machine.execUnknownVendorCommand code s
  | .voltageStep t => Sys2Proof.Machine.execVoltageStep t s
  | .frequencyChange t => Sys2Proof.Machine.execFrequencyChange t s
  | .sprintIntervalEnd d z => Sys2Proof.Machine.execSprintIntervalEnd d z s
  | .permitRefill d z => Sys2Proof.Machine.execPermitRefill d z s
  | .sprintSlotGrant d z => Sys2Proof.Machine.execSprintSlotGrant d z s
  | .midpointHoldEnd d z => Sys2Proof.Machine.execMidpointHoldEnd d z s
  | .powerMeasure watts => Sys2Proof.Machine.execPowerMeasure watts s
  | .overcurrentAlarm bit => Sys2Proof.Machine.execOvercurrentAlarm bit s
  | .overcurrentPersist bit => Sys2Proof.Machine.execOvercurrentPersist bit s
  | .ocstickyClear v => Sys2Proof.Machine.execOcstickyClear v s
  | .thermalCrossing t temp => Sys2Proof.Machine.execThermalCrossing t temp s
  | .thermalRelease t temp => Sys2Proof.Machine.execThermalRelease t temp s
  | .energyRead port what high => Sys2Proof.Machine.execEnergyRead port what high s
  | .overcurrentAlarmEnd bit => Sys2Proof.Machine.execOvercurrentAlarmEnd bit s
  | .powerRemoval torn => Sys2Proof.Machine.execPowerRemoval torn s
  | .fqheadWrite v => Sys2Proof.Machine.execFqheadWrite v s
  | .invalidFlit p ftype => Sys2Proof.Machine.execInvalidFlit p ftype s

end Sys2Proof.Machine
end

