-- ==== Sys2Proof/Machine/Gate.lean ====
section
/-! DEFINITION. Which row of the table comes next when the inbox says nothing: the hold of a bundle at K
(spec/02_formats_and_opcode_map.md R80, 16_programs_elastic_timing.md R423), the slot that the bundle of the focus tile has come
to, and the events that a tile and its die can make by themselves. -/

namespace Sys2Proof.Machine

/-! ## Slot instructions and events -/

/-- Whether an instruction is a slot of a bundle, and no event. -/
def isSlot (i : Instr) : Bool := (encodeFields i).isSome

/-! ## The hold of a whole bundle at K -/

/-- The state of a trial run in which a CREW ATOM that was sent has come back. -/
def State.atomPassed (s : State) (i : TileId) : State :=
  let t := s.tile i
  match t.inflight with
  | some b => if b.atomSent then s.setTile i { t with inflight := some { b with next := b.next + 1, atomSent := false } } else s
  | none => s

/-- Whether the slots of a list commit one after another without a trap, in a trial run. -/
def trial (s : State) (i : TileId) : List Instr → Bool
  | [] => true
  | ins :: rest =>
    match exec ins { s with focus := i } with
    | .next s' =>
      let s' := s'.atomPassed i
      match (s.tile i).inflight, (s'.tile i).inflight with
      | some b, some b' => b'.next == b.next + 1 && b'.first == b.first && trial s' i rest
      | _, _ => false
    | _ => false

/-- The first slot that holds the bundle at K, where every slot before it would commit: of slots from a place on. -/
def gateFrom (s : State) (i : TileId) (t : Tile) (all : List Instr) : Nat → List Instr → Option HoldKind
  | _, [] => none
  | n, ins :: rest =>
    let before := all.take n
    match slotHold s i t (before.filter isQueued).length ins with
    | some k => if trial s i before then some k else none
    | none => gateFrom s i t all (n + 1) rest

/-- The hold at K of a bundle that has not passed it (R80): none of its slots commits while one of them holds. DEDUCED,
notes/assumptions/15.md. -/
def gateHold (s : State) (i : TileId) : Option HoldKind :=
  let t := s.tile i
  match t.inflight with
  | none => none
  | some b =>
    if b.next == b.start && b.hold.isNone && !b.atomSent && !b.passed then
      gateFrom (s.setTile i { t with inflight := some { b with flagsDue := 0 } }) i t b.rest 0 b.rest
    else none

/-! ## What a tile can do by itself -/

/-- The event that ends a hold. -/
def holdEvent (t : TileId) : HoldKind → Instr
  | .swait => .swaitSatisfied t
  | .fence => .fenceCommit t
  | .pend => .pendCommit t
  | .mwait => .mwaitCommit t
  | .queueFull => .cpyQueueSlotFree t

/-- The write-back of a scoreboard entry. -/
def backEvent (t : TileId) (e : SbEntry) : Instr :=
  match e.work with
  | .mmul _ _ _ _ _ _ _ _ => .mmulWriteback t e.num
  | .mldw _ _ _ _ => .mldwFillDone t e.num
  | .trise _ _ _ _ => .triseWriteback t e.num
  | .tfall _ _ _ _ => .tfallWriteback t e.num
  | .tld _ _ => .tldWriteback t e.num
  | .ldc _ _ => .ldcWriteback t e.num
  | .ldg _ _ _ => .ldgWriteback t e.num
  | .stg _ _ => .stgWriteback t e.num

/-- The events that a queued copy can come to. -/
def copyEvents (t : TileId) (c : CopyCmd) : List Instr :=
  match c.stream, c.stage with
  | none, .queued => [.copyStart t c.id]
  | none, .started => [.copyComplete t c.id]
  | none, .failing x => [.copyFail t c.id x []]
  | some _, .queued => [.mstreamStart t c.id]
  | some _, .started => [.mstreamComplete t c.id, .mstreamFail t c.id .decode]
  | some _, .failing x => [.mstreamFail t c.id x]
  | _, .waiting _ => []

/-- The events of a tile that cannot move, in the order in which they are tried. -/
def tileEvents (s : State) (i : TileId) : List Instr :=
  let t := s.tile i
  (if t.cutReq.isSome then [.hardCutStop i, .cutCycleLimit i] else []) ++
  (if t.cox.over then [.coxWindowEnd i (Config.canaries s.draws)] else []) ++
  (if t.asleep then [.tileWake i] else if s.sleepDue t then [.tileSleep i] else []) ++
  (match t.inflight with
   | some b => (match b.hold with
      | some k => (if b.flagsDue = 0 then [] else [.replayReissue i]) ++ [holdEvent i k]
      | none => []) ++ (if b.atomBack.isSome then [.crewAtomReturn i] else [])
   | none => []) ++
  t.sb.map (backEvent i) ++ (List.range s.crew.length).map .crewAccessArrival ++
  (List.range s.posts.length).map .semaphorePostArrival ++ t.copyq.flatMap (copyEvents i)

/-- The events of a die and of the front-end that need no time to pass, in the order in which they are tried. -/
def packageEvents (s : State) (d : Fin 8) : List Instr :=
  s.launches.flatMap (fun l =>
    (l.parts.flatMap fun p => p.runs.flatMap fun r => [.pointCompletion p.die l.handle r.serial, .pointStart p.die l.handle r.serial]) ++
    [.launchResident l.handle, .rowOpen d l.handle]) ++
  [.pointFire d] ++ s.launches.map (fun l => .launchCompletion l.handle) ++ (List.finRange 16).map .commandFetch

/-- The first event of a list that can happen; with none, nothing does. -/
def firstEvent (s : State) : List Instr → Host.Outcome State Fault Refusal
  | [] => .next s
  | i :: is =>
    match exec i s with
    | .next s' => .next s'
    | _ => firstEvent s is

/-- What happens where the focus tile cannot move: an event of its own, or one of its die. DESIGN CHOICE, notes/assumptions/7.md. -/
def idleStep (s : State) : Host.Outcome State Fault Refusal :=
  firstEvent s (tileEvents s s.focus ++ packageEvents s s.focus.die)

/-- The next slot of a bundle that has passed K runs. -/
def slotStep (s : State) (b : Inflight) : Host.Outcome State Fault Refusal :=
  match (b.words[b.next]?).map decodeSlot with
  | some (.ok ins) => exec ins s
  | _ => idleStep s

/-- What is due at a tile before a cycle, posts first. -/
def owedEvents (s : State) (i : TileId) (c : Nat) : List Instr :=
  let posts := (s.posts.zipIdx.filter fun p => p.1.dst == i && p.1.due.any (· < c)).map fun p => .semaphorePostArrival p.2
  posts ++ ((s.tile i).sb.filter ((s.tile i).owes c)).map (backEvent i)

/-- What is due at a tile before a cycle happens, or what has to happen before that. -/
def owedStep (s : State) (i : TileId) (c : Nat) : Host.Outcome State Fault Refusal :=
  firstEvent s (owedEvents s i c ++ tileEvents s i ++ packageEvents s i.die)

/-- The bundle on the focus tile goes on: the cut decision for its launch is made, it falls asleep, its deadline is taken, what is due
before its K happens, its hold at K begins or goes on, a forced flag is found at K, or it passes K and its next slot runs. -/
def bundleStep (s : State) (b : Inflight) : Host.Outcome State Fault Refusal :=
  let i := s.focus
  let t := s.tile i
  if s.cutDue t.pt.handle then exec (.preemptDeadline t.pt.handle) s
  else if s.sleepDue t then exec (.tileSleep i) s
  else if s.deadlineDue t && t.deadlineHere then exec (.pointDeadline i) s
  else if b.hold.isSome || b.atomSent then idleStep s
  else if s.owed i (commitCycle t b) then owedStep s i (commitCycle t b)
  else match gateHold s i with
    | some k =>
      let x := t.beside i (commitCycle t b)
      .next ((s.setTile i { x with inflight := some { b with hold := some k, waitFrom := s.time } }).boundary i)
    | none =>
      let b' := if b.passed then b else b.passK t
      if s.owed i (commitCycle t b') then owedStep s i (commitCycle t b')
      else if b.flagsDue ≠ 0 && s.flaggable i t b then exec (.replayReissue i) s
      else if b.ready then slotStep (s.setTile i { t with inflight := some b' }) b'
      else idleStep s

/-- The focus tile moves. -/
def moveFocus (s : State) : Host.Outcome State Fault Refusal :=
  let i := s.focus
  let t := s.tile i
  match t.inflight with
  | some b => bundleStep s b
  | none =>
    if s.cutDue t.pt.handle then exec (.preemptDeadline t.pt.handle) s
    else if s.deadlineDue t && t.deadlineHere then exec (.pointDeadline i) s
    else
      match exec (.bundleIssue i (Config.stall s.draws)) { s with draws := s.draws + 1 } with
      | .next s' => .next s'
      | _ => idleStep s

/-- One input performed: an event at its TIME, or a tile's turn. -/
def stepInput (s : State) : Input → Host.Outcome State Fault Refusal
  | .turn t => moveFocus { s with focus := t }
  | .event time op =>
    if isSlot op then .refused .notAnInput
    else exec op { s with time := Nat.max s.time time }

/-- One step: the first input of the inbox, or with none a move of the focus tile. Without power only COLD_RESET does anything. DESIGN
CHOICE, notes/assumptions/7.md. -/
def stepOnce (s : State) : Host.Outcome State Fault Refusal :=
  match s.inbox with
  | [] => if s.regs.powered then moveFocus s else .fault .powerOff
  | .event n .coldReset :: rest => stepInput { s with inbox := rest } (.event n .coldReset)
  | x :: rest => if s.regs.powered then stepInput { s with inbox := rest } x else .fault .powerOff

/-! ## Placing an instruction -/

/-- A word stored at the PC of the focus tile with its stop bit set, and, where it decodes, its one-slot bundle in flight on that
tile, which runs a point: the very next step runs it. DESIGN CHOICE, notes/assumptions/6.md. -/
def placeWord (s : State) (w : Nat) : State :=
  let i := s.focus
  let t := s.tile i
  let word : Word := BitVec.ofNat 32 w ||| 0x80000000
  let b : Inflight :=
    { first := t.pc, words := [word], start := 0, next := 0, snap := t.k, depth := 1, dCycle := t.pipe.lastD + 1, extra := 0,
      flagsDue := 0, flags := 0, injected := true, hold := none, waitFrom := 0, freeAt := 0, passed := false, errAtK := 0,
      heldTo := 0, atomSent := false, atomBack := none, accs := [], lost := 0 }
  let fits := match decodeSlot word with
    | .ok _ => true
    | .error _ => false
  let t := { t with act := .point, istore := Cells.set 0 t.istore t.pc.toNat word, resume := 0, asleep := false, woken := false,
                    leafTrap := none, stopReq := false, cutReq := none, pt := { t.pt with deadlineTaken := true },
                    inflight := if fits then some b else none }
  { s.setTile i t with inbox := [], regs := { s.regs with powered := true } }

end Sys2Proof.Machine
end

