-- ==== Sys2Proof/Machine/Step.lean ====
section
/-! DEFINITION. The step of the machine, and how an instruction is placed where the next step runs it. -/

namespace Sys2Proof.Machine

/-- One step: the inbox's first input, or with an empty inbox a move of the focus tile (Machine/Gate.lean). -/
def step (s : State) : Host.Outcome State Fault Refusal := stepOnce s

/-- The state with an instruction's word where the next step runs it (notes/assumptions: how a program comes to run). -/
def State.withFetchWord (s : State) (nbits w : Nat) : State := placeWord s (w % 2 ^ nbits)

end Sys2Proof.Machine
end

