-- ==== Sys2Proof/Safety.lean ====
section
/-! DEFINITION. The terms that statements use: a slot whose turn has come, what a commit leaves of the rest of the machine, and the
canonical form of the memories. -/

namespace Sys2Proof.Machine

/-! ## Frames -/

/-- A tile without the bookkeeping of its bundles: the PC, the loop stack, the bundle in flight, the counts and times of issue and of
the last commit, the number of free values taken, and CYCLE, SEGCNT and SEGSIG, which the end of every bundle moves
(spec/04_isa_scalar_and_control.md R127, R133; R423). Two tiles with equal data agree in every other register and in every byte of
their scratchpads. -/
def Tile.data (t : Tile) : Tile :=
  { t with pc := 0, loops := [], inflight := none, cutHere := false, dueLate := false, movedAt := 0,
           pipe := PipeTiming.reset, meets := 0, cox := ⟨0, 0, 0, none, CoxRegs.reset, true, none⟩,
           k := { t.k with cycle := 0, segcnt := 0, segsig := 0 } }

/-- Two states that differ at most in one tile: device memory, host memory and everything else stand. -/
def OnlyTile (i : TileId) (s t : State) : Prop :=
  { t with tiles := s.tiles } = s ∧ ∀ j, j ≠ i → t.tile j = s.tile j

/-- The tile whose turn it is. -/
def State.here (s : State) : Tile := s.tile s.focus

/-- A slot instruction is next: the bundle on the focus tile stands ready for it, a handler may run it, and neither a bad leaf nor a
stop waits for the end of the bundle. -/
structure State.At (s : State) (i : Instr) (b : Inflight) : Prop where
  bundle : s.here.inflight = some b
  ready  : b.ready = true
  runs   : s.here.k.trapped = true → handlerFault s.here i = none
  leaf   : s.here.leafTrap = none
  goes   : s.here.stopReq = false

/-- An event or slot moves the machine to a state in which one tile holds what `y` holds, bookkeeping apart, and nothing else
differs. -/
def CommitsOn (f : TileId) (i : Instr) (s : State) (y : Tile) : Prop :=
  ∃ t, exec i s = .next t ∧ OnlyTile f s t ∧ (t.tile f).data = y.data

/-- The slot commits on the focus tile, and against a state `u` nothing but that tile differs. A slot that uses its tile's own scratchpad
starts from `s.own`, any other from `s` itself. -/
def CommitsFrom (u : State) (i : Instr) (s : State) (y : Tile) : Prop :=
  ∃ t, exec i s = .next t ∧ OnlyTile s.focus u t ∧ (t.tile s.focus).data = y.data

/-- The state in which a slot finds its tile's own scratchpad: what the tile sent there through the crew path is performed (R257 item 1). -/
def State.own (s : State) : State := s.flushOwn s.focus

/-- The slot commits on the focus tile. -/
def Commits (i : Instr) (s : State) (y : Tile) : Prop := CommitsOn s.focus i s y

/-- The slot commits on the focus tile after what `s.own` says. -/
def CommitsOwn (i : Instr) (s : State) (y : Tile) : Prop := CommitsFrom s.own i s y

/-- At its turn the slot writes one scalar register, with a value that the tile gives, and nothing else. -/
def Writes (i : Instr) (sd : SReg) (v : Tile → Word) : Prop :=
  ∀ s b, s.At i b → Commits i s (s.here.setS sd (v s.here))

/-! ## Holds at K -/

/-- A tile's bundle is held at K, has come to a slot that may hold it, and no other slot of it may; neither a flag, a cut, a bad leaf nor
a stop nor the cut of its launch comes before the end of the hold, and no write-back and no post of a stream is due before it. -/
structure State.WaitsAtK (s : State) (f : TileId) (i : Instr) (k : HoldKind) (b : Inflight) : Prop where
  bundle : (s.tile f).inflight = some b
  held   : b.hold = some k
  quiet  : b.flagsDue = 0 ∧ b.atomSent = false
  slot   : b.words[b.next]?.map decodeSlot = some (.ok i)
  sole   : b.passed = true ∨ ∀ w ∈ b.words.drop (b.next + 1), ∀ j, decodeSlot w = .ok j → mayHold j = false
  uncut  : (s.tile f).cutReq = none ∨ b.next ≠ b.start
  runs   : (s.tile f).k.trapped = true → handlerFault (s.tile f) i = none
  leaf   : (s.tile f).leafTrap = none
  goes   : (s.tile f).stopReq = false
  stays  : s.cutDue (s.tile f).pt.handle = false
  first  : s.owed f (commitCycle (s.tile f) (b.released (s.tile f))) = false

/-- The hold of a tile's bundle ends and its slot commits; against a state `u` nothing but the tile
differs. -/
def ReleasesFrom (u : State) (f : TileId) (i : Instr) (s : State) (y : Tile) : Prop :=
  ∃ t, exec i s = .next t ∧ OnlyTile f u t ∧ (t.tile f).data = y.data

/-- The hold of a tile's bundle ends and its slot commits, and nothing but the tile differs. -/
def ReleasesOn (f : TileId) (i : Instr) (s : State) (y : Tile) : Prop := ReleasesFrom s f i s y

/-- The slot finds that it must wait: from a state `u` on, it holds its bundle. -/
def HoldsFrom (u : State) (i : Instr) (s : State) (b : Inflight) (k : HoldKind) : Prop :=
  exec i s = .next (u.setTile u.focus { u.here with
    inflight := some { b with hold := some k, waitFrom := u.time },
    cutHere := u.here.cutHere || (u.here.cutReq.isSome && decide (b.start < b.next)) })

/-- The slot holds its bundle, and nothing else happens. -/
def HoldsAtK (i : Instr) (s : State) (b : Inflight) (k : HoldKind) : Prop := HoldsFrom s i s b k

/-! ## The end of a bundle -/

/-- The slot is its bundle's last one, as every C slot is (R63). -/
def Inflight.atLast (b : Inflight) : Prop := b.next + 1 = b.words.length

/-- The loop-end test of R127 on a bundle of `n` words from `lo` on, whose next word is `nxt`: the loop stack and the PC it leaves,
and whether it took a back-edge. -/
inductive LoopsEnd (lo : BitVec 16) (n : Nat) (nxt : BitVec 16) :
    List LoopEntry → List LoopEntry → BitVec 16 → Bool → Prop where
  | empty : LoopsEnd lo n nxt [] [] nxt false
  | outside (e : LoopEntry) (es : List LoopEntry) (h : ∀ j < n, e.stop ≠ lo + BitVec.ofNat 16 j) :
      LoopsEnd lo n nxt (e :: es) (e :: es) nxt false
  | back (e : LoopEntry) (es : List LoopEntry) (j : Nat) (hj : j < n) (he : e.stop = lo + BitVec.ofNat 16 j)
      (hc : e.index + 1 < e.count) : LoopsEnd lo n nxt (e :: es) ({ e with index := e.index + 1 } :: es) e.start true
  | pop (e : LoopEntry) (es r : List LoopEntry) (pc : BitVec 16) (k : Bool) (j : Nat) (hj : j < n)
      (he : e.stop = lo + BitVec.ofNat 16 j) (hc : ¬ e.index + 1 < e.count) (h : LoopsEnd lo n nxt es r pc k) :
      LoopsEnd lo n nxt (e :: es) r pc k

/-- A bundle has ended and nothing is in flight: the PC, the loop stack, and the segment count and signature (R133): outside a handler
the words are fed, then the new PC where one is. -/
def BundleEnded (b : Inflight) (x y : Tile) (pc : BitVec 16) (loops : List LoopEntry) (fed : List Word) : Prop :=
  y.inflight = none ∧ y.pc = pc ∧ y.loops = loops ∧
  (x.k.trapped = false → y.k.segcnt = satAdd32 x.k.segcnt 1 ∧ y.k.segsig = sigFeed x.k.segsig (b.words ++ fed)) ∧
  (x.k.trapped = true → y.k.segcnt = x.k.segcnt ∧ y.k.segsig = x.k.segsig)

/-- The slot commits as the last of its bundle and sends the PC to a target, which is fed where the rule says so; the loop stack is
left as given. -/
def Transfers (i : Instr) (s : State) (b : Inflight) (y : Tile) (pc : BitVec 16) (loops : List LoopEntry) (fed : List Word) : Prop :=
  ∃ t, exec i s = .next t ∧ OnlyTile s.focus s t ∧ t.here.data = y.data ∧ BundleEnded b s.here t.here pc loops fed

/-- The slot commits as the last of its bundle, and the PC goes on to the next word or by the loop-end test. -/
def GoesOn (i : Instr) (s : State) (b : Inflight) (y : Tile) : Prop :=
  ∃ t pc loops back, exec i s = .next t ∧ OnlyTile s.focus s t ∧ t.here.data = y.data ∧
    BundleEnded b s.here t.here pc loops (if back then [pc.setWidth 32] else []) ∧
    (if s.here.k.trapped then pc = b.after ∧ loops = s.here.loops ∧ back = false
     else LoopsEnd (b.first + BitVec.ofNat 16 b.start) (b.words.length - b.start) b.after s.here.loops loops pc back)

/-! ## Traps -/

/-- The launch of the focus tile takes a Point-class trap with its handler. -/
structure State.Handles (s : State) (l : Launch) : Prop where
  launch  : s.launch? s.here.pt.handle = some l
  handler : l.hnd = true
  outside : s.here.k.trapped = false
  stays   : s.here.retiring = false

/-- The slot faults at its turn: the handler is entered with the registers of R308, the slots before it stay committed, and against a
state `u` nothing but the tile differs. -/
def TrapsFrom (u : State) (i : Instr) (s : State) (b : Inflight) (l : Launch) (cause detail : Nat) : Prop :=
  ∃ t, exec i s = .next t ∧ OnlyTile s.focus u t ∧ t.here.pc = l.handler ∧ t.here.inflight = none ∧ t.here.loops = u.here.loops ∧
    t.here.k.segcnt = u.here.k.segcnt ∧ t.here.k.segsig = u.here.k.segsig ∧
    t.here.data = { u.here with
      resume := 0, asleep := false, woken := false, sameNo := true,
      k := { u.here.k with tpc := b.first, tcause := BitVec.ofNat 32 (cause + 256 * detail), tmask := 0, sr := BitVec.ofNat 3 b.next,
                           tsb := u.here.pendingMask, trapped := true } }.data

/-- As above for any tile: a held bundle's slot faults at the end of its hold. -/
def TrapsOn (f : TileId) (i : Instr) (s : State) (b : Inflight) (l : Launch) (cause detail : Nat) : Prop :=
  ∃ t, exec i s = .next t ∧ OnlyTile f s t ∧ (t.tile f).pc = l.handler ∧ (t.tile f).inflight = none ∧
    (t.tile f).loops = (s.tile f).loops ∧ (t.tile f).k.segcnt = (s.tile f).k.segcnt ∧ (t.tile f).k.segsig = (s.tile f).k.segsig ∧
    (t.tile f).data = ({ s.tile f with
      resume := 0, asleep := false, woken := false, sameNo := true,
      k := { (s.tile f).k with tpc := b.first, tcause := BitVec.ofNat 32 (cause + 256 * detail), tmask := 0, sr := BitVec.ofNat 3 b.next,
                               tsb := (s.tile f).pendingMask, trapped := true } } : Tile).data

/-- The slot faults at its turn, and nothing but its tile differs. -/
def TrapsTo (i : Instr) (s : State) (b : Inflight) (l : Launch) (cause detail : Nat) : Prop := TrapsFrom s i s b l cause detail

/-- A tile `x` has stopped as `y` under R311: it issues nothing, its pending entries are gone, and of its copies at most those go on that
had left the queue. It is free once these have ended and its launch is done with. -/
def HasStopped (x y : Tile) : Prop :=
  (y.act = .stopped ∨ y.act = .idle ∧ y.copyq = []) ∧ y.inflight = none ∧ y.sb = [] ∧
  ∀ c ∈ y.copyq, c ∈ x.copyq ∧ c.stage ≠ .queued

/-- A tile has stopped with a trap that no handler takes: the registers of R308 are written. -/
def TrapStopped (x y : Tile) (pc : BitVec 16) (slot cause detail : Nat) (mask : Byte) : Prop :=
  HasStopped x y ∧ y.k.trapped = false ∧ y.k.tpc = pc ∧ y.k.tcause = BitVec.ofNat 32 (cause + 256 * detail) ∧ y.k.tmask = mask ∧
  y.k.sr = BitVec.ofNat 3 slot

/-- The slot faults at its turn with a trap that no handler takes, and its tile stops. -/
def StopsWith (i : Instr) (s : State) (b : Inflight) (cause detail : Nat) : Prop :=
  ∃ t, exec i s = .next t ∧ t.focus = s.focus ∧ TrapStopped s.here t.here b.first b.next cause detail 0

/-! ## Lines -/

/-- Bits ORed into VFLAGS and nothing else of the special registers. -/
def FlagsOred (x y : Tile) (raised : BitVec 5) : Prop := y.k = { x.k with vflags := x.k.vflags ||| raised }

/-- A line's elements of `w` bits are written where `new` gives a value: the other elements of the line and every cell off the line
keep their bits, flags are ORed into VFLAGS, and nothing else of the tile moves (R147, R168). -/
def LineWritten (x y : Tile) (pd : Line) (w : Nat) (new : Nat → Option Nat) (raised : BitVec 5) : Prop :=
  (∀ e, e < 2048 / w → elemAt (elements w (y.line pd)) e = ((new e).map (· % 2 ^ w)).getD (elemAt (elements w (x.line pd)) e)) ∧
  (∀ c, c ∉ lineCells pd → Cells.get 0 y.plane c = Cells.get 0 x.plane c) ∧
  FlagsOred x y raised ∧
  { y with plane := x.plane, planeBad := x.planeBad, k := x.k } = x

/-- At its turn, with no bad cell on the lines that it reads, a V slot writes each active element of its destination line with a function
of the tile, and ORs the flags of the active elements into VFLAGS. -/
def WritesElements (i : Instr) (pd : Line) (reads : List Line) (f : VMode → Tile → Nat → Res) : Prop :=
  ∀ s b, s.At i b → (∀ l ∈ reads, s.here.badCell l = none) →
    let c := s.here.vmode
    let w := elemBits c.ty
    ∃ y raised, Commits i s y ∧
      LineWritten s.here y pd w (fun e => if c.mask.getLsbD e then some (f c s.here e).v else none) raised ∧
      ∀ j, raised.getLsbD j = (List.range (2048 / w)).any fun e => c.mask.getLsbD e && (f c s.here e).fl.toBits.getLsbD j

/-! ## The scratchpad and the scoreboard -/

/-- An address that passes the checks of R169: in the scratchpad, aligned, in one region. -/
def AddrOk (ea : Int) (size align : Nat) : Prop :=
  0 ≤ ea ∧ ea + size ≤ 0x200000 ∧ ea.toNat % align = 0 ∧ ea.toNat / 0x20000 = (ea.toNat + size - 1) / 0x20000

/-- A byte of a tile's scratchpad. -/
def Tile.byteAt (t : Tile) (c : Nat) : Byte := Cells.get 0 t.spad c

/-- A byte of a tile's scratchpad as the tile's next access finds it: where an earlier slot of its own bundle is an STG that has yet to
write, with what that STG writes (R62). -/
def Tile.ownByte (t : Tile) (c : Nat) : Byte := Cells.get 0 (t.viewAt t.issueNo) c

/-- The tile that a slot leaves on the focus tile, with the extra cycles that its scratchpad access adds to those of its bundle so far, in
BCONF; with accesses of other agents under way, what they cost together (R35). -/
def Tile.banked (y : Tile) (s : State) (b : Inflight) (a size : Nat) : Tile := s.share s.focus b y (accessesOf s.here.k a size)

/-- An LDG or STG that is still to access the scratchpad. -/
def Tile.lanesPend (t : Tile) : Prop := ∃ e ∈ t.sb, e.isLdg = true ∨ e.isStg = true

/-- Bytes stored from an address on: they read as given, every byte outside them reads as before, and nothing else of the tile moves but
what it keeps of races with matrix work, and, with a gather or scatter pending, the lanes of that (R62, R217). -/
def SpadStored (x y : Tile) (a n : Nat) (f : Nat → Byte) : Prop :=
  (∀ j, j < n → y.byteAt (a + j) = f j) ∧ (∀ c, c < a ∨ a + n ≤ c → y.byteAt c = x.byteAt c) ∧
  { y with spad := x.spad, raced := x.raced, sb := x.sb } = x ∧ (¬ x.lanesPend → y.sb = x.sb)

/-- Bytes stored by a slot of the tile itself: the tile's next access finds them too, whatever an STG of the same bundle has yet to write
(R62). -/
def OwnStored (x y : Tile) (a n : Nat) (f : Nat → Byte) : Prop :=
  SpadStored x y a n f ∧ ∀ j, j < n → y.ownByte (a + j) = f j

/-- Cell e of a line. -/
def Tile.lane (t : Tile) (l : Line) (e : Nat) : Nat := elemAt (elements 32 (t.line l)) e

/-- The slot commits, from a state `u` on, with an entry of the scoreboard under a number that no other entry has. -/
def TakesEntry (u : State) (i : Instr) (s : State) (w : SbWork) : Prop :=
  ∃ n c, (u.here.sb.length < 16 → ∀ e ∈ u.here.sb, e.num ≠ n) ∧
    CommitsFrom u i s { u.here with sb := u.here.sb ++ [⟨n, u.here.issueNo, c, w, false, 0, []⟩], issueNo := u.here.issueNo + 1 }

/-- The slot commits, from a state `u` on, with an entry of the forest: as above, and where it may have to wait for leaf banks that pending
operations use, some cycles late (R249). -/
def TakesForest (u : State) (i : Instr) (s : State) (w : SbWork) (accs : Option (Inflight × Nat)) : Prop :=
  ∃ n c late, (u.here.sb.length < 16 → ∀ e ∈ u.here.sb, e.num ≠ n) ∧ (u.here.bankWait w = 0 → late = []) ∧
    let y : Tile := { u.here with sb := u.here.sb ++ [⟨n, u.here.issueNo, c, w, false, 0, late⟩], issueNo := u.here.issueNo + 1,
                                  meets := u.here.meets + 1 }
    CommitsFrom u i s (match accs with
      | some (b, a) => y.banked u b a 256
      | none => y)

/-- The tile's entry of a number, which may write back: the tile is in no handler, no entry that must go first is pending (R75, R172,
R217), and its cycle has come for the tile (R205, R249, R428, R431). -/
structure Tile.Pends (t : Tile) (e : BitVec 4) (ent : SbEntry) : Prop where
  found   : t.sb.find? (fun q => q.num == e) = some ent
  outside : t.k.trapped = false
  turn    : ∀ q ∈ t.sb, q.before ent = false
  reached : t.dueNow ent = true

/-- A tile whose matrix entry has written back: the entry is gone, and with no matrix work left the record of replaced bytes ends (R217). -/
def Tile.worked (y : Tile) (ent : SbEntry) : Tile :=
  { y with sb := y.sb.erase ent, raced := if (y.sb.erase ent).any SbEntry.isMatrix then y.raced else [] }

/-- The slot commits and sends posts and crew-space accesses. -/
def Sends (i : Instr) (s : State) (y : Tile) (ps : List Post) (cs : List CrewAccess) : Prop :=
  ∃ t, exec i s = .next t ∧ OnlyTile s.focus { s with posts := s.posts ++ ps, crew := s.crew ++ cs } t ∧ t.here.data = y.data

/-! ## The forest -/

/-- The values on the stack after entries of a shape descriptor (R241, R242): a leaf entry pushes its leaf's value, a node entry takes its
children off and pushes the rounded value of its operation on them, in the order in which they were pushed. -/
def riseStack (p32 : Bool) (leaf : Nat → Nat) : List Nat → List Nat → List Nat
  | [], vs => vs
  | x :: xs, vs =>
    if x < 128 then riseStack p32 leaf xs (leafVal p32 (leaf x) :: vs)
    else
      let k := x % 32 + 2
      riseStack p32 leaf xs ((nodeVal p32 (x / 32 % 4) (vs.take k).reverse).v :: vs.drop k)

/-! ## The memories -/

/-- A tile's scratchpad, plane, instruction store, accumulators, leaves, weights and block scales stand in canonical form. -/
def Tile.wf (t : Tile) : Bool :=
  Cells.wf 0 t.spad && Cells.wf 0 t.plane && Cells.wf 0 t.istore && Cells.wf 0 t.acc && Cells.wf 0 t.leaves &&
  t.macros.toList.all fun m => Cells.wf 0 m.cells && Cells.wf 0 m.scales

/-- Device memory, host memory, the error log and the memories of every tile stand in canonical form. -/
def Memory.wf (s : State) : Bool :=
  Cells.wf 0 s.gmem && Cells.wf 0 s.hostMem && Cells.wf 0 s.errLog && s.tiles.toList.all Tile.wf

end Sys2Proof.Machine
end

