-- ==== Sys2Proof/Certificates/Slice0/Obligations.lean ====
section
/-! DEFINITION. The statements for the provers. `Commits`, `Writes`, `State.At` and the other terms are those of Sys2Proof/Safety.lean. -/

open Sys2Proof Sys2Proof.Machine

/-! ## Encoding -/

/-- R55-R60, R77: every well-formed slot instruction, with every operand at every value, has a word that decodes to it and keeps the
stop bit it is given; an event has no word. -/
def Obligations.SlotWordsDecodeToTheirInstruction : Prop :=
  ∀ i : Instr, i.wf = true → ∀ stop : Bool,
    if i.isSlot then ∃ w, encode stop i = some w ∧ decodeSlot w = .ok i ∧ stopBit w = stop else encode stop i = none

/-- R55, R76, R77: the fields lie where the spec puts them, a word that decodes is the one word of its instruction and stop bit, so no
bit of it is dropped, and no two instructions share a word. -/
def Obligations.DecodedWordsEncodeBack : Prop :=
  ∀ (w : Word) (i : Instr), decodeSlot w = .ok i →
    i.wf = true ∧ encode (stopBit w) i = some w ∧
    ∃ f : SlotFields, encodeFields i = some f ∧ f.op = w.extractLsb' 24 7 ∧ f.d = w.extractLsb' 16 8 ∧ f.a = w.extractLsb' 8 8 ∧
      f.b = w.extractLsb' 0 8 ∧ stopBit w = w.getLsbD 31

/-- R57, R76: a word is refused as reserved exactly where its OP has no row in the opcode map; a word of an assigned OP is an
instruction or has a bad operand field. -/
def Obligations.ReservedOpcodesAreRefused : Prop :=
  ∀ w : Word,
    let op := (w.extractLsb' 24 7).toNat
    (decodeSlot w = .error .reservedOp ↔
      op = 0x1F ∨ (0x5D ≤ op ∧ op ≤ 0x5F) ∨ (0x6A ≤ op ∧ op ≤ 0x6F) ∨ op = 0x7F) ∧
    (decodeSlot w ≠ .error .reservedOp → decodeSlot w = .error .badField ∨ ∃ i, i.wf = true ∧ decodeSlot w = .ok i)

/-- R77: words written out from the encodings of the opcode map, of every unit, decode to the instructions they stand for. -/
def Obligations.WordsOfTheSpecDecode : Prop :=
  decodeSlot 0x100909FC = .ok (.addi 9 9 (-4)) ∧ decodeSlot 0x17091234 = .ok (.sethi 9 0x1234) ∧
  decodeSlot 0x8B09090A = .ok (.or 9 9 10) ∧ decodeSlot 0xA08BFFFA = .ok (.brnz 11 (-6)) ∧
  decodeSlot 0xAF140000 = .ok (.tstamp 10) ∧ decodeSlot 0x3303478C = .ok (.vfma ⟨.row, 3⟩ ⟨.col, 7⟩ ⟨.diag, 12⟩) ∧
  decodeSlot 0xCE0C0700 = .ok (.vred 12 ⟨.row, 7⟩ .sum) ∧ decodeSlot 0x54140A02 = .ok (.ldw 20 10 2) ∧
  decodeSlot 0xDA8CCA4B = .ok (.atom .fmax 12 10 .crew 11) ∧ decodeSlot 0xE0150C0E = .ok (.mmulz 5 12 3 2) ∧
  decodeSlot 0xE4141503 = .ok (.mva ⟨.row, 20⟩ 1 5 3) ∧ decodeSlot 0xF0030809 = .ok (.trise 3 8 9) ∧
  decodeSlot 0xF8451415 = .ok (.spost .crew 5 20 21) ∧ decodeSlot 0xF9050016 = .ok (.swait 5 22) ∧
  decodeSlot 0xFC000800 = .ok (.cpy 8)

/-! ## The step -/

/-- A step with nothing in the inbox runs the slot instruction that the word at the bundle's next slot decodes to, on the focus tile;
the bundle has then passed K. Where no bundle is in flight it is first issued from the words at the PC. The cut of its launch, its
sleep, a passed deadline, a write-back due by its K, the hold of one of its slots at K (R80) and a flag that FLAGINJ forces come before
the slot; with none of the six kinds of slot that can hold a bundle, none holds.
The model's choices in it: notes/assumptions 7, 15, 16, 30. -/
def Obligations.AStepRunsTheDecodedInstruction : Prop :=
  ∀ s : State, s.inbox = [] → s.regs.powered = true →
    let x := s.here
    let free : Prop := s.cutDue x.pt.handle = false ∧ s.sleepDue x = false ∧ (s.deadlineDue x && x.deadlineHere) = false
    (s.cutDue x.pt.handle = true → step s = exec (.preemptDeadline x.pt.handle) s) ∧
    (∀ b i, free → x.inflight = some b → b.words[b.next]?.map decodeSlot = some (.ok i) → b.ready = true → gateHold s s.focus = none →
      let past := if b.passed then b else b.passK x
      s.owed s.focus (commitCycle x past) = false →
      step s = exec i (s.setTile s.focus { x with inflight := some past }) ∧ (b.passed = true → step s = exec i s)) ∧
    (∀ b k, free → x.inflight = some b → b.hold = none → b.atomSent = false → s.owed s.focus (commitCycle x b) = false →
      gateHold s s.focus = some k →
      step s = .next ((s.setTile s.focus { x.beside s.focus (commitCycle x b) with
        inflight := some { b with hold := some k, waitFrom := s.time } }).boundary s.focus)) ∧
    (∀ b, x.inflight = some b →
      (b.next ≠ b.start ∨ b.passed = true ∨
        ∀ w ∈ b.words.drop b.next, ∀ i, decodeSlot w = .ok i →
          i ≠ .pend ∧ (∀ e r, i ≠ .swait e r) ∧ (∀ k c, i ≠ .fence k c) ∧ (∀ m, i ≠ .mwait m) ∧ (∀ r, i ≠ .cpy r) ∧
          ∀ m r e, i ≠ .mstream m r e) →
      gateHold s s.focus = none) ∧
    (∀ t, free → x.inflight = none →
      exec (.bundleIssue s.focus (Config.stall s.draws)) { s with draws := s.draws + 1 } = .next t → step s = .next t)

/-- An event at the head of the inbox is performed, at its TIME or at the TIME already reached; a turn moves its tile; a slot
instruction is no input. Without power (R385) only COLD_RESET does anything.
The model's choices in it: notes/assumptions 7. -/
def Obligations.AStepPerformsTheInboxsEvent : Prop :=
  ∀ (s : State) (rest : List Input),
    (∀ n op, s.inbox = .event n op :: rest → s.regs.powered = true ∨ op = .coldReset →
      step s = if op.isSlot then .refused .notAnInput else exec op { s with inbox := rest, time := Nat.max s.time n }) ∧
    (∀ t, s.inbox = [.turn t] → s.regs.powered = true → step s = step { s with inbox := [], focus := t }) ∧
    (s.regs.powered = false → (∀ n, s.inbox.head? ≠ some (.event n .coldReset)) → step s = .fault .powerOff)

/-- R14, R291, R338, R356, R357, R385-R387, R392, R401, R412, R421: what the registers that these rules name hold after reset, with no
launch known, no tile at work and memory zero; TIME 0 is the model's choice.
The model's choices in it: notes/assumptions 5. -/
def Obligations.ResetLeaves : Prop :=
  let s := State.reset
  s.regs.powered = true ∧ s.regs.ready = true ∧ s.regs.viral = false ∧ s.regs.lastRst = .cold ∧ s.gmem = [] ∧ s.errLog = [] ∧
  s.launches = [] ∧ s.ghosts = [] ∧ s.posts = [] ∧ s.crew = [] ∧ s.faults = [] ∧ s.time = 0 ∧
  (∀ i : TileId, (s.tile i).act = .idle ∧ (s.tile i).inflight = none ∧ (s.tile i).sreg 0 = 0 ∧
    (s.tile i).cox.pol = ⟨20, 2, 64, 1000, 4096, 20⟩) ∧
  (∀ q : Fin 16, s.queues[q].en = false ∧ s.queues[q].head = 0 ∧ s.queues[q].tail = 0 ∧ s.queues[q].base = 0 ∧ s.queues[q].size = 4 ∧
    s.queues[q].admInfo = 0 ∧ s.queues[q].err = false ∧ s.queues[q].adm = false ∧ s.queues[q].tailErr = false) ∧
  (∀ p : Fin 12, s.ports[p].en = false ∧ s.ports[p].up = false ∧ s.ports[p].fenced = false ∧ s.ports[p].viralIn = false ∧
    s.ports[p].keyExh = false ∧ s.ports[p].tagDrop = 0 ∧ s.ports[p].authDrop = 0 ∧ s.ports[p].timeouts = 0) ∧
  s.regs.ownTag = 0 ∧ s.regs.nodeId = 0 ∧ (∀ k : Fin 8, s.keys[k] = none) ∧
  (∀ w : Fin 32, s.imps[w].en = false ∧ s.imps[w].drained = true ∧ s.exps[w].en = false ∧ s.exps[w].drained = true) ∧
  (∀ v : Fin 32, s.vecs[v] = ⟨0, 0, true, false⟩) ∧
  s.regs.spl = 2600 ∧ s.regs.noml = 1900 ∧ s.regs.rearm = 16 ∧ s.regs.ivl = 4 ∧ s.regs.spz = 2 ∧ s.regs.ocSticky = 0 ∧
  s.regs.threshold 0 = 95 ∧ s.regs.threshold 1 = 105 ∧ s.regs.threshold 2 = 115 ∧
  (∀ d : Fin 8, (s.die d).dth = 6 ∧ (s.die d).droopCnt = 0 ∧ (s.die d).crit = false ∧
    ∀ z, (s.zone d z).permits = 64 ∧ (s.zone d z).sprinting = false ∧ (s.zone d z).sprT = false ∧ (s.zone d z).thrT = false) ∧
  (∀ i : Fin 19, s.energy[i] = 0 ∧ s.regs.snapHost[i] = none ∧ s.regs.snapSide[i] = none) ∧
  s.maps[0].en = true ∧ s.maps[0].base = 0 ∧ s.maps[0].limit = 511 ∧ s.maps[1].en = false ∧ s.maps[2].en = false ∧
  s.maps[3].en = false

/-- After reset device memory, host memory, the error log and every tile's scratchpad, plane, instruction store, accumulators, leaves and
weights stand in canonical form: no entry holds what an unlisted address reads as.
The model's choices in it: notes/assumptions 3, 4. -/
def Obligations.ResetMemoriesAreCanonical : Prop := Memory.wf State.reset = true

/-- Every step keeps the canonical form of device memory, host memory, the error log and every tile's scratchpad, plane, instruction store,
accumulators, leaves and weights: addresses strictly rising, no entry equal to what an unlisted address reads as.
The model's choices in it: notes/assumptions 3, 7. -/
def Obligations.EveryStepKeepsMemoriesCanonical : Prop :=
  ∀ s t : State, Memory.wf s = true → step s = .next t → Memory.wf t = true

/-! ## The S unit -/

/-- R14: s0 reads 0 and discards what is written to it; a write of any other register is read back, and no other register moves. -/
def Obligations.ScalarFileReadsWhatWasWritten : Prop :=
  ∀ (t : Tile) (r q : SReg) (v : Word),
    t.sreg 0 = 0 ∧ t.setS 0 v = t ∧ (r ≠ 0 → (t.setS r v).sreg r = v) ∧ (q ≠ r → (t.setS r v).sreg q = t.sreg q) ∧
    (t.setS r v).data = { t.data with scal := (t.setS r v).scal }

/-- R117: the three-register and immediate forms write the function of the table to s[D] and change nothing else. -/
def Obligations.ScalarFormsWriteTheTablesFunction : Prop :=
  ∀ (sd sa sb : SReg) (imm : BitVec 8) (n : BitVec 5),
    Writes (.add sd sa sb) sd (fun t => t.sreg sa + t.sreg sb) ∧
    Writes (.sub sd sa sb) sd (fun t => t.sreg sa - t.sreg sb) ∧
    Writes (.mul sd sa sb) sd (fun t => ((t.sreg sa).setWidth 64 * (t.sreg sb).setWidth 64).extractLsb' 0 32) ∧
    Writes (.mulh sd sa sb) sd (fun t => ((t.sreg sa).signExtend 64 * (t.sreg sb).signExtend 64).extractLsb' 32 32) ∧
    Writes (.mulhu sd sa sb) sd (fun t => ((t.sreg sa).setWidth 64 * (t.sreg sb).setWidth 64).extractLsb' 32 32) ∧
    Writes (.and sd sa sb) sd (fun t => t.sreg sa &&& t.sreg sb) ∧
    Writes (.or sd sa sb) sd (fun t => t.sreg sa ||| t.sreg sb) ∧
    Writes (.xor sd sa sb) sd (fun t => t.sreg sa ^^^ t.sreg sb) ∧
    Writes (.shl sd sa sb) sd (fun t => t.sreg sa <<< ((t.sreg sb).toNat % 32)) ∧
    Writes (.shr sd sa sb) sd (fun t => t.sreg sa >>> ((t.sreg sb).toNat % 32)) ∧
    Writes (.sra sd sa sb) sd (fun t => (t.sreg sa).sshiftRight ((t.sreg sb).toNat % 32)) ∧
    Writes (.addi sd sa imm) sd (fun t => t.sreg sa + imm.signExtend 32) ∧
    Writes (.andi sd sa imm) sd (fun t => t.sreg sa &&& imm.setWidth 32) ∧
    Writes (.ori sd sa imm) sd (fun t => t.sreg sa ||| imm.setWidth 32) ∧
    Writes (.shli sd sa n) sd (fun t => t.sreg sa <<< n.toNat) ∧
    Writes (.shri sd sa n) sd (fun t => t.sreg sa >>> n.toNat) ∧
    Writes (.srai sd sa n) sd (fun t => (t.sreg sa).sshiftRight n.toNat) ∧
    Writes (.seq sd sa sb) sd (fun t => if t.sreg sa = t.sreg sb then 1 else 0) ∧
    Writes (.slt sd sa sb) sd (fun t => if (t.sreg sa).slt (t.sreg sb) then 1 else 0) ∧
    Writes (.sltu sd sa sb) sd (fun t => if (t.sreg sa).ult (t.sreg sb) then 1 else 0) ∧
    Writes (.min sd sa sb) sd (fun t => if (t.sreg sb).slt (t.sreg sa) then t.sreg sb else t.sreg sa) ∧
    Writes (.max sd sa sb) sd (fun t => if (t.sreg sa).slt (t.sreg sb) then t.sreg sb else t.sreg sa)

/-- R118: OP 0x06 to 0x09 are DIV, DIVU, REM and REMU. Division truncates toward zero, the remainder has the dividend's sign, and the two
cases without an ordinary quotient give the results of the table. Each clause holds whatever the operands, so none traps. -/
def Obligations.DivisionTruncatesAndSettlesItsCorners : Prop :=
  ∀ (sd sa sb : SReg),
    (∀ stop : Bool,
      let word (op : BitVec 7) : Word := packSlot stop ⟨op, sd.setWidth 8, sa.setWidth 8, sb.setWidth 8⟩
      decodeSlot (word 0x06) = .ok (.div sd sa sb) ∧ decodeSlot (word 0x07) = .ok (.divu sd sa sb) ∧
      decodeSlot (word 0x08) = .ok (.rem sd sa sb) ∧ decodeSlot (word 0x09) = .ok (.remu sd sa sb)) ∧
    Writes (.div sd sa sb) sd (fun t =>
      if t.sreg sb = 0 then 0xFFFFFFFF
      else if t.sreg sa = 0x80000000 ∧ t.sreg sb = 0xFFFFFFFF then 0x80000000
      else BitVec.ofInt 32 ((t.sreg sa).toInt.tdiv (t.sreg sb).toInt)) ∧
    Writes (.divu sd sa sb) sd (fun t => if t.sreg sb = 0 then 0xFFFFFFFF else t.sreg sa / t.sreg sb) ∧
    Writes (.rem sd sa sb) sd (fun t =>
      if t.sreg sb = 0 then t.sreg sa
      else if t.sreg sa = 0x80000000 ∧ t.sreg sb = 0xFFFFFFFF then 0
      else t.sreg sa - t.sreg sb * BitVec.ofInt 32 ((t.sreg sa).toInt.tdiv (t.sreg sb).toInt)) ∧
    Writes (.remu sd sa sb) sd (fun t => if t.sreg sb = 0 then t.sreg sa else t.sreg sa % t.sreg sb)

/-- R119-R121: SETLO extends with zeros, SETHI fills the high half, SEL picks by the destination's old value, and the one-operand functions;
CLZ, POPC and BREV are said bit by bit. -/
def Obligations.ConstantsSelectionAndOneOperandFunctions : Prop :=
  ∀ (sd sa sb : SReg) (imm : BitVec 16),
    Writes (.setlo sd imm) sd (fun _ => imm.setWidth 32) ∧
    Writes (.sethi sd imm) sd (fun _ => imm.setWidth 32 <<< 16) ∧
    Writes (.sel sd sa sb) sd (fun t => if t.sreg sd ≠ 0 then t.sreg sa else t.sreg sb) ∧
    (∃ f : Word → Word, Writes (.clz sd sa) sd (fun t => f (t.sreg sa)) ∧ f 0 = 32 ∧
      ∀ a : Word, a ≠ 0 → (f a).toNat < 32 ∧ a.getLsbD (31 - (f a).toNat) = true ∧
        ∀ j, 31 - (f a).toNat < j → a.getLsbD j = false) ∧
    (∃ f : Word → Word, Writes (.popc sd sa) sd (fun t => f (t.sreg sa)) ∧
      ∀ a : Word, (f a).toNat = ((List.range 32).filter fun j => a.getLsbD j).length) ∧
    (∃ f : Word → Word, Writes (.brev sd sa) sd (fun t => f (t.sreg sa)) ∧
      ∀ (a : Word) (j : Nat), j < 32 → (f a).getLsbD j = a.getLsbD (31 - j)) ∧
    Writes (.sextb sd sa) sd (fun t => ((t.sreg sa).extractLsb' 0 8).signExtend 32) ∧
    Writes (.sexth sd sa) sd (fun t => ((t.sreg sa).extractLsb' 0 16).signExtend 32) ∧
    Writes (.zextb sd sa) sd (fun t => t.sreg sa &&& 0xFF) ∧
    Writes (.zexth sd sa) sd (fun t => t.sreg sa &&& 0xFFFF) ∧
    Writes (.abs sd sa) sd (fun t => if (t.sreg sa).getLsbD 31 then 0 - t.sreg sa else t.sreg sa) ∧
    Writes (.not sd sa) sd (fun t => ~~~(t.sreg sa))

/-! ## The C unit, and the end of a bundle -/

/-- R78, R127, R133: a NOP moves nothing but the bookkeeping. Inside its bundle only the slot number moves on. As the last slot it ends
the bundle: the words are fed, SEGCNT rises, and the PC goes to the next word or where the loop-end test sends it. -/
def Obligations.NopMovesOnlyTheBookkeeping : Prop :=
  ∀ s b, s.At .nop b →
    (b.next + 1 < b.words.length →
      exec .nop s = .next (s.setTile s.focus { s.here with inflight := some { b with next := b.next + 1, atomBack := none } })) ∧
    (b.atLast → GoesOn .nop s b s.here)

/-- R123, R124: a taken transfer goes to its target, a call leaves the word after the bundle in s63, and a branch not taken goes on as
any bundle does. CALLR jumps through the register's old value. -/
def Obligations.TransfersGoToTheirTargets : Prop :=
  ∀ (s : State) (b : Inflight) (r : SReg) (off : BitVec 16), b.atLast →
    let tgt := b.first + off
    let reg := (s.here.sreg r).setWidth 16
    let linked := s.here.setS 63 (b.after.setWidth 32)
    let jump (i : Instr) (y : Tile) (pc : BitVec 16) := Transfers i s b y pc s.here.loops [pc.setWidth 32]
    (s.At (.br off) b → jump (.br off) s.here tgt) ∧
    (s.At (.brz r off) b → if s.here.sreg r = 0 then jump (.brz r off) s.here tgt else GoesOn (.brz r off) s b s.here) ∧
    (s.At (.brnz r off) b → if s.here.sreg r = 0 then GoesOn (.brnz r off) s b s.here else jump (.brnz r off) s.here tgt) ∧
    (s.At (.brlz r off) b →
      if (s.here.sreg r).getLsbD 31 then jump (.brlz r off) s.here tgt else GoesOn (.brlz r off) s b s.here) ∧
    (s.At (.jr r) b → jump (.jr r) s.here reg) ∧
    (s.At (.call off) b → jump (.call off) linked tgt) ∧
    (s.At (.callr r) b → jump (.callr r) linked reg)

/-- R126: LOOP and LOOPI skip the body at count 0, push an entry with room on the stack, and trap 0x08 on a full stack. -/
def Obligations.LoopsSkipPushOrTrap : Prop :=
  ∀ (s : State) (b : Inflight) (l : Launch) (i : Instr) (count : Word) (off : BitVec 16), b.atLast → s.At i b →
    ((∃ r, i = .loop r off ∧ count = s.here.sreg r) ∨ ∃ n : BitVec 8, i = .loopi n off ∧ count = n.setWidth 32) →
    let tgt := b.first + off
    (count = 0 → Transfers i s b s.here tgt s.here.loops [tgt.setWidth 32]) ∧
    (count ≠ 0 → s.here.loops.length < 6 →
      Transfers i s b s.here b.after (⟨count, 0, b.after, tgt - 1⟩ :: s.here.loops) []) ∧
    (count ≠ 0 → 6 ≤ s.here.loops.length → s.Handles l → TrapsTo i s b l 0x08 0)

/-- R128: LBRK pops the innermost entry and goes to the word after its end; with an empty stack it traps 0x09. Its word is OP 0x26 with
D, A and B all 0. -/
def Obligations.LbrkPopsTheInnermostLoop : Prop :=
  (∀ stop : Bool, decodeSlot (packSlot stop ⟨0x26, 0, 0, 0⟩) = .ok .lbrk) ∧
  ∀ (s : State) (b : Inflight) (l : Launch), b.atLast → s.At .lbrk b →
    (∀ e es, s.here.loops = e :: es → Transfers .lbrk s b s.here (e.stop + 1) es [(e.stop + 1).setWidth 32]) ∧
    (s.here.loops = [] → s.Handles l → TrapsTo .lbrk s b l 0x09 0)

/-- R131, R48, R44: with the copy queue and the scoreboard empty PEND completes: the loop stack is emptied and the member ends its part of
the point, or its prologue; at most its zone's sprint moves besides, as R414 says of a claim withdrawn. Else it holds its bundle at K,
and PEND_COMMIT completes it in the same way once both are empty. That the hold comes before any slot of a bundle that has not passed K,
where the slots before PEND neither hold nor trap, is the model's reading of R80.
The model's choices in it: notes/assumptions 15. -/
def Obligations.PendEndsThePointOrWaits : Prop :=
  ∀ (s : State) (b : Inflight), b.atLast →
    let ended (x : Tile) : Tile := { x with act := if x.act = .prologue then .entering else .pended, claim := false }
    let settles (f : TileId) (t : State) : Prop := OnlyTile f { s with dies := t.dies } t ∧
      ∀ d, { t.die d with zones := (s.die d).zones } = s.die d ∧ (d ≠ f.die → t.die d = s.die d)
    (s.At .pend b → s.here.copyq = [] → s.here.sb = [] →
      ∃ t, exec .pend s = .next t ∧ settles s.focus t ∧ t.here.data = (ended s.here).data ∧ BundleEnded b s.here t.here b.after [] []) ∧
    (s.At .pend b → s.here.copyq ≠ [] ∨ s.here.sb ≠ [] → HoldsAtK .pend s b .pend) ∧
    (∀ before, s.here.inflight = some b → s.here.k.trapped = false → s.here.copyq ≠ [] ∨ s.here.sb ≠ [] →
      b.next = b.start → b.passed = false → b.hold = none → b.atomSent = false → b.rest = before ++ [.pend] →
      (∀ i ∈ before, mayHold i = false) →
      trial (s.setTile s.focus { s.here with inflight := some { b with flagsDue := 0 } }) s.focus before = true →
      gateHold s s.focus = some .pend) ∧
    (∀ f : TileId, s.WaitsAtK f .pend .pend b → (s.tile f).copyq = [] → (s.tile f).sb = [] →
      ∃ t, exec (.pendCommit f) s = .next t ∧ settles f t ∧ (t.tile f).data = (ended (s.tile f)).data ∧
        (t.tile f).inflight = none ∧ (t.tile f).loops = [] ∧ (t.tile f).pc = b.after)

/-- R134, R325: a SEGCHK that matches completes and starts a new segment with its own bundle: SEGCNT ends at 1 and SEGSIG at the CRC of the
bundle's words, and of the PC that a back-edge sends it to. A mismatch traps 0x0A, with the differing parts in the detail, leaves
SEGCNT and SEGSIG, and counts in the site's record (R325); the third within 24 hours makes the tile retiring, and then it stops
instead of entering the handler, and its site is retired. -/
def Obligations.SegchkStartsASegmentOrTraps : Prop :=
  ∀ (s : State) (b : Inflight) (sa sb : SReg), b.atLast → s.At (.segchk sa sb) b →
    let r := (s.site s.focus).live
    let third : Prop := r.segt0 ≠ 0 ∧ r.segt1 ≠ 0 ∧ s.ltime ≤ r.segt1 + 24 * 3600 * 1000000000
    (s.here.sreg sa = s.here.k.segcnt → s.here.sreg sb = s.here.k.segsig →
      ∃ t pc loops back, exec (.segchk sa sb) s = .next t ∧ OnlyTile s.focus s t ∧ t.here.data = s.here.data ∧ t.here.inflight = none ∧
        t.here.pc = pc ∧ t.here.loops = loops ∧
        (if s.here.k.trapped then pc = b.after ∧ loops = s.here.loops ∧ t.here.k.segcnt = 0 ∧ t.here.k.segsig = 0
         else LoopsEnd (b.first + BitVec.ofNat 16 b.start) (b.words.length - b.start) b.after s.here.loops loops pc back ∧
           t.here.k.segcnt = 1 ∧ t.here.k.segsig = sigFeed 0 (b.words ++ if back then [pc.setWidth 32] else []))) ∧
    (∀ l, s.Handles l → ¬ third → (s.here.sreg sa ≠ s.here.k.segcnt ∨ s.here.sreg sb ≠ s.here.k.segsig) →
      ∃ t, exec (.segchk sa sb) s = .next t ∧ t.here.pc = l.handler ∧ t.here.k.trapped = true ∧ t.here.k.tpc = b.first ∧
        t.here.k.sr = BitVec.ofNat 3 b.next ∧ t.here.k.segcnt = s.here.k.segcnt ∧ t.here.k.segsig = s.here.k.segsig ∧
        t.here.k.tcause.toNat = 0x0A + 256 * ((if s.here.sreg sa = s.here.k.segcnt then 0 else 1) +
          (if s.here.sreg sb = s.here.k.segsig then 0 else 2)) ∧
        (t.site s.focus).live.segt0 = s.ltime ∧ (t.site s.focus).live.segt1 = r.segt0 ∧
        ∀ j, j ≠ s.focus → t.tile j = s.tile j) ∧
    (third → s.here.k.trapped = false → (s.here.sreg sa ≠ s.here.k.segcnt ∨ s.here.sreg sb ≠ s.here.k.segsig) →
      ∃ t, exec (.segchk sa sb) s = .next t ∧
        TrapStopped s.here t.here b.first b.next 0x0A ((if s.here.sreg sa = s.here.k.segcnt then 0 else 1) +
          (if s.here.sreg sb = s.here.k.segsig then 0 else 2)) 0 ∧
        (t.site s.focus).live.state = .retired ∧ (t.site s.focus).live.segt0 = s.ltime ∧ (t.site s.focus).live.segt1 = r.segt0)

/-- R136, R137, R274, R308: TRAP and BKPT commit with their bundle and enter the handler at the boundary after it, with imm16 in
TCAUSE[23:8]; RTE in the handler restores the PC and the first slot, discards the entries whose TSB bit is 0, with the accesses that
discarded LDCs have not yet made (R274), and releases the others to write back in order of issue (R75).
The model's choices in it: notes/assumptions 16. -/
def Obligations.TrapsEnterTheHandlerAndRteReturns : Prop :=
  ∀ (s : State) (b : Inflight) (imm : BitVec 16), b.atLast →
    let enters (i : Instr) (cause : Nat) : Prop :=
      ∀ l, s.At i b → s.Handles l →
        ∃ t, exec i s = .next t ∧ OnlyTile s.focus s t ∧ t.here.pc = l.handler ∧ t.here.inflight = none ∧
          t.here.k.segcnt = satAdd32 s.here.k.segcnt 1 ∧ t.here.k.segsig = sigFeed s.here.k.segsig b.words ∧
          t.here.data = { s.here with
            resume := 0, asleep := false, woken := false,
            k := { s.here.k with tpc := b.after, tcause := BitVec.ofNat 32 (cause + 256 * imm.toNat), tmask := 0, sr := 0,
                                 tsb := s.here.pendingMask, trapped := true } }.data
    enters (.trap imm) 0x0B ∧ enters (.bkpt imm) 0x0C ∧
    (s.At .rte b → s.here.k.trapped = true →
      let kept (e : SbEntry) : Bool := s.here.k.tsb.getLsbD e.num.toNat
      let dropped (a : CrewAccess) : Bool :=
        a.src == s.focus && (s.here.sb.any fun e => e.isLdc && !kept e && e.seqNo == a.seqNo)
      ∃ t, exec .rte s = .next t ∧ OnlyTile s.focus { s with crew := s.crew.filter fun a => !dropped a } t ∧
        t.here.data = { s.here with resume := s.here.k.sr.toNat,
                                    sb := (s.here.sb.filter kept).map SbEntry.released,
                                    k := { s.here.k with tsb := 0, trapped := false } }.data ∧
        BundleEnded b s.here t.here s.here.k.tpc s.here.loops []) ∧
    (s.At .rte b → s.here.k.trapped = false → StopsWith .rte s b 0x16 0x01)

/-- R15, R24, R25, R28, R29, R129, R139, R141: LIDX writes the index of the entry at a level counted from the innermost, or 0 where there
is none. TSTAMP writes TIME of the commit into its pair, low half first; of s0 and s1 only s1 is written; TIME moves on by a free amount
(R54). MOVK writes what its register held when the bundle passed D; a MOVK of k5 also puts CYCLE[63:32] of that cycle in k6. What
each number names is said after.
The model's choices in it: notes/assumptions 8, 21, 31, 74. -/
def Obligations.LidxTstampAndMovkReadTheMachine : Prop :=
  (∀ (sd : SReg) (level : Fin 6),
    Writes (.lidx sd level) sd fun t => if h : level.val < t.loops.length then (t.loops[level.val]).index else 0) ∧
  (∀ (s : State) (b : Inflight) (p : BitVec 5), s.At (.tstamp p) b →
    ∃ t, exec (.tstamp p) s = .next t ∧ s.time ≤ t.time ∧ OnlyTile s.focus { s with time := t.time, draws := t.draws } t ∧
      t.here.data = ((s.here.setS (pairLo p) (BitVec.ofNat 32 t.time)).setS (pairHi p) (BitVec.ofNat 32 (t.time / 2 ^ 32))).data) ∧
  (∀ (s : State) (b : Inflight) (sd : SReg) (k : KReg), s.At (.movk sd k) b →
    let y := s.here.setS sd (kRead b.snap s.here.loops s.focus k)
    Commits (.movk sd k) s (if k = 5 then { y with k := { y.k with cycleHi := (b.snap.cycle >>> 32).setWidth 32 } } else y)) ∧
  ∀ (r : KRegs) (ls : List LoopEntry) (f : TileId),
    let rd (n : Nat) : Word := kRead r ls f (BitVec.ofNat 6 n)
    (rd 0).extractLsb' 0 3 = r.sr ∧ (rd 0).getLsbD 3 = r.hw ∧ (rd 0).getLsbD 4 = r.trapped ∧ (rd 0).extractLsb' 5 2 = r.numv ∧
    (rd 0).extractLsb' 7 25 = 0 ∧
    rd 1 = r.tpc.setWidth 32 ∧ rd 2 = r.tcause ∧ rd 3 = r.tmask.setWidth 32 ∧ rd 4 = r.tsb.setWidth 32 ∧
    rd 5 = r.cycle.setWidth 32 ∧ rd 6 = r.cycleHi ∧ rd 7 = r.vflags.setWidth 32 ∧ rd 8 = r.vcfg.setWidth 32 ∧
    rd 9 = r.tcfg.setWidth 32 ∧ rd 10 = r.tstat.setWidth 32 ∧ rd 11 = r.tconf ∧ rd 12 = r.bconf ∧ rd 13 = r.aconf ∧
    rd 14 = r.segcnt ∧ rd 15 = r.segsig ∧
    (rd 16).toNat = f.die.val * 256 + f.site.val / 10 * 16 + f.site.val % 10 ∧
    rd 17 = r.launchId.setWidth 32 ∧ rd 18 = r.pointSer ∧ rd 19 = BitVec.ofNat 32 ls.length ∧
    (∀ j : Fin 6, rd (20 + j.val) = if h : j.val < ls.length then (ls.reverse[j.val]'(by simpa using h)).index else 0) ∧
    rd 26 = r.replays ∧ rd 27 = r.flagInj ∧ rd 28 = r.semErr.setWidth 32 ∧ rd 29 = r.mcfg.setWidth 32 ∧
    rd 30 = r.cerr.setWidth 32 ∧ rd 31 = (r.cerr >>> 32).setWidth 32 ∧
    (∀ j : Fin 16, rd (32 + j.val) = r.regions[j]) ∧ rd 48 = (r.semErr >>> 32).setWidth 32 ∧
    ∀ n, 49 ≤ n → n < 64 → rd n = 0

/-- R140, R334: KMOV completes on the writable registers, each under its own rule: SEGCNT and SEGSIG are written before the feed of their
bundle, TSB takes only cleared bits and only in a handler, FLAGINJ only in a diagnostic launch, with code 3 of its two upper fields and
its reserved bits as 0, and the bundles counted from here on; the sticky registers are cleared by ones. Outside a handler every other
number, or one whose condition fails, traps 0x03 with that number, which stops the tile. -/
def Obligations.KmovWritesOrTraps : Prop :=
  ∀ (s : State) (b : Inflight) (k : KReg) (sa : SReg), b.atLast → s.At (.kmov k sa) b →
    let x := s.here
    let v := x.sreg sa
    let wr (y : Tile) := Commits (.kmov k sa) s y
    let diag := ∃ l, s.launch? x.pt.handle = some l ∧ l.diag = true
    (k = 7 → wr { x with k := { x.k with vflags := v.setWidth 5 } }) ∧
    (k = 10 → wr { x with k := { x.k with tstat := v.setWidth 5 } }) ∧
    (k = 11 → wr { x with k := { x.k with tconf := v } }) ∧
    (k = 12 → wr { x with k := { x.k with bconf := v } }) ∧
    (k = 13 → wr { x with k := { x.k with aconf := v } }) ∧
    (k = 14 → ∃ t, exec (.kmov k sa) s = .next t ∧ OnlyTile s.focus s t ∧ t.here.data = x.data ∧
      t.here.k.segcnt = if x.k.trapped then v else satAdd32 v 1) ∧
    (k = 15 → ∃ t loops back, exec (.kmov k sa) s = .next t ∧ OnlyTile s.focus s t ∧ t.here.data = x.data ∧
      if x.k.trapped then t.here.k.segsig = v
      else LoopsEnd (b.first + BitVec.ofNat 16 b.start) (b.words.length - b.start) b.after x.loops loops t.here.pc back ∧
        t.here.k.segsig = sigFeed v (b.words ++ if back then [t.here.pc.setWidth 32] else [])) ∧
    (k = 4 → x.k.trapped = true → wr { x with k := { x.k with tsb := x.k.tsb &&& v.setWidth 16 } }) ∧
    (k = 27 → diag → ∃ f : Word, wr { x with k := { x.k with flagInj := f }, injBase := x.bundleNo } ∧
      f.extractLsb' 0 24 = v.extractLsb' 0 24 ∧ f.extractLsb' 24 4 = 0 ∧
      f.extractLsb' 28 2 = (if v.extractLsb' 28 2 = 3 then 0 else v.extractLsb' 28 2) ∧
      f.extractLsb' 30 2 = (if v.extractLsb' 30 2 = 3 then 0 else v.extractLsb' 30 2)) ∧
    (k = 28 → wr { x with k := { x.k with semErr := x.k.semErr &&& ~~~(v.setWidth 64) } }) ∧
    (k = 48 → wr { x with k := { x.k with semErr := x.k.semErr &&& ~~~(v.setWidth 64 <<< 32) } }) ∧
    (k = 30 → wr { x with k := { x.k with cerr := x.k.cerr &&& ~~~(v.setWidth 64) } }) ∧
    (k = 31 → wr { x with k := { x.k with cerr := x.k.cerr &&& ~~~(v.setWidth 64 <<< 32) } }) ∧
    (x.k.trapped = false → k.toNat ∉ [7, 10, 11, 12, 13, 14, 15, 28, 30, 31, 48] → ¬ (k = 27 ∧ diag) →
      StopsWith (.kmov k sa) s b 0x03 k.toNat)

/-! ## The V unit -/

/-- R146-R153, R168: the arithmetic of two and three lines writes each active element with the function of its two operands (and of the
destination's old element, in the fused forms).
The model's choices in it: notes/assumptions 25, 75. -/
def Obligations.VectorArithmeticWritesActiveElements : Prop :=
  ∀ (pd pa pb : Line),
    let on (l : Line) (c : VMode) (x : Tile) (e : Nat) : Nat := elemAt (elements (elemBits c.ty) (x.line l)) e
    let two (i : Instr) (op : VMode → Nat → Nat → Res) := WritesElements i pd [pa, pb] fun c x e => op c (on pa c x e) (on pb c x e)
    let fused (i : Instr) (negD negP : Bool) :=
      WritesElements i pd [pd, pa, pb] fun c x e => opFused c negD negP (on pd c x e) (on pa c x e) (on pb c x e)
    let one (i : Instr) (op : VMode → Nat → Res) := WritesElements i pd [pa] fun c x e => op c (on pa c x e)
    two (.vadd pd pa pb) opAdd ∧ two (.vsub pd pa pb) opSub ∧ two (.vmul pd pa pb) opMul ∧
    two (.vmin pd pa pb) (fun c => opPick c false) ∧ two (.vmax pd pa pb) (fun c => opPick c true) ∧
    fused (.vfma pd pa pb) false false ∧ fused (.vfms pd pa pb) false true ∧ fused (.vfnma pd pa pb) true false ∧
    one (.vabs pd pa) opAbs ∧ one (.vneg pd pa) opNeg

/-- R150, R157-R159, R161: the bit-pattern forms move and combine w-bit patterns and set no flag. VSEL writes every element, whatever
the mask; VSHUF takes the element of A that B's element names; a scalar operand is a register's low bits, or a pair in F64. -/
def Obligations.VectorBitPatternsMoveUnchanged : Prop :=
  ∀ (pd pa pb : Line) (sa : SReg),
    let on (l : Line) (c : VMode) (x : Tile) (e : Nat) : Nat := elemAt (elements (elemBits c.ty) (x.line l)) e
    let amt (c : VMode) (v : Nat) : Nat := v % elemBits c.ty
    let two (i : Instr) (op : VMode → Nat → Nat → Nat) :=
      WritesElements i pd [pa, pb] fun c x e => ⟨op c (on pa c x e) (on pb c x e), {}⟩
    two (.vand pd pa pb) (fun _ a b => a &&& b) ∧ two (.vor pd pa pb) (fun _ a b => a ||| b) ∧
    two (.vxor pd pa pb) (fun _ a b => a ^^^ b) ∧
    two (.vshl pd pa pb) (fun c a b => a <<< amt c b) ∧ two (.vshr pd pa pb) (fun c a b => a >>> amt c b) ∧
    two (.vsra pd pa pb) (fun c a b =>
      ((if a < 2 ^ (elemBits c.ty - 1) then (a : Int) else a - 2 ^ elemBits c.ty) / 2 ^ amt c b % 2 ^ elemBits c.ty).toNat) ∧
    WritesElements (.vshuf pd pa pb) pd [pa, pb]
      (fun c x e => ⟨on pa c x (on pb c x e % (2048 / elemBits c.ty)), {}⟩) ∧
    WritesElements (.vbcast pd sa) pd []
      (fun c x _ => ⟨if c.ty = .f64 then (x.sreg (pairLo (pairOf sa))).toNat + 2 ^ 32 * (x.sreg (pairHi (pairOf sa))).toNat
        else (x.sreg sa).toNat % 2 ^ elemBits c.ty, {}⟩) ∧
    ∀ s b, s.At (.vsel pd pa pb) b → s.here.badCell pa = none → s.here.badCell pb = none →
      let c := s.here.vmode
      ∃ y, Commits (.vsel pd pa pb) s y ∧
        LineWritten s.here y pd (elemBits c.ty)
          (fun e => some (if c.mask.getLsbD e then on pa c s.here e else on pb c s.here e)) 0

/-- R155, R160: the forms with a scalar operand complete as VADD, VMUL and VFMA do with the scalar for each element of the second line:
a register's low bits, or the register pair in F64. VIOTA completes and writes each active element with its own number: wrapped or
saturated in an integer type; in a floating type rounded, and exact with no flag below 2^(the format's precision). -/
def Obligations.VectorScalarForms : Prop :=
  ∀ (pd pa : Line) (sb : SReg),
    let on (l : Line) (c : VMode) (x : Tile) (e : Nat) : Nat := elemAt (elements (elemBits c.ty) (x.line l)) e
    let scalar (c : VMode) (x : Tile) : Nat :=
      if c.ty = .f64 then (x.sreg (pairLo (pairOf sb))).toNat + 2 ^ 32 * (x.sreg (pairHi (pairOf sb))).toNat
      else (x.sreg sb).toNat % 2 ^ elemBits c.ty
    WritesElements (.vadds pd pa sb) pd [pa] (fun c x e => opAdd c (on pa c x e) (scalar c x)) ∧
    WritesElements (.vmuls pd pa sb) pd [pa] (fun c x e => opMul c (on pa c x e) (scalar c x)) ∧
    WritesElements (.vfmas pd pa sb) pd [pd, pa] (fun c x e => opFused c false false (on pd c x e) (on pa c x e) (scalar c x)) ∧
    ∃ f : VMode → Nat → Res, WritesElements (.viota pd) pd [] (fun c _ e => f c e) ∧
      (∀ c e, elemFloat c.ty = none →
        let w := elemBits c.ty
        let hi : Nat := if elemSigned c.ty then 2 ^ (w - 1) - 1 else 2 ^ w - 1
        f c e = ⟨if c.sat then min e hi else e % 2 ^ w, {}⟩) ∧
      ∀ c g e, elemFloat c.ty = some g → f c e = floatRes c g false (.fin false e 0) ∧
        (e < 2 ^ (g.fbits + 1) →
          (f c e).fl = {} ∧ ∃ m q, g.decode (f c e).v = .fin false m q ∧ m * 2 ^ (q + 52).toNat = e * 2 ^ 52)

/-- R149: in an integer type the result of an element is the exact result, wrapped to the width, or with SAT held between the bounds of
the type. -/
def Obligations.IntegerElementsWrapOrSaturate : Prop :=
  ∀ (c : VMode) (a b d : Nat), elemFloat c.ty = none →
    a < 2 ^ elemBits c.ty → b < 2 ^ elemBits c.ty → d < 2 ^ elemBits c.ty →
    let w := elemBits c.ty
    let val (v : Nat) : Int := if elemSigned c.ty ∧ 2 ^ (w - 1) ≤ v then (v : Int) - 2 ^ w else v
    let lo : Int := if elemSigned c.ty then -(2 ^ (w - 1)) else 0
    let hi : Int := if elemSigned c.ty then 2 ^ (w - 1) - 1 else 2 ^ w - 1
    let ires (y : Int) : Nat := ((if c.sat then max lo (min hi y) else y) % 2 ^ w).toNat
    opAdd c a b = ⟨ires (val a + val b), {}⟩ ∧ opSub c a b = ⟨ires (val a - val b), {}⟩ ∧ opMul c a b = ⟨ires (val a * val b), {}⟩ ∧
    opFused c false false d a b = ⟨ires (val d + val a * val b), {}⟩ ∧ opFused c false true d a b = ⟨ires (val d - val a * val b), {}⟩ ∧
    opFused c true false d a b = ⟨ires (-val d + val a * val b), {}⟩ ∧
    opAbs c a = ⟨ires (val a).natAbs, {}⟩ ∧ opNeg c a = ⟨ires (-val a), {}⟩ ∧
    (opPick c false a b).v = (if val a ≤ val b then a else b) ∧ (opPick c true a b).v = if val a < val b then b else a

/-- R154: the functions write each active element in a floating type; in an integer type they trap 0x16 with detail 0x11, which stops the
tile.
The model's choices in it: notes/assumptions 26. -/
def Obligations.FunctionsRunOnFloatingTypesOnly : Prop :=
  ∀ (pd pa : Line),
    let fn (i : Instr) (g : VFun) : Prop :=
      ∀ s b, s.At i b →
        let c := s.here.vmode
        let w := elemBits c.ty
        (∀ f, elemFloat c.ty = some f → s.here.badCell pa = none →
          let r (e : Nat) : Res := opFun c f g (elemAt (elements w (s.here.line pa)) e)
          ∃ y raised, Commits i s y ∧
            LineWritten s.here y pd w (fun e => if c.mask.getLsbD e then some (r e).v else none) raised ∧
            ∀ j, raised.getLsbD j = (List.range (2048 / w)).any fun e => c.mask.getLsbD e && (r e).fl.toBits.getLsbD j) ∧
        (elemFloat c.ty = none → s.here.k.trapped = false → StopsWith i s b 0x16 0x11)
    fn (.vrcp pd pa) .rcp ∧ fn (.vrsq pd pa) .rsq ∧ fn (.vexp2 pd pa) .exp2 ∧ fn (.vlog2 pd pa) .log2

/-- R156, R162, R105: VCMP writes its mask, active bits by the condition, inactive bits kept, bits past the line's elements 0; VCVT
converts as many elements as the wider type has and leaves the rest of the line; the flags of the active elements are ORed into
VFLAGS. -/
def Obligations.ComparesAndConversions : Prop :=
  ∀ (pd pa pb : Line) (cond : VCond) (md : MaskReg) (x y : ElemType), md ≠ 0 → cvtDefined x y = true →
    (∀ s b, s.At (.vcmp cond md pa pb) b → s.here.badCell pa = none → s.here.badCell pb = none →
      let c := s.here.vmode
      let w := elemBits c.ty
      let cmp (e : Nat) : Bool × Bool :=
        opCmp c cond (elemAt (elements w (s.here.line pa)) e) (elemAt (elements w (s.here.line pb)) e)
      ∃ z, Commits (.vcmp cond md pa pb) s z ∧
        (∀ e, (z.mask md).getLsbD e =
          (decide (e < 2048 / w) && if c.mask.getLsbD e then (cmp e).1 else (s.here.mask md).getLsbD e)) ∧
        (∀ m, m ≠ md → z.mask m = s.here.mask m) ∧
        FlagsOred s.here z (({ inv := (List.range (2048 / w)).any fun e => c.mask.getLsbD e && (cmp e).2 } : FpFlags).toBits) ∧
        { z with masks := s.here.masks, k := s.here.k } = s.here) ∧
    (∀ s b, s.At (.vcvt pd pa x y) b → s.here.badCell pa = none →
      let c := s.here.vmode
      let n := 2048 / max (elemBits x) (elemBits y)
      let r (e : Nat) : Res := cvtElem c x y (elemAt (elements (elemBits x) (s.here.line pa)) e)
      ∃ z raised, Commits (.vcvt pd pa x y) s z ∧
        LineWritten s.here z pd (elemBits y) (fun e => if e < n ∧ c.mask.getLsbD e then some (r e).v else none) raised ∧
        ∀ j, raised.getLsbD j = (List.range n).any fun e => c.mask.getLsbD e && (r e).fl.toBits.getLsbD j)

/-- R163: VSCAN writes each active element with the combination of the active elements up to it, in element order; the first one as it
is read. The flags of the readings and of the combinations are ORed into VFLAGS.
The model's choices in it: notes/assumptions 25. -/
def Obligations.ScanCombinesInElementOrder : Prop :=
  ∀ (pd pa : Line) (op : ScanOp) (s : State) (b : Inflight), s.At (.vscan pd pa op) b → s.here.badCell pa = none →
    let c := s.here.vmode
    let w := elemBits c.ty
    let rd (e : Nat) : Res := readElem c (elemAt (elements w (s.here.line pa)) e)
    let a (e : Nat) : Nat := (rd e).v
    let next (d e : Nat) : Prop := d < e ∧ e < 2048 / w ∧ c.mask.getLsbD d = true ∧ c.mask.getLsbD e = true ∧
      ∀ j, d < j → j < e → c.mask.getLsbD j = false
    ∃ y raised, ∃ r : Nat → Nat, Commits (.vscan pd pa op) s y ∧
      LineWritten s.here y pd w (fun e => if c.mask.getLsbD e then some (r e) else none) raised ∧
      (∀ e, e < 2048 / w → c.mask.getLsbD e = true → (∀ j < e, c.mask.getLsbD j = false) → r e = a e) ∧
      (∀ d e, next d e → r e = (scanStep c op (r d) (a e)).v) ∧
      ∀ j, raised.getLsbD j = true ↔
        (∃ e, e < 2048 / w ∧ c.mask.getLsbD e = true ∧ (rd e).fl.toBits.getLsbD j = true) ∨
        ∃ d e, next d e ∧ (scanStep c op (r d) (a e)).fl.toBits.getLsbD j = true

/-- R164, R165: VRED completes and writes the reduction of the active elements to s[D], or to the pair in F64: an integer SUM is the exact
sum, wrapped to 32 bits or saturated; an integer MAX or MIN is the bound of the active elements that is one of them; AND, OR and XOR
combine them bit by bit; a floating SUM, MAX or MIN is the tree of R164 over the elements as they are read; ARGMAX is the lowest index of
the greatest number; and with no active element the result is the table's.
The model's choices in it: notes/assumptions 25. -/
def Obligations.ReductionWritesItsScalar : Prop :=
  ∀ (sd : SReg) (pa : Line) (op : RedOp) (s : State) (b : Inflight), s.At (.vred sd pa op) b → s.here.badCell pa = none →
    let c := s.here.vmode
    let w := elemBits c.ty
    let act := activeElems c (elements w (s.here.line pa))
    let r := reduce c op act
    (let y := if c.ty = .f64 ∧ op ≠ .argmax then s.here.setPair (pairOf sd) r.1 else s.here.setS sd (BitVec.ofNat 32 r.1)
     Commits (.vred sd pa op) s { y with k := { y.k with vflags := y.k.vflags ||| r.2.toBits } }) ∧
    (op = .sum → elemFloat c.ty = none →
      let z := act.foldl (fun z p => if p.1 then z + intOf c.ty p.2 else z) (0 : Int)
      let lo : Int := if elemSigned c.ty then -(2 ^ 31) else 0
      let hi : Int := if elemSigned c.ty then 2 ^ 31 - 1 else 2 ^ 32 - 1
      r.1 = ((if c.sat then max lo (min hi z) else z) % 2 ^ 32).toNat) ∧
    let ext (v : Nat) : Nat :=
      if elemSigned c.ty ∧ 2 ^ (w - 1) ≤ v then v + 2 ^ 32 - 2 ^ w else v
    (elemFloat c.ty = none → op = .max ∨ op = .min → (∃ p ∈ act, p.1 = true) →
      ∃ v, (true, v) ∈ act ∧ r.1 = ext v ∧
        ∀ u, (true, u) ∈ act → if op = .max then intOf c.ty u ≤ intOf c.ty v else intOf c.ty v ≤ intOf c.ty u) ∧
    (op = .and ∨ op = .or ∨ op = .xor → (∃ p ∈ act, p.1 = true) →
      let on := (act.filter fun p => p.1).map fun p => p.2
      r.1 = ext (if op = .and then on.foldl (· &&& ·) (2 ^ w - 1) else if op = .or then on.foldl (· ||| ·) 0 else on.foldl (· ^^^ ·) 0)) ∧
    (∀ g, elemFloat c.ty = some g → op = .sum ∨ op = .max ∨ op = .min → (∃ p ∈ act, p.1 = true) →
      some r.1 = (pairTree (redPair c op) 8 (act.map fun p => if p.1 then some (readElem c p.2).v else none)).1) ∧
    (op = .argmax →
      (elemFloat c.ty = none → (∃ u, (true, u) ∈ act) → ∃ v, act[r.1]? = some (true, v) ∧
        ∀ j u, act[j]? = some (true, u) → intOf c.ty u < intOf c.ty v ∨ intOf c.ty u = intOf c.ty v ∧ r.1 ≤ j) ∧
      ∀ g, elemFloat c.ty = some g →
        let val (u : Nat) : FVal := g.decode (readElem c u).v
        ((∀ u, (true, u) ∈ act → (val u).isNaN = true) → r.1 = 0xFFFFFFFF) ∧
        ((∃ u, (true, u) ∈ act ∧ (val u).isNaN = false) → ∃ v, act[r.1]? = some (true, v) ∧ (val v).isNaN = false ∧
          ∀ j u, act[j]? = some (true, u) → (val u).isNaN = false →
            (val v).lessNum (val u) = false ∧ ((val u).lessNum (val v) = false → r.1 ≤ j))) ∧
    ((∀ p ∈ act, p.1 = false) →
      (op = .argmax → r.1 = 0xFFFFFFFF) ∧ (op = .or ∨ op = .xor → r.1 = 0) ∧ (op = .sum → r.1 = 0) ∧ (op = .and → r.1 = ext (2 ^ w - 1)) ∧
      (∀ g, elemFloat c.ty = some g → op = .max ∨ op = .min → r.1 = g.canonNaN) ∧
      (elemFloat c.ty = none →
        (op = .max → r.1 = if elemSigned c.ty then 2 ^ 32 - 2 ^ (w - 1) else 0) ∧
        (op = .min → r.1 = if elemSigned c.ty then 2 ^ (w - 1) - 1 else 2 ^ w - 1)))

/-- R142, R144: VCFG takes a defined type with reserved bits 0; anything else traps 0x16 with detail 0x10, which stops the tile. -/
def Obligations.VcfgTakesDefinedConfigurations : Prop :=
  ∀ (imm : BitVec 16) (s : State) (b : Inflight), s.At (.vcfg imm) b →
    let ok := (imm.extractLsb' 0 4).toNat < 12 ∧ imm.extractLsb' 11 5 = 0
    (ok → Commits (.vcfg imm) s { s.here with k := { s.here.k with vcfg := imm } }) ∧
    (¬ ok → s.here.k.trapped = false → StopsWith (.vcfg imm) s b 0x16 0x10)

/-! ## The L unit -/

/-- R169-R171, R35, R62, R257: the loads complete and take their bytes from the address of a register and an immediate, or of two
registers, low byte first, after what the tile itself stored before, and count their bank conflicts; nothing else moves.
The model's choices in it: notes/assumptions 21, 76. -/
def Obligations.LoadsReadTheScratchpad : Prop :=
  ∀ (s : State) (b : Inflight) (pd : Line) (sd sa sb : SReg) (imm : BitVec 8) (m : MaskReg) (a : Nat),
    let u := s.own
    let x := u.here
    let disp (unit : Nat) : Int := (x.sreg sa).toNat + imm.toInt * unit
    let line (i : Instr) (ea : Int) : Prop := u.At i b → ea = a → AddrOk ea 256 16 →
      ∃ y, CommitsOwn i s (y.banked u b a 256) ∧ LineWritten x y pd 8 (fun e => some (x.ownByte (a + e)).toNat) 0
    line (.ldl pd sa imm) (disp 256) ∧
    line (.ldlx pd sa sb) ((x.sreg sa).toNat + (x.sreg sb).toNat) ∧
    (u.At (.ldw sd sa imm) b → disp 4 = a → AddrOk a 4 4 →
      ∃ v : Word, CommitsOwn (.ldw sd sa imm) s ((x.setS sd v).banked u b a 4) ∧
        ∀ j, j < 4 → v.extractLsb' (8 * j) 8 = x.ownByte (a + j)) ∧
    (u.At (.ldm m sa imm) b → m ≠ 0 → disp 32 = a → AddrOk a 32 32 →
      ∃ y : Tile, CommitsOwn (.ldm m sa imm) s (y.banked u b a 32) ∧
        (∀ j, j < 256 → (y.mask m).getLsbD j = (x.ownByte (a + j / 8)).getLsbD (j % 8)) ∧ (∀ q, q ≠ m → y.mask q = x.mask q) ∧
        { y with masks := x.masks } = x)

/-- R169-R171, R177, R178, R22, R62: the stores complete and change the bytes from their address on and no other byte of the
scratchpad; a mask register stores as 32 bytes, m0 as ones. A LOCAL ATOM stores the combination of the old word and its operand, and
s[D] gets the old word.
The model's choices in it: notes/assumptions 21, 76. -/
def Obligations.StoresChangeOnlyTheirBytes : Prop :=
  ∀ (s : State) (b : Inflight) (ps : Line) (ss sa sb : SReg) (imm : BitVec 8) (m : MaskReg) (op : AtomOp) (a : Nat),
    let u := s.own
    let x := u.here
    let disp (unit : Nat) : Int := (x.sreg sa).toNat + imm.toInt * unit
    let line (i : Instr) (ea : Int) : Prop := u.At i b → x.badCell ps = none → ea = a → AddrOk ea 256 16 →
      ∃ y, CommitsOwn i s (y.banked u b a 256) ∧ OwnStored x y a 256 fun j => BitVec.ofNat 8 (elemAt (elements 8 (x.line ps)) j)
    line (.stl ps sa imm) (disp 256) ∧
    line (.stlx ps sa sb) ((x.sreg sa).toNat + (x.sreg sb).toNat) ∧
    (u.At (.stw ss sa imm) b → disp 4 = a → AddrOk a 4 4 →
      ∃ y, CommitsOwn (.stw ss sa imm) s (y.banked u b a 4) ∧ OwnStored x y a 4 fun j => (x.sreg ss).extractLsb' (8 * j) 8) ∧
    (u.At (.stm m sa imm) b → disp 32 = a → AddrOk a 32 32 →
      ∃ y, CommitsOwn (.stm m sa imm) s (y.banked u b a 32) ∧
        OwnStored x y a 32 fun j => if m = 0 then 0xFF else (x.mask m).extractLsb' (8 * j) 8) ∧
    (u.At (.atom op ss sa .loc sb) b → (x.sreg sa).toNat = a → AddrOk a 4 4 →
      ∃ (old : Word) (y : Tile), (∀ j, j < 4 → old.extractLsb' (8 * j) 8 = x.ownByte (a + j)) ∧
        OwnStored x y a 4 (fun j =>
          (BitVec.ofNat 32 (atomNew 32 op old.toNat (x.sreg sb).toNat (x.sreg ss).toNat)).extractLsb' (8 * j) 8) ∧
        CommitsOwn (.atom op ss sa .loc sb) s ((y.setS ss old).banked u b a 4)) ∧
    ∀ (p v c : Word),
      let new (op : AtomOp) : Nat := atomNew 32 op p.toNat v.toNat c.toNat
      new .add = (p + v).toNat ∧ new .sub = (p - v).toNat ∧ new .and = (p &&& v).toNat ∧ new .or = (p ||| v).toNat ∧
      new .xor = (p ^^^ v).toNat ∧ new .xch = v.toNat ∧ new .cas = (if p = c then v else p).toNat ∧
      new .umin = min p.toNat v.toNat ∧ new .umax = max p.toNat v.toNat ∧
      new .smin = (if p.toInt ≤ v.toInt then p else v).toNat ∧ new .smax = (if p.toInt ≤ v.toInt then v else p).toNat

/-- R169, R172, R174, R306, R19: an access outside the scratchpad traps 0x04, a misaligned one or one that crosses a region 0x05, with
the address's low 24 bits; a gather traps on its base, else on its lowest bad lane; a crew-space access checks its rank, its bits
[23:21] and its offset, in this order; a line with a bad cell traps 0x0F before anything is stored, which stops the tile.
The model's choices in it: notes/assumptions 34. -/
def Obligations.BadAccessesTrap : Prop :=
  ∀ (s : State) (b : Inflight) (l : Launch) (p : Line) (r sa sb : SReg) (imm : BitVec 8) (m : MaskReg) (op : AtomOp), s.Handles l →
    let u := s.own
    let x := u.here
    let v := x.sreg sa
    let disp (unit : Nat) : Int := v.toNat + imm.toInt * unit
    let sum : Int := v.toNat + (x.sreg sb).toNat
    let cause (ea : Int) (size : Nat) : Nat := if ea < 0 ∨ 0x200000 < ea + size then 0x04 else 0x05
    let bad (i : Instr) (ea : Int) (size align : Nat) : Prop :=
      u.At i b → ¬ AddrOk ea size align → TrapsFrom u i s b l (cause ea size) (ea % 2 ^ 24).toNat
    let crew (w : State) (i : Instr) (size align : Nat) : Prop := w.At i b → b.atomBack = none →
      let rank := (v.extractLsb' 24 8).toNat
      let off := (v.extractLsb' 0 21).toNat
      (x.crewN ≤ rank → TrapsFrom w i s b l 0x06 0x01) ∧
      (rank < x.crewN → v.extractLsb' 21 3 ≠ 0 → TrapsFrom w i s b l 0x04 off) ∧
      (rank < x.crewN → v.extractLsb' 21 3 = 0 → ¬ AddrOk off size align → TrapsFrom w i s b l (cause off size) off)
    bad (.ldl p sa imm) (disp 256) 256 16 ∧ bad (.stl p sa imm) (disp 256) 256 16 ∧ bad (.ldlx p sa sb) sum 256 16 ∧
    bad (.stlx p sa sb) sum 256 16 ∧ bad (.ldw r sa imm) (disp 4) 4 4 ∧ bad (.stw r sa imm) (disp 4) 4 4 ∧
    bad (.ldm m sa imm) (disp 32) 32 32 ∧ bad (.stm m sa imm) (disp 32) 32 32 ∧ bad (.atom op r sa .loc sb) v.toNat 4 4 ∧
    crew s (.ldc p sa) 256 16 ∧ crew s (.stc p sa) 256 16 ∧ crew u (.atom op r sa .crew sb) 4 4 ∧
    (∀ (q : Line) (e : Nat) (i : Instr), i = .ldg p sa q ∨ i = .stg p sa q → u.At i b → x.badCell p = none → x.badCell q = none →
      e < 64 → (v.toNat % 4 ≠ 0 ∧ e = 0 ∨ v.toNat % 4 = 0 ∧ ∀ j < e, AddrOk (v.toNat + 4 * x.lane q j : Nat) 4 4) →
      let ea := v.toNat + 4 * x.lane q e
      ¬ AddrOk ea 4 4 → TrapsFrom u i s b l (if v.toNat % 4 ≠ 0 then 0x05 else cause ea 4) (ea % 2 ^ 24)) ∧
    ∀ c : Nat, x.badCell p = some c → u.At (.stl p sa imm) b → AddrOk (disp 256) 256 16 →
      StopsWith (.stl p sa imm) s b 0x0F (c / 64 + 256 * (c % 64))

/-- R172, R431, R73, R62: LDG and STG complete by taking their 64 addresses at the slot and a scoreboard entry. The write-back of an LDG
fills its line: a lane that a later slot of its own bundle has stored over has its word since then, any other reads the scratchpad now.
That of an STG stores the words that it has left in lane order, so that a higher lane wins, and no other byte moves. Both count the
conflict cycles of their groups that are not yet counted.
The model's choices in it: notes/assumptions 20, 21, 34, 76. -/
def Obligations.GathersAndScattersThroughTheScoreboard : Prop :=
  (∀ (s : State) (b : Inflight) (p : Line) (sa : SReg) (pb : Line),
    let u := s.own
    let x := u.here
    let as := (List.range 64).map fun e => (x.sreg sa).toNat + 4 * x.lane pb e
    (x.sreg sa).toNat % 4 = 0 → (∀ a ∈ as, AddrOk (a : Nat) 4 4) → x.badCell pb = none →
      (u.At (.ldg p sa pb) b → TakesEntry u (.ldg p sa pb) s (.ldg p as (List.replicate 64 none))) ∧
      (u.At (.stg p sa pb) b → x.badCell p = none → TakesEntry u (.stg p sa pb) s (.stg ((x.line p).map some) as))) ∧
  ∀ (s : State) (f : TileId) (n : BitVec 4) (ent : SbEntry) (as : List Nat), (s.tile f).Pends n ent →
    let x := s.tile f
    let done (y : Tile) : Tile := { y.addBconf (groupConflicts x.k as - ent.paid) with sb := x.sb.erase ent }
    (∀ pd tk, ent.work = .ldg pd as tk → as.length = 64 → tk.length = 64 →
      ∃ y, CommitsOn f (.ldgWriteback f n) s (done y) ∧
        LineWritten x y pd 8 (fun e => some (match tk.getD (e / 4) none with
          | some w => w.extractLsb' (8 * (e % 4)) 8
          | none => x.byteAt (as.getD (e / 4) 0 + e % 4)).toNat) 0) ∧
    (∀ ws, ws.length = as.length → ent.work = .stg ws as →
      ∃ y, CommitsOn f (.stgWriteback f n) s (done y) ∧ { y with spad := x.spad, raced := x.raced } = x ∧
        let hits (j c : Nat) : Prop := (ws.getD j none).isSome = true ∧ as.getD j 0 ≤ c ∧ c < as.getD j 0 + 4
        (∀ c, (∀ j < as.length, ¬ hits j c) → y.byteAt c = x.byteAt c) ∧
        ∀ j k w, j < as.length → k < 4 → ws.getD j none = some w → (∀ h, j < h → h < as.length → ¬ hits h (as.getD j 0 + k)) →
          y.byteAt (as.getD j 0 + k) = w.extractLsb' (8 * k) 8)

/-- R174-R176, R179-R181: LDC and STC complete, and with a CREW ATOM send an access to the tile of the rank; it is performed there on
its arrival, in the order of commit between two tiles, unless the target has stopped, and a FENCE of the sender may go on from then
on; the target counts what its conflicts cost; an LDC's line is written by its write-back, and a CREW ATOM commits with the old word
when that returns.
The model's choices in it: notes/assumptions 20, 21, 76. -/
def Obligations.CrewAccessesArePerformedAtTheirTarget : Prop :=
  (∀ (s : State) (b : Inflight) (p : Line) (sd sa sb : SReg) (op : AtomOp),
    let x := s.here
    let v := x.sreg sa
    let rank := (v.extractLsb' 24 8).toNat
    let off := (v.extractLsb' 0 21).toNat
    let target : TileId := if x.act = .prologue then s.focus else ⟨s.focus.die, siteOf ((rectSites x.pt.shape x.pt.corner).getD rank 0)⟩
    let access (c : CrewOp) : CrewAccess := ⟨s.focus, target, c, x.pt.handle, x.issueNo⟩
    rank < x.crewN → v.extractLsb' 21 3 = 0 →
      (s.At (.stc p sa) b → AddrOk off 256 16 → x.badCell p = none →
        Sends (.stc p sa) s { x with issueNo := x.issueNo + 1 } [] [access (.store off (x.line p))]) ∧
      (s.At (.ldc p sa) b → AddrOk off 256 16 →
        ∃ n c, (x.sb.length < 16 → ∀ e ∈ x.sb, e.num ≠ n) ∧
          Sends (.ldc p sa) s { x with sb := x.sb ++ [⟨n, x.issueNo, c, .ldc p none, false, 0, []⟩], issueNo := x.issueNo + 1 } []
            [access (.load off n)]) ∧
      (s.own.At (.atom op sd sa .crew sb) b → AddrOk off 4 4 → b.atomBack = none →
        exec (.atom op sd sa .crew sb) s =
          .next { s.own.setTile s.focus { s.own.here with
                    inflight := some { b with atomSent := true }, cutHere := s.own.here.cutHere || s.own.here.cutReq.isSome } with
                  crew := s.own.crew ++ [access (.atom off op (x.sreg sb) (x.sreg sd))] })) ∧
  (∀ (s : State) (i : Nat) (a : CrewAccess), s.crew[i]? = some a → (∀ e ∈ s.crew.take i, ¬ (e.src = a.src ∧ e.dst = a.dst)) →
    let x := s.tile a.dst
    let rest := { s with crew := s.crew.eraseIdx i }
    let freed (t : State) : State := t.freed a.src [.fence]
    let meets (y : Tile) (own : Nat) : Tile := y.meetCrew a.dst own (rest.crewDepth a.dst)
    let line (ad : Nat) : Nat := conflictCycles (accessesOf x.k ad 256)
    let filled (sb : List SbEntry) (ws : List Word) : List SbEntry := sb.map fun q =>
      match q.work with
      | .ldc pd none => if q.seqNo = a.seqNo then { q with work := .ldc pd (some ws) } else q
      | _ => q
    (x.serves a.handle = false → exec (.crewAccessArrival i) s = .next (freed rest)) ∧
    (x.serves a.handle = true → a.src = a.dst →
      let rd (c : Nat) : Byte := Cells.get 0 (x.viewAt a.seqNo) c
      ∃ t, exec (.crewAccessArrival i) s = .next (freed t) ∧ { t with tiles := s.tiles } = rest ∧ (∀ j, j ≠ a.dst → t.tile j = s.tile j) ∧
        (∀ ad ws, a.op = .store ad ws → ws.length = 64 →
          ∃ y, t.tile a.dst = meets y (line ad) ∧
            SpadStored x y ad 256 fun j => (ws.getD (j / 4) 0).extractLsb' (8 * (j % 4)) 8) ∧
        (∀ ad n, a.op = .load ad n → ∃ ws : List Word, ws.length = 64 ∧
          (∀ j, j < 256 → (ws.getD (j / 4) 0).extractLsb' (8 * (j % 4)) 8 = rd (ad + j)) ∧
          t.tile a.dst = { meets x (line ad) with sb := filled (meets x (line ad)).sb ws }) ∧
        (∀ ad op v c b, a.op = .atom ad op v c → x.inflight = some b → b.atomSent = true →
          ∃ (old : Word) (y : Tile), (∀ j, j < 4 → old.extractLsb' (8 * j) 8 = rd (ad + j)) ∧
            (SpadStored x y ad 4 fun j =>
              (BitVec.ofNat 32 (atomNew 32 op old.toNat v.toNat c.toNat)).extractLsb' (8 * j) 8) ∧
            t.tile a.dst = { meets y 0 with inflight := some { b with atomBack := some old } })) ∧
    (x.serves a.handle = true → a.src ≠ a.dst →
      ∃ t, exec (.crewAccessArrival i) s = .next (freed t) ∧ { t with tiles := s.tiles } = rest ∧
        (∀ j, j ≠ a.src → j ≠ a.dst → t.tile j = s.tile j) ∧
        (∀ ad ws, a.op = .store ad ws → ws.length = 64 → t.tile a.src = s.tile a.src ∧
          ∃ y, t.tile a.dst = meets y (line ad) ∧ y.sb = x.sb ∧
            SpadStored x y ad 256 fun j => (ws.getD (j / 4) 0).extractLsb' (8 * (j % 4)) 8) ∧
        (∀ ad n, a.op = .load ad n → t.tile a.dst = meets x (line ad) ∧
          ∃ ws : List Word, ws.length = 64 ∧
            (∀ j, j < 256 → (ws.getD (j / 4) 0).extractLsb' (8 * (j % 4)) 8 = x.byteAt (ad + j)) ∧
            t.tile a.src = { s.tile a.src with sb := filled (s.tile a.src).sb ws }) ∧
        (∀ ad op v c b, a.op = .atom ad op v c → (s.tile a.src).inflight = some b → b.atomSent = true →
          ∃ old : Word, (∀ j, j < 4 → old.extractLsb' (8 * j) 8 = x.byteAt (ad + j)) ∧
            t.tile a.src = { s.tile a.src with inflight := some { b with atomBack := some old } } ∧
            ∃ y, t.tile a.dst = meets y 0 ∧ y.sb = x.sb ∧ SpadStored x y ad 4 fun j =>
              (BitVec.ofNat 32 (atomNew 32 op old.toNat v.toNat c.toNat)).extractLsb' (8 * j) 8))) ∧
  ∀ (s : State) (f : TileId),
    let x := s.tile f
    (∀ n ent pd ws, x.Pends n ent → ent.work = .ldc pd (some ws) → ws.length = 64 →
      ∃ y, CommitsOn f (.ldcWriteback f n) s { y with sb := x.sb.erase ent } ∧
        LineWritten x y pd 32 (fun e => some (ws.getD e 0).toNat) 0) ∧
    ∀ b m op sd sa sb, x.inflight = some b → b.atomSent = true → b.atomBack = some m → b.flagsDue = 0 → b.hold = none →
      b.words[b.next]?.map decodeSlot = some (.ok (.atom op sd sa .crew sb)) → x.leafTrap = none → x.stopReq = false →
      (x.k.trapped = true → handlerFault x (.atom op sd sa .crew sb) = none) → s.cutDue x.pt.handle = false →
      CommitsOn f (.crewAtomReturn f) s (x.setS sd m)

/-! ## The M unit -/

/-- R206, R207, R210, R226-R228: MCFG takes defined formats or traps 0x16; MLAY takes a record without an empty extent or traps 0x14;
MVA and MVAZ complete and drain half a row of an accumulator to a line, MVAZ zeroing it, or trap 0x11 on a bad word of it; MACZ zeroes
its accumulator; MWAIT completes once its macro has no work issued before it, at the slot or when the wait ends, and holds until
then.
The model's choices in it: notes/assumptions 21, 76. -/
def Obligations.MatrixStateIsConfiguredDrainedAndAwaited : Prop :=
  ∀ (s : State) (b : Inflight) (imm : BitVec 16) (lay : BitVec 2) (sa : SReg) (pd : Line) (half : BitVec 1) (acc row : BitVec 4)
    (m : BitVec 3) (a : Nat),
    let x := s.here
    let cells (t : Tile) (c : Nat) : Word := Cells.get 0 t.acc c
    let base := 2048 * acc.toNat + 128 * row.toNat + 64 * half.toNat
    let fmtsOk := (imm.extractLsb' 8 8 = 0 ∧ (imm.extractLsb' 4 4).toNat ≤ 12 ∧ (imm.extractLsb' 0 4).toNat ≤ 12)
    let own := s.own
    let z := own.here
    let extentsOk := (∀ j < 4, ¬ (z.ownByte (a + 16 + 2 * j) = 0 ∧ z.ownByte (a + 17 + 2 * j) = 0)) ∧ ∀ j < 8, z.ownByte (a + 24 + j) = 0
    let busy (t : Tile) : Prop :=
      (∃ e ∈ t.sb, e.macro? = some m.toNat ∧ e.seqNo < t.issueNo) ∨ ∃ c ∈ t.copyq, (∃ e, c.stream = some (m, e)) ∧ c.id < t.issueNo
    (s.At (.mcfg imm) b →
      (fmtsOk → Commits (.mcfg imm) s { x with k := { x.k with mcfg := imm } }) ∧
      (¬ fmtsOk → x.k.trapped = false → StopsWith (.mcfg imm) s b 0x16 0x12)) ∧
    (own.At (.mlay lay sa) b → (z.sreg sa).toNat = a → AddrOk a 32 32 →
      (extentsOk → ∃ r : LayoutRec,
        CommitsOwn (.mlay lay sa) s (({ z with lays := z.lays.set lay.toNat r lay.isLt } : Tile).banked own b a 32) ∧
        (∀ j : Fin 4, ∀ k < 4, (r.strides[j]).extractLsb' (8 * k) 8 = z.ownByte (a + 4 * j.val + k)) ∧
        ∀ j : Fin 4, ∀ k < 2, (r.extents[j]).extractLsb' (8 * k) 8 = z.ownByte (a + 16 + 2 * j.val + k)) ∧
      (¬ extentsOk → ∀ l, own.Handles l → TrapsFrom own (.mlay lay sa) s b l 0x14 0x08)) ∧
    ((∀ c ∈ x.accBad, c < base ∨ base + 64 ≤ c) →
      (s.At (.mva pd half acc row) b → ∃ y, Commits (.mva pd half acc row) s y ∧
        LineWritten x y pd 32 (fun e => some (cells x (base + e)).toNat) 0) ∧
      (s.At (.mvaz pd half acc row) b → ∃ y w : Tile, Commits (.mvaz pd half acc row) s w ∧
        LineWritten x y pd 32 (fun e => some (cells x (base + e)).toNat) 0 ∧ { w with acc := y.acc, accBad := y.accBad } = y ∧
        ∀ c, cells w c = if base ≤ c ∧ c < base + 64 then 0 else cells x c)) ∧
    (∀ i : Instr, i = .mva pd half acc row ∨ i = .mvaz pd half acc row → s.At i b → x.k.trapped = false →
      (∃ c ∈ x.accBad, base ≤ c ∧ c < base + 64) → StopsWith i s b 0x11 (acc.toNat + 16 * row.toNat)) ∧
    (s.At (.macz acc) b → ∃ y : Tile, Commits (.macz acc) s y ∧ { y with acc := x.acc, accBad := x.accBad } = x ∧
      ∀ c, cells y c = if c / 2048 = acc.toNat then 0 else cells x c) ∧
    (s.At (.mwait m) b → (¬ busy x → Commits (.mwait m) s x) ∧ (busy x → HoldsAtK (.mwait m) s b .mwait)) ∧
    ∀ f : TileId, s.WaitsAtK f (.mwait m) .mwait b → ¬ busy (s.tile f) → ReleasesOn f (.mwaitCommit f) s (s.tile f)

/-- R204, R206, R208, R213: a matrix multiply whose operand formats fit its macro's tag, whose layout covers its rows, and whose chunks
lie aligned in one region, with the MX groups and scales where R208 asks, completes by taking an entry with its snapshots; the checks
that fail trap in the order of R213. -/
def Obligations.MatrixMultipliesTakeTheirEntries : Prop :=
  ∀ (s : State) (b : Inflight) (i : Instr) (dbl zf : Bool) (acc : BitVec 4) (pair : BitVec 3) (sa : SReg) (rows : BitVec 4) (lay : BitVec 2),
    let u := s.own
    u.At i b →
    (i = .mmul acc sa rows lay ∧ dbl = false ∧ zf = false ∨ i = .mmulz acc sa rows lay ∧ dbl = false ∧ zf = true ∨
      i = .mmuld pair sa rows lay ∧ dbl = true ∧ zf = false ∧ acc.toNat = 2 * pair.toNat ∨
      i = .mmuldz pair sa rows lay ∧ dbl = true ∧ zf = true ∧ acc.toNat = 2 * pair.toNat) →
    let x := u.here
    let a := (x.sreg sa).toNat
    let l := x.lays[lay.toNat]'lay.isLt
    let ovr := (x.k.mcfg.extractLsb' 4 4).toNat
    let fmt := if ovr = 0 then regionFmt x.k a else ovr
    let m := rows.toNat + 1
    let n := m * chunksPerRow fmt
    let tag := x.tagAhead (acc.extractLsb' 1 3)
    let inSpad (q : Nat) : Prop := 0 ≤ chunkAddr l a q ∧ chunkAddr l a q + 16 ≤ 0x200000
    let inRegion (q : Nat) : Prop := (chunkAddr l a q).toNat / 0x20000 = a / 0x20000
    let per := mxBlock fmt / 16
    let groups := ∀ g < n / per, mxGroupOk l a fmt (g * per) = true
    let area := mxOff (x.k.regionDesc a) + mxArea fmt ≤ 0x200000
    let ranged := ovr ≠ 0 ∨ a ≤ 0x1FFFFF
    let shaped := l.isEmpty = false ∧ n ≤ l.cover
    let trap (h : Launch) (cause detail : Nat) : Prop := TrapsFrom u i s b h cause detail
    let detail (q : Nat) : Nat := (chunkAddr l a q % 2 ^ 24).toNat
    (∀ mode, ranged → aMode dbl fmt = some mode → (tag = .invalid ∨ ∃ c, tag = .fmt c ∧ pairOk mode c.toNat = true) → shaped → a % 16 = 0 →
      (∀ q < n, inSpad q ∧ inRegion q) → (isMx fmt = true → groups ∧ area) →
      TakesEntry u i s (.mmul acc dbl zf m (BitVec.ofNat 4 fmt) l (BitVec.ofNat 32 a) x.raced.length)) ∧
    ∀ h, u.Handles h →
      (¬ ranged → trap h 0x04 (a % 2 ^ 24)) ∧
      (ranged → aMode dbl fmt = none → trap h 0x14 0x01) ∧
      ∀ mode, ranged → aMode dbl fmt = some mode →
        (tag = .none → trap h 0x14 0x02) ∧
        (∀ c, tag = .fmt c → pairOk mode c.toNat = false → trap h 0x14 0x03) ∧
        (tag = .invalid ∨ (∃ c, tag = .fmt c ∧ pairOk mode c.toNat = true) →
          (¬ shaped → trap h 0x14 0x04) ∧
          (shaped → a % 16 ≠ 0 → trap h 0x05 (a % 2 ^ 24)) ∧
          (∀ q < n, shaped → a % 16 = 0 → (∀ p < q, inSpad p) → ¬ inSpad q → trap h 0x04 (detail q)) ∧
          (∀ q < n, shaped → a % 16 = 0 → (∀ p < n, inSpad p) → (∀ p < q, inRegion p) → ¬ inRegion q → trap h 0x05 (detail q)) ∧
          (shaped → a % 16 = 0 → (∀ q < n, inSpad q ∧ inRegion q) →
            (isMx fmt = true → ¬ groups → trap h 0x14 0x06) ∧ (isMx fmt = true → groups → ¬ area → trap h 0x14 0x07)))

/-- R214, R215, R216, R203, R217: a write-back, once its macro has done its earlier work and the posts of its tile's streams that are due
have come, completes and gives each output element of its
rows the result of R109 or R110 on its row of A, the weights of its column and the old value, or 0 for the Z forms; MMULD fills the low
columns of its pair with 64-bit results and zeroes the rest of those rows. No other word of the accumulators moves. Said where no
access wrote to the scratchpad since the instruction's commit; where one did, each element of A is read whole at a moment of its own.
The model's choices in it: notes/assumptions 10, 21, 22, 23, 76. -/
def Obligations.MatrixWriteBackFillsItsRows : Prop :=
  ∀ (s : State) (f : TileId) (num : BitVec 4) (ent : SbEntry) (acc fmt : BitVec 4) (dbl zf : Bool) (rows : Nat) (l : LayoutRec) (base : Word)
    (since : Nat),
    (s.tile f).Pends num ent → ent.work = .mmul acc dbl zf rows fmt l base since → rows ≤ 16 →
    (dbl = true → acc.getLsbD 0 = false) →
    Cells.wf 0 (s.tile f).acc = true → (s.tile f).macroBusy (acc.toNat / 2) ent.seqNo = false →
    s.postsDue f ((s.tile f).backCycle f ent) = false →
    let x := s.tile f
    ∀ mode, aMode dbl fmt.toNat = some mode → ∃ (t : State) (y : Tile),
      exec (.mmulWriteback f num) s = .next t ∧ OnlyTile f { s with draws := s.draws + 1 } t ∧
      (t.tile f).data =
        (((y.addAconf (fetchConflicts x.k l base.toNat rows (chunksPerRow fmt.toNat) - ent.paid)).worked ent).settleMacro
          (macroNo (acc.toNat / 2)) s.draws).data ∧
      { y with acc := x.acc, accBad := x.accBad } = x ∧
      let w (j : Nat) : Word := Cells.get 0 y.acc j
      let old (j : Nat) : Word := Cells.get 0 x.acc j
      let at' (i n : Nat) : Nat := 2048 * acc.toNat + 128 * i + n
      (∀ c, ¬ (∃ i n h, i < rows ∧ n < 128 ∧ h < (if dbl then 2 else 1) ∧ c = 2048 * h + at' i n) → w c = old c) ∧
      (x.raced.length ≤ since →
        let mac := x.macros.toList.getD (acc.toNat / 2) MacroState.empty
        let tv := if mac.tag.code = 12 then fmtF32.decode mac.tscale.toNat else FVal.ofNum 1
        let F := fmt.toNat
        let bits' := regionBits F
        let chunk (q : Nat) : Int := chunkAddr l base.toNat q
        let elem (i j : Nat) : Nat :=
          let c := (chunk (i * chunksPerRow F + j * bits' / 8 / 16) + (j * bits' / 8 % 16 : Nat)).toNat
          if bits' = 4 then (x.byteAt c).toNat / 2 ^ (4 * (j % 2)) % 16
          else natOfBytes ((List.range (bits' / 8)).map fun k => x.byteAt (c + k))
        let scale (i j : Nat) : Scale :=
          if isMx F then
            let v := (x.byteAt (mxScaleAddr F (x.k.regionDesc base.toNat)
              (chunk (i * chunksPerRow F + j / 32 * (mxBlock F / 16))).toNat)).toNat
            if v = 0xFF then none else some ((v : Int) - 127)
          else some 0
        let wt (j n : Nat) := mac.weight (Cells.dense 0 0 16384 mac.cells).toArray (Cells.dense 0 0 512 mac.scales).toArray j n
        let out (i n o : Nat) : Nat :=
          outElem mode (x.k.numv == 1) (mac.tag == .invalid) tv (if zf then 0 else o)
            ((List.range 128).map fun j => ((elemVal F (elem i j), scale i j), wt j n))
        (dbl = false → ∀ i n, i < rows → n < 128 → w (at' i n) = BitVec.ofNat 32 (out i n (old (at' i n)).toNat)) ∧
        (dbl = true → ∀ i n, i < rows → n < 64 →
          let c := at' i (2 * (n % 32)) + 2048 * (n / 32)
          let v := out i n ((old c).toNat + 2 ^ 32 * (old (c + 1)).toNat)
          w c = BitVec.ofNat 32 v ∧ w (c + 1) = BitVec.ofNat 32 (v / 2 ^ 32) ∧ w (at' i (64 + n)) = 0 ∧ w (2048 + at' i (64 + n)) = 0))

/-- R218, R219, R222-R225, R429: MLDW completes by taking an entry, and its write-back places every weight and block scale of the image and
sets the tag; MSTREAM completes by queueing its descriptor, starts in its turn, and completes with the weights of the image it has read
and decoded, or fails, which leaves the tag INVALID, or marks the macro so for the work to come where earlier work is pending; its post,
with the CERR bit where it failed, is due two cycles after its end. The bytes of an MLDW's image are said where no access
wrote to the scratchpad since its commit.
The model's choices in it: notes/assumptions 9, 10, 11, 21, 33, 34, 76, 77. -/
def Obligations.WeightsAreLoadedAndStreamed : Prop :=
  let placed (fmt : Nat) (data scale : Nat → Byte) (mac : MacroState) : Prop :=
    let cell (c : Nat) : Word := Cells.get 0 mac.cells c
    (fmt ≠ 10 → ∀ k n, k < 128 → n < 128 → cell (128 * k + n) = BitVec.ofNat 32 (elemOf (regionBits fmt) data (128 * n + k))) ∧
    (fmt = 10 → ∀ k n, k < 128 → n < 64 →
      let v := elemOf 64 data (128 * n + k)
      cell (128 * k + 2 * n) = BitVec.ofNat 32 v ∧ cell (128 * k + 2 * n + 1) = BitVec.ofNat 32 (v / 2 ^ 32)) ∧
    (isMx fmt = true → ∀ q < 512, Cells.get 0 mac.scales q = scale q)
  (∀ (s : State) (b : Inflight) (mac : BitVec 3) (sa : SReg) (sem : BitVec 6),
    let u := s.own
    let x := u.here
    let a := (x.sreg sa).toNat
    let ovr := (x.k.mcfg.extractLsb' 0 4).toNat
    let fmt := if ovr = 0 then regionFmt x.k a else ovr
    let ranged := ovr ≠ 0 ∨ a ≤ 0x1FFFFF
    let desc := (List.range 64).map fun j => x.ownByte (a + j)
    let area := mxOff (x.k.regionDesc a) + mxArea fmt ≤ 0x200000
    (u.At (.mldw mac sa) b → ranged →
      (2 ≤ fmt → fmt ≤ 10 → AddrOk a (imageData fmt) 256 → (isMx fmt = true → area) →
        TakesEntry u (.mldw mac sa) s (.mldw mac (BitVec.ofNat 4 fmt) a x.raced.length)) ∧
      ∀ l, u.Handles l →
        (¬ (2 ≤ fmt ∧ fmt ≤ 10) → TrapsFrom u (.mldw mac sa) s b l 0x14 0x01) ∧
        (2 ≤ fmt → fmt ≤ 10 → AddrOk a (imageData fmt) 256 → isMx fmt = true → ¬ area → TrapsFrom u (.mldw mac sa) s b l 0x14 0x07)) ∧
    (u.At (.mstream mac sa sem) b →
      (x.copyq.length < 32 → AddrOk a 64 64 → streamCheck desc = none →
        CommitsOwn (.mstream mac sa sem) s
          (({ x with copyq := x.copyq ++ [⟨x.issueNo, commitCycle x b, desc, some (mac, sem), .queued, [], [], [], 1⟩], issueNo := x.issueNo + 1 } : Tile).banked
            u b a 64)) ∧
      (32 ≤ x.copyq.length → HoldsFrom u (.mstream mac sa sem) s b .queueFull) ∧
      (∀ l d, x.copyq.length < 32 → AddrOk a 64 64 → streamCheck desc = some d → u.Handles l →
        TrapsFrom u (.mstream mac sa sem) s b l 0x12 d))) ∧
  (∀ (s : State) (f : TileId) (num : BitVec 4) (ent : SbEntry) (m : BitVec 3) (fmt : BitVec 4) (a since : Nat),
    (s.tile f).Pends num ent → ent.work = .mldw m fmt a since → (s.tile f).macroBusy m.toNat ent.seqNo = false →
    2 ≤ fmt.toNat → fmt.toNat ≤ 10 →
    let x := s.tile f
    ∃ (t : State) (mac : MacroState), exec (.mldwFillDone f num) s = .next t ∧ OnlyTile f { s with draws := s.draws + 1 } t ∧
      (t.tile f).data = (({ x with macros := x.macros.set m.toNat mac m.isLt } : Tile).worked ent).data ∧
      mac.tag = .fmt fmt ∧ mac.tscale = 0x3F800000 ∧
      (x.raced.length ≤ since →
        placed fmt.toNat (fun j => x.byteAt (a + j))
          (fun q => x.byteAt (mxScaleAddr fmt.toNat (x.k.regionDesc a) (a + q * mxBlock fmt.toNat))) mac)) ∧
  ∀ (s : State) (f : TileId) (id : Nat) (c : CopyCmd) (m : BitVec 3) (sem : BitVec 6),
    (s.tile f).copy? id = some c → c.stream = some (m, sem) →
    let x := s.tile f
    let left := x.copyq.filter fun q => q.id != c.id
    let post (cerr : Bool) (beats : Nat) : Post :=
      ⟨f, f, sem, 1, cerr, x.pt.handle, x.pt.serial, x.act == .prologue, false, 0, some (fillEnd x m c beats s.draws + 2)⟩
    let filled (t : State) (mac : MacroState) (cerr : Bool) (beats : Nat) : Prop :=
      x.act ≠ .stopped →
      OnlyTile f { s with posts := s.posts ++ [post cerr beats], draws := t.draws } t ∧
      (t.tile f).data = ({ x with macros := x.macros.set m.toNat mac m.isLt, copyq := left } : Tile).data
    (c.stage = .queued → x.startsCopies = true → mayStart x.copyq c = true → (∀ q ∈ s.crew, q.src = f → c.id ≤ q.seqNo) →
      (∀ e ∈ x.sb, e.isLdg = true ∨ e.isStg = true → c.id ≤ e.seqNo) →
      ∃ t, exec (.mstreamStart f id) s = .next t ∧ (∀ j, j ≠ f → t.tile j = s.tile j) ∧
        { t.tile f with copyq := x.copyq, tlb := x.tlb, meets := x.meets, sb := x.sb,
                        k := { (t.tile f).k with bconf := x.k.bconf, aconf := x.k.aconf } } = x ∧
        (t.tile f).sb.map (·.num) = x.sb.map (·.num) ∧
        (t.tile f).copyq.map (·.id) = x.copyq.map (·.id) ∧ ∀ q ∈ (t.tile f).copyq, q.id = id → q.stage ≠ .queued) ∧
    (∀ im, c.stage = .started → s.streamReady f c m = true → s.cutTimeUp f = false → streamImage x c.desc c.image = some im →
      let conv := dConv c.desc
      let data (j : Nat) : Byte := im.getD j 0
      ∃ t mac, exec (.mstreamComplete f id) s = .next t ∧ filled t mac false (fillBeats x c.desc c.image) ∧ mac.tag = .fmt (BitVec.ofNat 4 conv) ∧
        (2 ≤ conv → conv ≤ 10 → placed conv data (fun q => im.getD (imageData conv + q) 0) mac) ∧
        (conv = 12 → mac.tscale = BitVec.ofNat 32 (field c.desc 0x34 4) ∧ ∀ tb, x.dts.toList.getD (dSlot c.desc) none = some tb →
          ∀ k n, k < 128 → n < 128 →
            let idx := elemOf 16 data (16 * n + k / 8)
            Cells.get 0 mac.cells (128 * k + n) = BitVec.ofNat 32 (wrap (vq2Weight (tb.entries.getD (idx / 256) 0) idx (k % 8)) 16))) ∧
    ∀ cause, (c.stage = .failing cause ∧ (x.macroBusy m.toNat c.id = false ∨ cause = .cut ∧ x.k.trapped = true) ∨
        c.stage = .started ∧ cause = .decode ∧ s.streamReady f c m = true ∧ streamImage x c.desc c.image = none) →
      ∃ t mac, exec (.mstreamFail f id cause) s = .next t ∧ filled t mac true 0 ∧
        (x.macroBusy m.toNat c.id = false → mac.tag = .invalid ∧ mac.fails = none) ∧
        (x.macroBusy m.toNat c.id = true → mac = { x.macros[m.toNat]'m.isLt with fails := some c.id })

/-! ## The T unit -/

/-- R232, R237, R245, R246: TCFG takes defined bits or traps 0x16; TSHP completes and loads a descriptor; TLD completes by reading its block
at the slot and taking an entry, and writes the leaves with its write-back; TST, TMVP and TMVN complete and move a block between the leaf
file and the scratchpad or a line. A block with a bad leaf traps 0x10 where it is read, which stops the tile.
The model's choices in it: notes/assumptions 21, 24, 34, 76, 80. -/
def Obligations.BlocksMoveBetweenLeavesAndTheTile : Prop :=
  ∀ (s : State) (b : Inflight) (imm : BitVec 16) (shp : BitVec 6) (blk : BitVec 4) (sa : SReg) (p : Line),
    let x := s.here
    let u := s.own
    let z := u.here
    let a := (z.sreg sa).toNat
    let leaf (t : Tile) (n : Nat) : Word := Cells.get 0 t.leaves n
    let byte (w : Word) (j : Nat) : Byte := w.extractLsb' (8 * (j % 4)) 8
    let bitsOk := imm.extractLsb' 1 3 = 0 ∧ imm.extractLsb' 8 8 = 0
    let good (t : Tile) : Prop := ∀ n ∈ t.leafBad, n / 64 ≠ blk.toNat
    let filled (x y : Tile) (w : Nat → Word) : Prop :=
      (∀ n, leaf y n = if n / 64 = blk.toNat then w (n % 64) else leaf x n) ∧ { y with leaves := x.leaves, leafBad := x.leafBad } = x
    (s.At (.tcfg imm) b →
      (bitsOk → Commits (.tcfg imm) s { x with k := { x.k with tcfg := imm } }) ∧
      (¬ bitsOk → x.k.trapped = false → StopsWith (.tcfg imm) s b 0x16 0x13)) ∧
    (u.At (.tshp shp sa) b → AddrOk a 32 32 → ∃ d : BitVec 256, (∀ j < 32, d.extractLsb' (8 * j) 8 = z.ownByte (a + j)) ∧
      CommitsOwn (.tshp shp sa) s (({ z with shapes := z.shapes.set shp.toNat d shp.isLt } : Tile).banked u b a 32)) ∧
    (u.At (.tld blk sa) b → AddrOk a 256 16 → ∃ ws : List Word, ws.length = 64 ∧
      (∀ j < 256, byte (ws.getD (j / 4) 0) j = z.ownByte (a + j)) ∧ TakesForest u (.tld blk sa) s (.tld blk ws) (some (b, a))) ∧
    (u.At (.tst blk sa) b → AddrOk a 256 16 → good z →
      ∃ y, CommitsOwn (.tst blk sa) s (y.banked u b a 256) ∧ OwnStored z y a 256 fun j => byte (leaf z (64 * blk.toNat + j / 4)) j) ∧
    (u.At (.tst blk sa) b → AddrOk a 256 16 → ¬ good z → z.k.trapped = false →
      ∃ n ∈ z.leafBad, n / 64 = blk.toNat ∧ StopsWith (.tst blk sa) s b 0x10 n) ∧
    (s.At (.tmvp p blk) b → good x →
      ∃ y, Commits (.tmvp p blk) s y ∧ LineWritten x y p 32 (fun e => some (leaf x (64 * blk.toNat + e)).toNat) 0) ∧
    (s.At (.tmvp p blk) b → ¬ good x → x.k.trapped = false →
      ∃ n ∈ x.leafBad, n / 64 = blk.toNat ∧ StopsWith (.tmvp p blk) s b 0x10 n) ∧
    (s.At (.tmvn blk p) b → x.badCell p = none →
      ∃ y, Commits (.tmvn blk p) s y ∧ filled x y fun e => BitVec.ofNat 32 (x.lane p e)) ∧
    ∀ (f : TileId) (num : BitVec 4) (ent : SbEntry) (ws : List Word),
      (s.tile f).Pends num ent → ent.work = .tld blk ws → ws.length = 64 →
        ∃ y, CommitsOn f (.tldWriteback f num) s { y with sb := (s.tile f).sb.erase ent } ∧
          filled (s.tile f) y fun e => ws.getD e 0

/-- R238-R244, R246, R249: TRISE and TFALL check their bases and their descriptor and complete by taking an entry with them. TRISE's
write-back completes and leaves the rounded value of the root, found with a stack, at its destination. TFALL's completes and adds the
gradients of the leaf entries into the leaves at the gradient offset one after another; with a lone leaf that is the rounded sum of
the leaf and the root gradient. An operation that met a bad leaf writes nothing, and trap 0x10 follows at a bundle boundary, or at once
where the tile stands at one or waits at K before its bundle.
The model's choices in it: notes/assumptions 24, 80. -/
def Obligations.ForestPassesWriteTheirLeaves : Prop :=
  (∀ (s : State) (b : Inflight) (shp : BitVec 6) (sa sb : SReg) (i : Instr) (w : BitVec 256 → Nat → Nat → BitVec 16 → SbWork),
    s.At i b → (i = .trise shp sa sb ∧ w = .trise ∨ i = .tfall shp sa sb ∧ w = .tfall) →
    let x := s.here
    let u := (x.sreg sa).toNat
    let v := (x.sreg sb).toNat
    let d := x.shapes[shp.toNat]'shp.isLt
    (u < 1024 → v < 1024 → shapeFault d = none → TakesForest s i s (w d u v x.k.tcfg) none) ∧
    ∀ l, s.Handles l →
      (1024 ≤ u → TrapsTo i s b l 0x04 (u % 2 ^ 24)) ∧
      (u < 1024 → 1024 ≤ v → TrapsTo i s b l 0x04 (v % 2 ^ 24)) ∧
      (∀ k j, u < 1024 → v < 1024 → shapeFault d = some (k, j) → TrapsTo i s b l 0x13 (k + 256 * shp.toNat + 65536 * j))) ∧
  ∀ (s : State) (f : TileId) (num : BitVec 4) (ent : SbEntry) (d : BitVec 256) (base g : Nat) (k9 : BitVec 16),
    (s.tile f).Pends num ent → shapeFault d = none →
    let x := s.tile f
    let p32 := k9.getLsbD 0
    let entries := (List.range (shapeCount d)).map (shapeByte d)
    let leaf (t : Tile) (n : Nat) : Word := Cells.get 0 t.leaves n
    let goff := 64 * (k9.extractLsb' 4 4).toNat
    let reads := descLeaves d base
    let wrote := descLeaves d (base + goff)
    let passes (i : Instr) (y : Tile) (extra : Nat) : Prop :=
      CommitsOn f i s { y.addTconf extra with sb := x.sb.erase ent } ∧
      { y with leaves := x.leaves, leafBad := x.leafBad, k := x.k } = x ∧ ∃ st, y.k = { x.k with tstat := x.k.tstat ||| st }
    (ent.work = .trise d base g k9 → (∀ n ∈ reads, n ∉ x.leafBad) →
      ∃ y, passes (.triseWriteback f num) y (readCycles reads - 1) ∧
        ∀ n, leaf y n =
          if n = g then BitVec.ofNat 32 ((riseStack p32 (fun e => (leaf x (leafNo (base + e))).toNat) entries []).headD 0) else leaf x n) ∧
    (ent.work = .tfall d base g k9 → (∀ n ∈ g :: reads ++ wrote, n ∉ x.leafBad) →
      ∃ y, passes (.tfallWriteback f num) y ((readCycles (g :: reads) - 1) + (bankLoad wrote - 1)) ∧
        (∀ n, n ∉ wrote → leaf y n = leaf x n) ∧
        (let n := shapeCount d
         let vals := (upward d p32 (fun j => (leaf x j).toNat) base n 0 [] [] 0).1
         let grads := (downward d p32 vals n [(n - 1, leafVal p32 (leaf x g).toNat)] 0).1
         y.leaves = (addGrads d p32 base goff grads n 0 x.leaves 0).1) ∧
        ∀ e, entries = [e] → leaf y (leafNo (base + e + goff)) =
          BitVec.ofNat 32 (rndSum p32 [leafVal p32 (leaf x (leafNo (base + e + goff))).toNat, leafVal p32 (leaf x g).toNat]).v) ∧
    ∀ (i : Instr) (met : List Nat),
      ent.work = .trise d base g k9 ∧ i = .triseWriteback f num ∧ met = reads ∨
        ent.work = .tfall d base g k9 ∧ i = .tfallWriteback f num ∧ met = g :: reads ++ wrote →
      (∃ n ∈ met, n ∈ x.leafBad) →
      ∃ n ∈ met, n ∈ x.leafBad ∧
        (∀ b, x.inflight = some b → b.next ≠ 0 ∨ b.passed = true ∨ b.atomSent = true →
          CommitsOn f i s { x with sb := x.sb.erase ent, leafTrap := some n }) ∧
        (∀ b, x.inflight = some b → b.next = 0 → b.passed = false → b.atomSent = false → b.atomBack = none → b.hold ≠ none →
          ∃ t, exec i s = .next t ∧ TrapStopped x (t.tile f) b.first 0 0x10 n 0) ∧
        (x.inflight = none → x.resume = 0 → ∃ t, exec i s = .next t ∧ TrapStopped x (t.tile f) x.pc 0 0x10 n 0)

/-! ## The Q unit -/

/-- R20, R21, R27, R37, R51, R182-R185, R260, R429: SPOST completes and sends its post to the tile that its target word names, or
traps 0x06; on its arrival, once what it covers is performed and, for a stream's own, its cycle has come, the count rises, or stops at
0xFFFF_FFFF with its SEMERR bit set, and a sleeping tile has its wake. SWAIT completes by taking its count away, at once or when the
wait ends, holds while the semaphore has too little, and traps 0x07, at its turn or out of its hold, on one that had saturated when
its bundle passed K; SPOLL reads the count.
The model's choices in it: notes/assumptions 30, 34. -/
def Obligations.SemaphoresCountPostsAndWaits : Prop :=
  (∀ (s : State) (b : Inflight) (scope : PostScope) (e : BitVec 6) (sa sb sd : SReg),
    let x := s.here
    let v := x.sreg sa
    let ix := (v.extractLsb' 0 8).toNat
    let clean := v.extractLsb' 8 22 = 0
    let mode := v.extractLsb' 30 2
    let dsem := ∃ l, s.launch? x.pt.handle = some l ∧ l.dsem = true
    let count := x.semCount e
    let n := x.sreg sb
    let posts (dst : TileId) (wide : Bool) : Prop :=
      Sends (.spost scope e sa sb) s { x with issueNo := x.issueNo + 1 }
        [⟨s.focus, dst, e, n, false, x.pt.handle, x.pt.serial, x.act == .prologue, wide, x.issueNo, none⟩] []
    let traps (d : Nat) : Prop := ∀ l, s.Handles l → TrapsTo (.spost scope e sa sb) s b l 0x06 d
    (s.At (.spost scope e sa sb) b →
      (v = 0 → posts s.focus false) ∧
      (mode = 1 → clean → ix < x.crewN → posts (crewTile s.focus x ix) false) ∧
      (mode = 2 → clean → dsem → ix < 80 → posts ⟨s.focus.die, siteOf ix⟩ true) ∧
      (mode = 3 ∨ ¬ clean ∨ (mode = 0 ∧ ix ≠ 0) → traps 0x02) ∧
      (mode = 1 → clean → x.crewN ≤ ix → traps 0x01) ∧
      (mode = 2 → clean → ¬ dsem → traps 0x03) ∧
      (mode = 2 → clean → dsem → 80 ≤ ix → traps 0x04)) ∧
    (s.At (.swait e sb) b →
      ((b.semErr x).getLsbD e.toNat = false → n ≤ count →
        Commits (.swait e sb) s { x with sems := x.sems.set e.toNat (count - n) e.isLt }) ∧
      ((b.semErr x).getLsbD e.toNat = false → count < n → HoldsAtK (.swait e sb) s b .swait) ∧
      (∀ l, (b.semErr x).getLsbD e.toNat = true → s.Handles l → TrapsTo (.swait e sb) s b l 0x07 e.toNat)) ∧
    Writes (.spoll sd e) sd (fun t => t.sems[e.toNat]'e.isLt)) ∧
  (∀ (s : State) (f : TileId) (b : Inflight) (e : BitVec 6) (sb : SReg),
    let x := s.tile f
    s.WaitsAtK f (.swait e sb) .swait b → x.asleep = false →
      ((b.semErr x).getLsbD e.toNat = false → x.sreg sb ≤ x.semCount e →
        ReleasesOn f (.swaitSatisfied f) s { x with sems := x.sems.set e.toNat (x.semCount e - x.sreg sb) e.isLt }) ∧
      (∀ l, b.passed = false → x.semSaturated e = true → ({ s with focus := f } : State).Handles l →
        TrapsOn f (.swaitSatisfied f) s b l 0x07 e.toNat)) ∧
  ∀ (s : State) (i : Nat) (p : Post), s.posts[i]? = some p → s.postCovered p = true → p.early (s.tile p.dst) = false →
    let x := s.tile p.dst
    let rest := { s with posts := s.posts.eraseIdx i, draws := s.draws + 1 }
    let total := (x.semCount p.sem).toNat + p.count.toNat
    let sleeps := s.sleepDue x = true ∨ x.sleepsBy p = true
    (x.takesPost p = false → ¬ sleeps → exec (.semaphorePostArrival i) s = .next rest) ∧
    (x.takesPost p = true → ∃ t, exec (.semaphorePostArrival i) s = .next t ∧ OnlyTile p.dst { rest with dies := t.dies } t ∧
      let y := t.tile p.dst
      y.data = ({ x with sems := y.sems, asleep := y.asleep, woken := x.woken || y.asleep,
                         k := { x.k with semErr := y.k.semErr, cerr := y.k.cerr } } : Tile).data ∧
      (y.asleep = true ↔ x.asleep = true ∨ sleeps) ∧
      (y.semCount p.sem).toNat = min total 0xFFFFFFFF ∧ (∀ e, e ≠ p.sem → y.semCount e = x.semCount e) ∧
      y.k.semErr = (if 0xFFFFFFFF < total then x.k.semErr ||| BitVec.twoPow 64 p.sem.toNat else x.k.semErr) ∧
      y.k.cerr = (if p.cerr then x.k.cerr ||| BitVec.twoPow 64 p.sem.toNat else x.k.cerr))

/-- R186-R188, R190, R201, R264: FENCE completes once what its kind names is done, at the slot or when the wait ends, and a FENCE of copies
performs the tile's narrower copy writes at its scope; CPY completes by queueing the descriptor it reads, traps 0x12 with the detail of
its check, and holds on a full queue until a slot is free, as MSTREAM does; CPYQ gives the free slots; SPRINT sets and clears the claim of
a launch with SPR, and nothing else of the tile.
The model's choices in it: notes/assumptions 21, 32, 34, 73, 76. -/
def Obligations.FencesCopiesAndSprintHints : Prop :=
  let fenced (s : State) (f : TileId) (kind : FenceKind) (scope : MemScope) : State :=
    if kind = .sp then s else s.raiseCopies f ((s.tile f).crewTiles f) (scopeNo scope)
  let done (s : State) (f : TileId) (kind : FenceKind) : Prop :=
    (kind ≠ .cp → (∀ c ∈ s.crew, c.src ≠ f) ∧ ∀ e ∈ (s.tile f).sb, e.isLdc = false ∧ e.isLdg = false ∧ e.isStg = false) ∧
    (kind ≠ .sp → (s.tile f).copyq = [])
  let queued (u : State) (f : TileId) (b : Inflight) (a : Nat) (desc : List Byte) (stream : Option (BitVec 3 × BitVec 6)) : Tile :=
    let z := u.tile f
    u.share f b { z with copyq := z.copyq ++ [⟨z.issueNo, commitCycle z b, desc, stream, .queued, [], [], [], 1⟩],
                         issueNo := z.issueNo + 1 } (accessesOf z.k a 64)
  (∀ (s : State) (b : Inflight) (kind : FenceKind) (scope : MemScope) (sa sd : SReg),
    let x := s.here
    let u := s.own
    let z := u.here
    let a := (z.sreg sa).toNat
    let desc := (List.range 64).map fun j => z.ownByte (a + j)
    (s.At (.fence kind scope) b →
      (done s s.focus kind → CommitsFrom (fenced s s.focus kind scope) (.fence kind scope) s x) ∧
      (¬ done s s.focus kind → HoldsAtK (.fence kind scope) s b .fence)) ∧
    (u.At (.cpy sa) b →
      (z.copyq.length < 32 → AddrOk a 64 64 → copyCheck u s.focus z desc = none →
        CommitsOwn (.cpy sa) s (queued u u.focus b a desc none)) ∧
      (32 ≤ z.copyq.length → HoldsFrom u (.cpy sa) s b .queueFull) ∧
      (∀ l d, z.copyq.length < 32 → AddrOk a 64 64 → copyCheck u s.focus z desc = some d → u.Handles l →
        TrapsFrom u (.cpy sa) s b l 0x12 d)) ∧
    Writes (.cpyq sd) sd (fun t => BitVec.ofNat 32 (32 - t.copyq.length)) ∧
    ∀ on : Bool,
      let i : Instr := if on then .sprintClaim else .sprintRelease
      s.At i b → ∃ t, exec i s = .next t ∧ OnlyTile s.focus { s with dies := t.dies } t ∧
        ((∀ l, s.launch? x.pt.handle = some l → l.spr = true → t.here.data = ({ x with claim := on } : Tile).data) ∧
         ((∀ l, s.launch? x.pt.handle = some l → l.spr = false) → t.here.data = x.data))) ∧
  ∀ (s : State) (f : TileId) (b : Inflight) (kind : FenceKind) (scope : MemScope) (sa : SReg) (mac : BitVec 3) (e : BitVec 6),
    let u := s.flushOwn f
    let z := u.tile f
    let a := (z.sreg sa).toNat
    let desc := (List.range 64).map fun j => z.ownByte (a + j)
    (s.WaitsAtK f (.fence kind scope) .fence b → done s f kind →
      ReleasesFrom (fenced s f kind scope) f (.fenceCommit f) s (s.tile f)) ∧
    (s.WaitsAtK f (.cpy sa) .queueFull b → u.WaitsAtK f (.cpy sa) .queueFull b → z.copyq.length < 32 → AddrOk a 64 64 →
      copyCheck u f z desc = none → ReleasesFrom u f (.cpyQueueSlotFree f) s (queued u f (b.released z) a desc none)) ∧
    (s.WaitsAtK f (.mstream mac sa e) .queueFull b → u.WaitsAtK f (.mstream mac sa e) .queueFull b → z.copyq.length < 32 →
      AddrOk a 64 64 → streamCheck desc = none →
      ReleasesFrom u f (.cpyQueueSlotFree f) s (queued u f (b.released z) a desc (some (mac, e))))

/-- R191, R193, R196-R198, R220: a queued copy whose turn has come starts, a raw SPCONV by reading its rows; a started copy whose writes
are all to scratchpads lands them in order, leaves the queue and posts 1 to its semaphore, as a DTAB does that has filled its slot; one
that fails for the cause that stopped it posts with the CERR bit.
The model's choices in it: notes/assumptions 33, 34, 76. -/
def Obligations.CopiesStartLandAndPost : Prop :=
  ∀ (s : State) (f : TileId) (id : Nat) (c : CopyCmd), (s.tile f).copy? id = some c → c.stream = none →
    let x := s.tile f
    let d := c.desc
    let left := x.copyq.filter fun q => q.id != id
    let sent (dst : TileId) (wide cerr : Bool) : State :=
      { s with posts := s.posts ++ [⟨f, dst, dSem d, 1, cerr, x.pt.handle, x.pt.serial, x.act == .prologue, wide, 0, none⟩] }
    let kept (t : State) (dst : TileId) (wide cerr : Bool) (y : Tile) : Prop :=
      OnlyTile f { sent dst wide cerr with draws := t.draws } t ∧ (t.tile f).data = ({ y.beside f y.stands with copyq := left } : Tile).data
    let settled := (∀ q ∈ s.crew, q.src = f → c.id ≤ q.seqNo) ∧ ∀ e ∈ x.sb, e.isLdg = true ∨ e.isStg = true → c.id ≤ e.seqNo
    let raw := dKind d = some .load ∨ dKind d = some .spconv
    (c.stage = .queued → x.startsCopies = true → mayStart x.copyq c = true → settled →
      (dKind d ≠ none →
        ∃ t, exec (.copyStart f id) s = .next t ∧ ∀ q ∈ (t.tile f).copyq, q.id = id → q.stage ≠ .queued) ∧
      (dKind d = some .spconv → fmtAt x.k (dSrc d) = 0 → fmtAt x.k (dSp d) = 0 →
        let y := x.mapCopy id fun q => { q with
          stage := .started, image := [], gaps := [],
          writes := (List.range (dRows d)).map fun r =>
            ⟨.spad f (dSp d + r * dPitch d * 16), (List.range (dExt d 0)).map fun j => x.byteAt (dSrc d + r * dSrcPitch d * 16 + j),
             1, 0⟩ }
        exec (.copyStart f id) s = .next (s.setTile f (y.beside f y.stands)))) ∧
    (∀ dst wide (ws : List (Nat × List Byte)), c.stage = .started → c.gaps = [] → s.copyBusy f id = false → s.cutTimeUp f = false → raw →
      x.act ≠ .stopped → postTarget s f x (dStgt d) = .ok (dst, wide) → c.writes = ws.map (fun w => ⟨.spad f w.1, w.2, 1, 0⟩) →
      ∃ t, exec (.copyComplete f id) s = .next t ∧ kept t dst wide false (ws.foldl (fun (y : Tile) w => y.setSpad w.1 w.2) x)) ∧
    (∀ dst wide tb, (h : dSlot d < 2) → c.stage = .started → c.gaps = [] → s.copyBusy f id = false → s.cutTimeUp f = false →
      dKind d = some .dtab → tableOf c.image = some tb → x.act ≠ .stopped → postTarget s f x (dStgt d) = .ok (dst, wide) →
      ∃ t, exec (.copyComplete f id) s = .next t ∧ kept t dst wide false { x with dts := x.dts.set (dSlot d) (some tb) h }) ∧
    ∀ dst wide cause, c.stage = .failing cause → x.act ≠ .stopped → postTarget s f x (dStgt d) = .ok (dst, wide) →
      (∀ landed, ∃ t, exec (.copyFail f id cause landed) s = .next t ∧ t.posts = (sent dst wide true).posts ∧
        (∀ q ∈ (t.tile f).copyq, q.id ≠ id)) ∧
      (raw → (∀ w ∈ c.writes, ∃ j a, w.dest = .spad j a) →
        ∃ t, exec (.copyFail f id cause []) s = .next t ∧ kept t dst wide true x)

/-! ## The events of a tile -/

/-- R53, R55, R65, R68, R337, R419: a tile that may issue puts the words from its PC up to the stop bit in flight, from the slot it
resumes at, where the checks at D pass and nothing holds it there or is due before; a bundle that fails them traps with the slots that
fail in TMASK, before any of it runs: eight words without a stop bit, then reserved OPs, then bad fields.
The model's choices in it: notes/assumptions 9, 17, 71, 76, 77, 80. -/
def Obligations.BundlesPassTheChecksAtD : Prop :=
  ∀ (s : State) (f : TileId) (stall : Nat),
    let x := s.tile f
    let ws := x.nextWords
    let from' := ws.drop x.resume
    let bad (p : Nat → Except SlotError Instr → Prop) (m : Byte) : Prop :=
      ∀ j, j < 8 → (m.getLsbD j = true ↔ x.resume ≤ j ∧ ∃ w, ws[j]? = some w ∧ p j (decodeSlot w))
    let reserved (_ : Nat) (d : Except SlotError Instr) : Prop := d = .error .reservedOp
    let misfit (j : Nat) (d : Except SlotError Instr) : Prop := d = .error .badField ∨ ∃ i, d = .ok i ∧ badOperand x.k.vcfg j i = true
    let none' (p : Nat → Except SlotError Instr → Prop) : Prop := ∀ j w, x.resume ≤ j → ws[j]? = some w → ¬ p j (decodeSlot w)
    let stops := ws.length < 8 ∨ ∃ w ∈ ws, stopBit w = true
    let traps (c d : Nat) (m : Byte → Prop) : Prop :=
      ∃ t m', exec (.bundleIssue f stall) s = .next t ∧ TrapStopped x (t.tile f) x.pc 0 c d m' ∧ m m'
    ((∀ j (h : j < ws.length), ws[j] = Cells.get 0 x.istore (x.pc + BitVec.ofNat 16 j).toNat) ∧ 1 ≤ ws.length ∧ ws.length ≤ 8 ∧
      (∀ j (h : j + 1 < ws.length), stopBit ws[j] = false) ∧ ∀ w, ws.length < 8 → ws.getLast? = some w → stopBit w = true) ∧
    ((x.act = .point ∨ x.act = .prologue) → x.inflight = none → x.asleep = false → x.stopReq = false → x.cutReq = none →
      (s.deadlineDue x && x.deadlineHere) = false → x.cox.over = false → s.regs.viral = false → (s.die f.die).crit = false →
      s.barred f = false → s.cutDue x.pt.handle = false → s.owed f (x.passAt stall) = false →
      (∀ is, checkBundle x.k.vcfg ws x.resume = .ok is → heldAtD x is = false →
        is.length = from'.length ∧ (∀ (j : Nat) (i : Instr), is[j]? = some i → ∃ w, from'[j]? = some w ∧ decodeSlot w = .ok i) ∧
        ∃ (y : Tile) (b : Inflight), exec (.bundleIssue f stall) s = .next (s.setTile f y) ∧
          y.inflight = some b ∧ b.dCycle = x.passAt stall ∧ b.snap.cycle = BitVec.ofNat 64 b.dCycle ∧
          b.snap.hw = x.halfWidthAt b.dCycle ∧ b.first = x.pc ∧ b.words = ws ∧ b.start = x.resume ∧ b.next = x.resume ∧ b.hold = none ∧
          b.passed = false ∧ b.atomSent = false ∧ b.atomBack = none ∧ b.flags = 0 ∧ b.extra = 0 ∧ y.resume = 0 ∧
          y.sb.map SbEntry.num = x.sb.map SbEntry.num ∧
          ((∀ e ∈ x.sb, e.isMatrix = false) → y.k.aconf = x.k.aconf) ∧
          (x.sb = [] → (∀ q ∈ x.copyq, q.stage ≠ .started) → y.k.bconf = x.k.bconf) ∧
          { y with inflight := none, resume := x.resume, bundleNo := x.bundleNo, sameNo := x.sameNo, cutHere := x.cutHere,
                   movedAt := x.movedAt, meets := x.meets, pipe := x.pipe, sb := x.sb,
                   k := { y.k with hw := x.k.hw, aconf := x.k.aconf, bconf := x.k.bconf } } = x) ∧
      (x.k.trapped = false →
        (¬ stops → traps 0x01 0x01 (· = 0xFF)) ∧
        (stops → ¬ none' reserved → traps 0x02 0x01 (bad reserved)) ∧
        (stops → none' reserved → ¬ none' misfit → traps 0x02 0x02 (bad misfit))))

/-- R20, R21, R319, R328-R330, R339: at K, before any slot has committed, the first flag squashes a bundle and issues it again, the second
also raises the present bin's offset by two steps up to CEIL, the third traps 0x0E; REPLAYS counts the first two. A tile that has waited
in SWAIT for 4,096 cycles sleeps, and an event wakes it with its registers as they were, after a sweep of 64 cycles that finds no bad
cell; a bad cell traps 0x0F, and a tile that is to stop does so. A flag is found at K of a bundle that nothing holds there.
The model's choices in it: notes/assumptions 18, 28, 30, 74. -/
def Obligations.ReplaysAndSleepKeepTheTile : Prop :=
  ∀ (s : State) (f : TileId) (b : Inflight), (s.tile f).inflight = some b →
    let x := s.tile f
    let once := satAdd32 x.k.replays 1
    let next := s.setFstat 0
    (b.next = b.start → b.passed = false → b.hold = none → b.atomSent = false → b.atomBack = none →
      anyHolds s f x 0 b.rest = false → s.owed f (commitCycle x (b.released x)) = false →
      (b.flags = 0 → ∃ y b', exec (.replayReissue f) s = .next (next.setTile f y) ∧ y.inflight = some b' ∧ b'.flags = 1 ∧
        b'.extra = b.extra + (2 * b.depth + 6) ∧ b'.words = b.words ∧ b'.next = b.next ∧ b'.first = b.first ∧
        y.data = { x.data with k := { x.data.k with replays := once } }) ∧
      (b.flags = 1 → ∃ u y b', exec (.replayReissue f) s = .next (u.setTile f y) ∧ y.inflight = some b' ∧ b'.flags = 2 ∧
        b'.extra = b.extra + (4 * b.depth + 11) ∧ b'.words = b.words ∧ b'.next = b.next ∧ b'.first = b.first ∧
        y.data = { x.data with vf := y.vf, k := { x.data.k with replays := once } } ∧
        { u with sites := s.sites, dies := s.dies } = next ∧ (∀ j, j ≠ f → u.site j = s.site j) ∧
        let off (v : State) : Int := ((v.site f).live.bins[x.vf.bin]).offset
        off u = min (off s + if x.cox.roseAt = some (commitCycle x (b.released x) - 2) then 1 else 2) x.cox.pol.ceil) ∧
      (b.flags = 2 → ∃ t, exec (.replayReissue f) s = .next t ∧ HasStopped x (t.tile f) ∧ (t.tile f).k.replays = x.k.replays ∧
        (x.k.trapped = false → TrapStopped x (t.tile f) b.first b.start 0x0E 0 0))) ∧
    (b.hold = some .swait →
      (∀ e sb, x.asleep = false → (b.words[b.next]?).map decodeSlot = some (.ok (.swait e sb)) → x.semSaturated e = false →
        x.semCount e < x.sreg sb → b.waitFrom + sleepNs x.vf.bin ≤ s.time → s.deadlineDue x = false →
        ∃ t, exec (.tileSleep f) s = .next t ∧ OnlyTile f { s with dies := t.dies } t ∧
          (t.tile f).data = ({ x with asleep := true, woken := false } : Tile).data ∧
          (t.tile f).k.cycle = BitVec.ofNat 64 (holdStart x b + 4096) ∧
          (t.tile f).inflight = some { b with waitFrom := x.sleepAt b }) ∧
      (x.asleep = true → s.wakes x = true →
        ((∀ c ∈ x.planeBad, 4096 ≤ c) →
          (x.stopReq = false → x.leafTrap = none →
            ∃ t, exec (.tileWake f) s = .next t ∧ OnlyTile f { s with dies := t.dies } t ∧
              (t.tile f).data = ({ x with asleep := false, woken := false } : Tile).data ∧
              (t.tile f).k.cycle = BitVec.ofNat 64 (x.k.cycle.toNat + 64) ∧
              (t.tile f).inflight = some { b with heldTo := x.k.cycle.toNat + 64, waitFrom := s.time }) ∧
          (x.stopReq = true → ∃ t, exec (.tileWake f) s = .next t ∧ HasStopped x (t.tile f))) ∧
        ∀ c ∈ x.planeBad, c < 4096 → (∀ c' ∈ x.planeBad, c ≤ c') → x.k.trapped = false →
          ∃ t, exec (.tileWake f) s = .next t ∧ TrapStopped x (t.tile f) b.first b.next 0x0F (c / 64 + 256 * (c % 64)) 0))

/-- R318, R319, R416: a point past its deadline takes trap 0x0D once, at a boundary or by giving up a hold at K; a tile that hangs for 1 ms
is stopped and its site fenced; droop stretches the clock for 6 cycles and halves the issue of V slots for 64, both counted from the
cycle of its firing, and both ends are events of their own, after which bundles pass D in later cycles.
The model's choices in it: notes/assumptions 9, 12, 16, 49. -/
def Obligations.DeadlinesHangsAndDroop : Prop :=
  ∀ (s : State) (f : TileId),
    let x := s.tile f
    let c := max x.k.cycle.toNat x.pipe.lastD + Config.waited s.draws
    let running := x.act = .point ∨ x.act = .prologue
    let taken (t : State) (l : Launch) (pc : BitVec 16) (slot : Nat) (same : Bool) : Prop :=
      (t.tile f).pc = l.handler ∧ (t.tile f).inflight = none ∧ (t.tile f).loops = x.loops ∧
        (t.tile f).data = ({ x with
          pt := { x.pt with deadlineTaken := true }, resume := 0, woken := false, sameNo := same,
          k := { x.k with tpc := pc, tcause := 0x0D, tmask := 0, sr := BitVec.ofNat 3 slot, tsb := x.pendingMask,
                          trapped := true } } : Tile).data
    (∀ l, s.launch? x.pt.handle = some l → running → l.pdeadline ≠ 0 → x.pt.deadlineTaken = false →
      x.pt.fireTime + l.pdeadline ≤ s.time → x.k.trapped = false → x.asleep = false → l.hnd = true → x.retiring = false →
      x.stopReq = false →
      (x.inflight = none → x.resume = 0 →
        ∃ t, exec (.pointDeadline f) s = .next t ∧ OnlyTile f { s with draws := s.draws + 1 } t ∧ taken t l x.pc 0 x.sameNo) ∧
      (∀ b, x.inflight = some b → b.hold ≠ none → b.next = b.start → (b.start = 0 ∨ x.dueLate = false) → s.sleepDue x = false →
        ∃ t, exec (.pointDeadline f) s = .next t ∧ OnlyTile f { s with draws := s.draws + 1 } t ∧ taken t l b.first b.next true)) ∧
    (running → s.heldByRule f x = false → x.movedAt + 1000000 ≤ s.time →
      ∃ t, exec (.tileHangTimeout f) s = .next t ∧ HasStopped x (t.tile f) ∧
        ((s.site f).live.state ≠ .retired → (t.site f).live.state = .fenced)) ∧
    (x.k.hw = true → exec (.halfWidthEnd f) s = .next (s.setTile f
      { x with k := { x.k with hw := false }, pipe := { x.pipe with nextD := max x.pipe.nextD (x.hwEnd + 1) } })) ∧
    (x.stretchEnd ≠ 0 → exec (.stretchEnd f) s = .next (s.setTile f
      { x with stretchEnd := 0, pipe := { x.pipe with nextD := max x.pipe.nextD (x.stretchEnd + 1) } })) ∧
    ((s.die f.die).dth ≠ 0 → x.asleep = false → exec (.droop f) s = .next
      (({ s with draws := s.draws + 1 }.setTile f { x with
          k := { x.k with hw := true }, hwFrom := c + 1, hwEnd := c + 64, stretchEnd := c + 6,
          pipe := { x.pipe with hwOld := x.pipe.hwOld ++ [(x.hwFrom, x.hwEnd)] } }).setDie f.die
        { s.die f.die with droopCnt := min ((s.die f.die).droopCnt + 1) 0xFFFF }))

/-! ## The Harrow -/

/-- R280, R282: completing a point of an open row puts exactly that point behind the frontier, whatever rows this retires. -/
def Obligations.CompletionPutsOnePointBehindTheFrontier : Prop :=
  ∀ (fr : Frontier) (e row inner : Nat) (x : RowState), fr.b + fr.rows.length = fr.t → fr.b ≤ row → fr.rows[row - fr.b]? = some x →
    x.full = false → x.c ≤ inner → inner ≤ x.c + 64 → inner < e →
    let fr' := fr.complete e row inner
    fr'.t = fr.t ∧ fr'.b + fr'.rows.length = fr'.t ∧
    ∀ r i, i < e → fr'.behind r i = (fr.behind r i || (r == row && i == inner))

/-- R43, R47, R48, R281-R289, R296, R297, R426: the Harrow opens rows, fires the next point into a free rectangle, 4 ns after its last
decision at the earliest, starts its members, completes it when all have ended, carries frontiers to the other dies, ages and reserves
for launches that wait, and lets a launch that is done leave.
The model's choices in it: notes/assumptions 7, 8, 39, 70, 79. -/
def Obligations.TheHarrowFiresStartsAndCompletesPoints : Prop :=
  ∀ (s : State) (d : Fin 8) (l : Launch) (p : DieLaunch),
    let h := l.handle
    let r := l.record
    s.launch? h = some l → l.part? d = some p → p.die = d →
    let partIn (t : State) (q : DieLaunch) : Prop := ∃ l', t.launch? h = some l' ∧ l'.part? d = some q
    let rect := rectTiles d l.shape
    let others (t : State) (c : Nat) : Prop := ∀ j, j ∉ rect c → t.tile j = s.tile j
    let within (t : State) : Prop :=
      { t with launches := s.launches, dies := s.dies } = s ∧ ∀ k, { t.die k with reserve := (s.die k).reserve } = s.die k
    (l.phase = .resident → p.fr.t < p.rowHi → p.fr.t - p.fr.b < 1024 →
      (∃ n, n ≤ 64 ∧ n < innerExt r ∧ s.pointReady l p p.fr.t n = true) →
      ∃ t q, exec (.rowOpen d h) s = .next t ∧ within t ∧ partIn t q ∧ q.runs = p.runs ∧
        q.fr = ⟨p.fr.b, p.fr.t + 1, p.fr.rows ++ [⟨0, false, 0⟩]⟩) ∧
    (∀ row inner c, l.phase = .resident → l.restores = [] → (s.die d).slots = [h] → (s.die d).reserve = [] → (s.die d).fenced = false →
      s.regs.viral = false → s.nextPoint l p = some (row, inner) → s.chooseRect l d = some c →
      let now := match (s.die d).decided with
        | some n => max s.time (n + 4)
        | none => s.time
      ∃ t q, exec (.pointFire d) s = .next t ∧ others t c ∧ t.time = now ∧ (t.die d).decided = some now ∧ partIn t q ∧ q.fr = p.fr ∧
        q.runs = p.runs ++ [⟨row * innerExt r + inner, c, false, now, none⟩] ∧
        ∀ k i, (rect c)[k]? = some i →
          (t.tile i).pt = ⟨h, row * innerExt r + inner, coordWords (coordOf r row inner), k, (shapeDims l.shape).1 * (shapeDims l.shape).2,
            l.shape, c, now, false⟩ ∧
          ((s.tile i).hasEntered l = true →
            t.tile i = { s.tile i with pt := (t.tile i).pt, act := .entering, movedAt := now }) ∧
          ((s.tile i).hasEntered l = false → (t.tile i).act = (if bit (l.f 2 1) 0 then .prologue else .entering) ∧
            (t.tile i).plane = [] ∧ (t.tile i).leaves = [] ∧ (t.tile i).acc = [] ∧ (t.tile i).entered = l.uid ∧
            ∀ n, n < min 65536 l.code.length → Cells.get 0 (t.tile i).istore n = l.code.getD n 0)) ∧
    (∀ q : PointRun, p.runs.find? (fun x => x.serial == q.serial) = some q → q.corner ∈ legalCorners l.shape →
      (q.started = false → q.cut = none → (s.die d).fenced = false → s.regs.viral = false → s.cutDue h = false →
        (∀ i ∈ rect q.corner, (s.tile i).act = .entering) →
        ∃ t, exec (.pointStart d h q.serial) s = .next t ∧ others t q.corner ∧
          ∀ i ∈ rect q.corner, let x := s.tile i; let y := t.tile i
            y.act = .point ∧ y.pc = BitVec.ofNat 16 (l.f 0x3C 2) ∧ y.loops = [] ∧ y.sb = [] ∧ y.copyq = [] ∧ y.inflight = none ∧
            (∀ e, y.semCount e = 0) ∧ y.sreg 1 = x.pt.coord[0] ∧ y.sreg 2 = x.pt.coord[1] ∧ y.sreg 3 = x.pt.coord[2] ∧
            y.sreg 4 = BitVec.ofNat 32 x.pt.rank ∧ y.sreg 5 = BitVec.ofNat 32 x.pt.crewSize ∧ y.sreg 6 = 0x1FF000 ∧
            y.sreg 7 = BitVec.ofNat 32 x.pt.serial ∧ (∀ g : SReg, 8 ≤ g.toNat → y.sreg g = 0) ∧
            y.k = x.k.atStart x.pt.handle x.pt.serial ∧ y.plane = x.plane ∧ y.spad = x.spad ∧ y.leaves = x.leaves ∧ y.acc = x.acc ∧ y.macros = x.macros ∧ y.istore = x.istore) ∧
      (q.started = true → (∀ a ∈ s.crew, a.src ∉ rect q.corner) → (∀ i ∈ rect q.corner, (s.tile i).act = .pended) →
        ∃ t q', exec (.pointCompletion d h q.serial) s = .next t ∧ others t q.corner ∧
          (∀ i ∈ rect q.corner, t.tile i = { s.tile i with act := .idle, cutReq := none }) ∧ partIn t q' ∧
          q'.runs = p.runs.filter (fun x => x.serial != q.serial) ∧
          q'.fr = p.fr.complete (innerExt r) (q.serial / innerExt r) (q.serial % innerExt r))) ∧
    (∀ src p', src ≠ d → l.isResident = true → l.parts.find? (fun x => x.die == src) = some p' →
      s.routeBlocked src d = false → ∃ t q, exec (.mirrorUpdate d h src) s = .next t ∧ within t ∧ partIn t q ∧ q.sees src = some p'.fr ∧
        q.fr = p.fr) ∧
    (l.f 4 1 + p.boost < s.effPrio l p → ∃ t q, exec (.priorityAge d h) s = .next t ∧ { t with launches := s.launches } = s ∧
      partIn t q ∧ q = { p with boost := p.boost + 1 }) ∧
    (∀ w, s.effPrio l p = 3 → p.waiting = some w → w + 100000 ≤ s.time → s.chooseRect l d = none →
      (∀ r ∈ (s.die d).reserve, r.1 ≠ h) →
      let usable (c : Nat) : Prop := c ∈ legalCorners l.shape ∧ (∀ i ∈ rect c, (s.site i).live.state = .enabled) ∧
        ∀ n ∈ rectSites l.shape c, n ∉ s.reservedFrom d h
      let busy (c : Nat) : Nat := ((rect c).filter fun i => (s.tile i).busy).length
      (∃ c, usable c) →
        ∃ c, exec (.rectangleReservation d h) s = .next (s.setDie d { s.die d with reserve := (s.die d).reserve ++ [(h, c)] }) ∧
          usable c ∧ ∀ c', usable c' → busy c < busy c' ∨ busy c = busy c' ∧ c ≤ c') ∧
    (l.isResident = true → l.restores = [] → (∀ q ∈ l.parts, q.done = true ∧ q.runs = []) → s.regs.viral = false →
      ∃ t, exec (.launchCompletion h) s = .next t ∧ (∀ x ∈ t.launches, x.handle ≠ h) ∧ ∀ k, h ∉ (t.die k).slots)

/-! ## The command front-end -/

/-- R270, R291-R295, R302, R322, R386: the queue registers, which take no write before READY, and WAIT, SIGNAL, BARRIER and KILL from
their fetch to their completion; a KILL of a resident launch runs until the launch's completion word is stored. A command with no
NOTIFY and no INTR moves its queue on and does nothing more at its end.
The model's choices in it: notes/assumptions 36, 40, 41, 54. -/
def Obligations.QueuesFetchAndCompleteCommands : Prop :=
  ∀ (s : State) (q : Fin 16) (v : Word), s.regs.viral = false →
    let x := s.queue q
    let n := 2 ^ x.size
    let only (i : Instr) (y : Queue) : Prop := exec i s = .next (s.setQueue q y)
    let past (y : Queue) : Queue := { y with head := (y.head + 1) % 2 ^ y.size, fetched := none, begun := false }
    (s.regs.ready = false →
      exec (.qtailWrite q v) s = .next s ∧ exec (.qctlWrite q v) s = .next s ∧ exec (.qstatErrClear q) s = .next s) ∧
    (s.regs.ready = true →
      only (.qtailWrite q v) (if x.en = false then x else if n ≤ v.toNat then { x with tailErr := true } else { x with tail := v.toNat })) ∧
    (s.regs.ready = true → ∃ y, only (.qctlWrite q v) y ∧ y.en = v.getLsbD 0 ∧ y.irq = v.getLsbD 1 ∧ y.diagOk = v.getLsbD 2 ∧
      (x.en = true → y.ctx = x.ctx ∧ y.head = x.head ∧ y.tail = x.tail) ∧
      (x.en = false → y.ctx = v.extractLsb' 16 16 ∧
        if v.getLsbD 0 then y.head = 0 ∧ y.tail = 0 ∧ y.fetched = none else y.head = x.head ∧ y.tail = x.tail)) ∧
    (s.regs.ready = true → x.err = true → only (.qstatErrClear q) { past x with err := false }) ∧
    (x.err = false → exec (.qstatErrClear q) s = .next s) ∧
    (∀ s' r, x.en = true → x.err = false → x.fetched = none → x.head ≠ x.tail → (∀ l ∈ s.launches, l.phase = .waiting → l.queue ≠ q) →
      s.feRead x.ctx (x.base.toNat + 64 * x.head) 64 = (s', r) →
      ∃ t, exec (.commandFetch q) s = .next t ∧
        (∀ c, r = some c → commandError c = none →
          t = s'.setQueue q { s'.queue q with fetched := some c, begun := false, index := x.index + 1 }) ∧
        (∀ e, (r = none ∧ e = 0x07 ∨ ∃ c, r = some c ∧ commandError c = some e) →
          (t.queue q).err = true ∧ (t.queue q).errCode = BitVec.ofNat 8 e ∧ (t.queue q).head = (s'.queue q).head)) ∧
    ∀ cmd, x.fetched = some cmd → field cmd 1 1 = 0 →
      let ctx := x.ctx
      let addr := field cmd 8 8
      let value := field cmd 0x10 8
      let h := BitVec.ofNat 16 (field cmd 4 2)
      (∀ s' bs, cOp cmd = 2 → s.feReadGo .front true ctx addr 8 = (s', some bs) →
        let w := natOfBytes bs
        let y := if w.testBit 63 ∨ value % 2 ^ 62 ≤ w % 2 ^ 62 then past (s'.queue q) else { s'.queue q with begun := true }
        (s'.queue q).fetched = some cmd →
        (x.begun = false → exec (.wait q) s = .next (s'.setQueue q y)) ∧ (x.begun = true → exec (.waitPoll q) s = .next (s'.setQueue q y))) ∧
      (∀ s' ok, cOp cmd = 3 → x.begun = false → s.feStore (field cmd 2 1) ctx addr (bytesOfNat 8 value) = (s', ok) → (s'.queue q).fetched = some cmd →
        exec (.signal q) s = .next (s'.setQueue q (past (s'.queue q)))) ∧
      (cOp cmd = 7 → x.begun = false → x.running = [] → only (.barrier q) (past x)) ∧
      (cOp cmd = 6 → x.begun = false → (∀ l ∈ s.launches, l.handle ≠ h) → (∀ g ∈ s.ghosts, g.handle ≠ h) → only (.kill q) (past x)) ∧
      (∀ l, cOp cmd = 6 → x.begun = false → s.launches = [l] → l.handle = h → l.phase = .resident → l.preempts = [] →
        ∃ t, exec (.kill q) s = .next t ∧ (t.queue q).fetched = none ∧
          (∀ y ∈ t.launches, y.phase = .killed ∧ (q, x.index) ∈ y.kills ∧ (x.index, cmd) ∈ (t.queue q).running) ∧
          ∀ i, (s.tile i).runs h = true →
            (t.tile i).act = .idle ∨ (t.tile i).act = .stopped ∨ (t.tile i).stopReq = true)

/-- R277-R279, R287, R288, R304, R305: a LAUNCH whose record passes every check is resident on the dies that it names, with empty bands at
the foot of their blocks, as soon as they have slots, and waits for them otherwise; one that fails a check leaves ADM and the detail in
its queue. A RESUME takes its parts and cut points from the save area in the same way.
The model's choices in it: notes/assumptions 43, 70. -/
def Obligations.AdmissionMakesLaunchesResident : Prop :=
  (∀ (s : State) (q : Fin 16) (cmd : List Byte),
    let x := s.queue q
    x.fetched = some cmd → x.begun = false → field cmd 1 1 = 0 → s.regs.viral = false →
    let h := BitVec.ofNat 16 (field cmd 4 2)
    (∀ l ∈ s.launches, l.handle ≠ h) → (∀ g ∈ s.ghosts, g.handle ≠ h) →
    let resident (t : State) (r : List Byte) (seqVal : Nat) (code : List Word) (arg : List Byte) (parts : List DieLaunch)
        (cuts : List CutPoint) : Prop :=
      ∃ l, t.launch? h = some l ∧ l.phase = .resident ∧ l.record = r ∧ l.seqVal = seqVal ∧ l.code = code ∧ l.arg = arg ∧ l.ctx = x.ctx ∧
        l.parts.map (fun p => (p.die, p.fr, p.rowLo, p.rowHi)) = parts.map (fun p => (p.die, p.fr, p.rowLo, p.rowHi)) ∧
        l.restores = cuts ∧ (∀ d ∈ namedDies r, h ∈ (t.die d).slots) ∧ (t.queue q).fetched = none
    let admits (t s' : State) (r : List Byte) (seqVal : Nat) (code : List Word) (arg : List Byte) (parts : List DieLaunch)
        (cuts : List CutPoint) : Prop :=
      ((∀ d ∈ namedDies r, (s'.die d).slots.length < 16) → resident t r seqVal code arg parts cuts) ∧
      ((∃ d ∈ namedDies r, 16 ≤ (s'.die d).slots.length) →
        ∃ l, t.launch? h = some l ∧ l.phase = .waiting ∧ l.queue = q ∧ (t.queue q).begun = true)
    (∀ s1 s2 r code arg, cOp cmd = 1 → s.feRead x.ctx (field cmd 8 8) 256 = (s1, some r) → s1.readParts x.ctx r = (s2, some (code, arg)) →
      ∃ t, exec (.launch q) s = .next t ∧
        (recordDetail s2 q h false r = none →
          admits t s2 r (field cmd 0x10 8) code arg
            ((namedDies r).map fun d => newPart d ⟨(blockOf r d).1, (blockOf r d).1, []⟩ (blockOf r d).1 (blockOf r d).2) []) ∧
        (∀ e, recordDetail s2 q h false r = some e →
          (t.queue q).adm = true ∧ (t.queue q).admInfo = BitVec.ofNat 32 (field cmd 4 2 * 65536 + e) ∧ (t.queue q).fetched = none ∧
          t.launches = s2.launches)) ∧
    (∀ s1 s2 s3 hdr code arg parts cuts, cOp cmd = 5 → s.feRead x.ctx (field cmd 8 8) 0x140 = (s1, some hdr) →
      s1.readParts x.ctx (hdr.take 256) = (s2, some (code, arg)) → recordDetail s2 q h true (hdr.take 256) = none →
      s2.savedLaunch x.ctx cmd hdr = (s3, .ok (parts, cuts)) →
      ∃ t, exec (.resume q) s = .next t ∧ admits t s3 (hdr.take 256) (field hdr 0x108 8 % 2 ^ 62) code arg parts cuts)) ∧
  ∀ (s : State) (l : Launch), s.launch? l.handle = some l → l.phase = .waiting → s.regs.viral = false →
    (∀ d ∈ namedDies l.record, (s.die d).slots.length < 16) →
    ∃ t l', exec (.launchResident l.handle) s = .next t ∧ t.launch? l.handle = some l' ∧ l'.phase = .resident ∧
      (∀ d ∈ namedDies l.record, l.handle ∈ (t.die d).slots) ∧ ((s.queue l.queue).fetched ≠ none → (t.queue l.queue).fetched = none)

/-- R270, R299-R301: a PREEMPT makes its launch drain and lets its queue read on; with nothing left in flight the launch leaves, or is
killed where its save area is too short; at a deadline, at once where it is past already, every member of a started point is asked to
stop, stops where R300 says, with CYCLE run on to the stop, and its copies are failed in time; the save of the images frees the members.
The model's choices in it: notes/assumptions 9, 41, 44, 45, 70. -/
def Obligations.PreemptionDrainsCutsAndSaves : Prop :=
  let inFlight (s : State) (l : Launch) : Prop := ∃ x ∈ l.parts, ∃ r ∈ x.runs, s.runEnds l x.die r = false
  let started (l : Launch) : Prop := ∀ x ∈ l.parts, ∀ r ∈ x.runs, r.started = true
  let cutFrom (s t : State) (l : Launch) : Prop :=
    ∀ i, t.tile i = if i ∈ l.members ∧ (s.tile i).act = .point
      then { s.tile i with cutReq := some (s.time, (s.tile i).k.cycle.toNat), woken := (s.tile i).asleep,
                           cutHere := (t.tile i).cutHere } else s.tile i
  (∀ (s : State) (q : Fin 16) (cmd : List Byte),
    let x := s.queue q
    let h := BitVec.ofNat 16 (field cmd 4 2)
    x.fetched = some cmd → x.begun = false → cOp cmd = 4 → s.regs.viral = false →
    (∀ l, s.launch? h = some l → (l.phase = .resident ∨ l.phase = .draining) → s.ghostsFull l.handle = false →
      let all := l.preempts ++ [⟨q, x.index, field cmd 8 8, field cmd 0x18 8, field cmd 0x10 8, l.cutting, s.time⟩]
      let past := l.cutting = false ∧ (∃ p ∈ all, p.deadline ≠ 0 ∧ p.deadline ≤ s.time) ∧ inFlight s l
      let starts (t : State) (l' : Launch) : Prop := exec (.preempt q) s = .next t ∧ t.launch? h = some l' ∧ l'.phase = .draining ∧
        t.queue q = { x with head := (x.head + 1) % 2 ^ x.size, fetched := none, begun := false, running := x.running ++ [(x.index, cmd)] }
      (¬ past → ∃ t l', starts t l' ∧ l'.preempts = all ∧ t.tiles = s.tiles) ∧
      (past → started l → ∃ t l', starts t l' ∧ l'.preempts = all.map (fun p => { p with late := true }) ∧ cutFrom s t l)) ∧
    (s.launch? h = none → ∃ t, exec (.preempt q) s = .next t ∧ t.launches = s.launches ∧ (t.queue q).fetched = none)) ∧
  (∀ (s : State) (l : Launch), s.launch? l.handle = some l → l.phase = .draining → s.regs.viral = false → s.ghostsFull l.handle = false →
    let h := l.handle
    (l.cutting = false → (∀ x ∈ l.parts, x.runs = []) → ¬ (l.restores = [] ∧ ∀ x ∈ l.parts, x.done = true) →
      ∃ t, exec (.preemptDrainEnd h) s = .next t ∧ ∀ x, t.launch? h = some x → x.phase = .killed) ∧
    (l.cutting = false → (∃ p ∈ l.preempts, p.deadline ≠ 0 ∧ p.deadline ≤ s.time) → inFlight s l → started l →
      ∃ t l', exec (.preemptDeadline h) s = .next t ∧ t.launch? h = some l' ∧
        l'.preempts = l.preempts.map (fun p => { p with late := true }) ∧ l'.parts = l.parts ∧ l'.restores = l.restores ∧
        cutFrom s t l) ∧
    (l.cutting = true → s.cutSettled l = true → (∀ i ∈ l.members, (s.tile i).badParity = none) →
      ∃ t, exec (.contextSave h) s = .next t ∧ (∀ x, t.launch? h = some x → x.phase = .killed) ∧
        ∀ i ∈ l.members, (t.tile i).act = .idle)) ∧
  ∀ (s : State) (f : TileId) (n c : Nat),
    let x := s.tile f
    let clockRuns (y : Tile) : Prop := ∃ d m, y = { x with k := { x.k with cycle := d }, meets := m }
    x.cutReq = some (n, c) →
    (x.act = .point → x.inflight = none → (x.loops = [] ∨ x.cutHere = true ∨ x.waitsAtD = true) →
      ∃ y, exec (.hardCutStop f) s = .next (s.setTile f { y with act := .cut, cutHere := false }) ∧ clockRuns y) ∧
    (∀ b, x.act = .point → x.inflight = some b → b.hold ≠ none → b.next = b.start → x.asleep = false →
      ∃ y, exec (.hardCutStop f) s = .next (s.setTile f
        { y with act := .cut, pc := b.first, resume := b.next, sameNo := true, inflight := none, cutHere := false }) ∧ clockRuns y) ∧
    (x.act = .point → x.inflight = none → c + 16384 ≤ x.k.cycle.toNat →
      exec (.cutCycleLimit f) s = .next (s.setTile f { x with act := .cut, cutHere := false })) ∧
    (∀ id k, x.copy? id = some k → k.stage = .started → n + 10000 ≤ s.time →
      ∃ t, exec (.cutCopyTimeout f id) s = .next t ∧ OnlyTile f { s with ports := t.ports, imps := t.imps } t ∧
        t.tile f = x.mapCopy id fun k => { k with stage := .failing .cut })

/-! ## Fences, the viral state and resets -/

/-- R321, R322, R394: a die fence stops every tile of its die, and, once the launches that name it are done with, sets DFENCE and
fences its sites; a package-fatal error makes the package viral with every tile stopped, the viral indication on every port in use and
a dump held. R348, R351-R353, R385-R387, R417, R420: what each reset leaves and keeps, with a die fenced whose module fails training;
without power only COLD_RESET acts; a write to the store may be lost half way.
The model's choices in it: notes/assumptions 1, 5, 56, 62, 63, 64, 65, 66. -/
def Obligations.FencesViralEntryAndResets : Prop :=
  ∀ (s : State) (d : Fin 8),
    let still (t : State) (i : TileId) : Prop := (t.tile i).act = .idle ∨ (t.tile i).act = .stopped
    let viral (t : State) : Prop := t.regs.viral = true ∧ (∀ i, still t i) ∧ t.regs.dump.isSome = true ∧
      ∀ p, (s.port p).en = true → (s.port p).up = true → (s.port p).fenced = false → (t.port p).tx = (s.port p).tx ++ [.viral]
    let u := Config.untrained s.draws
    let fresh (t : State) : Prop := t.regs.ready = true ∧ t.regs.powered = true ∧ t.regs.viral = false ∧ t.gmem = [] ∧
      t.launches = [] ∧ t.ghosts = [] ∧ t.posts = [] ∧ t.crew = [] ∧ t.faults = [] ∧ t.narrow = [] ∧ t.queues = State.reset.queues ∧
      t.keys = State.reset.keys ∧ t.ports = State.reset.ports ∧ t.imps = State.reset.imps ∧ t.exps = State.reset.exps ∧
      t.dmws = State.reset.dmws ∧ t.time = 0 ∧ t.hostMem = s.hostMem ∧ (∀ k, (t.die k).fenced = u.getLsbD k.val) ∧
      ∀ i, (t.tile i).act = .idle ∧ (t.tile i).scal = Vector.replicate 64 0 ∧ (t.tile i).spad = [] ∧ (t.tile i).cox.fresh = true
    let stored := s.storeLost = false
    (s.regs.viral = false → (s.die d).fenced = false →
      (∃ t, exec (.dieFence d) s = .next t ∧ (t.die d).fenced = true ∧ (∀ n, still t ⟨d, n⟩) ∧
        if t.launches.any fun l => l.names d then (t.die d).fencing = true
        else t.regs.dfence = true ∧ ∀ n, (t.site ⟨d, n⟩).live.state ≠ .enabled ∧ (t.site ⟨d, n⟩).live.state ≠ .spare) ∧
      ∃ t, exec (.dieFenceTimeout d) s = .next t ∧ viral t) ∧
    (s.regs.viral = false → ∃ t, exec .viralEntry s = .next t ∧ viral t) ∧
    (s.regs.powered = false → stored → ∃ t, exec .coldReset s = .next t ∧ fresh t ∧ t.regs.lastRst = .cold ∧
      t.regs.ocSticky = 0 ∧ (u = 0 → t.errLog = State.reset.errLog)) ∧
    (stored → ∃ t, exec .packageReset s = .next t ∧ exec .pkgReset s = .next { t with reply := some ⟨0, []⟩ } ∧ fresh t ∧
      t.regs.lastRst = .package ∧ t.regs.ocSticky = s.regs.ocSticky ∧ t.energy = s.energy ∧ t.regs.dump = s.regs.dump ∧
      (u = 0 → (∀ k, s.dieTemp k < State.reset.regs.threshold 2) → t.errLog = s.errLog)) ∧
    exec .hostLinkReset s = .next { s with regs := { s.regs with lastRst := .hostLink } } ∧
    (∃ t, exec (.powerRemoval none) s = .next t ∧ t.regs.powered = false ∧ t.sites = s.sites ∧ t.headers = s.headers ∧
      ((∀ n, t.inbox.head? ≠ some (.event n .coldReset)) → step t = .fault .powerOff)) ∧
    (∀ i old bad g, (s.site i).tear = some (s.time, old, bad) →
      ∃ t, exec (.powerRemoval (some (.site i, g))) s = .next t ∧ t.regs.powered = false ∧ (∀ j, j ≠ i → t.site j = s.site j) ∧
        (t.site i).copyA = (s.site i).copyA ∧
        ((t.site i).badA, (t.site i).copyB, (t.site i).badB) =
          match g with
          | .inA => (true, old, bad)
          | .between => ((s.site i).badA, old, bad)
          | .inB => ((s.site i).badA, (s.site i).copyB, true)) ∧
    ∀ old g, s.regs.headTear = some (s.time, old) →
      ∃ t, exec (.powerRemoval (some (.header, g))) s = .next t ∧ t.regs.powered = false ∧ t.sites = s.sites ∧
        t.headers = match g with
          | .inA => #v[{ s.headers[0] with bad := true }, old]
          | .between => #v[s.headers[0], old]
          | .inB => #v[s.headers[0], { s.headers[1] with bad := true }]

/-! ## Timing margin -/

/-- R338-R343, R348, R350, R351: the Cox's table at a window end, the hourly ageing reading, the characterisation of one bin by its
windows, verification, and the writes of the record store, each copy in full.
The model's choices in it: notes/assumptions 49, 50. -/
def Obligations.TheCoxFollowsItsTable : Prop :=
  ∀ (s : State) (f : TileId),
    let x := s.tile f
    let c := x.cox
    let b := x.vf.bin
    let bin (t : State) (j : Fin 8) : BinRec := (t.site f).live.bins[j]
    let r := c.replays
    let e := bin s b
    let ended := c.fresh = false ∧ 2 ^ c.pol.wn ≤ c.bundles
    let floor := e.ffv + 2 + e.age
    let start := c.quietAt.getD c.begun
    let window (t : State) : Prop := (t.tile f).cox.bundles = 0 ∧ (t.tile f).cox.replays = 0 ∧ (t.tile f).cox.begun = s.time ∧
      (t.tile f).cox.pol = (s.die f.die).cox
    (∀ k, let fallen : Prop := r < c.pol.floor ∧ k ≤ c.pol.canlim ∧ start + c.pol.quiet * 1000000 ≤ s.time ∧ floor ≤ e.offset - 1
      ended → ∃ t, exec (.coxWindowEnd f k) s = .next t ∧ window t ∧
      (bin t b).rate = min 0xFFFF ((7 * e.rate + r * 2 ^ (24 - c.pol.wn)) / 8) ∧
      (c.pol.limit < r → e.offset < c.pol.ceil → (bin t b).offset = e.offset + 1 ∧ (t.site f).live.holdfail = 0) ∧
      (c.pol.limit < r → e.offset = c.pol.ceil → 2 ≤ b.val →
        (bin t b).offset = e.offset ∧ ∀ j : Fin 8, b.val ≤ j.val → (bin t j).bar = true) ∧
      (c.pol.limit < r → e.offset = c.pol.ceil → b.val < 2 → (bin t b).offset = e.offset ∧
        (t.site f).live.holdfail = min 4 ((s.site f).live.holdfail + 1) ∧
        (3 ≤ (s.site f).live.holdfail → (t.site f).live.state = .retired)) ∧
      (¬ (c.pol.limit < r ∧ e.offset ≤ c.pol.ceil) → fallen → (bin t b).offset = e.offset - 1 ∧ (t.site f).fallAt = some s.time) ∧
      (¬ (c.pol.limit < r ∧ e.offset ≤ c.pol.ceil) → ¬ fallen → (bin t b).offset = e.offset)) ∧
    (∀ slow, x.aged < s.time / 3600000000000 → ¬ ended → ∃ t, exec (.ageingRead f slow) s = .next t ∧ (t.tile f).aged = x.aged + 1 ∧
      ∀ j : Fin 8, let a := min 15 (slow / 5)
        (bin t j).age = max (bin s j).age a ∧
        (c.pol = (s.die f.die).cox → (bin t j).offset =
          if (bin s j).age < a ∧ (bin s j).offset < (bin s j).ffv + 2 + a ∧ (bin s j).ffv + 2 + a ≤ c.pol.ceil
          then (bin s j).ffv + 2 + a else (bin s j).offset)) ∧
    (∀ ws w, let j := x.sweep.getD 7
      let ceil := (s.die f.die).cox.ceil
      let fails (w : TestWindow) : Prop := 4 * (s.die f.die).cox.limit < w.replays ∨ w.third = true
      let v := (bin s j).offset - (ws.length : Int)
      (∀ y ∈ ws, ¬ fails y) → -128 ≤ v → (fails w ∨ v = -128) → s.regs.viral = false →
      (s.die f.die).maint = true → x.act = .idle → (s.site f).live.state ≠ .retired → ¬ ended →
      ∃ t, exec (.characterisation f (ws ++ [w])) s = .next t ∧ (t.tile f).entered = 0 ∧
        (t.tile f).sweep = (if j.val = 0 then none else some (dieOf (j.val - 1))) ∧
        (bin t j).ffv = v ∧ (bin t j).age = 0 ∧ (bin t j).bar = decide (ceil < v + 2) ∧
        (bin t j).offset = (if ceil < v + 2 then (bin s j).offset else min ceil (v + 4)) ∧
        (∀ n : Fin 8, n ≠ j → (bin t n).ffv = (bin s n).ffv ∧ (bin t n).offset = (bin s n).offset ∧ (bin t n).bar = (bin s n).bar ∧
          (bin t n).age = (bin s n).age) ∧
        (t.site f).live.state = if j.val = 0 ∧ (bin s 1).bar = true then .retired else (s.site f).live.state) ∧
    (∀ n third, (s.site f).live.state = .fenced → (s.site f).verify = true → ¬ ended → let ceil := (s.die f.die).cox.ceil
      ∃ t, exec (.timingVerification f n third) s = .next t ∧ (t.site f).verify = false ∧
        (t.site f).live.state = (if n ≤ (s.die f.die).cox.limit ∧ third = false then .enabled else .retired) ∧
        ((bin s 1).offset ≤ ceil → (bin t 1).offset = min ((bin s 1).offset + 2) ceil)) ∧
    (∀ n, (s.site f).fallAt = some n → n + 10000000 ≤ s.time →
      (∀ w, (s.site f).lastWrite = some w → w + 60000000000 ≤ s.ltime) →
      ∃ t, exec (.mrsFallWrite f) s = .next t ∧ (t.site f).fallAt = none ∧ (t.site f).copyA = (t.site f).live ∧
        (t.site f).copyB = (t.site f).live) ∧
    ((s.site f).due = true → (∀ w, (s.site f).lastWrite = some w → w + 60000000000 ≤ s.ltime) →
      ∃ t, exec (.mrsDeferredWrite f) s = .next t ∧ (t.site f).copyA = (t.site f).live ∧ (t.site f).copyB = (t.site f).live ∧
        (t.site f).due = false ∧ (t.site f).lastWrite = some s.ltime) ∧
    ∃ t, exec .llastWrite s = .next t ∧
      t = { s with headers := t.headers, regs := { s.regs with headTear := some (s.time, s.headers[1]) } } ∧
      ∀ j : Fin 2, t.headers[j] = { s.headers[0] with llast := s.ltime, hseq := (s.headers[0].hseq + 1) % 2 ^ 32, bad := false }

/-! ## The host's accesses, the memory services -/

/-- R322, R360, R380, R386, R388-R392, R401: reads and writes of the control space, by word and by pair, with the accesses that LINKERR
counts and the front-end window shut before READY; writes of the host's memory, byte for byte; a vector unmasked sends what it holds;
the aperture reaches device memory at a base plus an offset, or a virtual address, and completes with error status where it may not.
The model's choices in it: notes/assumptions 54, 55, 57, 73. -/
def Obligations.HostAccessesReachRegistersAndMemory : Prop :=
  ∀ s : State,
    let told (t : State) (code : Byte) (data : List Byte) : State := { t with reply := some ⟨code, data⟩ }
    let ones (n : Nat) : List Byte := List.replicate n 0xFF
    let counted : State := { s with regs := { s.regs with linkErr := satAdd32 s.regs.linkErr 1 } }
    let word (off : Nat) : List Byte := bytesOfNat 4 (s.ctlRead off)
    (∀ off size, off + size ≤ 0x2000000 →
      (s.regs.viral = true → exec (.hostRead off size) s = .next (told s 1 (ones size))) ∧
      (s.regs.viral = false → ¬ ((size = 4 ∨ size = 8) ∧ off % size = 0) →
        exec (.hostRead off size) s = .next (told counted 0 (ones size))) ∧
      (s.regs.viral = false → off % size = 0 → ¬ (0x3100 ≤ off ∧ off < 0x3198) →
        (size = 4 → exec (.hostRead off size) s = .next (told s 0 (word off))) ∧
        (size = 8 → exec (.hostRead off size) s = .next (told s 0 (word off ++ word (off + 4)))))) ∧
    (∀ off (v : Word), off + 4 ≤ 0x2000000 →
      let w := bytesOfNat 4 v.toNat
      (s.regs.viral = true → exec (.hostWrite .control off w) s = .next s ∧ exec (.registerWrite off v) s = .next s) ∧
      (s.regs.viral = false → off % 4 ≠ 0 →
        exec (.hostWrite .control off w) s = .next counted ∧ exec (.registerWrite off v) s = .next counted) ∧
      (s.regs.viral = false → off % 4 = 0 → ∃ t, exec (.hostWrite .control off w) s = .next t ∧ exec (.registerWrite off v) s = .next t ∧
        (off < 0x100000 → s.regs.ready = false → t = s) ∧
        (off = 0x804 → s.regs.ready = true →
          t = { s with regs := { s.regs with fctl := v.setWidth 4 } } ∧ t.ctlRead off = v.toNat % 16) ∧
        (off = 0x100230 → t = { s with regs := { s.regs with frTok := v } } ∧ t.ctlRead off = v.toNat) ∧
        (0x200200 ≤ off → off < 0x300000 → t = s ∧ t.ctlRead off = 0))) ∧
    (∀ off (lo hi : Word), off + 8 ≤ 0x2000000 → off % 8 = 0 → s.regs.viral = false → ∃ t u, exec (.registerWrite off lo) s = .next t ∧
      (t.regs.viral = false → exec (.registerWrite (off + 4) hi) t = .next u ∧
        exec (.hostWrite .control off (bytesOfNat 4 lo.toNat ++ bytesOfNat 4 hi.toNat)) s = .next u)) ∧
    (∀ addr data, ∃ t, exec (.hostWrite .hostMem addr data) s = .next t ∧ t = { s with hostMem := t.hostMem, narrow := t.narrow } ∧
      ∀ a, Cells.get 0 t.hostMem a = if addr ≤ a ∧ a < addr + data.length then data.getD (a - addr) 0 else Cells.get 0 s.hostMem a) ∧
    (∀ v : Fin 32, s.regs.viral = false → s.regs.ready = true → ∃ t, exec (.vectorUnmask v) s = .next t ∧
      t = { s with vecs := t.vecs, hostMem := t.hostMem, narrow := t.narrow } ∧ (∀ u, u ≠ v → t.vecs[u] = s.vecs[u]) ∧
      t.vecs[v] = { s.vecs[v] with mask := false, pend := false } ∧
      ∀ a, let m := (s.vecs[v]).addr.toNat / 4 * 4
        Cells.get 0 t.hostMem a = if (s.vecs[v]).pend = true ∧ m ≤ a ∧ a < m + 4
          then (bytesOfNat 4 (s.vecs[v]).data.toNat).getD (a - m) 0 else Cells.get 0 s.hostMem a) ∧
    (∀ n, s.regs.viral = false →
      exec (.ebstatClear n) s = .next (s.setStack n { s.stack n with ebValid := false, ebUe := false, ebOvf := false })) ∧
    ∀ (w : Fin 16) (f : Nat), f < 2 ^ 32 →
      let x := s.dmws[w]
      let off := w.val * 2 ^ 32 + f
      let inside (n : Nat) : Prop := s.regs.viral = false ∧ s.regs.ready = true ∧ x.en = true ∧ f + max 1 n ≤ 2 ^ x.size
      let pa := x.base.toNat + f
      let made (n : Nat) := (s.madeRanges pa n).map fun y => (y.1, y.2, none)
      (∀ n, ¬ inside n → exec (.apertureAccess off (.read n)) s = .next (told s 1 (ones n))) ∧
      (∀ bs, ¬ inside bs.length → exec (.apertureAccess off (.write bs)) s = .next (told s 1 [])) ∧
      (∀ n t bs, inside n → x.mode = false → s.readDevBy .host pa n = (t, .ok bs) →
        exec (.apertureAccess off (.read n)) s = .next (told t 0 bs)) ∧
      (∀ n t e, inside n → x.mode = false → s.readDevBy .host pa n = (t, .error e) →
        exec (.apertureAccess off (.read n)) s =
          .next (told (if e = .unmapped then t.faultNow (frontEnd 0) .paErr false pa else t) 1 (ones n))) ∧
      (∀ bs t, inside bs.length → x.mode = false → s.writeDev pa bs = (t, .ok ()) →
        exec (.apertureAccess off (.write bs)) s = .next (told (t.logWrites hostWatch (made bs.length)) 0 [])) ∧
      (∀ bs t e, inside bs.length → x.mode = false → s.writeDev pa bs = (t, .error e) →
        let t := t.logWrites hostWatch (made bs.length)
        exec (.apertureAccess off (.write bs)) s =
          .next (told (if e = .unmapped then t.faultNow (frontEnd 0) .paErr true pa else t) 1 [])) ∧
      (∀ bs t ok, inside bs.length → x.mode = true →
        s.feWriteGo hostWatch (frontWriter x.ctx 4) false x.ctx bs (pagesOf ((x.base.toNat + f) % 2 ^ 64) bs.length) = (t, ok) →
        exec (.apertureAccess off (.write bs)) s = .next (told t (if ok then 0 else 1) [])) ∧
      (∀ n t r, inside n → x.mode = true → s.feReadGo .host false x.ctx ((x.base.toNat + f) % 2 ^ 64) n = (t, r) →
        exec (.apertureAccess off (.read n)) s = .next (match r with | some bs => told t 0 bs | none => told t 1 (ones n)))

/-- R357-R363, R373-R377: mapping rows are shadowed and installed at full rank; the scrubber's pass, the halving of scores; a fault's
answer lets its copies walk again or fail; invalidation drops the leaves of its range once nothing uses them; a graft ends done,
skipped or failed.
The model's choices in it: notes/assumptions 36, 51, 52, 53. -/
def Obligations.MemoryServicesDoTheirWork : Prop :=
  ∀ s : State, s.regs.viral = false →
    let r := s.regs
    let k := regionNo r.mapSel
    (∀ v, ∃ t, exec (.maprowStore v) s = .next t ∧ t = { s with shadows := t.shadows, regs := t.regs } ∧
      t.regs = { r with mapRowHi := v.getLsbD 0, mapRowSel := r.mapRowSel + 1 } ∧
      ∀ (g : Fin 4) (j : Fin 33), (t.shadows[g]).rows[j] =
        if g = k ∧ j.val = r.mapRowSel.toNat then BitVec.ofBool (v.getLsbD 0) ++ r.mapRowLo else (s.shadows[g]).rows[j]) ∧
    (∀ v, exec (.mapActivate v) s = .next { s with regs := { r with
      mapSel := v.setWidth 2, mapBusy := if v.getLsbD 8 = true ∧ r.mapBusy = none then some (v.setWidth 2) else r.mapBusy } }) ∧
    (∀ v, r.mapBusy = some v →
      let rank := rank33 (s.shadows[regionNo v]).rows
      ∃ t, exec .mapCheckDone s = .next t ∧ t = { s with maps := t.maps, regs := t.regs } ∧
        t.regs = { r with mapBusy := none, mapDone := true, mapRank := BitVec.ofNat 6 rank, mapErr := r.mapErr || decide (rank ≠ 33) } ∧
        ∀ g : Fin 4, t.maps[g] = if rank = 33 ∧ g = regionNo v then s.shadows[g] else s.maps[g]) ∧
    (∀ n : Fin 8,
      let x := s.stack n
      let p := passCoord n x.scrubPos
      x.scrubEn = true → (s.die n).fenced = false →
        (s.errorAt p = none → exec (.scrubRead n p) s = .next (s.setStack n
          (if x.scrubPos + 1 = 2 ^ 30 then { x with scrubPos := 0, passes := x.passes + 1 } else { x with scrubPos := x.scrubPos + 1 }))) ∧
        (∀ e sym, s.errorAt p = some e → e.symbol = some sym →
          ∃ t, exec (.scrubRead n p) s = .next t ∧ t.errorAt p = none ∧ t.regs.corr = true) ∧
        (∀ e, s.errorAt p = some e → e.symbol = none → ∃ t, exec (.scrubRead n p) s = .next t ∧ t.lineErr = s.lineErr ∧
          (t.stack n).ebValid = true ∧ (t.stack n).ebUe = true ∧ (x.ueCnt ≠ 0xFFFF → (t.stack n).ueCnt = x.ueCnt + 1)) ∧
        ∀ l h, h ∈ x.hot → h.row = coordRowKey l → l / 2 ^ 30 = n.val → l ≠ p → s.errorAt l = none →
          exec (.scrubRead n l) s = .next s) ∧
    (let days := s.time / 86400000000000
     let half (x : Nat) : Nat := x / 2 ^ (days - r.halvings)
     r.halvings < days → (∀ n, ∀ h ∈ (s.stack n).hot, half h.score < (s.stack n).pth.toNat) →
      ∃ t, exec .scoreHalving s = .next t ∧ t = { s with hbm := t.hbm, regs := { r with halvings := days } } ∧
        ∀ n, t.stack n = { s.stack n with hot := (s.stack n).hot.map fun h => { h with score := half h.score } }) ∧
    (let tok := r.frTok.toNat
     let waits (i : TileId) : List CopyCmd := (s.tile i).copyq.filter fun c => c.stage == .waiting tok
     let u : State := { s with faults := s.faults.filter fun w => w.token != tok }
     ((∀ w ∈ s.faults, w.token = tok → w.held = true) → exec .faultRetry s = .next s ∧ exec .faultFail s = .next s) ∧
     ((∃ w ∈ s.faults, w.token = tok ∧ w.held = false) →
       ((∀ n, (s.stack n).grWait ≠ tok) → (∀ i, waits i = []) → exec .faultRetry s = .next u ∧ exec .faultFail s = .next u) ∧
       (∀ i c, (∀ n, (s.stack n).grWait ≠ tok) → waits i = [c] → (∀ j, j ≠ i → waits j = [] ∧ ((u.startCopy i c).tile j).copyq = (s.tile j).copyq) →
         exec .faultRetry s = .next (u.startCopy i c)) ∧
       ((∀ i, ∀ c ∈ (s.tile i).copyq, c.stage ≠ .waiting 0) → ∃ t, exec .faultFail s = .next t ∧ t.faults = u.faults ∧
         (∀ i, ∀ c ∈ waits i, ∀ y ∈ (t.tile i).copyq, y.id = c.id → y.stage = .failing .translation) ∧
         ∀ n, (s.stack n).grWait = tok → (t.stack n).grBusy = false ∧ (t.stack n).grWait = 0 ∧ (t.stack n).grResult = 3))) ∧
    (∀ v,
      ((∀ w ∈ s.faults, w.held = false) → exec (.fqheadWrite v) s = .next { s with regs := { r with fqHead := v } }) ∧
      (∀ w, s.faults = [w] → w.held = true → (r.fqTail.toNat + 1) % 2 ^ r.fqSize ≠ v.toNat % 2 ^ r.fqSize →
        ∃ t, exec (.fqheadWrite v) s = .next t ∧ t.faults = [{ w with held := false }] ∧ t.regs.fqHead = v ∧
          t.regs.fqTail = BitVec.ofNat 32 ((r.fqTail.toNat + 1) % 2 ^ r.fqSize))) ∧
    exec .invalidate s = .next (if r.invBusy then s else
      { s with regs := { r with invBusy := true, invJob := ⟨r.invAll, r.invCtx, r.invVa, r.invLen⟩ } }) ∧
    (r.invBusy = true → s.rangeBusy = false → ∃ t, exec .invalidateDone s = .next t ∧
      t = { s with dies := t.dies, tiles := t.tiles, regs := { r with invBusy := false },
                   narrow := (s.raise (fun e => r.covers e.by'.ctx e.leaf.base e.leaf.size) 4 []).narrow } ∧
      (∀ i, { t.tile i with tlb := (s.tile i).tlb } = s.tile i ∧
        ∀ e, e ∈ (t.tile i).tlb ↔ e ∈ (s.tile i).tlb ∧ r.covers e.ctx e.va e.size = false) ∧
      ∀ d, let whole (c : BitVec 16) : Prop := r.invJob.len = 0 ∧ (r.invJob.all = true ∨ r.invJob.ctx = c)
        { t.die d with tlb := (s.die d).tlb, ctxs := (s.die d).ctxs, tensors := (s.die d).tensors } = s.die d ∧
        (∀ e, e ∈ (t.die d).tlb ↔ e ∈ (s.die d).tlb ∧ r.covers e.ctx e.va e.size = false) ∧
        (∀ p, p ∈ (t.die d).ctxs ↔ p ∈ (s.die d).ctxs ∧ ¬ whole p.1) ∧
        ∀ y, y ∈ (t.die d).tensors ↔ y ∈ (s.die d).tensors ∧ ¬ whole y.ctx) ∧
    ∀ n : Fin 8,
      let x := s.stack n
      let a := grafter x.job.ctx
      let va := x.job.va.toNat
      let dst := x.job.dst.toNat * 128
      let page := va / 0x200000 * 0x200000
      let free (t : State) : Prop := ∀ i, ∀ c ∈ (t.tile i).copyq, c.stage ≠ .waiting 0
      let ended (t : State) (result : BitVec 2) : State := t.setStack n { t.stack n with grBusy := false, grWait := 0, grResult := result }
      exec (.graftRequest n) s = .next (if x.grBusy then s else
        s.setStack n { x with grBusy := true, job := ⟨x.grVa, x.grDst, x.grCtx, x.grForce⟩ }) ∧
      (x.grBusy = true → x.grWait = 0 → ∀ s1,
        (∀ e, s.ctxEntry (some n) x.job.ctx = (s1, .error e) → free (s1.walkRecord a e false va) →
          exec (.graftDone n) s = .next (ended (s1.walkRecord a e false va) (if s.ctxUnread (some n) x.job.ctx then 3 else 2))) ∧
        ∀ e s2, s.ctxEntry (some n) x.job.ctx = (s1, .ok e) →
          (∀ result, s1.graftGo n va 4 0 e.root = (s2, .ends result none) → free s2 →
            exec (.graftDone n) s = .next (ended s2 result)) ∧
          (∀ result fault, s1.graftGo n va 4 0 e.root = (s2, .ends result (some fault)) → free (s2.walkRecord a fault false va) →
            exec (.graftDone n) s = .next (ended (s2.walkRecord a fault false va) result)) ∧
          (∀ s3 tok, s1.graftGo n va 4 0 e.root = (s2, .wait) → s2.faultWait a false va = (s3, tok) → free s3 →
            exec (.graftDone n) s = .next (s3.setStack n { s3.stack n with grWait := tok })) ∧
          ∀ entry ls, s1.graftGo n va 4 0 e.root = (s2, .found entry ls) →
            (s2.leavesFit n ls = false ∨ s2.destFits n dst = false ∨ (x.job.force = false ∧ ∃ l ∈ ls, s2.frameBusy (bits l 16 36) = true) →
              free s2 → exec (.graftDone n) s = .next (ended s2 2)) ∧
            ∀ s3 s4, s2.leavesFit n ls = true → s2.destFits n dst = true → (∀ l ∈ ls, s2.frameBusy (bits l 16 36) = false) →
              s2.copyFrames (x.job.dst.toNat * 128) (ls.map fun l => bits l 16 36) = (s3, true) →
              (s2.stack n).job = x.job →
              s3.writeDev entry (bytesOfNat 8 (dst / 0x10000 * 2 ^ 16 + bits (ls.headD 0) 2 4 * 4 + 3)) = (s4, .ok ()) → free s4 →
              ∃ t, exec (.graftDone n) s = .next t ∧ (t.stack n).grBusy = false ∧ (t.stack n).grResult = 1 ∧ t.gmem = s4.gmem ∧
                let beside (y : TlbEntry) : Prop := y.ctx = x.job.ctx → page + 0x200000 ≤ y.va ∨ y.va + y.size ≤ page
                (∀ d, ∀ y ∈ (t.die d).tlb, y ∈ (s4.die d).tlb ∧ beside y) ∧
                ∀ i, ∀ y ∈ (t.tile i).tlb, y ∈ (s4.tile i).tlb ∧ beside y)

/-! ## Peer links -/

/-- R322, R355, R380, R393-R402: what a port takes and what it drops, with its counts, each group opened under its key slot's key; a peer's
request served under its window and answered; this package's requests answered, timed out or failed with their link or window; a late
response dropped.
The model's choices in it: notes/assumptions 37, 54, 58, 59, 60, 62, 73. -/
def Obligations.PeerLinksCarryRequestsAndAnswers : Prop :=
  ∀ (s : State) (p : Fin 12),
    let x := s.port p
    let put (y : Port) : State := s.setPort p y
    let quiet : Prop := x.pending = [] ∧ x.replies = []
    let failing (t : State) (r : PeerRequest) : Prop := ∀ c ∈ (t.tile r.tile).copyq, c.id = r.copy → c.stage = .failing .window
    (∀ (sender : Fin 12) (bytes : List Byte), x.en = true → x.up = true →
      let g := groupHeader bytes
      (x.fenced = true ∨ s.regs.viral = true → exec (.flitGroupReceive p ⟨sender, bytes⟩) s = .next s) ∧
      (x.fenced = false → s.regs.viral = false →
        (g.nflit = 0 ∨ 16 < g.nflit → ∃ t, exec (.flitGroupReceive p ⟨sender, bytes⟩) s = .next t ∧
          t.port p = { x with fenced := true, authDrop := satAdd32 x.authDrop 1 }) ∧
        (1 ≤ g.nflit → g.nflit ≤ 16 →
          ((∀ k : Fin 8, ∀ y, s.keys[k] = some y → ¬ (y.tag = g.owntag ∧ y.ports.getLsbD p.val = true)) →
            exec (.flitGroupReceive p ⟨sender, bytes⟩) s = .next (put { x with tagDrop := satAdd32 x.tagDrop 1 })) ∧
          ∀ (k : Fin 8) y, s.slotFor p g.owntag = some k → s.keys[k] = some y →
            (openGroup y.key sender bytes = none ∨ g.dnode ≠ s.regs.nodeId ∨ (∃ n, y.lastIn[p] = some n ∧ g.gcnt ≤ n) →
              exec (.flitGroupReceive p ⟨sender, bytes⟩) s = .next (put { x with authDrop := satAdd32 x.authDrop 1 })) ∧
            ∀ payload, openGroup y.key sender bytes = some payload → g.dnode = s.regs.nodeId →
              (∀ n, y.lastIn[p] = some n → n < g.gcnt) → quiet →
              ∃ t z, exec (.flitGroupReceive p ⟨sender, bytes⟩) s = .next t ∧ t.keys[k] = some z ∧ z.lastIn[p] = some g.gcnt ∧
                ∀ pk n, payload = packetBytes pk ++ List.replicate n 0 → pk.zeros = true → pk.len < 2 ^ 32 → pk.offset < 2 ^ 64 →
                  pk.data.length = packetExtent pk.ptype pk.len →
                  let known : Prop := 1 ≤ pk.ptype.toNat ∧ pk.ptype.toNat ≤ 6
                  let own : Prop := pk.owntag = g.owntag ∧ pk.node = g.node
                  t.port p = { x with
                    credits := min 64 (x.credits + g.rcred)
                    rx := if known ∧ own then x.rx ++ [(k, pk)] else x.rx
                    authDrop := if 7 ≤ pk.ptype.toNat then satAdd32 x.authDrop 1 else x.authDrop
                    tagDrop := if known ∧ ¬ own then satAdd32 x.tagDrop 1 else x.tagDrop }))) ∧
    (x.en = true → x.up = true →
      (∃ t, exec (.viralFlitReceive p) s = .next t ∧ t.port p = { x with viralIn := true, fenced := true } ∧
        ∀ q, q ≠ p → t.port q = s.port q) ∧
      ∀ ty : Byte, 3 ≤ ty.toNat →
        exec (.invalidFlit p ty) s = .next (if x.fenced then s else put { x with authDrop := satAdd32 x.authDrop 1 })) ∧
    (∀ (slot : Fin 8) (k : Packet) rest, x.rx = (slot, k) :: rest → x.fenced = false → s.regs.viral = false →
      let s1 := put { x with rx := rest }
      let pa := s.windowPa k
      let w := s.exps[winOf k.xw.toNat]
      let none' : List Byte := if k.ptype = 3 then List.replicate 32 0 else []
      let answered (t : State) (st : Byte) (data : List Byte) : State := ((t.answer p slot k st data).noteDrained).pump p
      let status (e : MemErr) : Byte := if e = .fenced then 4 else 3
      let noted (t : State) (e : MemErr) (write : Bool) : State := if e = .unmapped then t.faultNow peerAccessor .paErr write pa else t
      let logged (t : State) (made : List (Nat × Nat)) : State := t.logWrites (peerWatch p k) (made.map fun y => (y.1, y.2, none))
      let n := reachOf k
      (k.xw.toNat < 32 → w.en = false → s.windowStatus k = 1) ∧
      (32 ≤ k.xw.toNat ∨ w.en = true ∧ (w.size * 0x10000 < k.offset + n ∨ (w.w = false ∧ k.ptype ≠ 1) ∨ requestOk k = false) →
        s.windowStatus k = 2) ∧
      ((k.ptype = 1 → s.windowStatus k ≠ 0 → exec (.rd p k) s = .next (answered s1 (s.windowStatus k) none')) ∧
       (k.ptype = 2 → s.windowStatus k ≠ 0 → exec (.wr p k) s = .next (answered s1 (s.windowStatus k) none')) ∧
       (k.ptype = 3 → s.windowStatus k ≠ 0 → exec (.amo p k) s = .next (answered s1 (s.windowStatus k) none'))) ∧
      (s.windowStatus k = 0 →
        (∀ t bs, k.ptype = 1 → s1.readDevBy (.peer p) pa k.len = (t, .ok bs) → exec (.rd p k) s = .next (answered t 0 bs)) ∧
        (∀ t e, k.ptype = 1 → s1.readDevBy (.peer p) pa k.len = (t, .error e) →
          exec (.rd p k) s = .next (answered (noted t e false) (status e) none')) ∧
        (∀ t, k.ptype = 2 → s1.writeDev pa k.data = (t, .ok ()) →
          exec (.wr p k) s = .next (answered (logged t (s1.madeRanges pa k.len)) 0 [])) ∧
        (∀ t e, k.ptype = 2 → s1.writeDev pa k.data = (t, .error e) →
          exec (.wr p k) s = .next (answered (noted (logged t (s1.madeRanges pa k.len)) e true) (status e) none')) ∧
        (∀ t bs op, k.ptype = 3 → s1.readDev .agent pa n = (t, .ok bs) → Machine.atomOf (k.aop.toNat % 16) = some op →
          let old := natOfBytes bs
          let new := atomNew (8 * n) op old (field k.data 0 n) (field k.data 8 n)
          exec (.amo p k) s = .next (answered (logged (t.writeDev pa (bytesOfNat n new)).1 [(pa, n)]) 0 (bytesOfNat 32 old))) ∧
        (∀ t e, k.ptype = 3 → s1.readDev .agent pa n = (t, .error e) →
          exec (.amo p k) s = .next (answered (noted t e true) (status e) none'))) ∧
      (∀ (t : State) st data key, t.keys[slot] = some key → key.sent[p] < 2 ^ 48 → t.carries p = true → (t.port p).replies = [] →
        (t.port p).pending = [] →
        let rsp := responseTo k st data
        let cred := min ((t.port p).owed + 1) 64
        ((answered t st data).port p).tx = (t.port p).tx ++
          [.group (groupBytes key.key p ⟨flitsFor rsp, key.tag, t.regs.nodeId, k.node, key.sent[p], cred⟩
            (packetBytes { rsp with owntag := key.tag, node := t.regs.nodeId }))]) ∧
      (let late : Prop := ∃ n ∈ x.stale, n.setWidth 16 = k.rid
       let gone (t : State) : Prop := (k.ptype = 4 → exec (.rdrsp p k) s = .next t) ∧ (k.ptype = 5 → exec (.wrack p k) s = .next t) ∧
         (k.ptype = 6 → exec (.amorsp p k) s = .next t)
       (late → gone (put { x with rx := rest, stale := x.stale.erase (k.rid.setWidth 12) })) ∧
       (¬ late → x.pending = [] → gone s1) ∧
       ∀ r c, ¬ late → x.pending = [r] → r.sent = true → r.rid.setWidth 16 = k.rid → (s.tile r.tile).copy? r.copy = some c →
        let failed (t : State) : Prop := (t.port p).pending = [] ∧ failing t r
        let filled (t : State) (n : Nat) : Prop := (t.port p).pending = [] ∧ ∃ d, (t.tile r.tile).copy? r.copy = some d ∧
          d.image = c.image.take r.off ++ k.data.take n ++ c.image.drop (r.off + (k.data.take n).length)
        (k.ptype = 4 → r.pkt.ptype = 1 →
          (k.status ≠ 0 → ∃ t, exec (.rdrsp p k) s = .next t ∧ failed t) ∧
          (k.status = 0 → k.data.length = r.pkt.len → ∃ t, exec (.rdrsp p k) s = .next t ∧ filled t r.pkt.len)) ∧
        (k.ptype = 5 → r.pkt.ptype = 2 →
          (k.status ≠ 0 → ∃ t, exec (.wrack p k) s = .next t ∧ failed t) ∧
          (k.status = 0 → ∃ t, exec (.wrack p k) s = .next t ∧ (t.port p).pending = [] ∧ t.tiles = s.tiles)) ∧
        (k.ptype = 6 → r.pkt.ptype = 3 →
          (k.status ≠ 0 → ∃ t, exec (.amorsp p k) s = .next t ∧ failed t) ∧
          (k.status = 0 → ∃ t, exec (.amorsp p k) s = .next t ∧ filled t (reachOf r.pkt))))) ∧
    (∀ r, x.pending = [r] → (r.sent = true ∨ s.stuck p r = true) → r.at' + 20000 ≤ s.time →
      ∃ t, exec (.peerRequestTimeout p r.rid) s = .next t ∧ (t.port p).pending = [] ∧ (t.port p).timeouts = satAdd32 x.timeouts 1 ∧
        (t.port p).stale = (if r.sent then x.stale ++ [r.rid] else x.stale) ∧ failing t r) ∧
    (x.up = true → ∃ t, exec (.linkDown p) s = .next t ∧ (∀ r ∈ x.pending, failing t r) ∧
      t.port p = { x with up := false, credits := 0, owed := 0, rx := [], replies := [], pending := [], stale := [],
                          timeouts := satAdd32 x.timeouts x.pending.length }) ∧
    (x.en = true → x.up = false → quiet → ∃ t, exec (.linkUp p) s = .next t ∧
      t.port p = { x with up := true, credits := 64, owed := 0,
                          tx := if s.regs.viral = true ∧ x.fenced = false then x.tx ++ [.viral] else x.tx } ∧ t.tiles = s.tiles) ∧
    (∀ slot key, s.keys[slot] = some key → 2 ^ 48 ≤ key.sent[p] → x.keyExh = false →
      exec (.keyExhausted p slot) s = .next (put { x with keyExh := true })) ∧
    ∀ w : Fin 32,
      let mine (r : PeerRequest) : Prop := r.win = w
      (s.regs.viral = false → (s.exps[w]).en = true → ∃ t, exec (.windowEnClear .exp w) s = .next t ∧
        t = { s with exps := t.exps } ∧ t.exps[w] = { s.exps[w] with en := false, drained := !s.expBusy w }) ∧
      (s.regs.viral = false → (s.imps[w]).en = true → ∃ t, exec (.windowEnClear .imp w) s = .next t ∧ (t.imps[w]).en = false ∧
        ∀ q, ∀ r ∈ (s.port q).pending, mine r → r.sent = false → failing t r) ∧
      (let asked (kind : WindowKind) (t : State) : Prop := if s.regs.revoking = some (kind, w)
          then t.regs.revoking = none ∧ t.reply = some ⟨0, []⟩ else t.regs.revoking = s.regs.revoking ∧ t.reply = s.reply
       ((s.exps[w]).en = false → (s.exps[w]).drained = false → ∃ t, exec (.windowDrained .exp w) s = .next t ∧
         (t.exps[w]).drained = true ∧ asked .exp t ∧
         ∀ q, (t.port q).rx = (s.port q).rx.filter fun r => !(isRequest r.2 && r.2.xw.toNat == w.val)) ∧
       ((s.imps[w]).en = false → (s.imps[w]).drained = false → ∃ t, exec (.windowDrained .imp w) s = .next t ∧
         (t.imps[w]).drained = true ∧ asked .imp t ∧ ∀ q, (∀ r ∈ (t.port q).pending, ¬ mine r) ∧ ∀ r ∈ (s.port q).pending, mine r → failing t r))

/-! ## The sideband port and power -/

/-- R349, R398, R403-R407: what each vendor command reads or changes, and the code that it answers with: 1 for a command that is not
assigned, 2 for a bad field, 3 for a wrong state, 4 outside a secured session, 5 while a WINDOW_REVOKE has not yet answered.
The model's choices in it: notes/assumptions 56, 60, 61, 67, 81. -/
def Obligations.TheSidebandAnswersItsCommands : Prop :=
  ∀ s : State,
    let r := s.regs
    let told (t : State) (code : Byte) (data : List Byte) : State := { t with reply := some ⟨code, data⟩ }
    let only (i : Instr) (code : Byte) : Prop := exec i s = .next (told s code [])
    (exec .stickyRead s = .next (told s 0 (bytesOfNat 4 r.ocSticky.toNat)) ∧
     exec .stickyClear s = .next (told { s with regs := { r with ocSticky := 0 } } 0 [])) ∧
    (∀ off len, (1 ≤ len ∧ len ≤ 1024 ∧ off + len ≤ 0x20000 →
        exec (.mrsRead off len) s = .next (told s 0 ((List.range len).map fun j => s.mrsImage.getD (off + j) 0))) ∧
      (¬ (1 ≤ len ∧ len ≤ 1024 ∧ off + len ≤ 0x20000) → only (.mrsRead off len) 2)) ∧
    (∀ off len, (s.dumpHeld = none → only (.dumpRead off len) 3) ∧ (s.time < r.dumpEnd → s.dumpHeld = none) ∧
      (r.dumpEnd ≤ s.time → s.dumpHeld = r.dump) ∧ ∀ d, s.dumpHeld = some d →
      (1 ≤ len ∧ len ≤ 1024 ∧ off + len ≤ 0x1000000 →
        exec (.dumpRead off len) s = .next (told s 0 ((List.range len).map fun j => d.getD (off + j) 0))) ∧
      (¬ (1 ≤ len ∧ len ≤ 1024 ∧ off + len ≤ 0x1000000) → only (.dumpRead off len) 2)) ∧
    (∀ off, (off % 4 = 0 → off + 4 ≤ 0x2000000 → ¬ (0x3100 ≤ off ∧ off < 0x3198) →
        exec (.regRead off) s = .next (told s 0 (bytesOfNat 4 (s.ctlRead off)))) ∧
      (¬ (off % 4 = 0 ∧ off + 4 ≤ 0x2000000) → only (.regRead off) 2)) ∧
    (∀ idx, (idx < 1024 → exec (.errlogRead idx) s = .next (told s 0 (bytesOfNat 64 (s.logSlot idx)))) ∧
      (1024 ≤ idx → only (.errlogRead idx) 2)) ∧
    (∀ code : Byte, code = 0 ∨ 0x10 ≤ code.toNat → only (.unknownVendorCommand code) 1) ∧
    (∀ die site state : Byte,
      (8 ≤ die.toNat ∨ 80 ≤ site.toNat ∨ (state ≠ 0 ∧ state ≠ 2) → only (.siteSet die site state) 2) ∧
      ∀ i : TileId, i.die.val = die.toNat → i.site.val = site.toNat → state = 0 ∨ state = 2 →
        let now := (s.site i).live.state
        (now = .retired → only (.siteSet die site state) 3) ∧
        (now = .enabled ∧ state = 0 ∨ now = .fenced ∧ state = 2 → only (.siteSet die site state) 0) ∧
        (now = .fenced ∨ now = .spare → state = 0 → ∃ t, exec (.siteSet die site state) s = .next t ∧ t.reply = some ⟨0, []⟩ ∧
          (t.site i).live.state = .enabled ∧ t.regs.tfence = true) ∧
        (now = .enabled ∨ now = .spare → state = 2 → (s.tile i).act = .idle → (s.tile i).inflight = none →
          (∀ l ∈ s.launches, l.isResident = false) →
          ∃ t, exec (.siteSet die site state) s = .next t ∧ t.reply = some ⟨0, []⟩ ∧
            (t.site i).live.state = .fenced ∧ (t.site i).live.fcause = 0xFF ∧ t.regs.tfence = true) ∧
        (now = .enabled ∨ now = .spare → state = 2 → ∃ t, exec (.siteSet die site state) s = .next t ∧ t.reply = some ⟨0, []⟩ ∧
          (t.site i).live.state ≠ .enabled ∧ (t.site i).live.state ≠ .spare)) ∧
    (∀ (die : Byte) isOpen, (8 ≤ die.toNat → only (.maint die isOpen) 2) ∧ ∀ d : Fin 8, d.val = die.toNat →
      ∃ t, exec (.maint die isOpen) s = .next t ∧ t = told { s with dies := t.dies, tiles := t.tiles } 0 [] ∧
        (∀ e, t.die e = if e = d then { s.die e with maint := isOpen } else s.die e) ∧
        ∀ i, t.tile i = if isOpen = false ∧ i.die = d then { s.tile i with sweep := none } else s.tile i) ∧
    (∀ nominal sprint zones,
      (nominal ≤ 2600 → sprint ≤ 2600 → zones ≤ 4 → exec (.powerSet nominal sprint zones) s =
        .next (told { s with regs := { r with noml := nominal, spl := sprint, spz := zones } } 0
          (bytesOfNat 2 nominal ++ bytesOfNat 2 sprint ++ bytesOfNat 1 zones))) ∧
      (2600 < nominal ∨ 2600 < sprint ∨ 4 < zones → only (.powerSet nominal sprint zones) 2)) ∧
    ((s.time < r.dumpEnd → only (.dumpTrigger 0) 3 ∧ only (.dumpTrigger 1) 3) ∧
     (r.dumpEnd ≤ s.time → ∃ stop, s.time ≤ stop ∧ stop ≤ s.time + 1000000000 ∧ exec (.dumpTrigger 0) s =
       .next (told { s with draws := s.draws + 1, regs := { r with dump := some (s.dumpImage 0 0), dumpEnd := stop } } 0 [])) ∧
     (r.dumpEnd ≤ s.time → r.viral = true → only (.dumpTrigger 1) 0) ∧
     (r.dumpEnd ≤ s.time → r.viral = false → ∃ t, exec (.dumpTrigger 1) s = .next t ∧ t.reply = some ⟨0, []⟩ ∧ t.regs.viral = true ∧
       t.regs.dump.isSome = true) ∧
     ∀ what : Byte, 2 ≤ what.toNat → only (.dumpTrigger what) 2) ∧
    (∀ tag node,
      let busy : Prop := (∃ l ∈ s.launches, l.isResident = true ∨ l.gone = true) ∨ ∃ q, (s.queue q).en = true
      only (.ownerSet false tag node) 4 ∧ (busy → only (.ownerSet true tag node) 3) ∧
      (¬ busy → ∃ t, exec (.ownerSet true tag node) s = .next t ∧
        t = told { s with
          keys := Vector.replicate 8 none, imps := State.reset.imps, exps := State.reset.exps, gmem := [], lineErr := [], narrow := [],
          errLog := [], faults := [], ghosts := [], launches := [], posts := [], crew := [], dies := t.dies, tiles := t.tiles,
          ports := t.ports, regs := { r with ownTag := tag, nodeId := node, logNext := 1, dump := none, dumpEnd := 0 } } 0 [] ∧
        (∀ d, t.die d = { s.die d with tlb := [], ctxs := [], tensors := [] }) ∧
        (∀ p, t.port p = { s.port p with rx := [], tx := [], pending := [], replies := [], stale := [] }) ∧
        ∀ i, let x := t.tile i
          x.act = .idle ∧ x.scal = Vector.replicate 64 0 ∧ x.plane = [] ∧ x.spad = [] ∧ x.istore = [] ∧ x.acc = [] ∧ x.leaves = [] ∧
          x.macros = Vector.replicate 8 MacroState.empty ∧ x.tlb = [] ∧ x.copyq = [])) ∧
    (∀ slot tag mask key, only (.keyLoad false slot tag mask key) 4 ∧ (8 ≤ slot → only (.keyLoad true slot tag mask key) 2) ∧
      ∀ k : Fin 8, k.val = slot → ∃ t, exec (.keyLoad true slot tag mask key) s = .next t ∧ t.reply = some ⟨0, []⟩ ∧
        (t.keys[k]).map (fun y => (y.tag, y.key, y.ports)) = key.map (fun v => (tag, v, mask)) ∧
        ((∀ q, (s.port q).pending = [] ∧ (s.port q).replies = []) → (∀ j, j ≠ k → t.keys[j] = s.keys[j]) ∧
          ∀ y, t.keys[k] = some y → y.sent = Vector.replicate 12 0 ∧ y.lastIn = Vector.replicate 12 none)) ∧
    (∀ n enable, (12 ≤ n → only (.portSet n enable) 2) ∧ ∀ p : Fin 12, p.val = n →
      let x := s.port p
      ∃ t, exec (.portSet n enable) s = .next t ∧ t.reply = some ⟨0, bytesOfNat 4 (readPort (t.port p) 4)⟩ ∧
        (enable = false → t.port p = { x with fenced := true }) ∧
        (enable = true → x.pending = [] → x.replies = [] → t.port p =
          { x with fenced := false, viralIn := false, tx := if r.viral = true ∧ x.fenced = true ∧ x.en = true ∧ x.up = true then x.tx ++ [.viral] else x.tx })) ∧
    ∀ kind n, (32 ≤ n → only (.windowRevoke kind n) 2) ∧ (n < 32 → r.revoking ≠ none → only (.windowRevoke kind n) 5) ∧
      ∀ w : Fin 32, w.val = n → r.revoking = none →
        ∃ t, exec (.windowRevoke kind n) s = .next t ∧ (t.windowBits kind w).1 = false ∧
          (if (t.windowBits kind w).2 then t.reply = some ⟨0, []⟩ ∧ t.regs.revoking = none
            else t.reply = none ∧ t.regs.revoking = some (kind, w)) ∧
          (kind = .exp → (s.exps[w]).en = true → (t.windowBits kind w).2 = !s.expBusy w)

/-- R403, R408-R420: the voltage goes first on the way up and last on the way down, and no step leaves a frequency that it does not
allow; permits are spent and refilled, slots granted, sprints ended by their last permit, by power, by a current or by heat; the
thermal states follow the sensors with their holds and dwells; the sensors of PLDM; the energy counters read in halves that belong
together.
The model's choices in it: notes/assumptions 14, 47, 48, 49, 71, 72. -/
def Obligations.PowerFollowsItsLimits : Prop :=
  ∀ s : State,
    let r := s.regs
    (∀ f : TileId,
      let x := s.tile f
      let goal := s.targetMv f
      let b := s.goalBin f
      let z := s.zone f.die (zoneOf f.site.val)
      let free : Prop := x.sweep = none ∧ x.cox.over = false
      let steps (v : Int) : Prop := ∃ t, exec (.voltageStep f) s = .next t ∧ (t.tile f).vf.mv = v ∧
        (t.tile f).vf.bin.val = min x.vf.bin.val (s.allowedBin f v) ∧
        (x.vf.bin.val ≤ s.allowedBin f v → t = s.setTile f { x with vf := { x.vf with mv := v } })
      (free → x.vf.mv < goal → steps (min goal (x.vf.mv + 5))) ∧
      (free → goal < x.vf.mv → x.vf.bin = b → steps (max goal (x.vf.mv - 5))) ∧
      (free → x.vf.bin ≠ b → goal ≤ x.vf.mv → ∃ t, exec (.frequencyChange f) s = .next t ∧ (t.tile f).vf = ⟨x.vf.mv, b⟩ ∧
        (t.tile f).cox.bundles = 0 ∧ (t.tile f).cox.begun = s.time ∧ ∀ i, i ≠ f → t.tile i = s.tile i) ∧
      (z.thrT = true ∨ s.overCurrent f.die = true → s.requestedBin f = 0) ∧
      (z.thrT = false → s.overCurrent f.die = false → z.sprinting = false → z.fall = .none → s.requestedBin f = 1) ∧
      (z.thrT = false → s.overCurrent f.die = false → z.sprinting = true → z.fall = .none → s.claims f = true →
        (s.requestedBin f).val = topBin (s.site f).live)) ∧
    (∀ (d : Fin 8) (z : Fin 4),
      let x := s.zone d z
      let stop := (x.ivlEnd / (r.ivl * 1000) + 1) * (r.ivl * 1000)
      let ran := x.ranAbove || s.zoneAbove d z
      let slow (t : State) : Prop := ∀ i ∈ zoneTiles d z, (t.requestedBin i).val ≤ 1
      (0 < r.ivl → stop ≤ s.time → ∃ t, exec (.sprintIntervalEnd d z) s = .next t ∧ (t.zone d z).ivlEnd = stop ∧
        (t.zone d z).permits = (if ran then x.permits - 1 else x.permits) ∧
        (0 < x.permits → ran = false ∨ 2 ≤ x.permits → (t.zone d z).sprinting = x.sprinting ∧ (t.zone d z).fall = x.fall) ∧
        (x.permits = 1 → ran = true → x.sprinting = true → (t.zone d z).sprinting = true → (t.zone d z).fall ≠ .none)) ∧
      (s.zoneAbove d z = false → x.lastAbove + 20000 ≤ s.time → ∃ t, exec (.permitRefill d z) s = .next t ∧
        t.zone d z = { x with permits := min 64 (x.permits + 1), lastAbove := x.lastAbove + 20000 }) ∧
      (let u := s.settleDie d
       let asks (y : Fin 4) : Prop := u.zoneClaims d y = true
       let taken := ((List.finRange 4).filter fun y => (u.zone d y).sprinting).length
       asks z → (∀ y, y ≠ z → ¬ asks y) → taken < r.spz → ∃ t, exec (.sprintSlotGrant d z) s = .next t ∧
         t.zone d z = { u.zone d z with sprinting := true, fall := .none } ∧ (t.die d).rr = (s.die d).rr) ∧
      (∀ y : Fin 4,
        let u := s.settleDie d
        z < y → u.zoneClaims d z = true → u.zoneClaims d y = true → (∀ w, w ≠ z → w ≠ y → u.zoneClaims d w = false) →
        r.spz = ((List.finRange 4).filter fun y => (u.zone d y).sprinting).length + 1 →
        ∃ t, exec (.sprintSlotGrant d (if (s.die d).rr then y else z)) s = .next t ∧ (t.die d).rr = !(s.die d).rr ∧
          (t.zone d z).sprinting = !(s.die d).rr ∧ (t.zone d y).sprinting = (s.die d).rr) ∧
      (∀ n, x.fall = .midpoint (some n) → n + 10000 ≤ s.time → ∃ t, exec (.midpointHoldEnd d z) s = .next t ∧ slow t)) ∧
    (∀ watts,
      let u : State := { s.settleAll with regs := { r with watts := watts } }
      let limit := if u.poorestSprint = none then r.noml else r.spl
      (watts ≤ limit → exec (.powerMeasure watts) s = .next u) ∧
      (limit < watts → ∃ t, exec (.powerMeasure watts) s = .next t ∧ t.regs.refuseTil = s.time + 1000000 ∧
        ∀ d z, u.poorestSprint = some (d, z) → (t.zone d z).sprinting = true → (t.zone d z).fall ≠ .none)) ∧
    (∀ bit : Fin 19,
      let m := BitVec.twoPow 19 bit.val
      (∃ t, exec (.overcurrentAlarm bit) s = .next t ∧ t.regs.ocSticky = r.ocSticky ||| m ∧ t.regs.ocAlarm = r.ocAlarm ||| m ∧
        (r.ocAlarm.getLsbD bit.val = false → t.regs.ocSince[bit] = s.time) ∧
        (r.ocSticky.getLsbD bit.val = false → ∀ d z, (t.zone d z).sprinting = true → (t.zone d z).fall = .toNominal) ∧
        (r.ocSticky.getLsbD bit.val = true → t.dies = s.dies)) ∧
      (r.ocAlarm.getLsbD bit.val = true →
        (r.ocPersist.getLsbD bit.val = false → r.ocSince[bit] + 10000 ≤ s.time →
          exec (.overcurrentPersist bit) s = .next { s with regs := { r with ocPersist := r.ocPersist ||| m } }) ∧
        exec (.overcurrentAlarmEnd bit) s = .next { s with regs := { r with
          ocAlarm := r.ocAlarm &&& ~~~m, ocPersist := r.ocPersist &&& ~~~m } })) ∧
    (∀ v : Word, exec (.ocstickyClear v) s = .next (if r.viral = true ∨ r.ready = false then s else
      { s with regs := { r with ocSticky := r.ocSticky &&& ~~~(v.setWidth 19) } })) ∧
    (∀ (f : TileId) (temp : Int),
      let d := f.die
      let z := zoneOf f.site.val
      let x := s.zone d z
      let y := s.die d
      let u := s.setTile f { s.tile f with temp := temp }
      let hot := u.zoneTemp d z
      let spr := r.threshold 0
      let thr := r.threshold 1
      let crit := r.threshold 2
      let held (since : Option Nat) : Prop := ∀ n, since = some n → n + 4000000 ≤ s.time
      let cooled (since : Option Nat) : Prop := ∃ n, since = some n ∧ n + 2000000 ≤ s.time
      let follows (t : State) : Prop := let w := t.zone d z
        (t.tile f).temp = temp ∧
        (x.sprT = false → held x.sprChange → spr ≤ hot → w.sprT = true ∧ w.sprChange = some s.time ∧
          (w.sprinting = true → w.fall = .toNominal)) ∧
        (x.thrT = false → held x.thrChange → thr ≤ hot → w.thrT = true ∧ w.thrChange = some s.time ∧
          ∀ i ∈ zoneTiles d z, t.requestedBin i = 0) ∧
        (x.sprT = true → held x.sprChange → hot ≤ spr - 3 → cooled x.sprCool → w.sprT = false ∧ w.sprChange = some s.time) ∧
        (x.thrT = true → held x.thrChange → hot ≤ thr - 3 → cooled x.thrCool → w.thrT = false ∧ w.thrChange = some s.time) ∧
        (x.sprT = true → spr - 3 < hot → w.sprT = true) ∧ (x.thrT = true → thr - 3 < hot → w.thrT = true) ∧
        (y.crit = false → crit ≤ u.dieTemp d → (t.die d).crit = true) ∧
        (y.crit = true → u.dieTemp d ≤ crit - 3 → cooled y.critCool → (t.die d).crit = false) ∧
        (y.crit = true → crit - 3 < u.dieTemp d → (t.die d).crit = true)
      ((s.tile f).temp ≤ temp → ∃ t, exec (.thermalCrossing f temp) s = .next t ∧ follows t) ∧
      (temp ≤ (s.tile f).temp → ∃ t, exec (.thermalRelease f temp) s = .next t ∧ follows t)) ∧
    (let reads (x : PldmSensor) (bs : List Byte) : Prop := exec (.energyRead .sideband (.sensor x) false) s = .next { s with reply := some ⟨0, bs⟩ }
     reads .power (bytesOfNat 4 r.watts) ∧ reads .fstat (bytesOfNat 4 s.fstat) ∧ reads .viral [if r.viral then 1 else 0, 0, 0, 0] ∧
     ∀ d, reads (.dieTemp d) (bytesOfNat 4 (wrap (s.dieTemp d) 32)) ∧ reads (.rail d true) (bytesOfNat 4 (wrap (s.railHi d) 32)) ∧
       reads (.rail d false) (bytesOfNat 4 (wrap (s.railLo d) 32))) ∧
    ∀ (port : EnergyPort) (i : Fin 19), ∃ (t : State) (e : Dword), exec (.energyRead port (.counter i) false) s = .next t ∧
      t.energy[i] = e ∧ (∃ used : Nat, e = s.energy[i] + BitVec.ofNat 64 used) ∧ (∀ j, j ≠ i → t.energy[j] = s.energy[j]) ∧
      t.reply = some ⟨0, bytesOfNat 4 (e.toNat % 2 ^ 32)⟩ ∧
      exec (.energyRead port (.counter i) true) t = .next { t with reply := some ⟨0, bytesOfNat 4 (e.toNat / 2 ^ 32)⟩ }
end

