-- ==== Sys2Proof/Laws/Encoding.lean ====
section
/-! SUPPORT. Lemmas about the fields of slot words: what the encoder writes into a field is what the decoder reads from it. -/

namespace Sys2Proof

/-! ## Slices of joined fields -/

theorem enc6_high (r : BitVec 6) : (enc6 r).extractLsb' 6 2 = 0 := by unfold enc6; bv_normalize
theorem enc6_low (r : BitVec 6) : (enc6 r).extractLsb' 0 6 = r := by unfold enc6; bv_normalize
theorem enc5_high (r : BitVec 5) : (enc5 r).extractLsb' 5 3 = 0 := by unfold enc5; bv_normalize
theorem enc5_low (r : BitVec 5) : (enc5 r).extractLsb' 0 5 = r := by unfold enc5; bv_normalize
theorem enc4_high (r : BitVec 4) : (enc4 r).extractLsb' 4 4 = 0 := by unfold enc4; bv_normalize
theorem enc4_low (r : BitVec 4) : (enc4 r).extractLsb' 0 4 = r := by unfold enc4; bv_normalize
theorem enc3_high (r : BitVec 3) : (enc3 r).extractLsb' 3 5 = 0 := by unfold enc3; bv_normalize
theorem enc3_low (r : BitVec 3) : (enc3 r).extractLsb' 0 3 = r := by unfold enc3; bv_normalize
theorem enc2_high (r : BitVec 2) : (enc2 r).extractLsb' 2 6 = 0 := by unfold enc2; bv_normalize
theorem enc2_low (r : BitVec 2) : (enc2 r).extractLsb' 0 2 = r := by unfold enc2; bv_normalize
theorem encPair_high (p : BitVec 5) : (encPair p).extractLsb' 6 2 = 0 := by revert p; decide
theorem encPair_even (p : BitVec 5) : (encPair p).extractLsb' 0 1 = 0 := by revert p; decide
theorem encPair_mid (p : BitVec 5) : (encPair p).extractLsb' 1 5 = p := by revert p; decide
@[simp] theorem cat2_high (m : BitVec 2) (r : BitVec 6) : (cat2 m r).extractLsb' 6 2 = m := by unfold cat2; bv_normalize
@[simp] theorem cat2_low (m : BitVec 2) (r : BitVec 6) : (cat2 m r).extractLsb' 0 6 = r := by unfold cat2; bv_normalize
@[simp] theorem cat4_high (x y : BitVec 4) : (cat4 x y).extractLsb' 4 4 = x := by unfold cat4; bv_normalize
@[simp] theorem cat4_low (x y : BitVec 4) : (cat4 x y).extractLsb' 0 4 = y := by unfold cat4; bv_normalize
@[simp] theorem catCmp_top (k m : BitVec 3) : (catCmp k m).extractLsb' 6 2 = 0 := by revert k m; decide
@[simp] theorem catCmp_cond (k m : BitVec 3) : (catCmp k m).extractLsb' 3 3 = k := by revert k m; decide
@[simp] theorem catCmp_mask (k m : BitVec 3) : (catCmp k m).extractLsb' 0 3 = m := by revert k m; decide
@[simp] theorem catRows_top (r : BitVec 4) (l : BitVec 2) : (catRows r l).extractLsb' 6 2 = 0 := by revert r l; decide
@[simp] theorem catRows_rows (r : BitVec 4) (l : BitVec 2) : (catRows r l).extractLsb' 2 4 = r := by revert r l; decide
@[simp] theorem catRows_lay (r : BitVec 4) (l : BitVec 2) : (catRows r l).extractLsb' 0 2 = l := by revert r l; decide
@[simp] theorem catZ_top (k : BitVec 4) : (catZ k).extractLsb' 5 3 = 0 := by revert k; decide
@[simp] theorem catZ_bit (k : BitVec 4) : (catZ k).extractLsb' 4 1 = 1 := by revert k; decide
@[simp] theorem catZ_low (k : BitVec 4) : (catZ k).extractLsb' 0 4 = k := by revert k; decide
@[simp] theorem catZ_pair (k : BitVec 3) : (catZ (k ++ 0#1)).extractLsb' 1 3 = k := by revert k; decide
@[simp] theorem catZ_even (k : BitVec 3) : (catZ (k ++ 0#1)).extractLsb' 0 1 = 0 := by revert k; decide
@[simp] theorem enc4_top (k : BitVec 4) : (enc4 k).extractLsb' 5 3 = 0 := by revert k; decide
@[simp] theorem enc4_bit (k : BitVec 4) : (enc4 k).extractLsb' 4 1 = 0 := by revert k; decide
@[simp] theorem enc4_low' (k : BitVec 4) : (enc4 k).extractLsb' 0 4 = k := enc4_low k
@[simp] theorem enc4_pair (k : BitVec 3) : (enc4 (k ++ 0#1)).extractLsb' 1 3 = k := by revert k; decide
@[simp] theorem enc4_even (k : BitVec 3) : (enc4 (k ++ 0#1)).extractLsb' 0 1 = 0 := by revert k; decide
@[simp] theorem catHalf_top (h : BitVec 1) (k : BitVec 4) : (catHalf h k).extractLsb' 5 3 = 0 := by revert h k; decide
@[simp] theorem catHalf_half (h : BitVec 1) (k : BitVec 4) : (catHalf h k).extractLsb' 4 1 = h := by revert h k; decide
@[simp] theorem catHalf_acc (h : BitVec 1) (k : BitVec 4) : (catHalf h k).extractLsb' 0 4 = k := by revert h k; decide
@[simp] theorem hi2_append_lo2 (o : BitVec 4) : (hi2 o ++ lo2 o : BitVec 4) = o := by revert o; decide
theorem hi8_append_lo8 (i : BitVec 16) : (hi8 i ++ lo8 i : BitVec 16) = i := by unfold hi8 lo8; bv_normalize

/-! ## Field roles -/

@[simp] theorem zero?_zero : zero? 0#8 = some () := rfl
@[simp] theorem six?_enc6 (r : BitVec 6) : six? (enc6 r) = some r := by simp [six?, enc6_high, enc6_low]
@[simp] theorem five?_enc5 (r : BitVec 5) : five? (enc5 r) = some r := by simp [five?, enc5_high, enc5_low]
@[simp] theorem four?_enc4 (r : BitVec 4) : four? (enc4 r) = some r := by simp [four?, enc4_high]
@[simp] theorem three?_enc3 (r : BitVec 3) : three? (enc3 r) = some r := by simp [three?, enc3_high, enc3_low]
@[simp] theorem two?_enc2 (r : BitVec 2) : two? (enc2 r) = some r := by simp [two?, enc2_high, enc2_low]
@[simp] theorem pair?_encPair (p : BitVec 5) : pair? (encPair p) = some p := by
  simp [pair?, encPair_high, encPair_even, encPair_mid]
@[simp] theorem dirOf_encDir (d : Dir) : dirOf (encDir d) = d := by cases d <;> rfl
@[simp] theorem lineOf_encLine (l : Line) : lineOf (encLine l) = l := by simp [lineOf, encLine]
@[simp] theorem imm16_halves (o : BitVec 7) (d : Byte) (i : BitVec 16) : imm16 ⟨o, d, hi8 i, lo8 i⟩ = i := hi8_append_lo8 i
@[simp] theorem typeOf_encType (x : ElemType) : typeOf (encType x).toNat = some x := by cases x <;> rfl
@[simp] theorem condOf?_encCond (k : VCond) : condOf? (encCond k).toNat = some k := by cases k <;> rfl
@[simp] theorem redOf?_encRed (o : RedOp) : redOf? (encRed o).toNat = some o := by cases o <;> rfl
@[simp] theorem atomOf?_encAtom (o : AtomOp) : atomOf? (encAtom o).toNat = some o := by cases o <;> rfl
@[simp] theorem scopeOf?_encScope (x : MemScope) : scopeOf? (encScope x).toNat = some x := by cases x <;> rfl

/-! ## Words -/

/-- The low field of a word of two. -/
theorem slice_low {n m : Nat} (x : BitVec n) (y : BitVec m) : (x ++ y : BitVec (n + m)).extractLsb' 0 m = y := by
  ext i hi
  simp [BitVec.getLsbD_append, hi]

/-- A slice above the low field of a word of two is a slice of the high field. -/
theorem slice_high {n m : Nat} (x : BitVec n) (y : BitVec m) (s l : Nat) :
    (x ++ y : BitVec (n + m)).extractLsb' (m + s) l = x.extractLsb' s l := by
  ext i hi
  have h : ¬ m + s + i < m := by omega
  simp [BitVec.getLsbD_append, h, show m + s + i - m = s + i by omega]

theorem slotFields_packSlot (stop : Bool) (f : SlotFields) : slotFields (packSlot stop f) = f := by
  obtain ⟨o, d, a, b⟩ := f
  have hb : (packSlot stop ⟨o, d, a, b⟩).extractLsb' 0 8 = b := slice_low _ _
  have ha : (packSlot stop ⟨o, d, a, b⟩).extractLsb' 8 8 = a := (slice_high _ _ 0 8).trans (slice_low _ _)
  have hd : (packSlot stop ⟨o, d, a, b⟩).extractLsb' 16 8 = d :=
    (slice_high _ _ 8 8).trans ((slice_high _ _ 0 8).trans (slice_low _ _))
  have ho : (packSlot stop ⟨o, d, a, b⟩).extractLsb' 24 7 = o :=
    (slice_high _ _ 16 7).trans ((slice_high _ _ 8 7).trans ((slice_high _ _ 0 7).trans (slice_low _ _)))
  simp [slotFields, ha, hb, hd, ho]

theorem stopBit_packSlot (stop : Bool) (f : SlotFields) : stopBit (packSlot stop f) = stop := by
  obtain ⟨o, d, a, b⟩ := f
  have h : (packSlot stop ⟨o, d, a, b⟩).extractLsb' 31 1 = BitVec.ofBool stop :=
    (slice_high _ _ 23 1).trans ((slice_high _ _ 15 1).trans ((slice_high _ _ 7 1).trans
      ((slice_high (BitVec.ofBool stop) o 0 1).trans (by cases stop <;> decide))))
  have h0 := congrArg (fun v : BitVec 1 => v.getLsbD 0) h
  cases stop <;> simpa [stopBit] using h0

/-- Fields that decode to an instruction make a word that does. -/
theorem decodeSlot_packSlot {f : SlotFields} {i : Instr} (stop : Bool) (ha : opAssigned f.op.toNat = true)
    (hd : decodeFields f = some i) : decodeSlot (packSlot stop f) = .ok i := by
  simp [decodeSlot, slotFields_packSlot, ha, hd]

end Sys2Proof
end

