-- ==== Sys2Proof/Laws/Groups.lean ====
section
/-! SUPPORT. What a port makes of a packet is what its peer opens: a flit group under a key opens under that key (R393, R395). -/

namespace Sys2Proof.Laws

open Sys2Proof.Machine

theorem length_bytesOfNat (n v : Nat) : (bytesOfNat n v).length = n := by
  induction n generalizing v with
  | zero => rfl
  | succ n ih => simp [bytesOfNat, ih]

theorem length_xorBytes (a b : List Byte) : (xorBytes a b).length = min a.length b.length := List.length_zipWith ..

theorem xorBytes_twice (a k : List Byte) (h : a.length ≤ k.length) : xorBytes (xorBytes a k) k = a := by
  induction a generalizing k with
  | nil => rfl
  | cons x a ih =>
    cases k with
    | nil => simp at h
    | cons y k =>
      have := ih k (by simpa using h)
      simp only [xorBytes, List.zipWith_cons_cons, List.cons.injEq] at this ⊢
      exact ⟨by rw [BitVec.xor_assoc, BitVec.xor_self, BitVec.xor_zero], this⟩

/-- Parts of n bytes, k of them, hold n bytes each and are the bytes in order. -/
theorem cutBytes_spec (n k : Nat) (bs : List Byte) (h : bs.length = n * k) :
    (∀ b ∈ cutBytes n k bs, b.length = n) ∧ (cutBytes n k bs).length = k ∧ (cutBytes n k bs).flatten = bs := by
  induction k generalizing bs with
  | zero => rw [List.length_eq_zero_iff.1 h]; simp [cutBytes]
  | succ k ih =>
    rw [Nat.mul_succ] at h
    obtain ⟨h1, h2, h3⟩ := ih (bs.drop n) (by rw [List.length_drop]; omega)
    refine ⟨fun b hb => ?_, by simp [cutBytes, h2], by simp [cutBytes, h3]⟩
    rcases List.mem_cons.1 hb with rfl | hb
    · rw [List.length_take]; omega
    · exact h1 b hb

/-- The key schedule goes on with words of four bytes. -/
theorem aesExpand_words (n : Nat) (ws : List (List Byte)) (h : ∀ w ∈ ws, w.length = 4) (hn : 8 ≤ ws.length) :
    (∀ w ∈ aesExpand n ws, w.length = 4) ∧ (aesExpand n ws).length = ws.length + n := by
  induction n generalizing ws with
  | zero => exact ⟨h, rfl⟩
  | succ n ih =>
    have at' (j : Nat) (hj : j < ws.length) : (ws.getD j []).length = 4 := by
      rw [List.getD_eq_getElem _ _ hj]; exact h _ (List.getElem_mem hj)
    have hl := at' (ws.length - 1) (by omega)
    have hb := at' (ws.length - 8) (by omega)
    rw [aesExpand]
    refine (ih _ (fun w hw => ?_) (by simp; omega)).imp_right fun h2 => by rw [h2]; simp; omega
    rcases List.mem_append.1 hw with hw | hw
    · exact h w hw
    · rw [List.mem_singleton.1 hw, length_xorBytes, hb]
      split
      · simp only [length_xorBytes, List.length_map, List.length_append, List.length_drop, List.length_take, hl]; rfl
      · split <;> simp only [List.length_map, hl] <;> rfl

/-- Fifteen round keys of sixteen bytes. -/
theorem aesKeys_spec (key : BitVec 256) : (∀ k ∈ aesKeys key, k.length = 16) ∧ (aesKeys key).length = 15 := by
  obtain ⟨h1, h2, -⟩ := cutBytes_spec 4 8 (bytesOfNat 32 key.toNat) (length_bytesOfNat ..)
  obtain ⟨h3, h4⟩ := aesExpand_words 52 _ h1 (by omega)
  have hf (l : List (List Byte)) (h : ∀ w ∈ l, w.length = 4) : (l.flatMap id).length = 4 * l.length := by
    induction l with
    | nil => rfl
    | cons a l ih =>
      have := ih fun w hw => h w (by simp [hw])
      simp only [List.flatMap_cons, List.length_append, List.length_cons, id, this, h a (by simp)]; omega
  obtain ⟨h5, h6, -⟩ := cutBytes_spec 16 15 ((aesExpand 52 (cutBytes 4 8 (bytesOfNat 32 key.toNat))).flatMap id)
    (by rw [hf _ h3, h4, h2])
  exact ⟨h5, h6⟩

theorem length_aesRounds (ks : List (List Byte)) (b : List Byte) (h : ∀ k ∈ ks, k.length = 16) (hb : b.length = 16) :
    (aesRounds ks b).length = 16 := by
  induction ks generalizing b with
  | nil => exact hb
  | cons k ks ih =>
    cases ks with
    | nil => simp [aesRounds, length_xorBytes, aesShift, h k (by simp)]
    | cons k' ks =>
      rw [aesRounds]
      · exact ih _ (fun x hx => h x (by simp [hx])) (by simp [length_xorBytes, aesMix, h k (by simp)])
      · simp

theorem length_aesBlock (ks : List (List Byte)) (b : List Byte) (h : ∀ k ∈ ks, k.length = 16) (hb : b.length = 16) :
    (aesBlock ks b).length = 16 := by
  cases ks with
  | nil => exact hb
  | cons k ks => exact length_aesRounds _ _ (fun x hx => h x (by simp [hx])) (by simp [length_xorBytes, hb, h k (by simp)])

/-- Blocks added to blocks of the same length are the bytes added. -/
theorem flatMap_xor (f : Nat → List Byte) (hf : ∀ i, (f i).length = 16) (l : List (List Byte)) (h : ∀ b ∈ l, b.length = 16) (o : Nat) :
    (l.zipIdx o).flatMap (fun b => xorBytes b.1 (f b.2)) = xorBytes l.flatten ((List.range' o l.length).flatMap f) ∧
    l.flatten.length = 16 * l.length ∧ ((List.range' o l.length).flatMap f).length = 16 * l.length := by
  induction l generalizing o with
  | nil => exact ⟨rfl, rfl, rfl⟩
  | cons b l ih =>
    obtain ⟨h1, h2, h3⟩ := ih (fun x hx => h x (by simp [hx])) (o + 1)
    have hb := h b (by simp)
    refine ⟨?_, by rw [List.flatten_cons, List.length_append, hb, h2, List.length_cons]; omega, by
      rw [List.length_cons, List.range'_succ, List.flatMap_cons, List.length_append, hf, h3]; omega⟩
    rw [List.zipIdx_cons, List.flatMap_cons, h1, List.length_cons, List.range'_succ, List.flatMap_cons, List.flatten_cons]
    exact (List.zipWith_append (by rw [hb, hf])).symm

/-- Bytes enciphered are the bytes added to a stream of their length. -/
theorem gcmCrypt_eq (ks : List (List Byte)) (n : List Byte) (h : ∀ k ∈ ks, k.length = 16) (hn : n.length = 12) :
    ∃ stream : Nat → List Byte, (∀ k, (stream k).length = k) ∧ ∀ bs, gcmCrypt ks n bs = xorBytes bs (stream bs.length) := by
  let f (i : Nat) : List Byte := aesBlock ks (n ++ bigBytes 4 (i + 2))
  have hf (i : Nat) : (f i).length = 16 := length_aesBlock _ _ h (by simp [hn, bigBytes, length_bytesOfNat])
  refine ⟨fun k => ((List.range' 0 ((k + 15) / 16)).flatMap f).take k, fun k => ?_, fun bs => ?_⟩
  · have h3 := (flatMap_xor f hf (List.replicate ((k + 15) / 16) (List.replicate 16 0)) (by simp) 0).2.2
    rw [List.length_replicate] at h3
    rw [List.length_take, h3]; omega
  · obtain ⟨h1, h2, h3⟩ := cutBytes_spec 16 ((bs.length + 15) / 16)
      (bs ++ List.replicate (16 * ((bs.length + 15) / 16) - bs.length) 0) (by simp; omega)
    have h4 := (flatMap_xor f hf _ h1 0).1
    rw [h3, h2] at h4
    show List.take bs.length (((cutBytes 16 ((bs.length + 15) / 16) _).zipIdx 0).flatMap fun b => xorBytes b.1 (f b.2)) = _
    rw [h4, xorBytes, List.take_zipWith, List.take_left]
    rfl

/-- What is enciphered under a key and a nonce is deciphered under them. -/
theorem gcmCrypt_twice (key : BitVec 256) (n bs : List Byte) (hn : n.length = 12) :
    gcmCrypt (aesKeys key) n (gcmCrypt (aesKeys key) n bs) = bs ∧ (gcmCrypt (aesKeys key) n bs).length = bs.length := by
  obtain ⟨st, hl, h⟩ := gcmCrypt_eq (aesKeys key) n (aesKeys_spec key).1 hn
  have e : (xorBytes bs (st bs.length)).length = bs.length := by rw [length_xorBytes, hl, Nat.min_self]
  rw [h bs, h, e]
  exact ⟨xorBytes_twice _ _ (Nat.le_of_eq (hl _).symm), rfl⟩

theorem length_gcmTag (key : BitVec 256) (n aad c : List Byte) (hn : n.length = 12) : (gcmTag (aesKeys key) n aad c).length = 16 := by
  rw [gcmTag, length_xorBytes, length_aesBlock _ _ (aesKeys_spec key).1 (by simp [hn, bigBytes, length_bytesOfNat])]
  simp [bigBytes, length_bytesOfNat]

theorem field_append (a b : List Byte) (o n : Nat) (h : o + n ≤ a.length) : field (a ++ b) o n = field a o n := by
  rw [field, field, List.drop_append_of_le_length (by omega), List.take_append_of_le_length (by rw [List.length_drop]; omega)]

/-- A header is read from its own 32 bytes. -/
theorem groupHeader_append (a b : List Byte) (h : a.length = 32) : groupHeader (a ++ b) = groupHeader a := by
  simp only [groupHeader]
  rw [field_append _ _ _ _ (by omega), field_append _ _ _ _ (by omega), field_append _ _ _ _ (by omega), field_append _ _ _ _ (by omega),
    field_append _ _ _ _ (by omega), field_append _ _ _ _ (by omega)]

/-- A group opens, under the key it was made with, to the payload that it holds. -/
theorem openGroup_groupBytes (key : BitVec 256) (p : Fin 12) (g : GroupHeader) (payload : List Byte) (h1 : 1 ≤ g.nflit)
    (hp : payload.length ≤ 256 * g.nflit - 48) (hg : groupHeader g.bytes = g) :
    openGroup key p (groupBytes key p g payload) = some (zeroFill (256 * g.nflit - 48) payload) := by
  have hn : (groupNonce p g.gcnt).length = 12 := by simp [groupNonce, length_bytesOfNat]
  have hb : g.bytes.length = 32 := by simp [GroupHeader.bytes, length_bytesOfNat]
  have hz : (zeroFill (256 * g.nflit - 48) payload).length = 256 * g.nflit - 48 := by simp [zeroFill]; omega
  obtain ⟨hc, hl⟩ := gcmCrypt_twice key (groupNonce p g.gcnt) (zeroFill (256 * g.nflit - 48) payload) hn
  rw [hz] at hl
  unfold openGroup groupBytes
  simp only [List.append_assoc, groupHeader_append _ _ hb, hg]
  rw [List.take_left' hb, List.drop_left' hb, List.take_left' hl, ← List.append_assoc, List.drop_left' (by rw [List.length_append, hb, hl]; omega),
    if_pos rfl, hc]

end Sys2Proof.Laws
end

