-- ==== Sys2Proof/Laws/State.lean ====
section
/-! SUPPORT. One lemma per field and update: what the accessors of the state read after it was changed. -/

namespace Sys2Proof.Machine

theorem tileNo_inj {i j : TileId} (h : tileNo i = tileNo j) : i = j := by
  obtain ⟨⟨d, hd⟩, ⟨n, hn⟩⟩ := i
  obtain ⟨⟨e, he⟩, ⟨m, hm⟩⟩ := j
  simp only [tileNo] at h
  have h1 : d = e := by omega
  have h2 : n = m := by omega
  subst h1; subst h2; rfl

/-! ## Reading what was replaced -/

@[simp] theorem tile_setTile (s : State) (i : TileId) (t : Tile) : (s.setTile i t).tile i = t := by
  simp [State.tile, State.setTile]
theorem tile_setTile_ne (s : State) {i j : TileId} (t : Tile) (h : j ≠ i) : (s.setTile i t).tile j = s.tile j := by
  have hn : tileNo i ≠ tileNo j := fun e => h (tileNo_inj e).symm
  simp [State.tile, State.setTile, hn]
@[simp] theorem setTile_setTile (s : State) (i : TileId) (t u : Tile) : (s.setTile i t).setTile i u = s.setTile i u := by
  simp [State.setTile]
@[simp] theorem setTile_self (s : State) (i : TileId) : s.setTile i (s.tile i) = s := by
  simp [State.setTile, State.tile]
@[simp] theorem site_setSite (s : State) (i : TileId) (x : Site) : (s.setSite i x).site i = x := by
  simp [State.site, State.setSite]
theorem site_setSite_ne (s : State) {i j : TileId} (x : Site) (h : j ≠ i) : (s.setSite i x).site j = s.site j := by
  have hn : tileNo i ≠ tileNo j := fun e => h (tileNo_inj e).symm
  simp [State.site, State.setSite, hn]
@[simp] theorem die_setDie (s : State) (d : Fin 8) (x : Die) : (s.setDie d x).die d = x := by
  simp [State.die, State.setDie]
@[simp] theorem stack_setStack (s : State) (n : Fin 8) (x : Stack) : (s.setStack n x).stack n = x := by
  simp [State.stack, State.setStack]
@[simp] theorem queue_setQueue (s : State) (q : Fin 16) (x : Queue) : (s.setQueue q x).queue q = x := by
  simp [State.queue, State.setQueue]
@[simp] theorem port_setPort (s : State) (p : Fin 12) (x : Port) : (s.setPort p x).port p = x := by
  simp [State.port, State.setPort]

/-! ## setTile -/

@[simp] theorem setTile_time (s : State) (i : TileId) (x : Tile) : (s.setTile i x).time = s.time := rfl
@[simp] theorem setTile_sites (s : State) (i : TileId) (x : Tile) : (s.setTile i x).sites = s.sites := rfl
@[simp] theorem setTile_headers (s : State) (i : TileId) (x : Tile) : (s.setTile i x).headers = s.headers := rfl
@[simp] theorem setTile_dies (s : State) (i : TileId) (x : Tile) : (s.setTile i x).dies = s.dies := rfl
@[simp] theorem setTile_hbm (s : State) (i : TileId) (x : Tile) : (s.setTile i x).hbm = s.hbm := rfl
@[simp] theorem setTile_gmem (s : State) (i : TileId) (x : Tile) : (s.setTile i x).gmem = s.gmem := rfl
@[simp] theorem setTile_lineErr (s : State) (i : TileId) (x : Tile) : (s.setTile i x).lineErr = s.lineErr := rfl
@[simp] theorem setTile_narrow (s : State) (i : TileId) (x : Tile) : (s.setTile i x).narrow = s.narrow := rfl
@[simp] theorem setTile_maps (s : State) (i : TileId) (x : Tile) : (s.setTile i x).maps = s.maps := rfl
@[simp] theorem setTile_shadows (s : State) (i : TileId) (x : Tile) : (s.setTile i x).shadows = s.shadows := rfl
@[simp] theorem setTile_hostMem (s : State) (i : TileId) (x : Tile) : (s.setTile i x).hostMem = s.hostMem := rfl
@[simp] theorem setTile_queues (s : State) (i : TileId) (x : Tile) : (s.setTile i x).queues = s.queues := rfl
@[simp] theorem setTile_launches (s : State) (i : TileId) (x : Tile) : (s.setTile i x).launches = s.launches := rfl
@[simp] theorem setTile_ghosts (s : State) (i : TileId) (x : Tile) : (s.setTile i x).ghosts = s.ghosts := rfl
@[simp] theorem setTile_posts (s : State) (i : TileId) (x : Tile) : (s.setTile i x).posts = s.posts := rfl
@[simp] theorem setTile_crew (s : State) (i : TileId) (x : Tile) : (s.setTile i x).crew = s.crew := rfl
@[simp] theorem setTile_faults (s : State) (i : TileId) (x : Tile) : (s.setTile i x).faults = s.faults := rfl
@[simp] theorem setTile_dmws (s : State) (i : TileId) (x : Tile) : (s.setTile i x).dmws = s.dmws := rfl
@[simp] theorem setTile_vecs (s : State) (i : TileId) (x : Tile) : (s.setTile i x).vecs = s.vecs := rfl
@[simp] theorem setTile_keys (s : State) (i : TileId) (x : Tile) : (s.setTile i x).keys = s.keys := rfl
@[simp] theorem setTile_ports (s : State) (i : TileId) (x : Tile) : (s.setTile i x).ports = s.ports := rfl
@[simp] theorem setTile_imps (s : State) (i : TileId) (x : Tile) : (s.setTile i x).imps = s.imps := rfl
@[simp] theorem setTile_exps (s : State) (i : TileId) (x : Tile) : (s.setTile i x).exps = s.exps := rfl
@[simp] theorem setTile_errLog (s : State) (i : TileId) (x : Tile) : (s.setTile i x).errLog = s.errLog := rfl
@[simp] theorem setTile_energy (s : State) (i : TileId) (x : Tile) : (s.setTile i x).energy = s.energy := rfl
@[simp] theorem setTile_regs (s : State) (i : TileId) (x : Tile) : (s.setTile i x).regs = s.regs := rfl
@[simp] theorem setTile_reply (s : State) (i : TileId) (x : Tile) : (s.setTile i x).reply = s.reply := rfl
@[simp] theorem setTile_inbox (s : State) (i : TileId) (x : Tile) : (s.setTile i x).inbox = s.inbox := rfl
@[simp] theorem setTile_focus (s : State) (i : TileId) (x : Tile) : (s.setTile i x).focus = s.focus := rfl
@[simp] theorem setTile_draws (s : State) (i : TileId) (x : Tile) : (s.setTile i x).draws = s.draws := rfl
@[simp] theorem setTile_nextId (s : State) (i : TileId) (x : Tile) : (s.setTile i x).nextId = s.nextId := rfl
@[simp] theorem setTile_site (s : State) (i : TileId) (x : Tile) (j' : TileId) : (s.setTile i x).site j' = s.site j' := rfl
@[simp] theorem setTile_die (s : State) (i : TileId) (x : Tile) (e' : Fin 8) : (s.setTile i x).die e' = s.die e' := rfl
@[simp] theorem setTile_stack (s : State) (i : TileId) (x : Tile) (m' : Fin 8) : (s.setTile i x).stack m' = s.stack m' := rfl
@[simp] theorem setTile_queue (s : State) (i : TileId) (x : Tile) (r' : Fin 16) : (s.setTile i x).queue r' = s.queue r' := rfl
@[simp] theorem setTile_port (s : State) (i : TileId) (x : Tile) (r' : Fin 12) : (s.setTile i x).port r' = s.port r' := rfl
@[simp] theorem setTile_launch? (s : State) (i : TileId) (x : Tile) (h : BitVec 16) : (s.setTile i x).launch? h = s.launch? h := rfl

/-! ## setSite -/

@[simp] theorem setSite_time (s : State) (i : TileId) (x : Site) : (s.setSite i x).time = s.time := rfl
@[simp] theorem setSite_tiles (s : State) (i : TileId) (x : Site) : (s.setSite i x).tiles = s.tiles := rfl
@[simp] theorem setSite_headers (s : State) (i : TileId) (x : Site) : (s.setSite i x).headers = s.headers := rfl
@[simp] theorem setSite_dies (s : State) (i : TileId) (x : Site) : (s.setSite i x).dies = s.dies := rfl
@[simp] theorem setSite_hbm (s : State) (i : TileId) (x : Site) : (s.setSite i x).hbm = s.hbm := rfl
@[simp] theorem setSite_gmem (s : State) (i : TileId) (x : Site) : (s.setSite i x).gmem = s.gmem := rfl
@[simp] theorem setSite_lineErr (s : State) (i : TileId) (x : Site) : (s.setSite i x).lineErr = s.lineErr := rfl
@[simp] theorem setSite_narrow (s : State) (i : TileId) (x : Site) : (s.setSite i x).narrow = s.narrow := rfl
@[simp] theorem setSite_maps (s : State) (i : TileId) (x : Site) : (s.setSite i x).maps = s.maps := rfl
@[simp] theorem setSite_shadows (s : State) (i : TileId) (x : Site) : (s.setSite i x).shadows = s.shadows := rfl
@[simp] theorem setSite_hostMem (s : State) (i : TileId) (x : Site) : (s.setSite i x).hostMem = s.hostMem := rfl
@[simp] theorem setSite_queues (s : State) (i : TileId) (x : Site) : (s.setSite i x).queues = s.queues := rfl
@[simp] theorem setSite_launches (s : State) (i : TileId) (x : Site) : (s.setSite i x).launches = s.launches := rfl
@[simp] theorem setSite_ghosts (s : State) (i : TileId) (x : Site) : (s.setSite i x).ghosts = s.ghosts := rfl
@[simp] theorem setSite_posts (s : State) (i : TileId) (x : Site) : (s.setSite i x).posts = s.posts := rfl
@[simp] theorem setSite_crew (s : State) (i : TileId) (x : Site) : (s.setSite i x).crew = s.crew := rfl
@[simp] theorem setSite_faults (s : State) (i : TileId) (x : Site) : (s.setSite i x).faults = s.faults := rfl
@[simp] theorem setSite_dmws (s : State) (i : TileId) (x : Site) : (s.setSite i x).dmws = s.dmws := rfl
@[simp] theorem setSite_vecs (s : State) (i : TileId) (x : Site) : (s.setSite i x).vecs = s.vecs := rfl
@[simp] theorem setSite_keys (s : State) (i : TileId) (x : Site) : (s.setSite i x).keys = s.keys := rfl
@[simp] theorem setSite_ports (s : State) (i : TileId) (x : Site) : (s.setSite i x).ports = s.ports := rfl
@[simp] theorem setSite_imps (s : State) (i : TileId) (x : Site) : (s.setSite i x).imps = s.imps := rfl
@[simp] theorem setSite_exps (s : State) (i : TileId) (x : Site) : (s.setSite i x).exps = s.exps := rfl
@[simp] theorem setSite_errLog (s : State) (i : TileId) (x : Site) : (s.setSite i x).errLog = s.errLog := rfl
@[simp] theorem setSite_energy (s : State) (i : TileId) (x : Site) : (s.setSite i x).energy = s.energy := rfl
@[simp] theorem setSite_regs (s : State) (i : TileId) (x : Site) : (s.setSite i x).regs = s.regs := rfl
@[simp] theorem setSite_reply (s : State) (i : TileId) (x : Site) : (s.setSite i x).reply = s.reply := rfl
@[simp] theorem setSite_inbox (s : State) (i : TileId) (x : Site) : (s.setSite i x).inbox = s.inbox := rfl
@[simp] theorem setSite_focus (s : State) (i : TileId) (x : Site) : (s.setSite i x).focus = s.focus := rfl
@[simp] theorem setSite_draws (s : State) (i : TileId) (x : Site) : (s.setSite i x).draws = s.draws := rfl
@[simp] theorem setSite_nextId (s : State) (i : TileId) (x : Site) : (s.setSite i x).nextId = s.nextId := rfl
@[simp] theorem setSite_tile (s : State) (i : TileId) (x : Site) (j' : TileId) : (s.setSite i x).tile j' = s.tile j' := rfl
@[simp] theorem setSite_die (s : State) (i : TileId) (x : Site) (e' : Fin 8) : (s.setSite i x).die e' = s.die e' := rfl
@[simp] theorem setSite_stack (s : State) (i : TileId) (x : Site) (m' : Fin 8) : (s.setSite i x).stack m' = s.stack m' := rfl
@[simp] theorem setSite_queue (s : State) (i : TileId) (x : Site) (r' : Fin 16) : (s.setSite i x).queue r' = s.queue r' := rfl
@[simp] theorem setSite_port (s : State) (i : TileId) (x : Site) (r' : Fin 12) : (s.setSite i x).port r' = s.port r' := rfl
@[simp] theorem setSite_launch? (s : State) (i : TileId) (x : Site) (h : BitVec 16) : (s.setSite i x).launch? h = s.launch? h := rfl

/-! ## setDie -/

@[simp] theorem setDie_time (s : State) (d : Fin 8) (x : Die) : (s.setDie d x).time = s.time := rfl
@[simp] theorem setDie_tiles (s : State) (d : Fin 8) (x : Die) : (s.setDie d x).tiles = s.tiles := rfl
@[simp] theorem setDie_sites (s : State) (d : Fin 8) (x : Die) : (s.setDie d x).sites = s.sites := rfl
@[simp] theorem setDie_headers (s : State) (d : Fin 8) (x : Die) : (s.setDie d x).headers = s.headers := rfl
@[simp] theorem setDie_hbm (s : State) (d : Fin 8) (x : Die) : (s.setDie d x).hbm = s.hbm := rfl
@[simp] theorem setDie_gmem (s : State) (d : Fin 8) (x : Die) : (s.setDie d x).gmem = s.gmem := rfl
@[simp] theorem setDie_lineErr (s : State) (d : Fin 8) (x : Die) : (s.setDie d x).lineErr = s.lineErr := rfl
@[simp] theorem setDie_narrow (s : State) (d : Fin 8) (x : Die) : (s.setDie d x).narrow = s.narrow := rfl
@[simp] theorem setDie_maps (s : State) (d : Fin 8) (x : Die) : (s.setDie d x).maps = s.maps := rfl
@[simp] theorem setDie_shadows (s : State) (d : Fin 8) (x : Die) : (s.setDie d x).shadows = s.shadows := rfl
@[simp] theorem setDie_hostMem (s : State) (d : Fin 8) (x : Die) : (s.setDie d x).hostMem = s.hostMem := rfl
@[simp] theorem setDie_queues (s : State) (d : Fin 8) (x : Die) : (s.setDie d x).queues = s.queues := rfl
@[simp] theorem setDie_launches (s : State) (d : Fin 8) (x : Die) : (s.setDie d x).launches = s.launches := rfl
@[simp] theorem setDie_ghosts (s : State) (d : Fin 8) (x : Die) : (s.setDie d x).ghosts = s.ghosts := rfl
@[simp] theorem setDie_posts (s : State) (d : Fin 8) (x : Die) : (s.setDie d x).posts = s.posts := rfl
@[simp] theorem setDie_crew (s : State) (d : Fin 8) (x : Die) : (s.setDie d x).crew = s.crew := rfl
@[simp] theorem setDie_faults (s : State) (d : Fin 8) (x : Die) : (s.setDie d x).faults = s.faults := rfl
@[simp] theorem setDie_dmws (s : State) (d : Fin 8) (x : Die) : (s.setDie d x).dmws = s.dmws := rfl
@[simp] theorem setDie_vecs (s : State) (d : Fin 8) (x : Die) : (s.setDie d x).vecs = s.vecs := rfl
@[simp] theorem setDie_keys (s : State) (d : Fin 8) (x : Die) : (s.setDie d x).keys = s.keys := rfl
@[simp] theorem setDie_ports (s : State) (d : Fin 8) (x : Die) : (s.setDie d x).ports = s.ports := rfl
@[simp] theorem setDie_imps (s : State) (d : Fin 8) (x : Die) : (s.setDie d x).imps = s.imps := rfl
@[simp] theorem setDie_exps (s : State) (d : Fin 8) (x : Die) : (s.setDie d x).exps = s.exps := rfl
@[simp] theorem setDie_errLog (s : State) (d : Fin 8) (x : Die) : (s.setDie d x).errLog = s.errLog := rfl
@[simp] theorem setDie_energy (s : State) (d : Fin 8) (x : Die) : (s.setDie d x).energy = s.energy := rfl
@[simp] theorem setDie_regs (s : State) (d : Fin 8) (x : Die) : (s.setDie d x).regs = s.regs := rfl
@[simp] theorem setDie_reply (s : State) (d : Fin 8) (x : Die) : (s.setDie d x).reply = s.reply := rfl
@[simp] theorem setDie_inbox (s : State) (d : Fin 8) (x : Die) : (s.setDie d x).inbox = s.inbox := rfl
@[simp] theorem setDie_focus (s : State) (d : Fin 8) (x : Die) : (s.setDie d x).focus = s.focus := rfl
@[simp] theorem setDie_draws (s : State) (d : Fin 8) (x : Die) : (s.setDie d x).draws = s.draws := rfl
@[simp] theorem setDie_nextId (s : State) (d : Fin 8) (x : Die) : (s.setDie d x).nextId = s.nextId := rfl
@[simp] theorem setDie_tile (s : State) (d : Fin 8) (x : Die) (j' : TileId) : (s.setDie d x).tile j' = s.tile j' := rfl
@[simp] theorem setDie_site (s : State) (d : Fin 8) (x : Die) (j' : TileId) : (s.setDie d x).site j' = s.site j' := rfl
@[simp] theorem setDie_stack (s : State) (d : Fin 8) (x : Die) (m' : Fin 8) : (s.setDie d x).stack m' = s.stack m' := rfl
@[simp] theorem setDie_queue (s : State) (d : Fin 8) (x : Die) (r' : Fin 16) : (s.setDie d x).queue r' = s.queue r' := rfl
@[simp] theorem setDie_port (s : State) (d : Fin 8) (x : Die) (r' : Fin 12) : (s.setDie d x).port r' = s.port r' := rfl
@[simp] theorem setDie_launch? (s : State) (d : Fin 8) (x : Die) (h : BitVec 16) : (s.setDie d x).launch? h = s.launch? h := rfl

/-! ## setStack -/

@[simp] theorem setStack_time (s : State) (n : Fin 8) (x : Stack) : (s.setStack n x).time = s.time := rfl
@[simp] theorem setStack_tiles (s : State) (n : Fin 8) (x : Stack) : (s.setStack n x).tiles = s.tiles := rfl
@[simp] theorem setStack_sites (s : State) (n : Fin 8) (x : Stack) : (s.setStack n x).sites = s.sites := rfl
@[simp] theorem setStack_headers (s : State) (n : Fin 8) (x : Stack) : (s.setStack n x).headers = s.headers := rfl
@[simp] theorem setStack_dies (s : State) (n : Fin 8) (x : Stack) : (s.setStack n x).dies = s.dies := rfl
@[simp] theorem setStack_gmem (s : State) (n : Fin 8) (x : Stack) : (s.setStack n x).gmem = s.gmem := rfl
@[simp] theorem setStack_lineErr (s : State) (n : Fin 8) (x : Stack) : (s.setStack n x).lineErr = s.lineErr := rfl
@[simp] theorem setStack_narrow (s : State) (n : Fin 8) (x : Stack) : (s.setStack n x).narrow = s.narrow := rfl
@[simp] theorem setStack_maps (s : State) (n : Fin 8) (x : Stack) : (s.setStack n x).maps = s.maps := rfl
@[simp] theorem setStack_shadows (s : State) (n : Fin 8) (x : Stack) : (s.setStack n x).shadows = s.shadows := rfl
@[simp] theorem setStack_hostMem (s : State) (n : Fin 8) (x : Stack) : (s.setStack n x).hostMem = s.hostMem := rfl
@[simp] theorem setStack_queues (s : State) (n : Fin 8) (x : Stack) : (s.setStack n x).queues = s.queues := rfl
@[simp] theorem setStack_launches (s : State) (n : Fin 8) (x : Stack) : (s.setStack n x).launches = s.launches := rfl
@[simp] theorem setStack_ghosts (s : State) (n : Fin 8) (x : Stack) : (s.setStack n x).ghosts = s.ghosts := rfl
@[simp] theorem setStack_posts (s : State) (n : Fin 8) (x : Stack) : (s.setStack n x).posts = s.posts := rfl
@[simp] theorem setStack_crew (s : State) (n : Fin 8) (x : Stack) : (s.setStack n x).crew = s.crew := rfl
@[simp] theorem setStack_faults (s : State) (n : Fin 8) (x : Stack) : (s.setStack n x).faults = s.faults := rfl
@[simp] theorem setStack_dmws (s : State) (n : Fin 8) (x : Stack) : (s.setStack n x).dmws = s.dmws := rfl
@[simp] theorem setStack_vecs (s : State) (n : Fin 8) (x : Stack) : (s.setStack n x).vecs = s.vecs := rfl
@[simp] theorem setStack_keys (s : State) (n : Fin 8) (x : Stack) : (s.setStack n x).keys = s.keys := rfl
@[simp] theorem setStack_ports (s : State) (n : Fin 8) (x : Stack) : (s.setStack n x).ports = s.ports := rfl
@[simp] theorem setStack_imps (s : State) (n : Fin 8) (x : Stack) : (s.setStack n x).imps = s.imps := rfl
@[simp] theorem setStack_exps (s : State) (n : Fin 8) (x : Stack) : (s.setStack n x).exps = s.exps := rfl
@[simp] theorem setStack_errLog (s : State) (n : Fin 8) (x : Stack) : (s.setStack n x).errLog = s.errLog := rfl
@[simp] theorem setStack_energy (s : State) (n : Fin 8) (x : Stack) : (s.setStack n x).energy = s.energy := rfl
@[simp] theorem setStack_regs (s : State) (n : Fin 8) (x : Stack) : (s.setStack n x).regs = s.regs := rfl
@[simp] theorem setStack_reply (s : State) (n : Fin 8) (x : Stack) : (s.setStack n x).reply = s.reply := rfl
@[simp] theorem setStack_inbox (s : State) (n : Fin 8) (x : Stack) : (s.setStack n x).inbox = s.inbox := rfl
@[simp] theorem setStack_focus (s : State) (n : Fin 8) (x : Stack) : (s.setStack n x).focus = s.focus := rfl
@[simp] theorem setStack_draws (s : State) (n : Fin 8) (x : Stack) : (s.setStack n x).draws = s.draws := rfl
@[simp] theorem setStack_nextId (s : State) (n : Fin 8) (x : Stack) : (s.setStack n x).nextId = s.nextId := rfl
@[simp] theorem setStack_tile (s : State) (n : Fin 8) (x : Stack) (j' : TileId) : (s.setStack n x).tile j' = s.tile j' := rfl
@[simp] theorem setStack_site (s : State) (n : Fin 8) (x : Stack) (j' : TileId) : (s.setStack n x).site j' = s.site j' := rfl
@[simp] theorem setStack_die (s : State) (n : Fin 8) (x : Stack) (e' : Fin 8) : (s.setStack n x).die e' = s.die e' := rfl
@[simp] theorem setStack_queue (s : State) (n : Fin 8) (x : Stack) (r' : Fin 16) : (s.setStack n x).queue r' = s.queue r' := rfl
@[simp] theorem setStack_port (s : State) (n : Fin 8) (x : Stack) (r' : Fin 12) : (s.setStack n x).port r' = s.port r' := rfl
@[simp] theorem setStack_launch? (s : State) (n : Fin 8) (x : Stack) (h : BitVec 16) : (s.setStack n x).launch? h = s.launch? h := rfl

/-! ## setQueue -/

@[simp] theorem setQueue_time (s : State) (q : Fin 16) (x : Queue) : (s.setQueue q x).time = s.time := rfl
@[simp] theorem setQueue_tiles (s : State) (q : Fin 16) (x : Queue) : (s.setQueue q x).tiles = s.tiles := rfl
@[simp] theorem setQueue_sites (s : State) (q : Fin 16) (x : Queue) : (s.setQueue q x).sites = s.sites := rfl
@[simp] theorem setQueue_headers (s : State) (q : Fin 16) (x : Queue) : (s.setQueue q x).headers = s.headers := rfl
@[simp] theorem setQueue_dies (s : State) (q : Fin 16) (x : Queue) : (s.setQueue q x).dies = s.dies := rfl
@[simp] theorem setQueue_hbm (s : State) (q : Fin 16) (x : Queue) : (s.setQueue q x).hbm = s.hbm := rfl
@[simp] theorem setQueue_gmem (s : State) (q : Fin 16) (x : Queue) : (s.setQueue q x).gmem = s.gmem := rfl
@[simp] theorem setQueue_lineErr (s : State) (q : Fin 16) (x : Queue) : (s.setQueue q x).lineErr = s.lineErr := rfl
@[simp] theorem setQueue_narrow (s : State) (q : Fin 16) (x : Queue) : (s.setQueue q x).narrow = s.narrow := rfl
@[simp] theorem setQueue_maps (s : State) (q : Fin 16) (x : Queue) : (s.setQueue q x).maps = s.maps := rfl
@[simp] theorem setQueue_shadows (s : State) (q : Fin 16) (x : Queue) : (s.setQueue q x).shadows = s.shadows := rfl
@[simp] theorem setQueue_hostMem (s : State) (q : Fin 16) (x : Queue) : (s.setQueue q x).hostMem = s.hostMem := rfl
@[simp] theorem setQueue_launches (s : State) (q : Fin 16) (x : Queue) : (s.setQueue q x).launches = s.launches := rfl
@[simp] theorem setQueue_ghosts (s : State) (q : Fin 16) (x : Queue) : (s.setQueue q x).ghosts = s.ghosts := rfl
@[simp] theorem setQueue_posts (s : State) (q : Fin 16) (x : Queue) : (s.setQueue q x).posts = s.posts := rfl
@[simp] theorem setQueue_crew (s : State) (q : Fin 16) (x : Queue) : (s.setQueue q x).crew = s.crew := rfl
@[simp] theorem setQueue_faults (s : State) (q : Fin 16) (x : Queue) : (s.setQueue q x).faults = s.faults := rfl
@[simp] theorem setQueue_dmws (s : State) (q : Fin 16) (x : Queue) : (s.setQueue q x).dmws = s.dmws := rfl
@[simp] theorem setQueue_vecs (s : State) (q : Fin 16) (x : Queue) : (s.setQueue q x).vecs = s.vecs := rfl
@[simp] theorem setQueue_keys (s : State) (q : Fin 16) (x : Queue) : (s.setQueue q x).keys = s.keys := rfl
@[simp] theorem setQueue_ports (s : State) (q : Fin 16) (x : Queue) : (s.setQueue q x).ports = s.ports := rfl
@[simp] theorem setQueue_imps (s : State) (q : Fin 16) (x : Queue) : (s.setQueue q x).imps = s.imps := rfl
@[simp] theorem setQueue_exps (s : State) (q : Fin 16) (x : Queue) : (s.setQueue q x).exps = s.exps := rfl
@[simp] theorem setQueue_errLog (s : State) (q : Fin 16) (x : Queue) : (s.setQueue q x).errLog = s.errLog := rfl
@[simp] theorem setQueue_energy (s : State) (q : Fin 16) (x : Queue) : (s.setQueue q x).energy = s.energy := rfl
@[simp] theorem setQueue_regs (s : State) (q : Fin 16) (x : Queue) : (s.setQueue q x).regs = s.regs := rfl
@[simp] theorem setQueue_reply (s : State) (q : Fin 16) (x : Queue) : (s.setQueue q x).reply = s.reply := rfl
@[simp] theorem setQueue_inbox (s : State) (q : Fin 16) (x : Queue) : (s.setQueue q x).inbox = s.inbox := rfl
@[simp] theorem setQueue_focus (s : State) (q : Fin 16) (x : Queue) : (s.setQueue q x).focus = s.focus := rfl
@[simp] theorem setQueue_draws (s : State) (q : Fin 16) (x : Queue) : (s.setQueue q x).draws = s.draws := rfl
@[simp] theorem setQueue_nextId (s : State) (q : Fin 16) (x : Queue) : (s.setQueue q x).nextId = s.nextId := rfl
@[simp] theorem setQueue_tile (s : State) (q : Fin 16) (x : Queue) (j' : TileId) : (s.setQueue q x).tile j' = s.tile j' := rfl
@[simp] theorem setQueue_site (s : State) (q : Fin 16) (x : Queue) (j' : TileId) : (s.setQueue q x).site j' = s.site j' := rfl
@[simp] theorem setQueue_die (s : State) (q : Fin 16) (x : Queue) (e' : Fin 8) : (s.setQueue q x).die e' = s.die e' := rfl
@[simp] theorem setQueue_stack (s : State) (q : Fin 16) (x : Queue) (m' : Fin 8) : (s.setQueue q x).stack m' = s.stack m' := rfl
@[simp] theorem setQueue_port (s : State) (q : Fin 16) (x : Queue) (r' : Fin 12) : (s.setQueue q x).port r' = s.port r' := rfl
@[simp] theorem setQueue_launch? (s : State) (q : Fin 16) (x : Queue) (h : BitVec 16) : (s.setQueue q x).launch? h = s.launch? h := rfl

/-! ## setPort -/

@[simp] theorem setPort_time (s : State) (p : Fin 12) (x : Port) : (s.setPort p x).time = s.time := rfl
@[simp] theorem setPort_tiles (s : State) (p : Fin 12) (x : Port) : (s.setPort p x).tiles = s.tiles := rfl
@[simp] theorem setPort_sites (s : State) (p : Fin 12) (x : Port) : (s.setPort p x).sites = s.sites := rfl
@[simp] theorem setPort_headers (s : State) (p : Fin 12) (x : Port) : (s.setPort p x).headers = s.headers := rfl
@[simp] theorem setPort_dies (s : State) (p : Fin 12) (x : Port) : (s.setPort p x).dies = s.dies := rfl
@[simp] theorem setPort_hbm (s : State) (p : Fin 12) (x : Port) : (s.setPort p x).hbm = s.hbm := rfl
@[simp] theorem setPort_gmem (s : State) (p : Fin 12) (x : Port) : (s.setPort p x).gmem = s.gmem := rfl
@[simp] theorem setPort_lineErr (s : State) (p : Fin 12) (x : Port) : (s.setPort p x).lineErr = s.lineErr := rfl
@[simp] theorem setPort_narrow (s : State) (p : Fin 12) (x : Port) : (s.setPort p x).narrow = s.narrow := rfl
@[simp] theorem setPort_maps (s : State) (p : Fin 12) (x : Port) : (s.setPort p x).maps = s.maps := rfl
@[simp] theorem setPort_shadows (s : State) (p : Fin 12) (x : Port) : (s.setPort p x).shadows = s.shadows := rfl
@[simp] theorem setPort_hostMem (s : State) (p : Fin 12) (x : Port) : (s.setPort p x).hostMem = s.hostMem := rfl
@[simp] theorem setPort_queues (s : State) (p : Fin 12) (x : Port) : (s.setPort p x).queues = s.queues := rfl
@[simp] theorem setPort_launches (s : State) (p : Fin 12) (x : Port) : (s.setPort p x).launches = s.launches := rfl
@[simp] theorem setPort_ghosts (s : State) (p : Fin 12) (x : Port) : (s.setPort p x).ghosts = s.ghosts := rfl
@[simp] theorem setPort_posts (s : State) (p : Fin 12) (x : Port) : (s.setPort p x).posts = s.posts := rfl
@[simp] theorem setPort_crew (s : State) (p : Fin 12) (x : Port) : (s.setPort p x).crew = s.crew := rfl
@[simp] theorem setPort_faults (s : State) (p : Fin 12) (x : Port) : (s.setPort p x).faults = s.faults := rfl
@[simp] theorem setPort_dmws (s : State) (p : Fin 12) (x : Port) : (s.setPort p x).dmws = s.dmws := rfl
@[simp] theorem setPort_vecs (s : State) (p : Fin 12) (x : Port) : (s.setPort p x).vecs = s.vecs := rfl
@[simp] theorem setPort_keys (s : State) (p : Fin 12) (x : Port) : (s.setPort p x).keys = s.keys := rfl
@[simp] theorem setPort_imps (s : State) (p : Fin 12) (x : Port) : (s.setPort p x).imps = s.imps := rfl
@[simp] theorem setPort_exps (s : State) (p : Fin 12) (x : Port) : (s.setPort p x).exps = s.exps := rfl
@[simp] theorem setPort_errLog (s : State) (p : Fin 12) (x : Port) : (s.setPort p x).errLog = s.errLog := rfl
@[simp] theorem setPort_energy (s : State) (p : Fin 12) (x : Port) : (s.setPort p x).energy = s.energy := rfl
@[simp] theorem setPort_regs (s : State) (p : Fin 12) (x : Port) : (s.setPort p x).regs = s.regs := rfl
@[simp] theorem setPort_reply (s : State) (p : Fin 12) (x : Port) : (s.setPort p x).reply = s.reply := rfl
@[simp] theorem setPort_inbox (s : State) (p : Fin 12) (x : Port) : (s.setPort p x).inbox = s.inbox := rfl
@[simp] theorem setPort_focus (s : State) (p : Fin 12) (x : Port) : (s.setPort p x).focus = s.focus := rfl
@[simp] theorem setPort_draws (s : State) (p : Fin 12) (x : Port) : (s.setPort p x).draws = s.draws := rfl
@[simp] theorem setPort_nextId (s : State) (p : Fin 12) (x : Port) : (s.setPort p x).nextId = s.nextId := rfl
@[simp] theorem setPort_tile (s : State) (p : Fin 12) (x : Port) (j' : TileId) : (s.setPort p x).tile j' = s.tile j' := rfl
@[simp] theorem setPort_site (s : State) (p : Fin 12) (x : Port) (j' : TileId) : (s.setPort p x).site j' = s.site j' := rfl
@[simp] theorem setPort_die (s : State) (p : Fin 12) (x : Port) (e' : Fin 8) : (s.setPort p x).die e' = s.die e' := rfl
@[simp] theorem setPort_stack (s : State) (p : Fin 12) (x : Port) (m' : Fin 8) : (s.setPort p x).stack m' = s.stack m' := rfl
@[simp] theorem setPort_queue (s : State) (p : Fin 12) (x : Port) (r' : Fin 16) : (s.setPort p x).queue r' = s.queue r' := rfl
@[simp] theorem setPort_launch? (s : State) (p : Fin 12) (x : Port) (h : BitVec 16) : (s.setPort p x).launch? h = s.launch? h := rfl

/-! ## setRegs -/

@[simp] theorem setRegs_time (s : State) (r : PkgRegs) : (s.setRegs r).time = s.time := rfl
@[simp] theorem setRegs_tiles (s : State) (r : PkgRegs) : (s.setRegs r).tiles = s.tiles := rfl
@[simp] theorem setRegs_sites (s : State) (r : PkgRegs) : (s.setRegs r).sites = s.sites := rfl
@[simp] theorem setRegs_headers (s : State) (r : PkgRegs) : (s.setRegs r).headers = s.headers := rfl
@[simp] theorem setRegs_dies (s : State) (r : PkgRegs) : (s.setRegs r).dies = s.dies := rfl
@[simp] theorem setRegs_hbm (s : State) (r : PkgRegs) : (s.setRegs r).hbm = s.hbm := rfl
@[simp] theorem setRegs_gmem (s : State) (r : PkgRegs) : (s.setRegs r).gmem = s.gmem := rfl
@[simp] theorem setRegs_lineErr (s : State) (r : PkgRegs) : (s.setRegs r).lineErr = s.lineErr := rfl
@[simp] theorem setRegs_narrow (s : State) (r : PkgRegs) : (s.setRegs r).narrow = s.narrow := rfl
@[simp] theorem setRegs_maps (s : State) (r : PkgRegs) : (s.setRegs r).maps = s.maps := rfl
@[simp] theorem setRegs_shadows (s : State) (r : PkgRegs) : (s.setRegs r).shadows = s.shadows := rfl
@[simp] theorem setRegs_hostMem (s : State) (r : PkgRegs) : (s.setRegs r).hostMem = s.hostMem := rfl
@[simp] theorem setRegs_queues (s : State) (r : PkgRegs) : (s.setRegs r).queues = s.queues := rfl
@[simp] theorem setRegs_launches (s : State) (r : PkgRegs) : (s.setRegs r).launches = s.launches := rfl
@[simp] theorem setRegs_ghosts (s : State) (r : PkgRegs) : (s.setRegs r).ghosts = s.ghosts := rfl
@[simp] theorem setRegs_posts (s : State) (r : PkgRegs) : (s.setRegs r).posts = s.posts := rfl
@[simp] theorem setRegs_crew (s : State) (r : PkgRegs) : (s.setRegs r).crew = s.crew := rfl
@[simp] theorem setRegs_faults (s : State) (r : PkgRegs) : (s.setRegs r).faults = s.faults := rfl
@[simp] theorem setRegs_dmws (s : State) (r : PkgRegs) : (s.setRegs r).dmws = s.dmws := rfl
@[simp] theorem setRegs_vecs (s : State) (r : PkgRegs) : (s.setRegs r).vecs = s.vecs := rfl
@[simp] theorem setRegs_keys (s : State) (r : PkgRegs) : (s.setRegs r).keys = s.keys := rfl
@[simp] theorem setRegs_ports (s : State) (r : PkgRegs) : (s.setRegs r).ports = s.ports := rfl
@[simp] theorem setRegs_imps (s : State) (r : PkgRegs) : (s.setRegs r).imps = s.imps := rfl
@[simp] theorem setRegs_exps (s : State) (r : PkgRegs) : (s.setRegs r).exps = s.exps := rfl
@[simp] theorem setRegs_errLog (s : State) (r : PkgRegs) : (s.setRegs r).errLog = s.errLog := rfl
@[simp] theorem setRegs_energy (s : State) (r : PkgRegs) : (s.setRegs r).energy = s.energy := rfl
@[simp] theorem setRegs_reply (s : State) (r : PkgRegs) : (s.setRegs r).reply = s.reply := rfl
@[simp] theorem setRegs_inbox (s : State) (r : PkgRegs) : (s.setRegs r).inbox = s.inbox := rfl
@[simp] theorem setRegs_focus (s : State) (r : PkgRegs) : (s.setRegs r).focus = s.focus := rfl
@[simp] theorem setRegs_draws (s : State) (r : PkgRegs) : (s.setRegs r).draws = s.draws := rfl
@[simp] theorem setRegs_nextId (s : State) (r : PkgRegs) : (s.setRegs r).nextId = s.nextId := rfl
@[simp] theorem setRegs_tile (s : State) (r : PkgRegs) (j' : TileId) : (s.setRegs r).tile j' = s.tile j' := rfl
@[simp] theorem setRegs_site (s : State) (r : PkgRegs) (j' : TileId) : (s.setRegs r).site j' = s.site j' := rfl
@[simp] theorem setRegs_die (s : State) (r : PkgRegs) (e' : Fin 8) : (s.setRegs r).die e' = s.die e' := rfl
@[simp] theorem setRegs_stack (s : State) (r : PkgRegs) (m' : Fin 8) : (s.setRegs r).stack m' = s.stack m' := rfl
@[simp] theorem setRegs_queue (s : State) (r : PkgRegs) (r' : Fin 16) : (s.setRegs r).queue r' = s.queue r' := rfl
@[simp] theorem setRegs_port (s : State) (r : PkgRegs) (r' : Fin 12) : (s.setRegs r).port r' = s.port r' := rfl
@[simp] theorem setRegs_launch? (s : State) (r : PkgRegs) (h : BitVec 16) : (s.setRegs r).launch? h = s.launch? h := rfl
@[simp] theorem setRegs_regs (s : State) (r : PkgRegs) : (s.setRegs r).regs = r := rfl

/-! ## setLaunch -/

@[simp] theorem setLaunch_time (s : State) (l : Launch) : (s.setLaunch l).time = s.time := rfl
@[simp] theorem setLaunch_tiles (s : State) (l : Launch) : (s.setLaunch l).tiles = s.tiles := rfl
@[simp] theorem setLaunch_sites (s : State) (l : Launch) : (s.setLaunch l).sites = s.sites := rfl
@[simp] theorem setLaunch_headers (s : State) (l : Launch) : (s.setLaunch l).headers = s.headers := rfl
@[simp] theorem setLaunch_dies (s : State) (l : Launch) : (s.setLaunch l).dies = s.dies := rfl
@[simp] theorem setLaunch_hbm (s : State) (l : Launch) : (s.setLaunch l).hbm = s.hbm := rfl
@[simp] theorem setLaunch_gmem (s : State) (l : Launch) : (s.setLaunch l).gmem = s.gmem := rfl
@[simp] theorem setLaunch_lineErr (s : State) (l : Launch) : (s.setLaunch l).lineErr = s.lineErr := rfl
@[simp] theorem setLaunch_narrow (s : State) (l : Launch) : (s.setLaunch l).narrow = s.narrow := rfl
@[simp] theorem setLaunch_maps (s : State) (l : Launch) : (s.setLaunch l).maps = s.maps := rfl
@[simp] theorem setLaunch_shadows (s : State) (l : Launch) : (s.setLaunch l).shadows = s.shadows := rfl
@[simp] theorem setLaunch_hostMem (s : State) (l : Launch) : (s.setLaunch l).hostMem = s.hostMem := rfl
@[simp] theorem setLaunch_queues (s : State) (l : Launch) : (s.setLaunch l).queues = s.queues := rfl
@[simp] theorem setLaunch_ghosts (s : State) (l : Launch) : (s.setLaunch l).ghosts = s.ghosts := rfl
@[simp] theorem setLaunch_posts (s : State) (l : Launch) : (s.setLaunch l).posts = s.posts := rfl
@[simp] theorem setLaunch_crew (s : State) (l : Launch) : (s.setLaunch l).crew = s.crew := rfl
@[simp] theorem setLaunch_faults (s : State) (l : Launch) : (s.setLaunch l).faults = s.faults := rfl
@[simp] theorem setLaunch_dmws (s : State) (l : Launch) : (s.setLaunch l).dmws = s.dmws := rfl
@[simp] theorem setLaunch_vecs (s : State) (l : Launch) : (s.setLaunch l).vecs = s.vecs := rfl
@[simp] theorem setLaunch_keys (s : State) (l : Launch) : (s.setLaunch l).keys = s.keys := rfl
@[simp] theorem setLaunch_ports (s : State) (l : Launch) : (s.setLaunch l).ports = s.ports := rfl
@[simp] theorem setLaunch_imps (s : State) (l : Launch) : (s.setLaunch l).imps = s.imps := rfl
@[simp] theorem setLaunch_exps (s : State) (l : Launch) : (s.setLaunch l).exps = s.exps := rfl
@[simp] theorem setLaunch_errLog (s : State) (l : Launch) : (s.setLaunch l).errLog = s.errLog := rfl
@[simp] theorem setLaunch_energy (s : State) (l : Launch) : (s.setLaunch l).energy = s.energy := rfl
@[simp] theorem setLaunch_regs (s : State) (l : Launch) : (s.setLaunch l).regs = s.regs := rfl
@[simp] theorem setLaunch_reply (s : State) (l : Launch) : (s.setLaunch l).reply = s.reply := rfl
@[simp] theorem setLaunch_inbox (s : State) (l : Launch) : (s.setLaunch l).inbox = s.inbox := rfl
@[simp] theorem setLaunch_focus (s : State) (l : Launch) : (s.setLaunch l).focus = s.focus := rfl
@[simp] theorem setLaunch_draws (s : State) (l : Launch) : (s.setLaunch l).draws = s.draws := rfl
@[simp] theorem setLaunch_nextId (s : State) (l : Launch) : (s.setLaunch l).nextId = s.nextId := rfl
@[simp] theorem setLaunch_tile (s : State) (l : Launch) (j' : TileId) : (s.setLaunch l).tile j' = s.tile j' := rfl
@[simp] theorem setLaunch_site (s : State) (l : Launch) (j' : TileId) : (s.setLaunch l).site j' = s.site j' := rfl
@[simp] theorem setLaunch_die (s : State) (l : Launch) (e' : Fin 8) : (s.setLaunch l).die e' = s.die e' := rfl
@[simp] theorem setLaunch_stack (s : State) (l : Launch) (m' : Fin 8) : (s.setLaunch l).stack m' = s.stack m' := rfl
@[simp] theorem setLaunch_queue (s : State) (l : Launch) (r' : Fin 16) : (s.setLaunch l).queue r' = s.queue r' := rfl
@[simp] theorem setLaunch_port (s : State) (l : Launch) (r' : Fin 12) : (s.setLaunch l).port r' = s.port r' := rfl

/-! ## dropLaunch -/

@[simp] theorem dropLaunch_time (s : State) (h : BitVec 16) : (s.dropLaunch h).time = s.time := rfl
@[simp] theorem dropLaunch_tiles (s : State) (h : BitVec 16) : (s.dropLaunch h).tiles = s.tiles := rfl
@[simp] theorem dropLaunch_sites (s : State) (h : BitVec 16) : (s.dropLaunch h).sites = s.sites := rfl
@[simp] theorem dropLaunch_headers (s : State) (h : BitVec 16) : (s.dropLaunch h).headers = s.headers := rfl
@[simp] theorem dropLaunch_dies (s : State) (h : BitVec 16) : (s.dropLaunch h).dies = s.dies := rfl
@[simp] theorem dropLaunch_hbm (s : State) (h : BitVec 16) : (s.dropLaunch h).hbm = s.hbm := rfl
@[simp] theorem dropLaunch_gmem (s : State) (h : BitVec 16) : (s.dropLaunch h).gmem = s.gmem := rfl
@[simp] theorem dropLaunch_lineErr (s : State) (h : BitVec 16) : (s.dropLaunch h).lineErr = s.lineErr := rfl
@[simp] theorem dropLaunch_narrow (s : State) (h : BitVec 16) : (s.dropLaunch h).narrow = s.narrow := rfl
@[simp] theorem dropLaunch_maps (s : State) (h : BitVec 16) : (s.dropLaunch h).maps = s.maps := rfl
@[simp] theorem dropLaunch_shadows (s : State) (h : BitVec 16) : (s.dropLaunch h).shadows = s.shadows := rfl
@[simp] theorem dropLaunch_hostMem (s : State) (h : BitVec 16) : (s.dropLaunch h).hostMem = s.hostMem := rfl
@[simp] theorem dropLaunch_queues (s : State) (h : BitVec 16) : (s.dropLaunch h).queues = s.queues := rfl
@[simp] theorem dropLaunch_ghosts (s : State) (h : BitVec 16) : (s.dropLaunch h).ghosts = s.ghosts := rfl
@[simp] theorem dropLaunch_posts (s : State) (h : BitVec 16) : (s.dropLaunch h).posts = s.posts.filter fun p => p.handle != h := rfl
@[simp] theorem dropLaunch_crew (s : State) (h : BitVec 16) : (s.dropLaunch h).crew = s.crew.filter fun a => a.handle != h := rfl
@[simp] theorem dropLaunch_faults (s : State) (h : BitVec 16) : (s.dropLaunch h).faults = s.faults := rfl
@[simp] theorem dropLaunch_dmws (s : State) (h : BitVec 16) : (s.dropLaunch h).dmws = s.dmws := rfl
@[simp] theorem dropLaunch_vecs (s : State) (h : BitVec 16) : (s.dropLaunch h).vecs = s.vecs := rfl
@[simp] theorem dropLaunch_keys (s : State) (h : BitVec 16) : (s.dropLaunch h).keys = s.keys := rfl
@[simp] theorem dropLaunch_ports (s : State) (h : BitVec 16) : (s.dropLaunch h).ports = s.ports := rfl
@[simp] theorem dropLaunch_imps (s : State) (h : BitVec 16) : (s.dropLaunch h).imps = s.imps := rfl
@[simp] theorem dropLaunch_exps (s : State) (h : BitVec 16) : (s.dropLaunch h).exps = s.exps := rfl
@[simp] theorem dropLaunch_errLog (s : State) (h : BitVec 16) : (s.dropLaunch h).errLog = s.errLog := rfl
@[simp] theorem dropLaunch_energy (s : State) (h : BitVec 16) : (s.dropLaunch h).energy = s.energy := rfl
@[simp] theorem dropLaunch_regs (s : State) (h : BitVec 16) : (s.dropLaunch h).regs = s.regs := rfl
@[simp] theorem dropLaunch_reply (s : State) (h : BitVec 16) : (s.dropLaunch h).reply = s.reply := rfl
@[simp] theorem dropLaunch_inbox (s : State) (h : BitVec 16) : (s.dropLaunch h).inbox = s.inbox := rfl
@[simp] theorem dropLaunch_focus (s : State) (h : BitVec 16) : (s.dropLaunch h).focus = s.focus := rfl
@[simp] theorem dropLaunch_draws (s : State) (h : BitVec 16) : (s.dropLaunch h).draws = s.draws := rfl
@[simp] theorem dropLaunch_nextId (s : State) (h : BitVec 16) : (s.dropLaunch h).nextId = s.nextId := rfl
@[simp] theorem dropLaunch_tile (s : State) (h : BitVec 16) (j' : TileId) : (s.dropLaunch h).tile j' = s.tile j' := rfl
@[simp] theorem dropLaunch_site (s : State) (h : BitVec 16) (j' : TileId) : (s.dropLaunch h).site j' = s.site j' := rfl
@[simp] theorem dropLaunch_die (s : State) (h : BitVec 16) (e' : Fin 8) : (s.dropLaunch h).die e' = s.die e' := rfl
@[simp] theorem dropLaunch_stack (s : State) (h : BitVec 16) (m' : Fin 8) : (s.dropLaunch h).stack m' = s.stack m' := rfl
@[simp] theorem dropLaunch_queue (s : State) (h : BitVec 16) (r' : Fin 16) : (s.dropLaunch h).queue r' = s.queue r' := rfl
@[simp] theorem dropLaunch_port (s : State) (h : BitVec 16) (r' : Fin 12) : (s.dropLaunch h).port r' = s.port r' := rfl

end Sys2Proof.Machine
end

