-- ==== Sys2Proof/Laws/Store.lean ====
section
/-! SUPPORT. What the operations on sparse files do: reading after a write, and the canonical form they keep. -/

namespace Sys2Proof.Machine

variable {α : Type}

/-! ## Reading after a write -/

theorem get_erase_self (d : α) (i : Nat) : ∀ c : Cells α, Cells.get d (Cells.erase i c) i = d
  | [] => rfl
  | (k, v) :: xs => by
    by_cases h : k = i
    · simp [Cells.erase, h, get_erase_self d i xs]
    · simp [Cells.erase, h, Cells.get, get_erase_self d i xs]

theorem get_erase_ne (d : α) {i j : Nat} (h : j ≠ i) : ∀ c : Cells α, Cells.get d (Cells.erase i c) j = Cells.get d c j
  | [] => rfl
  | (k, v) :: xs => by
    by_cases hk : k = i
    · simp [Cells.erase, Cells.get, hk, get_erase_ne d h xs, Ne.symm h]
    · simp [Cells.erase, Cells.get, hk, get_erase_ne d h xs]

theorem get_insert_self (d : α) (i : Nat) (v : α) : ∀ c : Cells α, (∀ w, (i, w) ∉ c) → Cells.get d (Cells.insert i v c) i = v
  | [], _ => by simp [Cells.insert, Cells.get]
  | (k, w) :: xs, h => by
    have hk : k ≠ i := fun e => h w (by simp [e])
    have ht := get_insert_self d i v xs fun x hx => h x (by simp [hx])
    by_cases hi : i < k <;> simp [Cells.insert, Cells.get, hi, hk, ht]

theorem get_insert_ne (d : α) {i j : Nat} (v : α) (h : j ≠ i) : ∀ c : Cells α, Cells.get d (Cells.insert i v c) j = Cells.get d c j
  | [] => by simp [Cells.insert, Cells.get, Ne.symm h]
  | (k, w) :: xs => by
    by_cases hi : i < k
    · simp [Cells.insert, Cells.get, hi, Ne.symm h]
    · simp [Cells.insert, Cells.get, hi, get_insert_ne d v h xs]

theorem not_mem_erase (i : Nat) (w : α) : ∀ c : Cells α, (i, w) ∉ Cells.erase i c
  | [] => by simp [Cells.erase]
  | (k, v) :: xs => by
    by_cases h : k = i
    · simp [Cells.erase, h, not_mem_erase i w xs]
    · simp [Cells.erase, h, not_mem_erase i w xs, Ne.symm h]

variable [DecidableEq α]

@[simp] theorem get_set_self (d : α) (c : Cells α) (i : Nat) (v : α) : Cells.get d (Cells.set d c i v) i = v := by
  unfold Cells.set
  split
  · rw [get_erase_self]; exact Eq.symm ‹_›
  · exact get_insert_self d i v _ fun w => not_mem_erase i w c

theorem get_set_ne (d : α) (c : Cells α) {i j : Nat} (v : α) (h : j ≠ i) : Cells.get d (Cells.set d c i v) j = Cells.get d c j := by
  unfold Cells.set
  split
  · exact get_erase_ne d h c
  · rw [get_insert_ne d v h, get_erase_ne d h]

/-- A run of values written from i on: inside the run its value, outside it what stood there. -/
theorem get_setRange (d : α) (j : Nat) : ∀ (vs : List α) (c : Cells α) (i : Nat), Cells.get d (Cells.setRange d c i vs) j =
    if h : i ≤ j ∧ j < i + vs.length then vs[j - i]'(by omega) else Cells.get d c j
  | [], c, i => by simp [Cells.setRange]
  | v :: vs, c, i => by
    rw [Cells.setRange, get_setRange d j vs]
    by_cases h1 : i + 1 ≤ j ∧ j < i + 1 + vs.length
    · have h2 : i ≤ j ∧ j < i + (v :: vs).length := by simp; omega
      obtain ⟨m, rfl⟩ : ∃ m, j = i + 1 + m := ⟨j - (i + 1), by omega⟩
      simp only [h1, h2]
      simp [show i + 1 + m - i = m + 1 by omega]
    · by_cases hj : j = i
      · subst hj; simp
      · have h2 : ¬ (i ≤ j ∧ j < i + (v :: vs).length) := by simp; omega
        simp only [h1, h2, dif_neg, not_false_eq_true]
        exact get_set_ne d c v hj

theorem get_setRange_outside (d : α) {c : Cells α} {i j : Nat} {vs : List α} (h : j < i ∨ i + vs.length ≤ j) :
    Cells.get d (Cells.setRange d c i vs) j = Cells.get d c j := by
  rw [get_setRange, dif_neg (by omega)]

theorem get_setAll_outside (d : α) (j : Nat) : ∀ (ps : List (Nat × α)) (c : Cells α), (∀ p ∈ ps, p.1 ≠ j) →
    Cells.get d (Cells.setAll d c ps) j = Cells.get d c j
  | [], _, _ => rfl
  | (i, v) :: ps, c, h => by
    rw [Cells.setAll, get_setAll_outside d j ps _ fun p hp => h p (by simp [hp])]
    exact get_set_ne d c v (Ne.symm (h (i, v) (by simp)))

/-! ## The canonical form -/

theorem wfFrom_mono (d : α) {b b' : Nat} (h : b' ≤ b) : ∀ c : Cells α, Cells.wfFrom d b c = true → Cells.wfFrom d b' c = true
  | [], _ => rfl
  | (k, v) :: xs, hw => by
    simp only [Cells.wfFrom, Bool.and_eq_true, decide_eq_true_eq] at hw ⊢
    exact ⟨⟨by omega, hw.1.2⟩, hw.2⟩

theorem wfFrom_erase (d : α) (i : Nat) : ∀ (c : Cells α) (b : Nat), Cells.wfFrom d b c = true → Cells.wfFrom d b (Cells.erase i c) = true
  | [], _, _ => rfl
  | (k, v) :: xs, b, hw => by
    simp only [Cells.wfFrom, Bool.and_eq_true, decide_eq_true_eq] at hw
    by_cases h : k = i
    · simp only [Cells.erase, h, if_true]
      exact wfFrom_erase d i xs b (wfFrom_mono d (by omega) xs hw.2)
    · simp only [Cells.erase, h, if_false, Cells.wfFrom, Bool.and_eq_true, decide_eq_true_eq]
      exact ⟨hw.1, wfFrom_erase d i xs (k + 1) hw.2⟩

theorem wfFrom_insert (d : α) (i : Nat) {v : α} (hv : v ≠ d) : ∀ (c : Cells α) (b : Nat), b ≤ i → (∀ w, (i, w) ∉ c) →
    Cells.wfFrom d b c = true → Cells.wfFrom d b (Cells.insert i v c) = true
  | [], b, hb, _, _ => by simp [Cells.insert, Cells.wfFrom, hb, hv]
  | (k, w) :: xs, b, hb, hm, hw => by
    have hk : k ≠ i := fun e => hm w (by simp [e])
    simp only [Cells.wfFrom, Bool.and_eq_true, decide_eq_true_eq] at hw
    by_cases h : i < k
    · simp only [Cells.insert, h, if_true, Cells.wfFrom, Bool.and_eq_true, decide_eq_true_eq]
      exact ⟨⟨hb, hv⟩, ⟨by omega, hw.1.2⟩, hw.2⟩
    · simp only [Cells.insert, h, if_false, Cells.wfFrom, Bool.and_eq_true, decide_eq_true_eq]
      exact ⟨hw.1, wfFrom_insert d i hv xs (k + 1) (by omega) (fun x hx => hm x (by simp [hx])) hw.2⟩

theorem wf_set (d : α) {c : Cells α} (i : Nat) (v : α) (h : Cells.wf d c = true) : Cells.wf d (Cells.set d c i v) = true := by
  unfold Cells.set Cells.wf
  split
  · exact wfFrom_erase d i c 0 h
  · exact wfFrom_insert d i ‹_› _ 0 (Nat.zero_le _) (fun w => not_mem_erase i w c) (wfFrom_erase d i c 0 h)

theorem wf_setRange (d : α) : ∀ (vs : List α) (c : Cells α) (i : Nat), Cells.wf d c = true → Cells.wf d (Cells.setRange d c i vs) = true
  | [], _, _, h => h
  | _ :: vs, _, _, h => wf_setRange d vs _ _ (wf_set d _ _ h)

theorem wf_setAll (d : α) : ∀ (ps : List (Nat × α)) (c : Cells α), Cells.wf d c = true → Cells.wf d (Cells.setAll d c ps) = true
  | [], _, h => h
  | _ :: ps, _, h => wf_setAll d ps _ (wf_set d _ _ h)

theorem wf_ofList (d : α) (xs : List α) : Cells.wf d (Cells.ofList d xs) = true := wf_setRange d xs [] 0 rfl

theorem get_eq_of_lt (d : α) {i : Nat} : ∀ (c : Cells α) (b : Nat), i < b → Cells.wfFrom d b c = true → Cells.get d c i = d
  | [], _, _, _ => rfl
  | (k, v) :: xs, b, hb, hw => by
    simp only [Cells.wfFrom, Bool.and_eq_true, decide_eq_true_eq] at hw
    have hk : k ≠ i := by omega
    have hx := get_eq_of_lt (i := i) d xs (k + 1) (by omega) hw.2
    simp [Cells.get, hk, hx]

/-- In canonical form, files that read the same everywhere are the same. -/
theorem wfFrom_ext (d : α) : ∀ (c e : Cells α) (b : Nat), Cells.wfFrom d b c = true → Cells.wfFrom d b e = true →
    (∀ i, Cells.get d c i = Cells.get d e i) → c = e
  | [], [], _, _, _, _ => rfl
  | [], (k, v) :: ys, b, _, he, h => by
    simp only [Cells.wfFrom, Bool.and_eq_true, decide_eq_true_eq] at he
    have := h k
    simp [Cells.get] at this
    exact absurd this.symm he.1.2
  | (k, v) :: xs, [], b, hc, _, h => by
    simp only [Cells.wfFrom, Bool.and_eq_true, decide_eq_true_eq] at hc
    have := h k
    simp [Cells.get] at this
    exact absurd this hc.1.2
  | (k, v) :: xs, (m, w) :: ys, b, hc, he, h => by
    simp only [Cells.wfFrom, Bool.and_eq_true, decide_eq_true_eq] at hc he
    have hkm : k = m := by
      by_contra hne
      rcases Nat.lt_or_gt_of_ne hne with hlt | hgt
      · have := h k
        rw [Cells.get, if_pos rfl, Cells.get, if_neg (Ne.symm hne), get_eq_of_lt d ys (m + 1) (by omega) he.2] at this
        exact hc.1.2 this
      · have := h m
        rw [Cells.get, if_neg hne, get_eq_of_lt d xs (k + 1) (by omega) hc.2, Cells.get, if_pos rfl] at this
        exact he.1.2 this.symm
    subst hkm
    have hv : v = w := by simpa [Cells.get] using h k
    subst hv
    have := wfFrom_ext d xs ys (k + 1) hc.2 he.2 fun i => by
      by_cases hi : i = k
      · subst hi
        rw [get_eq_of_lt d xs (i + 1) (by omega) hc.2, get_eq_of_lt d ys (i + 1) (by omega) he.2]
      · simpa [Cells.get, Ne.symm hi] using h i
    rw [this]

end Sys2Proof.Machine
end

