-- ==== Sys2Proof/Laws/Memory.lean ====
section
/-! SUPPORT. What an operation of global memory can change: `MemFrame` holds of each. Tiles, launches, queues, links and the mapping
stand; of the registers only FSTAT, FQTAIL, FQLOST and the count of halvings move; the memories keep their canonical form. -/

namespace Sys2Proof.Machine

/-- Registers that a memory operation leaves. -/
def PkgRegs.memEq (r q : PkgRegs) : Prop :=
  { q with corr := r.corr, dfence := r.dfence, pfault := r.pfault, tfence := r.tfence, fqTail := r.fqTail, fqLost := r.fqLost,
           halvings := r.halvings } = r

/-- What every operation of global memory keeps. -/
structure MemFrame (s t : State) : Prop where
  time : t.time = s.time
  tiles : t.tiles = s.tiles
  sites : t.sites = s.sites
  headers : t.headers = s.headers
  maps : t.maps = s.maps
  shadows : t.shadows = s.shadows
  queues : t.queues = s.queues
  launches : t.launches = s.launches
  ghosts : t.ghosts = s.ghosts
  posts : t.posts = s.posts
  crew : t.crew = s.crew
  dmws : t.dmws = s.dmws
  keys : t.keys = s.keys
  ports : t.ports = s.ports
  imps : t.imps = s.imps
  exps : t.exps = s.exps
  errLog : t.errLog = s.errLog
  energy : t.energy = s.energy
  reply : t.reply = s.reply
  inbox : t.inbox = s.inbox
  focus : t.focus = s.focus
  draws : s.draws ≤ t.draws
  regs : s.regs.memEq t.regs
  dies : ∀ d, { t.die d with tlb := (s.die d).tlb } = s.die d
  wf : Memory.wf s = true → Memory.wf t = true

theorem PkgRegs.memEq.refl (r : PkgRegs) : r.memEq r := rfl

theorem PkgRegs.memEq.trans {r q p : PkgRegs} (h : r.memEq q) (g : q.memEq p) : r.memEq p := by
  unfold PkgRegs.memEq at *
  rw [← g] at h
  exact h

theorem MemFrame.refl (s : State) : MemFrame s s := by
  constructor <;> first | rfl | exact fun _ => rfl | exact id

theorem MemFrame.trans {s t u : State} (h : MemFrame s t) (g : MemFrame t u) : MemFrame s u where
  time := g.time.trans h.time
  tiles := g.tiles.trans h.tiles
  sites := g.sites.trans h.sites
  headers := g.headers.trans h.headers
  maps := g.maps.trans h.maps
  shadows := g.shadows.trans h.shadows
  queues := g.queues.trans h.queues
  launches := g.launches.trans h.launches
  ghosts := g.ghosts.trans h.ghosts
  posts := g.posts.trans h.posts
  crew := g.crew.trans h.crew
  dmws := g.dmws.trans h.dmws
  keys := g.keys.trans h.keys
  ports := g.ports.trans h.ports
  imps := g.imps.trans h.imps
  exps := g.exps.trans h.exps
  errLog := g.errLog.trans h.errLog
  energy := g.energy.trans h.energy
  reply := g.reply.trans h.reply
  inbox := g.inbox.trans h.inbox
  focus := g.focus.trans h.focus
  draws := h.draws.trans g.draws
  regs := h.regs.trans g.regs
  dies := fun d => by
    have a := h.dies d
    rw [← g.dies d] at a
    exact a
  wf := fun w => g.wf (h.wf w)

theorem PkgRegs.memEq.viral {r q : PkgRegs} (h : r.memEq q) : q.viral = r.viral := by
  unfold PkgRegs.memEq at h
  rw [← h]

theorem MemFrame.viral {s t : State} (h : MemFrame s t) : t.regs.viral = s.regs.viral := h.regs.viral

theorem MemFrame.tile {s t : State} (h : MemFrame s t) (i : TileId) : t.tile i = s.tile i := by simp [State.tile, h.tiles]

/-! ## Writes that not every agent sees yet -/

theorem memFrame_narrow (s : State) (es : List NarrowWrite) (n : Nat) (h : s.draws ≤ n) : MemFrame s { s with narrow := es, draws := n } := by
  constructor <;> first | rfl | exact fun _ => rfl | exact id | exact h

theorem memFrame_settleAt (s : State) (host : Bool) (a n : Nat) : MemFrame s (s.settleAt host a n) := by
  unfold State.settleAt
  split
  · exact .refl s
  · exact memFrame_narrow s _ _ (Nat.le_refl _)

theorem settleAt_hostMem (s : State) (host : Bool) (a n : Nat) : (s.settleAt host a n).hostMem = s.hostMem := by
  unfold State.settleAt; split <;> rfl

theorem settleAt_gmem (s : State) (host : Bool) (a n : Nat) : (s.settleAt host a n).gmem = s.gmem := by
  unfold State.settleAt; split <;> rfl

theorem memFrame_addNarrow (s : State) (es : List NarrowWrite) : MemFrame s (s.addNarrow es) := memFrame_narrow s _ _ (Nat.le_refl _)

theorem memFrame_seenBy (s : State) (r : Agent) (host : Bool) (runs : List (Nat × Nat)) (bs : List Byte) :
    MemFrame s (s.seenBy r host runs bs).1 := by
  unfold State.seenBy
  simp only
  split
  · exact .refl s
  · exact memFrame_narrow s _ _ (Nat.le_succ _)

/-! ## Host memory and interrupts -/

theorem memFrame_hostStore (s : State) (a : Nat) (bs : List Byte) : MemFrame s (s.hostStore a bs) := by
  unfold State.hostStore
  split
  · exact .refl s
  · refine (memFrame_settleAt s true a bs.length).trans ?_
    constructor <;> try first | rfl | exact fun _ => rfl
    intro h
    simp only [Memory.wf, Bool.and_eq_true, settleAt_hostMem] at h ⊢
    exact ⟨⟨⟨h.1.1.1, wf_setRange 0 bs _ _ h.1.1.2⟩, h.1.2⟩, h.2⟩

theorem memFrame_raiseVector (s : State) (v : Nat) : MemFrame s (s.raiseVector v) := by
  unfold State.raiseVector
  split
  · simp only
    split
    · constructor <;> first | rfl | exact fun _ => rfl | exact id
    · exact memFrame_hostStore ..
  · exact .refl s

theorem memFrame_setStack (s : State) (n : Fin 8) (k : Stack) : MemFrame s (s.setStack n k) := by
  constructor <;> first | rfl | exact fun _ => rfl | exact id

theorem memFrame_setRegs (s : State) (r : PkgRegs) (h : s.regs.memEq r) : MemFrame s (s.setRegs r) := by
  constructor <;> first | rfl | exact h | exact fun _ => rfl | exact id

theorem memFrame_setFstat (s : State) (b : Nat) : MemFrame s (s.setFstat b) := by
  have h : ∀ r : PkgRegs, s.regs.memEq r → MemFrame s (if (!(s.regs.fstatBit b) && (s.setRegs r).regs.fctl.getLsbD b) = true
      then (s.setRegs r).raiseVector 16 else s.setRegs r) := fun r hr => by
    split
    · exact (memFrame_setRegs s r hr).trans (memFrame_raiseVector ..)
    · exact memFrame_setRegs s r hr
  unfold State.setFstat
  exact h _ (by split <;> rfl)

/-! ## Fault records and rows -/

theorem memFrame_faults (s : State) (fs : List WaitingFault) (n : Nat) : MemFrame s { s with faults := fs, nextId := n } := by
  constructor <;> first | rfl | exact fun _ => rfl | exact id

theorem memFrame_lineErr (s : State) (es : List LineError) : MemFrame s { s with lineErr := es } := by
  constructor <;> first | rfl | exact fun _ => rfl | exact id

theorem memFrame_setTail (s : State) (v : Word) : MemFrame s (s.setRegs { s.regs with fqTail := v }) := memFrame_setRegs s _ rfl
theorem memFrame_setLost (s : State) (v : Word) : MemFrame s (s.setRegs { s.regs with fqLost := v }) := memFrame_setRegs s _ rfl

theorem memFrame_pushFault (s : State) (rec : List Byte) : MemFrame s (s.pushFault rec) := by
  unfold State.pushFault
  simp only
  split
  · exact ((memFrame_hostStore s _ rec).trans (memFrame_setTail ..)).trans (memFrame_raiseVector ..)
  · exact (memFrame_hostStore s _ rec).trans (memFrame_setTail ..)

theorem memFrame_faultNow (s : State) (a : Accessor) (k : FaultKind) (w : Bool) (addr : Nat) : MemFrame s (s.faultNow a k w addr) := by
  unfold State.faultNow State.faultCode
  split
  · exact memFrame_setLost ..
  · exact memFrame_pushFault ..

theorem memFrame_faultWait (s : State) (a : Accessor) (w : Bool) (va : Nat) : MemFrame s (s.faultWait a w va).1 := by
  unfold State.faultWait
  split
  · exact .refl s
  · simp only
    split
    · exact memFrame_faults ..
    · exact (memFrame_faults s _ _).trans (memFrame_pushFault ..)

theorem MemFrame.foldl {α : Type} (f : State → α → State) (h : ∀ s x, MemFrame s (f s x)) :
    ∀ (xs : List α) (s : State), MemFrame s (xs.foldl f s)
  | [], s => .refl s
  | x :: xs, s => (h s x).trans (MemFrame.foldl f h xs _)

theorem memFrame_halveDue (s : State) : MemFrame s s.halveDue := by
  unfold State.halveDue
  constructor <;> first | rfl | exact fun _ => rfl | exact id

theorem memFrame_copyRow (s : State) (n : Fin 8) (row : Nat) : MemFrame s (s.copyRow n row) := by
  unfold State.copyRow
  refine (MemFrame.foldl _ (fun s e => ?_) _ s).trans (memFrame_lineErr _ _)
  simp only
  split
  · exact (memFrame_setStack s n _).trans (memFrame_setFstat _ 0)
  · exact memFrame_setStack s n _

theorem memFrame_pruneRow (s : State) (n : Fin 8) (row : Nat) : MemFrame s (s.pruneRow n row) := by
  unfold State.pruneRow
  simp only
  split
  · exact (memFrame_setStack s n _).trans (memFrame_copyRow ..)
  · exact (memFrame_setStack s n _).trans (MemFrame.foldl _ (fun s f => memFrame_faultNow s _ _ _ _) _ _)

theorem memFrame_corrected (s : State) (d pa : Nat) (sym : Byte) (src : ErrSrc) : MemFrame s (s.corrected d pa sym src) := by
  unfold State.corrected
  simp only
  split
  · exact (((memFrame_halveDue s).trans (memFrame_setStack _ _ _)).trans (memFrame_setFstat ..)).trans (memFrame_pruneRow ..)
  · exact ((memFrame_halveDue s).trans (memFrame_setStack _ _ _)).trans (memFrame_setFstat ..)

/-! ## Device memory -/

theorem memFrame_reach (s : State) (src : ErrSrc) (l : Nat) (b : Bool) : MemFrame s (s.reach src l b).1 := by
  unfold State.reach
  split
  · exact .refl s
  · split
    · exact .refl s
    · split
      · split
        · exact .refl s
        · split
          · exact memFrame_corrected ..
          · exact memFrame_setStack ..
      · exact .refl s

theorem MemFrame.foldl_fst {α β : Type} (f : State × β → α → State × β) (h : ∀ p x, MemFrame p.1 (f p x).1) :
    ∀ (xs : List α) (p : State × β), MemFrame p.1 (xs.foldl f p).1
  | [], p => .refl p.1
  | x :: xs, p => (h p x).trans (MemFrame.foldl_fst f h xs _)

theorem memFrame_readDev (s : State) (src : ErrSrc) (pa n : Nat) : MemFrame s (s.readDev src pa n).1 := by
  unfold State.readDev
  refine MemFrame.foldl_fst _ (fun p x => ?_) _ (s, _)
  obtain ⟨s, r⟩ := p
  cases r with
  | error e => exact .refl s
  | ok bs =>
    obtain ⟨l, o, k⟩ := x
    have h := memFrame_reach s src l true
    simp only
    generalize s.reach src l true = q at h ⊢
    obtain ⟨t, q⟩ := q
    cases q <;> exact h

theorem memFrame_writePiece (s : State) (l o : Nat) (bs : List Byte) : MemFrame s (s.writePiece l o bs).1 := by
  unfold State.writePiece
  have h := memFrame_reach s .partialWrite l (!(bs.length == 64))
  simp only
  generalize s.reach .partialWrite l (!(bs.length == 64)) = q at h ⊢
  obtain ⟨t, q⟩ := q
  cases q with
  | error e => exact h
  | ok d =>
    refine (h.trans (memFrame_settleAt t false (d * 64 + o) bs.length)).trans ?_
    constructor <;> try first | rfl | exact fun _ => rfl
    intro w
    simp only [Memory.wf, Bool.and_eq_true, settleAt_gmem] at w ⊢
    exact ⟨⟨⟨wf_setRange 0 bs _ _ w.1.1.1, w.1.1.2⟩, w.1.2⟩, w.2⟩

theorem memFrame_writePieces : ∀ (ps : List (Nat × Nat × Nat)) (s : State) (bs : List Byte), MemFrame s (s.writePieces bs ps).1
  | [], s, _ => .refl s
  | (l, o, k) :: ps, s, bs => by
    simp only [State.writePieces]
    exact (memFrame_writePiece s l o (bs.take k)).trans (memFrame_writePieces ps _ (bs.drop k))

theorem memFrame_writeDev (s : State) (pa : Nat) (bs : List Byte) : MemFrame s (s.writeDev pa bs).1 := memFrame_writePieces ..

theorem memFrame_writeDevAs (s : State) (w : Writer) (leaf : VPage) (ord pa : Nat) (bs : List Byte) :
    MemFrame s (s.writeDevAs w leaf ord pa bs).1 := by
  unfold State.writeDevAs
  have h := memFrame_writeDev s pa bs
  generalize s.writeDev pa bs = q at h ⊢
  obtain ⟨t, r⟩ := q
  simp only
  split
  · exact h
  · exact (h.trans (memFrame_narrow t _ _ (Nat.le_refl _))).trans (memFrame_addNarrow ..)

theorem memFrame_readDevBy (s : State) (a : Agent) (pa n : Nat) : MemFrame s (s.readDevBy a pa n).1 := by
  unfold State.readDevBy
  have h := memFrame_readDev s .agent pa n
  generalize s.readDev .agent pa n = q at h ⊢
  obtain ⟨t, r⟩ := q
  cases r with
  | error e => exact h
  | ok bs => exact h.trans (memFrame_seenBy ..)

theorem memFrame_hostStoreAs (s : State) (w : Writer) (leaf : VPage) (ord a : Nat) (bs : List Byte) :
    MemFrame s (s.hostStoreAs w leaf ord a bs) := by
  unfold State.hostStoreAs
  split
  · exact memFrame_hostStore ..
  · exact ((memFrame_hostStore s a bs).trans (memFrame_narrow _ _ _ (Nat.le_refl _))).trans (memFrame_addNarrow ..)

/-! ## Watched writes -/

/-- A free value taken. -/
theorem memFrame_draw (s : State) : MemFrame s { s with draws := s.draws + 1 } := by
  constructor <;> first | rfl | exact fun _ => rfl | exact Nat.le_succ _ | exact id

theorem memFrame_watchRecord (s : State) (n : Fin 8) (w : WatchSrc) (hit pa len : Nat) : MemFrame s (s.watchRecord n w hit pa len) := by
  unfold State.watchRecord
  simp only
  split
  · exact .refl s
  · split
    · exact memFrame_setStack ..
    · split
      · exact ((memFrame_writeDev s _ _).trans (memFrame_setStack ..)).trans (memFrame_raiseVector ..)
      · exact (memFrame_writeDev s _ _).trans (memFrame_setStack ..)

theorem memFrame_logWrites (s : State) (w : WatchSrc) (ws : List (Nat × Nat × Option Nat)) : MemFrame s (s.logWrites w ws) := by
  unfold State.logWrites
  refine (MemFrame.foldl _ (fun s pg => ?_) _ s).trans (MemFrame.foldl _ (fun s n => ?_) _ _)
  · simp only
    split
    · exact memFrame_watchRecord ..
    · exact .refl s
  · split
    · refine MemFrame.foldl _ (fun s i => ?_) _ s
      simp only
      split
      · exact .refl s
      · exact memFrame_watchRecord ..
    · exact .refl s

theorem memFrame_logOutside (s : State) (w : WatchSrc) (ws : List (Nat × Nat × Option Nat)) : MemFrame s (s.logOutside w ws) := by
  unfold State.logOutside
  refine MemFrame.foldl _ (fun s pg => ?_) _ s
  exact (memFrame_draw s).trans (memFrame_watchRecord ..)

theorem memFrame_logMade (s : State) (w : WatchSrc) (ms : List MadeWrite) : MemFrame s (s.logMade w ms) := by
  unfold State.logMade
  exact (memFrame_logWrites ..).trans (memFrame_logOutside ..)

/-! ## Translation -/

theorem memFrame_readFrom (s : State) (d : Option (Fin 8)) (pa n : Nat) : MemFrame s (s.readFrom d pa n).1 := by
  have h : ∀ b : Bool, MemFrame s (if b then (s, .error .fenced) else s.readDev .agent pa n).1 := fun b => by
    cases b
    · exact memFrame_readDev ..
    · exact .refl s
  exact h _

theorem memFrame_ctxEntry (s : State) (d : Option (Fin 8)) (c : BitVec 16) : MemFrame s (s.ctxEntry d c).1 := by
  unfold State.ctxEntry
  simp only
  split
  · exact .refl s
  · have h := memFrame_readFrom s d (s.regs.ctxBase + 64 * c.toNat) 64
    generalize s.readFrom d (s.regs.ctxBase + 64 * c.toNat) 64 = q at h ⊢
    obtain ⟨t, q⟩ := q
    cases q <;> exact h

theorem memFrame_walkGo (d : Option (Fin 8)) (va : Nat) : ∀ (fuel : Nat) (s : State) (lvl table : Nat),
    MemFrame s (s.walkGo d va fuel lvl table).1
  | 0, s, _, _ => .refl s
  | fuel + 1, s, lvl, table => by
    simp only [State.walkGo]
    have h := memFrame_readFrom s d (table + 8 * (va / 2 ^ levelShift lvl % 2 ^ levelBits lvl)) 8
    generalize s.readFrom d (table + 8 * (va / 2 ^ levelShift lvl % 2 ^ levelBits lvl)) 8 = q at h ⊢
    obtain ⟨t, q⟩ := q
    cases q with
    | error e => exact h
    | ok bs =>
      simp only
      split
      · exact h
      · split
        · exact h
        · split
          · exact h
          · exact h.trans (memFrame_walkGo d va fuel t _ _)

theorem memFrame_translate (s : State) (c : BitVec 16) (va : Nat) (w : Bool) : MemFrame s (s.translate c va w).1 := by
  unfold State.translate
  have h := memFrame_ctxEntry s none c
  generalize s.ctxEntry none c = q at h ⊢
  obtain ⟨t, q⟩ := q
  cases q with
  | error e => exact h
  | ok e =>
    simp only
    have h2 := memFrame_walkGo none va 5 t 0 e.root
    generalize t.walkGo none va 5 0 e.root = q at h2 ⊢
    obtain ⟨u, q⟩ := q
    cases q <;> exact h.trans h2

theorem memFrame_walkRecord (s : State) (a : Accessor) (e : WalkFault) (w : Bool) (va : Nat) : MemFrame s (s.walkRecord a e w va) := by
  unfold State.walkRecord
  split
  · exact memFrame_faultNow ..
  · exact memFrame_faultNow ..
  · exact memFrame_faultNow ..
  · exact memFrame_faultNow ..
  · exact .refl s

/-! ## The front-end's accesses -/

theorem memFrame_fePage (s : State) (who : Agent) (told : Bool) (c : BitVec 16) (va n : Nat) :
    MemFrame s (s.fePage who told c va n).1 := by
  unfold State.fePage
  have h := memFrame_translate s c va false
  generalize s.translate c va false = q at h ⊢
  obtain ⟨t, q⟩ := q
  simp only
  split
  · split
    · exact h.trans (memFrame_faultNow ..)
    · exact h
  · exact h.trans (memFrame_walkRecord ..)
  · rename_i g
    split
    · have h2 := memFrame_readDevBy t who g.addr n
      generalize t.readDevBy who g.addr n = q at h2 ⊢
      obtain ⟨u, q⟩ := q
      cases q with
      | ok bs => exact h.trans h2
      | error e =>
        simp only
        split
        · exact (h.trans h2).trans (memFrame_faultNow ..)
        · exact h.trans h2
    · exact h.trans (memFrame_seenBy ..)
    · exact h.trans (memFrame_faultNow ..)

theorem memFrame_feReadGo (s : State) (who : Agent) (told : Bool) (c : BitVec 16) (va n : Nat) :
    MemFrame s (s.feReadGo who told c va n).1 := by
  unfold State.feReadGo
  refine MemFrame.foldl_fst _ (fun p x => ?_) _ (s, _)
  obtain ⟨s, r⟩ := p
  cases r with
  | none => exact .refl s
  | some bs => exact memFrame_fePage ..

theorem memFrame_feRead (s : State) (c : BitVec 16) (va n : Nat) : MemFrame s (s.feRead c va n).1 := memFrame_feReadGo ..

theorem memFrame_feWritePage (s : State) (w : Writer) (told : Bool) (c : BitVec 16) (va : Nat) (bs : List Byte) :
    MemFrame s (s.feWritePage w told c va bs).1 := by
  unfold State.feWritePage
  have h := memFrame_translate s c va true
  generalize s.translate c va true = q at h ⊢
  obtain ⟨t, q⟩ := q
  simp only
  split
  · split
    · exact h.trans (memFrame_faultNow ..)
    · exact h
  · exact h.trans (memFrame_walkRecord ..)
  · rename_i g
    split
    · have h2 := memFrame_writeDevAs t w g.leaf g.ord g.addr bs
      generalize t.writeDevAs w g.leaf g.ord g.addr bs = q at h2 ⊢
      obtain ⟨u, q⟩ := q
      cases q with
      | ok v => exact h.trans h2
      | error e =>
        simp only
        split
        · exact (h.trans h2).trans (memFrame_faultNow ..)
        · exact h.trans h2
    · exact h.trans (memFrame_hostStoreAs ..)
    · exact h.trans (memFrame_faultNow ..)

theorem memFrame_feWritePages (w : Writer) (told : Bool) (c : BitVec 16) : ∀ (ps : List (Nat × Nat)) (s : State) (bs : List Byte),
    MemFrame s (s.feWritePages w told c bs ps).1
  | [], s, _ => .refl s
  | (a, k) :: ps, s, bs => by
    simp only [State.feWritePages]
    exact (memFrame_feWritePage s w told c a (bs.take k)).trans (memFrame_feWritePages w told c ps _ (bs.drop k))

theorem memFrame_feWriteGo (s : State) (w : WatchSrc) (by' : Writer) (told : Bool) (c : BitVec 16) (bs : List Byte)
    (ps : List (Nat × Nat)) : MemFrame s (s.feWriteGo w by' told c bs ps).1 := by
  unfold State.feWriteGo
  have h := memFrame_feWritePages by' told c ps s bs
  generalize s.feWritePages by' told c bs ps = q at h ⊢
  obtain ⟨t, ok, made⟩ := q
  exact h.trans (memFrame_logMade ..)

theorem memFrame_feStore (s : State) (scope : Nat) (c : BitVec 16) (va : Nat) (bs : List Byte) :
    MemFrame s (s.feStore scope c va bs).1 := by
  unfold State.feStore
  exact memFrame_feWriteGo ..

theorem memFrame_feWord (s : State) (scope : Nat) (c : BitVec 16) (va value : Nat) : MemFrame s (s.feWord scope c va value) := by
  unfold State.feWord
  exact memFrame_feWriteGo ..

theorem memFrame_feWrite (s : State) (c : BitVec 16) (va : Nat) (bs : List Byte) : MemFrame s (s.feWrite c va bs).1 := by
  unfold State.feWrite
  exact memFrame_feStore s 4 c va bs

/-! ## The error log -/

/-- An entry of the error log keeps the memories canonical. -/
theorem memoryWf_logError (s : State) (cls src unit : Nat) (detail : List Byte) (h : Memory.wf s = true) :
    Memory.wf (s.logError cls src unit detail) = true := by
  unfold State.logError
  simp only [Memory.wf, Bool.and_eq_true] at h ⊢
  generalize errEntry s.time cls src unit detail = e
  exact ⟨⟨h.1.1, wf_set 0 s.regs.logNext e h.1.2⟩, h.2⟩

end Sys2Proof.Machine
end

