-- ==== Sys2Proof/Laws/PerInstr.lean ====
section
/-! SUPPORT. What the encoding says of every instruction, one lemma for each: a slot instruction's word decodes to it and keeps its
stop bit, and an event has no word (spec/02_formats_and_opcode_map.md R55-R60, R77). -/

namespace Sys2Proof.Laws.Encoding

set_option Elab.async false

/-- Every word of a well-formed slot instruction decodes to that instruction, with the stop bit it was given; an instruction that
is no slot has no word. -/
def Statement (i : Instr) : Prop :=
  i.wf = true → ∀ stop : Bool,
    if i.isSlot then ∃ w, encode stop i = some w ∧ decodeSlot w = .ok i ∧ stopBit w = stop else encode stop i = none

theorem slot {i : Instr} {f : SlotFields} (he : encodeFields i = some f) (ha : opAssigned f.op.toNat = true)
    (hd : i.wf = true → decodeFields f = some i) : Statement i := by
  intro hw stop
  simp only [Instr.isSlot, he, Option.isSome_some, if_true]
  exact ⟨packSlot stop f, by simp [encode, he], decodeSlot_packSlot stop ha (hd hw), stopBit_packSlot stop f⟩

theorem event {i : Instr} (he : encodeFields i = none) : Statement i := by
  intro _ stop
  simp [Instr.isSlot, encode, he]

theorem nop : Statement .nop :=
  slot rfl rfl fun _ => by simp [decodeFields, decodeS, zzz]
theorem add (sd sa sb : SReg) : Statement (.add sd sa sb) :=
  slot rfl rfl fun _ => by simp [decodeFields, decodeS, sss]
theorem sub (sd sa sb : SReg) : Statement (.sub sd sa sb) :=
  slot rfl rfl fun _ => by simp [decodeFields, decodeS, sss]
theorem mul (sd sa sb : SReg) : Statement (.mul sd sa sb) :=
  slot rfl rfl fun _ => by simp [decodeFields, decodeS, sss]
theorem mulh (sd sa sb : SReg) : Statement (.mulh sd sa sb) :=
  slot rfl rfl fun _ => by simp [decodeFields, decodeS, sss]
theorem mulhu (sd sa sb : SReg) : Statement (.mulhu sd sa sb) :=
  slot rfl rfl fun _ => by simp [decodeFields, decodeS, sss]
theorem div (sd sa sb : SReg) : Statement (.div sd sa sb) :=
  slot rfl rfl fun _ => by simp [decodeFields, decodeS, sss]
theorem divu (sd sa sb : SReg) : Statement (.divu sd sa sb) :=
  slot rfl rfl fun _ => by simp [decodeFields, decodeS, sss]
theorem rem (sd sa sb : SReg) : Statement (.rem sd sa sb) :=
  slot rfl rfl fun _ => by simp [decodeFields, decodeS, sss]
theorem remu (sd sa sb : SReg) : Statement (.remu sd sa sb) :=
  slot rfl rfl fun _ => by simp [decodeFields, decodeS, sss]
theorem and (sd sa sb : SReg) : Statement (.and sd sa sb) :=
  slot rfl rfl fun _ => by simp [decodeFields, decodeS, sss]
theorem or (sd sa sb : SReg) : Statement (.or sd sa sb) :=
  slot rfl rfl fun _ => by simp [decodeFields, decodeS, sss]
theorem xor (sd sa sb : SReg) : Statement (.xor sd sa sb) :=
  slot rfl rfl fun _ => by simp [decodeFields, decodeS, sss]
theorem shl (sd sa sb : SReg) : Statement (.shl sd sa sb) :=
  slot rfl rfl fun _ => by simp [decodeFields, decodeS, sss]
theorem shr (sd sa sb : SReg) : Statement (.shr sd sa sb) :=
  slot rfl rfl fun _ => by simp [decodeFields, decodeS, sss]
theorem sra (sd sa sb : SReg) : Statement (.sra sd sa sb) :=
  slot rfl rfl fun _ => by simp [decodeFields, decodeS, sss]
theorem addi (sd sa : SReg) (imm : BitVec 8) : Statement (.addi sd sa imm) :=
  slot rfl rfl fun _ => by simp [decodeFields, decodeS, ssi]
theorem andi (sd sa : SReg) (imm : BitVec 8) : Statement (.andi sd sa imm) :=
  slot rfl rfl fun _ => by simp [decodeFields, decodeS, ssi]
theorem ori (sd sa : SReg) (imm : BitVec 8) : Statement (.ori sd sa imm) :=
  slot rfl rfl fun _ => by simp [decodeFields, decodeS, ssi]
theorem shli (sd sa : SReg) (amt : BitVec 5) : Statement (.shli sd sa amt) :=
  slot rfl rfl fun _ => by simp [decodeFields, decodeS, ssh]
theorem shri (sd sa : SReg) (amt : BitVec 5) : Statement (.shri sd sa amt) :=
  slot rfl rfl fun _ => by simp [decodeFields, decodeS, ssh]
theorem srai (sd sa : SReg) (amt : BitVec 5) : Statement (.srai sd sa amt) :=
  slot rfl rfl fun _ => by simp [decodeFields, decodeS, ssh]
theorem setlo (sd : SReg) (imm : BitVec 16) : Statement (.setlo sd imm) :=
  slot rfl rfl fun _ => by simp [decodeFields, decodeS, s16]
theorem sethi (sd : SReg) (imm : BitVec 16) : Statement (.sethi sd imm) :=
  slot rfl rfl fun _ => by simp [decodeFields, decodeS, s16]
theorem seq (sd sa sb : SReg) : Statement (.seq sd sa sb) :=
  slot rfl rfl fun _ => by simp [decodeFields, decodeS, sss]
theorem slt (sd sa sb : SReg) : Statement (.slt sd sa sb) :=
  slot rfl rfl fun _ => by simp [decodeFields, decodeS, sss]
theorem sltu (sd sa sb : SReg) : Statement (.sltu sd sa sb) :=
  slot rfl rfl fun _ => by simp [decodeFields, decodeS, sss]
theorem min (sd sa sb : SReg) : Statement (.min sd sa sb) :=
  slot rfl rfl fun _ => by simp [decodeFields, decodeS, sss]
theorem max (sd sa sb : SReg) : Statement (.max sd sa sb) :=
  slot rfl rfl fun _ => by simp [decodeFields, decodeS, sss]
theorem sel (sd sa sb : SReg) : Statement (.sel sd sa sb) :=
  slot rfl rfl fun _ => by simp [decodeFields, decodeS, sss]
theorem clz (sd sa : SReg) : Statement (.clz sd sa) :=
  slot rfl rfl fun _ => by simp [decodeFields, decodeS, xop]
theorem popc (sd sa : SReg) : Statement (.popc sd sa) :=
  slot rfl rfl fun _ => by simp [decodeFields, decodeS, xop]
theorem brev (sd sa : SReg) : Statement (.brev sd sa) :=
  slot rfl rfl fun _ => by simp [decodeFields, decodeS, xop]
theorem sextb (sd sa : SReg) : Statement (.sextb sd sa) :=
  slot rfl rfl fun _ => by simp [decodeFields, decodeS, xop]
theorem sexth (sd sa : SReg) : Statement (.sexth sd sa) :=
  slot rfl rfl fun _ => by simp [decodeFields, decodeS, xop]
theorem zextb (sd sa : SReg) : Statement (.zextb sd sa) :=
  slot rfl rfl fun _ => by simp [decodeFields, decodeS, xop]
theorem zexth (sd sa : SReg) : Statement (.zexth sd sa) :=
  slot rfl rfl fun _ => by simp [decodeFields, decodeS, xop]
theorem abs (sd sa : SReg) : Statement (.abs sd sa) :=
  slot rfl rfl fun _ => by simp [decodeFields, decodeS, xop]
theorem not (sd sa : SReg) : Statement (.not sd sa) :=
  slot rfl rfl fun _ => by simp [decodeFields, decodeS, xop]
theorem br (off : BitVec 16) : Statement (.br off) :=
  slot rfl rfl fun _ => by simp [decodeFields, decodeC, branch]
theorem brz (sr : SReg) (off : BitVec 16) : Statement (.brz sr off) :=
  slot rfl rfl fun _ => by simp [decodeFields, decodeC, branch]
theorem brnz (sr : SReg) (off : BitVec 16) : Statement (.brnz sr off) :=
  slot rfl rfl fun _ => by simp [decodeFields, decodeC, branch]
theorem brlz (sr : SReg) (off : BitVec 16) : Statement (.brlz sr off) :=
  slot rfl rfl fun _ => by simp [decodeFields, decodeC, branch]
theorem jr (sa : SReg) : Statement (.jr sa) :=
  slot rfl rfl fun _ => by simp [decodeFields, decodeC, zsz]
theorem call (off : BitVec 16) : Statement (.call off) :=
  slot rfl rfl fun _ => by simp [decodeFields, decodeC, z16]
theorem callr (sa : SReg) : Statement (.callr sa) :=
  slot rfl rfl fun _ => by simp [decodeFields, decodeC, zsz]
theorem loop (sc : SReg) (off : BitVec 16) : Statement (.loop sc off) :=
  slot rfl rfl fun _ => by simp [decodeFields, decodeC, s16]
theorem loopi (count : BitVec 8) (off : BitVec 16) : Statement (.loopi count off) :=
  slot rfl rfl fun _ => by simp [decodeFields, decodeC]
theorem lbrk : Statement .lbrk :=
  slot rfl rfl fun _ => by simp [decodeFields, decodeC, zzz]
theorem lidx (sd : SReg) (level : Fin 6) : Statement (.lidx sd level) :=
  slot rfl rfl fun _ => by fin_cases level <;> simp [decodeFields, decodeC, Sys2Proof.lidx]
theorem pend : Statement .pend :=
  slot rfl rfl fun _ => by simp [decodeFields, decodeC, zzz]
theorem pendCommit (t : TileId) : Statement (.pendCommit t) := event rfl
theorem segchk (sa sb : SReg) : Statement (.segchk sa sb) :=
  slot rfl rfl fun _ => by simp [decodeFields, decodeC, zss]
theorem trap (imm : BitVec 16) : Statement (.trap imm) :=
  slot rfl rfl fun _ => by simp [decodeFields, decodeC, z16]
theorem rte : Statement .rte :=
  slot rfl rfl fun _ => by simp [decodeFields, decodeC, zzz]
theorem bkpt (imm : BitVec 16) : Statement (.bkpt imm) :=
  slot rfl rfl fun _ => by simp [decodeFields, decodeC, z16]
theorem movk (sd : SReg) (k : KReg) : Statement (.movk sd k) :=
  slot rfl rfl fun _ => by simp [decodeFields, decodeC, szs]
theorem kmov (k : KReg) (sa : SReg) : Statement (.kmov k sa) :=
  slot rfl rfl fun _ => by simp [decodeFields, decodeC, ssz]
theorem tstamp (pair : BitVec 5) : Statement (.tstamp pair) :=
  slot rfl rfl fun _ => by simp [decodeFields, decodeC, tstampOf]
theorem vadd (pd pa pb : Line) : Statement (.vadd pd pa pb) :=
  slot rfl rfl fun _ => by simp [decodeFields, decodeV, ppp]
theorem vsub (pd pa pb : Line) : Statement (.vsub pd pa pb) :=
  slot rfl rfl fun _ => by simp [decodeFields, decodeV, ppp]
theorem vmul (pd pa pb : Line) : Statement (.vmul pd pa pb) :=
  slot rfl rfl fun _ => by simp [decodeFields, decodeV, ppp]
theorem vfma (pd pa pb : Line) : Statement (.vfma pd pa pb) :=
  slot rfl rfl fun _ => by simp [decodeFields, decodeV, ppp]
theorem vfms (pd pa pb : Line) : Statement (.vfms pd pa pb) :=
  slot rfl rfl fun _ => by simp [decodeFields, decodeV, ppp]
theorem vfnma (pd pa pb : Line) : Statement (.vfnma pd pa pb) :=
  slot rfl rfl fun _ => by simp [decodeFields, decodeV, ppp]
theorem vmin (pd pa pb : Line) : Statement (.vmin pd pa pb) :=
  slot rfl rfl fun _ => by simp [decodeFields, decodeV, ppp]
theorem vmax (pd pa pb : Line) : Statement (.vmax pd pa pb) :=
  slot rfl rfl fun _ => by simp [decodeFields, decodeV, ppp]
theorem vabs (pd pa : Line) : Statement (.vabs pd pa) :=
  slot rfl rfl fun _ => by simp [decodeFields, decodeV, ppz]
theorem vneg (pd pa : Line) : Statement (.vneg pd pa) :=
  slot rfl rfl fun _ => by simp [decodeFields, decodeV, ppz]
theorem vrcp (pd pa : Line) : Statement (.vrcp pd pa) :=
  slot rfl rfl fun _ => by simp [decodeFields, decodeV, ppz]
theorem vrsq (pd pa : Line) : Statement (.vrsq pd pa) :=
  slot rfl rfl fun _ => by simp [decodeFields, decodeV, ppz]
theorem vexp2 (pd pa : Line) : Statement (.vexp2 pd pa) :=
  slot rfl rfl fun _ => by simp [decodeFields, decodeV, ppz]
theorem vlog2 (pd pa : Line) : Statement (.vlog2 pd pa) :=
  slot rfl rfl fun _ => by simp [decodeFields, decodeV, ppz]
theorem vcvt (pd pa : Line) (src dst : ElemType) : Statement (.vcvt pd pa src dst) :=
  slot rfl rfl fun h => by simp_all [decodeFields, decodeV, vcvtOf, Instr.wf]
theorem vcmp (cond : VCond) (md : MaskReg) (pa pb : Line) : Statement (.vcmp cond md pa pb) :=
  slot rfl rfl fun h => by simp_all [decodeFields, decodeV, vcmpOf, Instr.wf]
theorem vsel (pd pa pb : Line) : Statement (.vsel pd pa pb) :=
  slot rfl rfl fun _ => by simp [decodeFields, decodeV, ppp]
theorem vand (pd pa pb : Line) : Statement (.vand pd pa pb) :=
  slot rfl rfl fun _ => by simp [decodeFields, decodeV, ppp]
theorem vor (pd pa pb : Line) : Statement (.vor pd pa pb) :=
  slot rfl rfl fun _ => by simp [decodeFields, decodeV, ppp]
theorem vxor (pd pa pb : Line) : Statement (.vxor pd pa pb) :=
  slot rfl rfl fun _ => by simp [decodeFields, decodeV, ppp]
theorem vshl (pd pa pb : Line) : Statement (.vshl pd pa pb) :=
  slot rfl rfl fun _ => by simp [decodeFields, decodeV, ppp]
theorem vshr (pd pa pb : Line) : Statement (.vshr pd pa pb) :=
  slot rfl rfl fun _ => by simp [decodeFields, decodeV, ppp]
theorem vsra (pd pa pb : Line) : Statement (.vsra pd pa pb) :=
  slot rfl rfl fun _ => by simp [decodeFields, decodeV, ppp]
theorem vadds (pd pa : Line) (sb : SReg) : Statement (.vadds pd pa sb) :=
  slot rfl rfl fun _ => by simp [decodeFields, decodeV, pps]
theorem vmuls (pd pa : Line) (sb : SReg) : Statement (.vmuls pd pa sb) :=
  slot rfl rfl fun _ => by simp [decodeFields, decodeV, pps]
theorem vfmas (pd pa : Line) (sb : SReg) : Statement (.vfmas pd pa sb) :=
  slot rfl rfl fun _ => by simp [decodeFields, decodeV, pps]
theorem vbcast (pd : Line) (sa : SReg) : Statement (.vbcast pd sa) :=
  slot rfl rfl fun _ => by simp [decodeFields, decodeV, psz]
theorem viota (pd : Line) : Statement (.viota pd) :=
  slot rfl rfl fun _ => by simp [decodeFields, decodeV, pzz]
theorem vshuf (pd pa pb : Line) : Statement (.vshuf pd pa pb) :=
  slot rfl rfl fun _ => by simp [decodeFields, decodeV, ppp]
theorem vscan (pd pa : Line) (op : ScanOp) : Statement (.vscan pd pa op) :=
  slot rfl rfl fun _ => by cases op <;> simp [encScan, decodeFields, decodeV, vscanOf]
theorem vred (sd : SReg) (pa : Line) (op : RedOp) : Statement (.vred sd pa op) :=
  slot rfl rfl fun _ => by simp [decodeFields, decodeV, vredOf]
theorem vcfg (imm : BitVec 16) : Statement (.vcfg imm) :=
  slot rfl rfl fun _ => by simp [decodeFields, decodeV, z16]
theorem ldl (pd : Line) (sa : SReg) (imm : BitVec 8) : Statement (.ldl pd sa imm) :=
  slot rfl rfl fun _ => by simp [decodeFields, decodeL, psi]
theorem stl (ps : Line) (sa : SReg) (imm : BitVec 8) : Statement (.stl ps sa imm) :=
  slot rfl rfl fun _ => by simp [decodeFields, decodeL, psi]
theorem ldlx (pd : Line) (sa sb : SReg) : Statement (.ldlx pd sa sb) :=
  slot rfl rfl fun _ => by simp [decodeFields, decodeL, pss]
theorem stlx (ps : Line) (sa sb : SReg) : Statement (.stlx ps sa sb) :=
  slot rfl rfl fun _ => by simp [decodeFields, decodeL, pss]
theorem ldw (sd sa : SReg) (imm : BitVec 8) : Statement (.ldw sd sa imm) :=
  slot rfl rfl fun _ => by simp [decodeFields, decodeL, ssi]
theorem stw (ss sa : SReg) (imm : BitVec 8) : Statement (.stw ss sa imm) :=
  slot rfl rfl fun _ => by simp [decodeFields, decodeL, ssi]
theorem ldc (pd : Line) (sa : SReg) : Statement (.ldc pd sa) :=
  slot rfl rfl fun _ => by simp [decodeFields, decodeL, psz]
theorem stc (ps : Line) (sa : SReg) : Statement (.stc ps sa) :=
  slot rfl rfl fun _ => by simp [decodeFields, decodeL, psz]
theorem ldg (pd : Line) (sa : SReg) (pb : Line) : Statement (.ldg pd sa pb) :=
  slot rfl rfl fun _ => by simp [decodeFields, decodeL, psp]
theorem stg (ps : Line) (sa : SReg) (pb : Line) : Statement (.stg ps sa pb) :=
  slot rfl rfl fun _ => by simp [decodeFields, decodeL, psp]
theorem atom (op : AtomOp) (sd sa : SReg) (space : AtomSpace) (sb : SReg) : Statement (.atom op sd sa space sb) :=
  slot rfl rfl fun _ => by cases space <;> simp [encSpace, decodeFields, decodeL, atomOf]
theorem ldm (m : MaskReg) (sa : SReg) (imm : BitVec 8) : Statement (.ldm m sa imm) :=
  slot rfl rfl fun h => by simp_all [decodeFields, decodeL, ldmOf, Instr.wf]
theorem stm (m : MaskReg) (sa : SReg) (imm : BitVec 8) : Statement (.stm m sa imm) :=
  slot rfl rfl fun _ => by simp [decodeFields, decodeL, stmOf]
theorem mmul (acc : BitVec 4) (sa : SReg) (rows : BitVec 4) (lay : BitVec 2) : Statement (.mmul acc sa rows lay) :=
  slot rfl rfl fun _ => by simp [decodeFields, decodeM, mmulOf]
theorem mmulz (acc : BitVec 4) (sa : SReg) (rows : BitVec 4) (lay : BitVec 2) : Statement (.mmulz acc sa rows lay) :=
  slot rfl rfl fun _ => by simp [decodeFields, decodeM, mmulOf]
theorem mmuld (accPair : BitVec 3) (sa : SReg) (rows : BitVec 4) (lay : BitVec 2) : Statement (.mmuld accPair sa rows lay) :=
  slot rfl rfl fun _ => by simp [decodeFields, decodeM, mmuldOf]
theorem mmuldz (accPair : BitVec 3) (sa : SReg) (rows : BitVec 4) (lay : BitVec 2) : Statement (.mmuldz accPair sa rows lay) :=
  slot rfl rfl fun _ => by simp [decodeFields, decodeM, mmuldOf]
theorem mstream (mac : BitVec 3) (sa : SReg) (sem : BitVec 6) : Statement (.mstream mac sa sem) :=
  slot rfl rfl fun _ => by simp [decodeFields, decodeM, mstreamOf]
theorem mldw (mac : BitVec 3) (sa : SReg) : Statement (.mldw mac sa) :=
  slot rfl rfl fun _ => by simp [decodeFields, decodeM, mldwOf]
theorem mva (pd : Line) (half : BitVec 1) (acc row : BitVec 4) : Statement (.mva pd half acc row) :=
  slot rfl rfl fun _ => by simp [decodeFields, decodeM, mvaOf]
theorem mvaz (pd : Line) (half : BitVec 1) (acc row : BitVec 4) : Statement (.mvaz pd half acc row) :=
  slot rfl rfl fun _ => by simp [decodeFields, decodeM, mvaOf]
theorem macz (acc : BitVec 4) : Statement (.macz acc) :=
  slot rfl rfl fun _ => by simp [decodeFields, decodeM, maczOf]
theorem mlay (lay : BitVec 2) (sa : SReg) : Statement (.mlay lay sa) :=
  slot rfl rfl fun _ => by simp [decodeFields, decodeM, mlayOf]
theorem mcfg (imm : BitVec 16) : Statement (.mcfg imm) :=
  slot rfl rfl fun _ => by simp [decodeFields, decodeM, z16]
theorem mwait (mac : BitVec 3) : Statement (.mwait mac) :=
  slot rfl rfl fun _ => by simp [decodeFields, decodeM, mwaitOf]
theorem mwaitCommit (t : TileId) : Statement (.mwaitCommit t) := event rfl
theorem trise (shp : BitVec 6) (sa sb : SReg) : Statement (.trise shp sa sb) :=
  slot rfl rfl fun _ => by simp [decodeFields, decodeT, sss]
theorem tfall (shp : BitVec 6) (sa sb : SReg) : Statement (.tfall shp sa sb) :=
  slot rfl rfl fun _ => by simp [decodeFields, decodeT, sss]
theorem tld (blk : BitVec 4) (sa : SReg) : Statement (.tld blk sa) :=
  slot rfl rfl fun _ => by simp [decodeFields, decodeT, blkS]
theorem tst (blk : BitVec 4) (sa : SReg) : Statement (.tst blk sa) :=
  slot rfl rfl fun _ => by simp [decodeFields, decodeT, blkS]
theorem tmvp (pd : Line) (blk : BitVec 4) : Statement (.tmvp pd blk) :=
  slot rfl rfl fun _ => by simp [decodeFields, decodeT, tmvpOf]
theorem tmvn (blk : BitVec 4) (pa : Line) : Statement (.tmvn blk pa) :=
  slot rfl rfl fun _ => by simp [decodeFields, decodeT, tmvnOf]
theorem tshp (shp : BitVec 6) (sa : SReg) : Statement (.tshp shp sa) :=
  slot rfl rfl fun _ => by simp [decodeFields, decodeT, ssz]
theorem tcfg (imm : BitVec 16) : Statement (.tcfg imm) :=
  slot rfl rfl fun _ => by simp [decodeFields, decodeT, z16]
theorem spost (scope : PostScope) (sem : BitVec 6) (sa sb : SReg) : Statement (.spost scope sem sa sb) :=
  slot rfl rfl fun _ => by cases scope <;> simp [encPost, decodeFields, decodeQ, spostOf]
theorem swait (sem : BitVec 6) (sb : SReg) : Statement (.swait sem sb) :=
  slot rfl rfl fun _ => by simp [decodeFields, decodeQ, szs]
theorem swaitSatisfied (t : TileId) : Statement (.swaitSatisfied t) := event rfl
theorem spoll (sd : SReg) (sem : BitVec 6) : Statement (.spoll sd sem) :=
  slot rfl rfl fun _ => by simp [decodeFields, decodeQ, szs]
theorem fence (kind : FenceKind) (scope : MemScope) : Statement (.fence kind scope) :=
  slot rfl rfl fun h => by cases kind <;> cases scope <;> rfl
theorem fenceCommit (t : TileId) : Statement (.fenceCommit t) := event rfl
theorem cpy (sa : SReg) : Statement (.cpy sa) :=
  slot rfl rfl fun _ => by simp [decodeFields, decodeQ, zsz]
theorem cpyQueueSlotFree (t : TileId) : Statement (.cpyQueueSlotFree t) := event rfl
theorem cpyq (sd : SReg) : Statement (.cpyq sd) :=
  slot rfl rfl fun _ => by simp [decodeFields, decodeQ, szz]
theorem sprintClaim : Statement .sprintClaim :=
  slot rfl rfl fun _ => by simp [decodeFields, decodeQ, sprintOf]
theorem sprintRelease : Statement .sprintRelease :=
  slot rfl rfl fun _ => by simp [decodeFields, decodeQ, sprintOf]
theorem bundleIssue (t : TileId) (stall : Nat) : Statement (.bundleIssue t stall) := event rfl
theorem replayReissue (t : TileId) : Statement (.replayReissue t) := event rfl
theorem tileSleep (t : TileId) : Statement (.tileSleep t) := event rfl
theorem tileWake (t : TileId) : Statement (.tileWake t) := event rfl
theorem semaphorePostArrival (i : Nat) : Statement (.semaphorePostArrival i) := event rfl
theorem crewAccessArrival (i : Nat) : Statement (.crewAccessArrival i) := event rfl
theorem crewAtomReturn (t : TileId) : Statement (.crewAtomReturn t) := event rfl
theorem ldcWriteback (t : TileId) (e : BitVec 4) : Statement (.ldcWriteback t e) := event rfl
theorem ldgWriteback (t : TileId) (e : BitVec 4) : Statement (.ldgWriteback t e) := event rfl
theorem stgWriteback (t : TileId) (e : BitVec 4) : Statement (.stgWriteback t e) := event rfl
theorem mmulWriteback (t : TileId) (e : BitVec 4) : Statement (.mmulWriteback t e) := event rfl
theorem mldwFillDone (t : TileId) (e : BitVec 4) : Statement (.mldwFillDone t e) := event rfl
theorem triseWriteback (t : TileId) (e : BitVec 4) : Statement (.triseWriteback t e) := event rfl
theorem tfallWriteback (t : TileId) (e : BitVec 4) : Statement (.tfallWriteback t e) := event rfl
theorem tldWriteback (t : TileId) (e : BitVec 4) : Statement (.tldWriteback t e) := event rfl
theorem copyStart (t : TileId) (id : Nat) : Statement (.copyStart t id) := event rfl
theorem copyComplete (t : TileId) (id : Nat) : Statement (.copyComplete t id) := event rfl
theorem copyFail (t : TileId) (id : Nat) (cause : CopyFailCause) (landed : List Nat) : Statement (.copyFail t id cause landed) := event rfl
theorem mstreamStart (t : TileId) (id : Nat) : Statement (.mstreamStart t id) := event rfl
theorem mstreamComplete (t : TileId) (id : Nat) : Statement (.mstreamComplete t id) := event rfl
theorem mstreamFail (t : TileId) (id : Nat) (cause : CopyFailCause) : Statement (.mstreamFail t id cause) := event rfl
theorem pointDeadline (t : TileId) : Statement (.pointDeadline t) := event rfl
theorem tileHangTimeout (t : TileId) : Statement (.tileHangTimeout t) := event rfl
theorem halfWidthEnd (t : TileId) : Statement (.halfWidthEnd t) := event rfl
theorem stretchEnd (t : TileId) : Statement (.stretchEnd t) := event rfl
theorem droop (t : TileId) : Statement (.droop t) := event rfl
theorem rowOpen (d : Fin 8) (h : BitVec 16) : Statement (.rowOpen d h) := event rfl
theorem pointFire (d : Fin 8) : Statement (.pointFire d) := event rfl
theorem pointStart (d : Fin 8) (h : BitVec 16) (serial : Nat) : Statement (.pointStart d h serial) := event rfl
theorem pointCompletion (d : Fin 8) (h : BitVec 16) (serial : Nat) : Statement (.pointCompletion d h serial) := event rfl
theorem mirrorUpdate (d : Fin 8) (h : BitVec 16) (src : Fin 8) : Statement (.mirrorUpdate d h src) := event rfl
theorem priorityAge (d : Fin 8) (h : BitVec 16) : Statement (.priorityAge d h) := event rfl
theorem rectangleReservation (d : Fin 8) (h : BitVec 16) : Statement (.rectangleReservation d h) := event rfl
theorem launchCompletion (h : BitVec 16) : Statement (.launchCompletion h) := event rfl
theorem qtailWrite (q : Fin 16) (v : Word) : Statement (.qtailWrite q v) := event rfl
theorem qctlWrite (q : Fin 16) (v : Word) : Statement (.qctlWrite q v) := event rfl
theorem qstatErrClear (q : Fin 16) : Statement (.qstatErrClear q) := event rfl
theorem commandFetch (q : Fin 16) : Statement (.commandFetch q) := event rfl
theorem launch (q : Fin 16) : Statement (.launch q) := event rfl
theorem launchResident (h : BitVec 16) : Statement (.launchResident h) := event rfl
theorem wait (q : Fin 16) : Statement (.wait q) := event rfl
theorem waitPoll (q : Fin 16) : Statement (.waitPoll q) := event rfl
theorem signal (q : Fin 16) : Statement (.signal q) := event rfl
theorem preempt (q : Fin 16) : Statement (.preempt q) := event rfl
theorem preemptDrainEnd (h : BitVec 16) : Statement (.preemptDrainEnd h) := event rfl
theorem preemptDeadline (h : BitVec 16) : Statement (.preemptDeadline h) := event rfl
theorem hardCutStop (t : TileId) : Statement (.hardCutStop t) := event rfl
theorem cutCycleLimit (t : TileId) : Statement (.cutCycleLimit t) := event rfl
theorem cutCopyTimeout (t : TileId) (id : Nat) : Statement (.cutCopyTimeout t id) := event rfl
theorem contextSave (h : BitVec 16) : Statement (.contextSave h) := event rfl
theorem resume (q : Fin 16) : Statement (.resume q) := event rfl
theorem kill (q : Fin 16) : Statement (.kill q) := event rfl
theorem barrier (q : Fin 16) : Statement (.barrier q) := event rfl
theorem dieFence (d : Fin 8) : Statement (.dieFence d) := event rfl
theorem dieFenceTimeout (d : Fin 8) : Statement (.dieFenceTimeout d) := event rfl
theorem viralEntry : Statement .viralEntry := event rfl
theorem coxWindowEnd (t : TileId) (canaries : Nat) : Statement (.coxWindowEnd t canaries) := event rfl
theorem ageingRead (t : TileId) (slowdown : Nat) : Statement (.ageingRead t slowdown) := event rfl
theorem characterisation (t : TileId) (windows : List TestWindow) : Statement (.characterisation t windows) := event rfl
theorem timingVerification (t : TileId) (replays : Nat) (third : Bool) : Statement (.timingVerification t replays third) := event rfl
theorem mrsFallWrite (t : TileId) : Statement (.mrsFallWrite t) := event rfl
theorem mrsDeferredWrite (t : TileId) : Statement (.mrsDeferredWrite t) := event rfl
theorem llastWrite : Statement .llastWrite := event rfl
theorem coldReset : Statement .coldReset := event rfl
theorem packageReset : Statement .packageReset := event rfl
theorem hostLinkReset : Statement .hostLinkReset := event rfl
theorem hostRead (off : Nat) (size : Nat) : Statement (.hostRead off size) := event rfl
theorem hostWrite (dst : HostDest) (addr : Nat) (data : List Byte) : Statement (.hostWrite dst addr data) := event rfl
theorem apertureAccess (off : Nat) (acc : ApertureOp) : Statement (.apertureAccess off acc) := event rfl
theorem registerWrite (off : Nat) (v : Word) : Statement (.registerWrite off v) := event rfl
theorem vectorUnmask (v : Fin 32) : Statement (.vectorUnmask v) := event rfl
theorem maprowStore (v : Word) : Statement (.maprowStore v) := event rfl
theorem mapActivate (v : Word) : Statement (.mapActivate v) := event rfl
theorem mapCheckDone : Statement .mapCheckDone := event rfl
theorem ebstatClear (n : Fin 8) : Statement (.ebstatClear n) := event rfl
theorem scrubRead (n : Fin 8) (line : Nat) : Statement (.scrubRead n line) := event rfl
theorem scoreHalving : Statement .scoreHalving := event rfl
theorem faultRetry : Statement .faultRetry := event rfl
theorem faultFail : Statement .faultFail := event rfl
theorem invalidate : Statement .invalidate := event rfl
theorem invalidateDone : Statement .invalidateDone := event rfl
theorem graftRequest (n : Fin 8) : Statement (.graftRequest n) := event rfl
theorem graftDone (n : Fin 8) : Statement (.graftDone n) := event rfl
theorem flitGroupReceive (p : Fin 12) (g : ArrivingGroup) : Statement (.flitGroupReceive p g) := event rfl
theorem viralFlitReceive (p : Fin 12) : Statement (.viralFlitReceive p) := event rfl
theorem rd (p : Fin 12) (pkt : Packet) : Statement (.rd p pkt) := event rfl
theorem wr (p : Fin 12) (pkt : Packet) : Statement (.wr p pkt) := event rfl
theorem amo (p : Fin 12) (pkt : Packet) : Statement (.amo p pkt) := event rfl
theorem rdrsp (p : Fin 12) (pkt : Packet) : Statement (.rdrsp p pkt) := event rfl
theorem wrack (p : Fin 12) (pkt : Packet) : Statement (.wrack p pkt) := event rfl
theorem amorsp (p : Fin 12) (pkt : Packet) : Statement (.amorsp p pkt) := event rfl
theorem peerRequestTimeout (p : Fin 12) (rid : BitVec 12) : Statement (.peerRequestTimeout p rid) := event rfl
theorem linkDown (p : Fin 12) : Statement (.linkDown p) := event rfl
theorem linkUp (p : Fin 12) : Statement (.linkUp p) := event rfl
theorem keyExhausted (p : Fin 12) (slot : Fin 8) : Statement (.keyExhausted p slot) := event rfl
theorem windowEnClear (kind : WindowKind) (w : Fin 32) : Statement (.windowEnClear kind w) := event rfl
theorem windowDrained (kind : WindowKind) (w : Fin 32) : Statement (.windowDrained kind w) := event rfl
theorem stickyRead : Statement .stickyRead := event rfl
theorem stickyClear : Statement .stickyClear := event rfl
theorem mrsRead (off len : Nat) : Statement (.mrsRead off len) := event rfl
theorem siteSet (die site state : Byte) : Statement (.siteSet die site state) := event rfl
theorem maint (die : Byte) (isOpen : Bool) : Statement (.maint die isOpen) := event rfl
theorem powerSet (nominal sprint zones : Nat) : Statement (.powerSet nominal sprint zones) := event rfl
theorem dumpTrigger (what : Byte) : Statement (.dumpTrigger what) := event rfl
theorem dumpRead (off len : Nat) : Statement (.dumpRead off len) := event rfl
theorem regRead (off : Nat) : Statement (.regRead off) := event rfl
theorem errlogRead (idx : Nat) : Statement (.errlogRead idx) := event rfl
theorem pkgReset : Statement .pkgReset := event rfl
theorem ownerSet (secured : Bool) (tag node : BitVec 16) : Statement (.ownerSet secured tag node) := event rfl
theorem keyLoad (secured : Bool) (slot : Nat) (tag : BitVec 16) (mask : BitVec 12) (key : Option (BitVec 256)) : Statement (.keyLoad secured slot tag mask key) := event rfl
theorem portSet (port : Nat) (enable : Bool) : Statement (.portSet port enable) := event rfl
theorem windowRevoke (kind : WindowKind) (num : Nat) : Statement (.windowRevoke kind num) := event rfl
theorem unknownVendorCommand (code : Byte) : Statement (.unknownVendorCommand code) := event rfl
theorem voltageStep (t : TileId) : Statement (.voltageStep t) := event rfl
theorem frequencyChange (t : TileId) : Statement (.frequencyChange t) := event rfl
theorem sprintIntervalEnd (d : Fin 8) (z : Fin 4) : Statement (.sprintIntervalEnd d z) := event rfl
theorem permitRefill (d : Fin 8) (z : Fin 4) : Statement (.permitRefill d z) := event rfl
theorem sprintSlotGrant (d : Fin 8) (z : Fin 4) : Statement (.sprintSlotGrant d z) := event rfl
theorem midpointHoldEnd (d : Fin 8) (z : Fin 4) : Statement (.midpointHoldEnd d z) := event rfl
theorem powerMeasure (watts : Nat) : Statement (.powerMeasure watts) := event rfl
theorem overcurrentAlarm (bit : Fin 19) : Statement (.overcurrentAlarm bit) := event rfl
theorem overcurrentPersist (bit : Fin 19) : Statement (.overcurrentPersist bit) := event rfl
theorem ocstickyClear (v : Word) : Statement (.ocstickyClear v) := event rfl
theorem thermalCrossing (t : TileId) (temp : Int) : Statement (.thermalCrossing t temp) := event rfl
theorem thermalRelease (t : TileId) (temp : Int) : Statement (.thermalRelease t temp) := event rfl
theorem energyRead (port : EnergyPort) (what : EnergySource) (high : Bool) : Statement (.energyRead port what high) := event rfl
theorem overcurrentAlarmEnd (bit : Fin 19) : Statement (.overcurrentAlarmEnd bit) := event rfl
theorem powerRemoval (torn : Option (StoreWrite × TornStage)) : Statement (.powerRemoval torn) := event rfl
theorem fqheadWrite (v : Word) : Statement (.fqheadWrite v) := event rfl
theorem invalidFlit (p : Fin 12) (ftype : Byte) : Statement (.invalidFlit p ftype) := event rfl

end Sys2Proof.Laws.Encoding
end

