-- ==== Sys2Proof/Laws/Slots.lean ====
section
/-! SUPPORT. What a slot instruction can do: lemmas about running, committing and trapping a slot. -/

namespace Sys2Proof.Machine

@[simp] theorem here_setTile (s : State) (t : Tile) : (s.setTile s.focus t).here = t := by simp [State.here]

theorem OnlyTile.refl (i : TileId) (s : State) : OnlyTile i s s := ⟨rfl, fun _ _ => rfl⟩

theorem onlyTile_setTile (i : TileId) (s : State) (t : Tile) : OnlyTile i s (s.setTile i t) :=
  ⟨rfl, fun _ h => tile_setTile_ne s t h⟩

/-- A slot of a bundle that stands ready runs its function. -/
theorem runSlot_eq {s : State} {i : Instr} {b : Inflight} (h : s.At i b) (mn : String) (f : SlotFn) :
    s.runSlot mn i f = .next (s.finishSlot s.focus b s.here.k.trapped (f s s.focus s.here b)) := by
  have hb : (s.tile s.focus).inflight = some b := h.bundle
  have hr : (if (s.tile s.focus).k.trapped = true then handlerFault (s.tile s.focus) i else none) = none := by
    split
    · exact h.runs ‹_›
    · rfl
  simp [State.runSlot, State.runSlotOn, hb, h.ready, hr, State.here]

@[simp] theorem data_endBundle (t : Tile) (b : Inflight) (fl : Flow) (w : Bool) (h : fl ≠ .ended) :
    (t.endBundle b fl w).data = t.data := by
  cases w <;> simp [Tile.endBundle, Tile.data, KRegs.feed, h]

@[simp] theorem data_openWindow (s : State) (i : TileId) (t : Tile) : (s.openWindow i t).data = t.data := by
  unfold State.openWindow; split <;> rfl

theorem data_movedAt (t : Tile) (n : Nat) : ({ t with movedAt := n } : Tile).data = t.data := rfl

theorem openWindow_leafTrap (s : State) (i : TileId) (t : Tile) : (s.openWindow i t).leafTrap = t.leafTrap := by
  unfold State.openWindow; split <;> rfl
theorem openWindow_stopReq (s : State) (i : TileId) (t : Tile) : (s.openWindow i t).stopReq = t.stopReq := by
  unfold State.openWindow; split <;> rfl

/-- A tile told neither to stop nor to trap passes the boundary of its bundle as it is. -/
theorem afterBundle_setTile (s : State) (i : TileId) (t : Tile) (fl : Flow) (hl : t.leafTrap = none) (hg : t.stopReq = false)
    (hf : ∀ c d, fl ≠ .trapAfter c d) : (s.setTile i t).afterBundle i fl = s.setTile i t := by
  have hb : (s.setTile i t).boundary i = s.setTile i t := by simp [State.boundary, hl, hg]
  cases fl <;> simp_all [State.afterBundle]

/-! Accesses that meet leave a tile as it was told to go on. -/

theorem meet_leafTrap (t : Tile) (i : TileId) (c own others : Nat) : (t.meet i c own others).leafTrap = t.leafTrap := by
  unfold Tile.meet; split <;> rfl
theorem meet_stopReq (t : Tile) (i : TileId) (c own others : Nat) : (t.meet i c own others).stopReq = t.stopReq := by
  unfold Tile.meet; split <;> rfl

theorem share_leafTrap (s : State) (i : TileId) (b : Inflight) (y : Tile) (accs : List (Nat × Nat)) :
    (s.share i b y accs).leafTrap = y.leafTrap := by
  unfold State.share; split
  · rfl
  · exact meet_leafTrap ..
theorem share_stopReq (s : State) (i : TileId) (b : Inflight) (y : Tile) (accs : List (Nat × Nat)) :
    (s.share i b y accs).stopReq = y.stopReq := by
  unfold State.share; split
  · rfl
  · exact meet_stopReq ..

@[simp] theorem share_nil (s : State) (i : TileId) (b : Inflight) (y : Tile) : s.share i b y [] = y := rfl
@[simp] theorem shared_nil (s : State) (i : TileId) (b : Inflight) (y : Tile) : s.shared i b y [] = b := rfl
theorem shared_next (s : State) (i : TileId) (b : Inflight) (y : Tile) (accs : List (Nat × Nat)) :
    (s.shared i b y accs).next = b.next := by unfold State.shared; split <;> rfl
theorem shared_words (s : State) (i : TileId) (b : Inflight) (y : Tile) (accs : List (Nat × Nat)) :
    (s.shared i b y accs).words = b.words := by unfold State.shared; split <;> rfl

/-- What a slot that commits without a trap leaves. -/
theorem finishSlot_done (s : State) (b : Inflight) (w : Bool) (y : Tile) (accs : List (Nat × Nat)) (e : Emit) (fl : Flow)
    (hl : y.leafTrap = none) (hg : y.stopReq = false) (hf : ∀ c d, fl ≠ .trapAfter c d) (he : fl ≠ .ended) (hr : e.raise = none)
    (hd : e.drops = []) :
    ∃ z, s.finishSlot s.focus b w (.done y accs e fl) =
        { s with posts := s.posts ++ e.posts, crew := s.crew ++ e.crew }.setTile s.focus z ∧
      z.data = (s.share s.focus b y accs).data := by
  have hl' : (s.share s.focus b y accs).leafTrap = none := (share_leafTrap ..).trans hl
  have hg' : (s.share s.focus b y accs).stopReq = false := (share_stopReq ..).trans hg
  simp only [State.finishSlot, State.commitSlot, hr, hd, List.isEmpty_nil, if_true]
  generalize s.share s.focus b y accs = x at *
  generalize s.shared s.focus b y accs = c
  split
  · exact ⟨_, rfl, rfl⟩
  · rw [afterBundle_setTile _ _ _ _ ?_ ?_ hf]
    · refine ⟨_, rfl, ?_⟩
      rw [data_movedAt, data_openWindow, data_endBundle _ _ _ _ he]
    · show (State.openWindow _ s.focus (x.endBundle _ fl w)).leafTrap = none
      rw [openWindow_leafTrap]; exact hl'
    · show (State.openWindow _ s.focus (x.endBundle _ fl w)).stopReq = false
      rw [openWindow_stopReq]; exact hg'

/-- A slot that commits, sends nothing and goes on. -/
theorem runSlot_commits {s : State} {i : Instr} {b : Inflight} (h : s.At i b) {mn : String} {f : SlotFn} {y : Tile}
    {accs : List (Nat × Nat)} {fl : Flow} (hx : exec i s = s.runSlot mn i f)
    (hf : f s s.focus s.here b = .done y accs {} fl) (hl : y.leafTrap = none) (hg : y.stopReq = false)
    (hn : ∀ c d, fl ≠ .trapAfter c d) (he : fl ≠ .ended) : Commits i s (s.share s.focus b y accs) := by
  obtain ⟨z, hz, hd⟩ := finishSlot_done s b s.here.k.trapped y accs {} fl hl hg hn he rfl rfl
  refine ⟨s.setTile s.focus z, ?_, onlyTile_setTile _ _ _, by simpa using hd⟩
  rw [hx, runSlot_eq h, hf, hz]
  simp

theorem setS_leafTrap (t : Tile) (r : SReg) (v : Word) : (t.setS r v).leafTrap = t.leafTrap := by
  unfold Tile.setS; split <;> rfl
theorem setS_stopReq (t : Tile) (r : SReg) (v : Word) : (t.setS r v).stopReq = t.stopReq := by
  unfold Tile.setS; split <;> rfl

/-- A slot that writes one scalar register. -/
theorem writes_scalar {s : State} {i : Instr} {b : Inflight} (h : s.At i b) {mn : String} {r : SReg} {v : Word}
    {g : Tile → Tile} (hx : exec i s = s.runPure mn i g) (hg : g s.here = s.here.setS r v) : Commits i s (s.here.setS r v) :=
  runSlot_commits (y := s.here.setS r v) (accs := []) (fl := .seq) h hx (by simp [SlotOut.keep, hg]) ((setS_leafTrap _ _ _).trans h.leaf)
    ((setS_stopReq _ _ _).trans h.goes) (by simp) (by simp)

/-! ## The last slot of a bundle -/

/-- The state after the last slot of a bundle, when it neither traps nor ends the point. -/
theorem finishSlot_last (s : State) (b : Inflight) (w : Bool) (y : Tile) (fl : Flow) (hb : b.atLast)
    (hl : y.leafTrap = none) (hg : y.stopReq = false) (hf : ∀ c d, fl ≠ .trapAfter c d) :
    s.finishSlot s.focus b w (.done y [] {} fl) =
      s.setTile s.focus { s.openWindow s.focus (y.endBundle b fl w) with movedAt := s.time } := by
  have hn : ¬ (b.next + 1 < b.words.length) := by unfold Inflight.atLast at hb; omega
  simp only [State.finishSlot, State.commitSlot, share_nil, shared_nil, List.isEmpty_nil, if_true, hn, if_false, List.append_nil]
  rw [afterBundle_setTile _ _ _ _ ?_ ?_ hf]
  · show (s.openWindow s.focus _).leafTrap = none
    rw [openWindow_leafTrap]; exact hl
  · show (s.openWindow s.focus _).stopReq = false
    rw [openWindow_stopReq]; exact hg

theorem openWindow_pc (s : State) (i : TileId) (t : Tile) : (s.openWindow i t).pc = t.pc := by unfold State.openWindow; split <;> rfl
theorem openWindow_loops (s : State) (i : TileId) (t : Tile) : (s.openWindow i t).loops = t.loops := by
  unfold State.openWindow; split <;> rfl
theorem openWindow_inflight (s : State) (i : TileId) (t : Tile) : (s.openWindow i t).inflight = t.inflight := by
  unfold State.openWindow; split <;> rfl
theorem openWindow_k (s : State) (i : TileId) (t : Tile) : (s.openWindow i t).k = t.k := by unfold State.openWindow; split <;> rfl

/-- What the end of a bundle leaves of its bookkeeping. -/
theorem bundleEnded_endBundle (s : State) (b : Inflight) (x y : Tile) (fl : Flow) (fed : List Word)
    (hc : y.k.segcnt = x.k.segcnt) (hs : y.k.segsig = x.k.segsig)
    (hf : (match fedPc fl (y.seqEnd b fl) with | some p => [p.setWidth 32] | none => []) = fed) :
    BundleEnded b x { s.openWindow s.focus (y.endBundle b fl x.k.trapped) with movedAt := s.time } (y.seqEnd b fl).pc (y.seqEnd b fl).loops fed := by
  refine ⟨by rw [openWindow_inflight]; rfl, by rw [openWindow_pc]; rfl, by rw [openWindow_loops]; rfl, fun h => ?_, fun h => ?_⟩
  · rw [openWindow_k]
    subst hf
    simp only [Tile.endBundle, h, KRegs.feed, hc, hs]
    exact ⟨rfl, rfl⟩
  · rw [openWindow_k]
    simp [Tile.endBundle, h, hc, hs]

/-- A last slot that sends the PC to a target. -/
theorem runSlot_transfers {s : State} {i : Instr} {b : Inflight} (h : s.At i b) (hb : b.atLast) {mn : String} {f : SlotFn}
    {y : Tile} {fl : Flow} {pc : BitVec 16} {loops : List LoopEntry} {fed : List Word}
    (hx : exec i s = s.runSlot mn i f) (hf : f s s.focus s.here b = .done y [] {} fl)
    (hl : y.leafTrap = none) (hg : y.stopReq = false) (hn : ∀ c d, fl ≠ .trapAfter c d)
    (hc : y.k.segcnt = s.here.k.segcnt) (hs : y.k.segsig = s.here.k.segsig)
    (hp : (y.seqEnd b fl).pc = pc) (hr : (y.seqEnd b fl).loops = loops)
    (hfed : (match fedPc fl (y.seqEnd b fl) with | some p => [p.setWidth 32] | none => []) = fed)
    {z : Tile} (hz : (y.endBundle b fl s.here.k.trapped).data = z.data) : Transfers i s b z pc loops fed := by
  subst hp; subst hr
  refine ⟨_, ?_, onlyTile_setTile _ _ { s.openWindow s.focus (y.endBundle b fl s.here.k.trapped) with movedAt := s.time }, ?_, ?_⟩
  · rw [hx, runSlot_eq h, hf, finishSlot_last s b _ y fl hb hl hg hn]
  · rw [here_setTile, data_movedAt, data_openWindow, hz]
  · rw [here_setTile]; exact bundleEnded_endBundle s b s.here y fl fed hc hs hfed

/-- The loop-end test of the model is the one of R127. -/
theorem loopEndTest_spec (lo : BitVec 16) (n : Nat) (nxt : BitVec 16) : ∀ (ls : List LoopEntry) (cut : Bool),
    LoopsEnd lo n nxt ls (loopEndTest lo n nxt ls cut).loops (loopEndTest lo n nxt ls cut).pc (loopEndTest lo n nxt ls cut).back
  | [], cut => .empty
  | e :: es, cut => by
    unfold loopEndTest
    by_cases h : (e.stop - lo).toNat < n
    · have he : e.stop = lo + BitVec.ofNat 16 (e.stop - lo).toNat := by
        rw [BitVec.ofNat_toNat, BitVec.setWidth_eq, BitVec.add_comm, BitVec.sub_add_cancel]
      by_cases hc : e.index + 1 < e.count
      · simp only [h, hc, if_true]; exact .back e es _ h he hc
      · simp only [h, hc, if_true, if_false]
        exact .pop e es _ _ _ _ h he hc (loopEndTest_spec lo n nxt es true)
    · simp only [h, if_false]
      refine .outside e es fun j hj he => h ?_
      have : e.stop - lo = BitVec.ofNat 16 j := by rw [he, BitVec.add_comm, BitVec.add_sub_cancel]
      rw [this, BitVec.toNat_ofNat]
      exact Nat.lt_of_le_of_lt (Nat.mod_le _ _) hj

/-- A last slot after which the sequencer goes on by itself. -/
theorem runSlot_goesOn {s : State} {i : Instr} {b : Inflight} (h : s.At i b) (hb : b.atLast) {mn : String} {f : SlotFn} {y : Tile}
    (hx : exec i s = s.runSlot mn i f) (hf : f s s.focus s.here b = .done y [] {} .seq)
    (hl : y.leafTrap = none) (hg : y.stopReq = false) (hk : y.k = s.here.k) (ho : y.loops = s.here.loops) :
    GoesOn i s b y := by
  refine ⟨_, (y.seqEnd b .seq).pc, (y.seqEnd b .seq).loops, (y.seqEnd b .seq).back, ?_, onlyTile_setTile _ _ { s.openWindow s.focus (y.endBundle b .seq s.here.k.trapped) with movedAt := s.time }, ?_, ?_, ?_⟩
  · rw [hx, runSlot_eq h, hf, finishSlot_last s b _ y .seq hb hl hg (by simp)]
  · rw [here_setTile, data_movedAt, data_openWindow, data_endBundle _ _ _ _ (by simp)]
  · rw [here_setTile]
    refine bundleEnded_endBundle s b s.here y .seq _ (by rw [hk]) (by rw [hk]) ?_
    simp only [fedPc]; split <;> simp_all
  · split
    · rename_i ht; simp [Tile.seqEnd, hk, ht, ho]
    · rename_i ht
      simp only [Tile.seqEnd, hk, ht, ho]
      exact loopEndTest_spec _ _ _ _ _

/-! ## Faulting slots -/

@[simp] theorem enterTrap_pt (t : Tile) (c d : Nat) (m : Byte) (pc : BitVec 16) (n : Nat) : (t.enterTrap c d m pc n).pt = t.pt := rfl
@[simp] theorem enterTrap_retiring (t : Tile) (c d : Nat) (m : Byte) (pc : BitVec 16) (n : Nat) :
    (t.enterTrap c d m pc n).retiring = t.retiring := rfl

/-- A trap of route H in a launch with a handler: the registers of R308 are written and the handler entered. A SEGCHK mismatch is
counted first. -/
theorem takeTrap_handler {s : State} {i : TileId} {l : Launch} {c d : Nat} {m : Byte} {pc : BitVec 16} {n : Nat} {inj : Bool}
    (ht : (s.tile i).k.trapped = false) (hl : s.launch? (s.tile i).pt.handle = some l) (hh : l.hnd = true)
    (hs : (s.tile i).retiring = false) (hr : routeH c = true) (hc : c ≠ 0x0A) :
    s.takeTrap i c d m pc n inj = s.setTile i (((s.tile i).enterTrap c d m pc n).toHandler l.handler) := by
  simp [State.takeTrap, ht, hc, hl, hh, hs, hr]

/-- A slot that faults in a launch with a handler enters it (R308). -/
theorem runSlot_traps {s : State} {i : Instr} {b : Inflight} {l : Launch} (h : s.At i b) (hh : s.Handles l) {mn : String}
    {f : SlotFn} {c d : Nat} (hx : exec i s = s.runSlot mn i f) (hf : f s s.focus s.here b = .trap c d)
    (hr : routeH c = true) (hc : c ≠ 0x0A) : TrapsTo i s b l c d := by
  have hi : s.here.inflight = some b := h.bundle
  have hg : s.here.stopReq = false := h.goes
  have hb : ∀ t : Tile, t.stopReq = false → t.leafTrap = none →
      (s.setTile s.focus t).boundary s.focus = s.setTile s.focus t := fun t ht hn => by
    simp [State.boundary, ht, hn]
  refine ⟨s.setTile s.focus
    (((s.here.atCycle (commitCycle s.here b)).enterTrap c d 0 b.first b.next).toHandler l.handler), ?_,
    onlyTile_setTile _ _ _, ?_, ?_, ?_, ?_, ?_, ?_⟩
  · rw [hx, runSlot_eq h, hf]
    simp only [State.finishSlot, State.slotTrap]
    rw [takeTrap_handler (l := l) (by rw [tile_setTile]; exact hh.outside) (by rw [tile_setTile]; exact hh.launch) hh.handler
      (by rw [tile_setTile]; exact hh.stays) hr hc]
    rw [tile_setTile, setTile_setTile]
    exact congrArg Host.Outcome.next (hb _ (by exact hg) (by exact h.leaf))
  all_goals simp [Tile.toHandler, Tile.enterTrap, Tile.atCycle]
  rw [hi]; simp [Tile.data, Tile.pendingMask, tcauseWord]

end Sys2Proof.Machine
end

