-- ==== Sys2Proof/Laws/Tile.lean ====
section
/-! SUPPORT. The plane and the scratchpad of a tile: what a line reads after a line or some of its elements were written, and what a
byte reads after a store. -/

namespace Sys2Proof.Machine

/-! ## Lines -/

@[simp] theorem lineCells_length (l : Line) : (lineCells l).length = 64 := by simp [lineCells]

theorem lineCell_inj (l : Line) {i j : Nat} (hi : i < 64) (hj : j < 64) (h : lineCell l i = lineCell l j) : i = j := by
  obtain ⟨d, n⟩ := l
  have hn : n.toNat < 64 := n.isLt
  cases d <;> simp only [lineCell] at h <;> omega

theorem lineCells_getElem (l : Line) (i : Nat) (h : i < (lineCells l).length) : (lineCells l)[i] = lineCell l i := by simp [lineCells]

@[simp] theorem line_length (t : Tile) (l : Line) : (t.line l).length = 64 := by simp [Tile.line]

theorem line_getElem (t : Tile) (l : Line) (i : Nat) (h : i < (t.line l).length) : (t.line l)[i] = Cells.get 0 t.plane (lineCell l i) := by
  simp [Tile.line, lineCells_getElem]

/-- A list of writes to distinct indexes: a written index reads its value. -/
theorem get_setAll_mem {α : Type} [DecidableEq α] (d : α) : ∀ (ps : List (Nat × α)) (c : Cells α), (ps.map Prod.fst).Nodup →
    ∀ p ∈ ps, Cells.get d (Cells.setAll d c ps) p.1 = p.2
  | [], _, _, p, hp => by simp at hp
  | q :: ps, c, hn, p, hp => by
    obtain ⟨hq, hm⟩ := List.nodup_cons.mp (by simpa using hn : (q.1 :: ps.map Prod.fst).Nodup)
    rcases List.mem_cons.mp hp with rfl | hr
    · obtain ⟨k, v⟩ := p
      rw [Cells.setAll, get_setAll_outside d k ps _ (fun x hx e => hq (List.mem_map.mpr ⟨x, hx, e⟩)), get_set_self]
    · obtain ⟨k, v⟩ := q
      exact get_setAll_mem d ps _ hm p hr

theorem lineCells_nodup (l : Line) : (lineCells l).Nodup := by
  rw [List.nodup_iff_injective_getElem]
  intro i j h
  simp only [lineCells_getElem] at h
  have hi := i.isLt; have hj := j.isLt
  simp only [lineCells_length] at hi hj
  exact Fin.ext (lineCell_inj l hi hj h)

/-- A line written whole reads as written. -/
theorem line_setLine (t : Tile) (l : Line) (ws : List Word) (h : ws.length = 64) : (t.setLine l ws).line l = ws := by
  apply List.ext_getElem (by simp [h])
  intro i h1 h2
  rw [line_getElem]
  have hi : i < (lineCells l).length := by simpa [h] using h2
  have hz : i < ((lineCells l).zip ws).length := by simp; omega
  have := get_setAll_mem 0 ((lineCells l).zip ws) t.plane
    (by rw [List.map_fst_zip (by simp [h])]; exact lineCells_nodup l) _ (List.getElem_mem hz)
  simpa [Tile.setLine, List.getElem_zip, lineCells_getElem] using this

/-- A cell off the line stands. -/
theorem setLine_off (t : Tile) (l : Line) (ws : List Word) (c : Nat) (h : c ∉ lineCells l) :
    Cells.get 0 (t.setLine l ws).plane c = Cells.get 0 t.plane c :=
  get_setAll_outside 0 c _ _ fun _ hp e => h (e ▸ (List.of_mem_zip hp).1)

/-! ## Elements as digits -/

theorem testBit_packElements (w : Nat) (hw : 0 < w) : ∀ (vs : List Nat) (k : Nat),
    (packElements w vs).testBit k = (vs.getD (k / w) 0).testBit (k % w)
  | [], k => by simp [packElements]
  | v :: vs, k => by
    have hlt : v % 2 ^ w < 2 ^ w := Nat.mod_lt _ (Nat.two_pow_pos w)
    rw [packElements, Nat.add_comm, Nat.testBit_two_pow_mul_add _ hlt]
    split
    · rename_i h
      simp [Nat.div_eq_of_lt h, Nat.mod_eq_of_lt h, h]
    · rename_i h
      have hk : w ≤ k := Nat.le_of_not_lt h
      rw [testBit_packElements w hw vs (k - w), Nat.div_eq_sub_div hw hk, Nat.mod_eq_sub_mod hk]
      simp

theorem unpackWords_getElem : ∀ (n v i : Nat) (h : i < (unpackWords n v).length), (unpackWords n v)[i] = BitVec.ofNat 32 (v / 2 ^ (32 * i))
  | 0, _, _, h => by simp [unpackWords] at h
  | n + 1, v, 0, h => by simp [unpackWords]
  | n + 1, v, i + 1, h => by
    simp only [unpackWords, List.getElem_cons_succ]
    rw [unpackWords_getElem n (v / 2 ^ 32) i, Nat.div_div_eq_div_mul, ← Nat.pow_add]
    congr 3; omega

@[simp] theorem unpackWords_length : ∀ n v, (unpackWords n v).length = n
  | 0, _ => rfl
  | n + 1, v => by simp [unpackWords, unpackWords_length n]

theorem testBit_packWords : ∀ (ws : List Word) (k : Nat), (packWords ws).testBit k = (ws.getD (k / 32) 0).getLsbD (k % 32)
  | [], k => by simp [packWords]
  | v :: vs, k => by
    have hlt : v.toNat < 2 ^ 32 := v.isLt
    rw [packWords, Nat.add_comm, Nat.testBit_two_pow_mul_add _ hlt]
    split
    · rename_i h
      simp [Nat.div_eq_of_lt h, Nat.mod_eq_of_lt h, BitVec.getLsbD]
    · rename_i h
      have hk : 32 ≤ k := Nat.le_of_not_lt h
      rw [testBit_packWords vs (k - 32), Nat.div_eq_sub_div (by omega) hk, Nat.mod_eq_sub_mod hk]
      simp

theorem elements_getElem (w : Nat) (ws : List Word) (e : Nat) (h : e < (elements w ws).length) :
    (elements w ws)[e] = packWords ws / 2 ^ (w * e) % 2 ^ w := by simp [elements]

@[simp] theorem elements_length (w : Nat) (ws : List Word) : (elements w ws).length = 2048 / w := by simp [elements]

theorem testBit_element (w : Nat) (ws : List Word) (e j : Nat) (he : e < 2048 / w) :
    (elemAt (elements w ws) e).testBit j = (decide (j < w) && (ws.getD ((w * e + j) / 32) 0).getLsbD ((w * e + j) % 32)) := by
  have h : e < (elements w ws).length := by simpa using he
  rw [elemAt, List.getD_eq_getElem _ _ h, elements_getElem, Nat.testBit_mod_two_pow, Nat.testBit_div_two_pow, testBit_packWords,
    Nat.add_comm j]

theorem mergeElements_getElem (old : List Nat) (new : List (Option Nat)) (e : Nat)
    (h : e < (mergeElements old new).length) : (mergeElements old new)[e] = ((new[e]?).join).getD (old.getD e 0) := by
  have hl : e < old.length := by simp [mergeElements] at h; omega
  simp only [mergeElements, List.getElem_zipWith, List.getD_eq_getElem _ _ hl]
  by_cases hx : e < new.length
  · simp [List.getElem_append_left hx, hx]
  · simp [List.getElem_append_right (Nat.le_of_not_lt hx), hx]

theorem mergeElements_length (old : List Nat) (new : List (Option Nat)) (hn : new.length ≤ old.length) :
    (mergeElements old new).length = old.length := by simp [mergeElements]; omega

/-- The word that a lane holds after elements were merged into its line. -/
theorem lanesOf_getElem (w : Nat) (es : List Nat) (i : Nat) (h : i < (lanesOf w es).length) :
    (lanesOf w es)[i] = BitVec.ofNat 32 (packElements w es / 2 ^ (32 * i)) := by
  unfold lanesOf at h ⊢
  exact unpackWords_getElem _ _ _ h

@[simp] theorem lanesOf_length (w : Nat) (es : List Nat) : (lanesOf w es).length = 64 := by simp [lanesOf]

/-- Elements packed into lanes read back. -/
theorem elemAt_lanesOf (w : Nat) (hw : w ∈ [8, 16, 32, 64]) (es : List Nat) (e : Nat) (he : e < 2048 / w) :
    elemAt (elements w (lanesOf w es)) e = es.getD e 0 % 2 ^ w := by
  have hw0 : 0 < w := by rcases (by simpa using hw : w = 8 ∨ w = 16 ∨ w = 32 ∨ w = 64) with h | h | h | h <;> omega
  have hd : 2048 / w * w ≤ 2048 := Nat.div_mul_le_self ..
  apply Nat.eq_of_testBit_eq
  intro j
  rw [testBit_element w _ e j he, Nat.testBit_mod_two_pow]
  by_cases hj : j < w
  · have hk : w * e + j < 2048 := by
      have : (e + 1) * w ≤ 2048 / w * w := Nat.mul_le_mul_right w he
      rw [Nat.add_mul, Nat.mul_comm e w] at this
      omega
    have hi : (w * e + j) / 32 < (lanesOf w es).length := by simp; omega
    simp only [hj, decide_true, Bool.true_and]
    rw [List.getD_eq_getElem _ _ hi, lanesOf_getElem, BitVec.getLsbD_ofNat, Nat.testBit_div_two_pow]
    have h1 : (w * e + j) % 32 + 32 * ((w * e + j) / 32) = w * e + j := Nat.mod_add_div ..
    have h2 : (w * e + j) % 32 < 32 := Nat.mod_lt _ (by omega)
    rw [h1, testBit_packElements w hw0]
    simp [h2, Nat.mul_add_div hw0, Nat.div_eq_of_lt hj, Nat.mul_add_mod, Nat.mod_eq_of_lt hj]
  · simp [hj]

/-- The line with elements merged into it. -/
def mergedLine (w : Nat) (ws : List Word) (new : List (Option Nat)) : List Word := lanesOf w (mergeElements (elements w ws) new)

/-- A lane none of whose elements is new keeps its word. -/
theorem mergedLine_keep (w : Nat) (hw : w ∈ [8, 16, 32, 64]) (ws : List Word) (hl : ws.length = 64) (new : List (Option Nat))
    (hn : new.length ≤ 2048 / w) (i : Nat) (hi : i < 64) (h : ∀ b, b < 32 → (new[(32 * i + b) / w]?).join = none) :
    (mergedLine w ws new)[i]'(by simp [mergedLine, hi]) = ws[i] := by
  have hw0 : 0 < w := by rcases (by simpa using hw : w = 8 ∨ w = 16 ∨ w = 32 ∨ w = 64) with h | h | h | h <;> omega
  apply BitVec.eq_of_getLsbD_eq
  intro b hb
  unfold mergedLine
  rw [lanesOf_getElem, BitVec.getLsbD_ofNat, Nat.testBit_div_two_pow, testBit_packElements w hw0, Nat.add_comm b]
  simp only [hb, decide_true, Bool.true_and]
  have he : (32 * i + b) / w < 2048 / w := by
    have hwl : 2048 / w * w = 2048 := by
      rcases (by simpa using hw : w = 8 ∨ w = 16 ∨ w = 32 ∨ w = 64) with h | h | h | h <;> subst h <;> rfl
    rw [Nat.div_lt_iff_lt_mul hw0, hwl]; omega
  have hm : (32 * i + b) / w < (mergeElements (elements w ws) new).length := by
    rw [mergeElements_length _ _ (by simpa using hn)]; simpa using he
  rw [List.getD_eq_getElem _ _ hm, mergeElements_getElem, h b hb]
  simp only [Option.getD_none]
  have := testBit_element w ws ((32 * i + b) / w) ((32 * i + b) % w) he
  unfold elemAt at this
  rw [this, Nat.div_add_mod]
  have h1 : (32 * i + b) / 32 = i := by omega
  have h2 : (32 * i + b) % 32 = b := by omega
  rw [h1, h2, List.getD_eq_getElem _ _ (by omega)]
  simp [Nat.mod_lt _ hw0]

/-- The lanes that `setElements` writes are those that hold a new element. -/
theorem touched_iff (w : Nat) (hw : w ∈ [8, 16, 32, 64]) (new : List (Option Nat)) (i : Nat) :
    (if w = 64 then (new[i / 2]?).join.isSome else ((new.drop (i * 32 / w)).take (32 / w)).any Option.isSome) = false →
      ∀ b, b < 32 → (new[(32 * i + b) / w]?).join = none := by
  intro h b hb
  by_cases h64 : w = 64
  · subst h64
    have : (32 * i + b) / 64 = i / 2 := by omega
    rw [this]; simpa using h
  · simp only [h64, if_false] at h
    rw [List.any_eq_false] at h
    by_cases hx : (32 * i + b) / w < new.length
    · have hk : i * 32 / w + (32 * i + b) % 32 / w = (32 * i + b) / w ∧ b / w < 32 / w := by
        rcases (by simpa using hw : w = 8 ∨ w = 16 ∨ w = 32 ∨ w = 64) with h | h | h | h <;> subst h <;> omega
      have hmod : (32 * i + b) % 32 = b := by omega
      rw [hmod] at hk
      have hm : new[(32 * i + b) / w] ∈ (new.drop (i * 32 / w)).take (32 / w) := by
        rw [List.mem_iff_getElem]
        refine ⟨b / w, by simp; omega, ?_⟩
        simp only [List.getElem_take, List.getElem_drop, hk.1]
      have := h _ hm
      rw [List.getElem?_eq_getElem hx]
      simpa using this
    · rw [List.getElem?_eq_none (Nat.le_of_not_lt hx)]; rfl

/-- The line after some of its elements were written. -/
theorem line_setElements (t : Tile) (l : Line) (w : Nat) (hw : w ∈ [8, 16, 32, 64]) (new : List (Option Nat))
    (hn : new.length ≤ 2048 / w) : (t.setElements l w new).line l = mergedLine w (t.line l) new := by
  apply List.ext_getElem (by simp [mergedLine])
  intro i h1 h2
  have hi : i < 64 := by simpa using h1
  rw [line_getElem]
  unfold Tile.setElements
  simp only
  generalize ht : (fun i => if w = 64 then (new[i / 2]?).join.isSome else ((new.drop (i * 32 / w)).take (32 / w)).any Option.isSome) = touched
  have htf : ∀ j, (if w = 64 then (new[j / 2]?).join.isSome else ((new.drop (j * 32 / w)).take (32 / w)).any Option.isSome) = touched j :=
    fun j => congrFun ht j
  simp only [htf]
  generalize hws : lanesOf w (mergeElements (elements w (t.line l)) new) = ws
  have hwl : ws.length = 64 := by rw [← hws]; simp
  have hsub : ∀ p ∈ (((lineCells l).zip ws).zip (List.range 64)).filter fun p => touched p.2, ∃ j, ∃ h : j < 64,
      touched j = true ∧ p = ((lineCell l j, ws[j]'(by omega)), j) := by
    intro p hp
    obtain ⟨hp, ht⟩ := List.mem_filter.mp hp
    obtain ⟨j, hj, e⟩ := List.mem_iff_getElem.mp hp
    have hj' : j < 64 := by simp at hj; omega
    refine ⟨j, hj', ?_, ?_⟩
    · rw [← e] at ht; simpa [List.getElem_zip] using ht
    · rw [← e]; simp [List.getElem_zip, lineCells_getElem]
  have hnd : (((((lineCells l).zip ws).zip (List.range 64)).filter fun p => touched p.2).map fun p => p.1).map Prod.fst |>.Nodup := by
    have hs : ((((lineCells l).zip ws).zip (List.range 64)).map fun p => p.1.1).Nodup := by
      have : (((lineCells l).zip ws).zip (List.range 64)).map (fun p => p.1.1) = lineCells l := by
        rw [show (fun p : (Nat × Word) × Nat => p.1.1) = Prod.fst ∘ Prod.fst from rfl, ← List.map_map,
          List.map_fst_zip (by simp [hwl]), List.map_fst_zip (by simp [hwl])]
      rw [this]; exact lineCells_nodup l
    rw [List.map_map]
    exact hs.sublist (List.Sublist.map _ List.filter_sublist)
  have hmi : (mergedLine w (t.line l) new)[i]'h2 = ws[i]'(by omega) := by simp only [mergedLine, hws]
  rw [hmi]
  cases htc : touched i with
  | true =>
    have hmem : ((lineCell l i, ws[i]'(by omega)), i) ∈ (((lineCells l).zip ws).zip (List.range 64)).filter fun p => touched p.2 := by
      refine List.mem_filter.mpr ⟨?_, htc⟩
      rw [List.mem_iff_getElem]
      exact ⟨i, by simp; omega, by simp [List.getElem_zip, lineCells_getElem]⟩
    have := get_setAll_mem 0 _ t.plane hnd _ (List.mem_map.mpr ⟨_, hmem, rfl⟩)
    simpa using this
  | false =>
    rw [get_setAll_outside 0 (lineCell l i) _ _ ?_]
    · have hk := mergedLine_keep w hw (t.line l) (by simp) new hn i hi (touched_iff w hw new i (by rw [htf]; exact htc))
      rw [hmi] at hk
      rw [hk, line_getElem]
    · intro p hp e
      obtain ⟨q, hq, rfl⟩ := List.mem_map.mp hp
      obtain ⟨j, hj, htj, rfl⟩ := hsub q hq
      have := lineCell_inj l hj hi e
      subst this
      rw [htc] at htj; cases htj

/-- Each element of the line reads its new value, or the old one. -/
theorem elemAt_setElements (t : Tile) (l : Line) (w : Nat) (hw : w ∈ [8, 16, 32, 64]) (new : List (Option Nat))
    (hn : new.length ≤ 2048 / w) (e : Nat) (he : e < 2048 / w) :
    elemAt (elements w ((t.setElements l w new).line l)) e =
      (((new[e]?).join).map (· % 2 ^ w)).getD (elemAt (elements w (t.line l)) e) := by
  rw [line_setElements t l w hw new hn, mergedLine, elemAt_lanesOf w hw _ e he]
  have hm : e < (mergeElements (elements w (t.line l)) new).length := by
    rw [mergeElements_length _ _ (by simpa using hn)]; simpa using he
  rw [List.getD_eq_getElem _ _ hm, mergeElements_getElem]
  cases (new[e]?).join with
  | some v => rfl
  | none =>
    have h : e < (elements w (t.line l)).length := by simpa using he
    simp only [Option.getD_none, Option.map_none, elemAt, List.getD_eq_getElem _ _ h, elements_getElem, Nat.mod_mod]

/-- A cell off the line stands. -/
theorem setElements_off (t : Tile) (l : Line) (w : Nat) (new : List (Option Nat)) (c : Nat) (h : c ∉ lineCells l) :
    Cells.get 0 (t.setElements l w new).plane c = Cells.get 0 t.plane c := by
  refine get_setAll_outside 0 c _ _ fun p hp e => ?_
  obtain ⟨q, hq, rfl⟩ := List.mem_map.mp hp
  have hz := (List.of_mem_zip (List.mem_filter.mp hq).1).1
  exact h (e ▸ (List.of_mem_zip hz).1)

/-! ## The scratchpad -/

/-- Bytes stored read back, every other byte stands, and nothing else of the tile moves. -/
theorem byteAt_setSpad (t : Tile) (a : Nat) (bs : List Byte) (c : Nat) :
    (t.setSpad a bs).byteAt c = if a ≤ c ∧ c < a + bs.length then bs.getD (c - a) 0 else t.byteAt c := by
  have := get_setRange 0 c bs t.spad a
  simp only [Tile.byteAt, Tile.setSpad, Tile.setSpadBy, this]
  split
  · rename_i h
    have h2 : c - a < bs.length := by omega
    simp [h, h2]
  · rfl

/-! ## The canonical form -/

theorem tileWf_iff (t : Tile) : Tile.wf t = true ↔ Cells.wf 0 t.spad = true ∧ Cells.wf 0 t.plane = true ∧ Cells.wf 0 t.istore = true ∧
    Cells.wf 0 t.acc = true ∧ Cells.wf 0 t.leaves = true ∧ t.macros.toList.all (fun m => Cells.wf 0 m.cells && Cells.wf 0 m.scales) = true := by
  simp only [Tile.wf, Bool.and_eq_true, and_assoc]

/-- Two tiles with the same memories are canonical together. -/
theorem tileWf_congr {t u : Tile} (h : Tile.wf t = true) (hs : u.spad = t.spad) (hp : u.plane = t.plane) (hi : u.istore = t.istore)
    (ha : u.acc = t.acc) (hl : u.leaves = t.leaves) (hm : u.macros = t.macros) : Tile.wf u = true := by
  simp only [Tile.wf, hs, hp, hi, ha, hl, hm]; exact h

theorem tileWf_setLine (t : Tile) (l : Line) (ws : List Word) (h : Tile.wf t = true) : Tile.wf (t.setLine l ws) = true := by
  rw [tileWf_iff] at h ⊢
  exact ⟨h.1, wf_setAll 0 _ _ h.2.1, h.2.2⟩

theorem tileWf_setElements (t : Tile) (l : Line) (w : Nat) (new : List (Option Nat)) (h : Tile.wf t = true) :
    Tile.wf (t.setElements l w new) = true := by
  rw [tileWf_iff] at h ⊢
  exact ⟨h.1, wf_setAll 0 _ _ h.2.1, h.2.2⟩

theorem tileWf_setSpadBy (t : Tile) (g : Option Nat) (a : Nat) (bs : List Byte) (h : Tile.wf t = true) : Tile.wf (t.setSpadBy g a bs) = true := by
  rw [tileWf_iff] at h ⊢
  exact ⟨wf_setRange 0 bs _ a h.1, h.2⟩

theorem tileWf_setAcc (t : Tile) (ws : List (Nat × Word)) (h : Tile.wf t = true) : Tile.wf (t.setAcc ws) = true := by
  rw [tileWf_iff] at h ⊢
  exact ⟨h.1, h.2.1, h.2.2.1, wf_setAll 0 ws _ h.2.2.2.1, h.2.2.2.2⟩

theorem tileWf_setLeaves (t : Tile) (ps : List (Nat × Word)) (h : Tile.wf t = true) : Tile.wf (t.setLeaves ps) = true := by
  rw [tileWf_iff] at h ⊢
  exact ⟨h.1, h.2.1, h.2.2.1, h.2.2.2.1, wf_setAll 0 ps _ h.2.2.2.2.1, h.2.2.2.2.2⟩

theorem wfFrom_tabulate {α : Type} [DecidableEq α] (d : α) (f : Nat → α) : ∀ n b : Nat,
    Cells.wfFrom d b ((List.range' b n).filterMap fun i => if f i = d then none else some (i, f i)) = true
  | 0, _ => rfl
  | n + 1, b => by
    have ih := wfFrom_tabulate d f n (b + 1)
    rw [List.range'_succ, List.filterMap_cons]
    by_cases hf : f b = d
    · simpa only [hf, if_true] using wfFrom_mono d (Nat.le_succ b) _ ih
    · simp only [hf, if_false, Cells.wfFrom, Nat.le_refl, decide_true, Bool.true_and, Bool.and_eq_true]
      exact ⟨by simpa using hf, ih⟩

/-- A tabulated file stands in canonical form. -/
theorem wf_tabulate {α : Type} [DecidableEq α] (d : α) (n : Nat) (f : Nat → α) : Cells.wf d (Cells.tabulate d n f) = true := by
  have h := wfFrom_tabulate d f n 0
  rwa [← List.range_eq_range'] at h

/-- The memories stay canonical where a tile is replaced by one whose memories are. -/
theorem memoryWf_setTile (s : State) (f : TileId) (t : Tile) (h : Memory.wf s = true) (ht : Tile.wf t = true) :
    Memory.wf (s.setTile f t) = true := by
  simp only [Memory.wf, Bool.and_eq_true, List.all_eq_true] at h ⊢
  refine ⟨h.1, fun x hx => ?_⟩
  rcases Vector.mem_or_eq_of_mem_set (hi := tileNo_lt f) (Vector.mem_toList_iff.mp hx) with hm | rfl
  · exact h.2 x (Vector.mem_toList_iff.mpr hm)
  · exact ht

/-- Each tile's memories stand in canonical form where all memories do. -/
theorem tileWf_tile (s : State) (f : TileId) (h : Memory.wf s = true) : Tile.wf (s.tile f) = true := by
  simp only [Memory.wf, Bool.and_eq_true, List.all_eq_true] at h
  exact h.2 _ (Vector.mem_toList_iff.mpr (Vector.getElem_mem ..))

end Sys2Proof.Machine
end

