-- ==== Sys2Proof/Laws/Vector.lean ====
section
/-! SUPPORT. What a V slot that computes its active elements writes: one lemma for all of them. -/

namespace Sys2Proof.Machine

theorem vmode_bits (t : Tile) : elemBits t.vmode.ty ∈ [8, 16, 32, 64] := by
  simp only [Tile.vmode, vcfgType]
  split <;> decide

theorem toBits_or (a b : FpFlags) : (a.or b).toBits = a.toBits ||| b.toBits := by
  obtain ⟨a1, a2, a3, a4, a5⟩ := a
  obtain ⟨b1, b2, b3, b4, b5⟩ := b
  revert a1 a2 a3 a4 a5 b1 b2 b3 b4 b5
  decide

theorem flagsFold_bits (j : Nat) (F : FpFlags → Option Res → FpFlags) (hs : ∀ a x, F a (some x) = a.or x.fl) (hn : ∀ a, F a none = a) :
    ∀ (rs : List (Option Res)) (a : FpFlags), (rs.foldl F a).toBits.getLsbD j =
      (a.toBits.getLsbD j || rs.any fun r => (r.map Res.fl).any fun x => x.toBits.getLsbD j)
  | [], a => by simp
  | none :: rs, a => by
    rw [List.foldl_cons, hn, flagsFold_bits j F hs hn rs]
    simp
  | some x :: rs, a => by
    rw [List.foldl_cons, hs, flagsFold_bits j F hs hn rs, toBits_or]
    simp [Bool.or_assoc]

/-- The flags of the active elements. -/
theorem flagsOf_activeRes (mask : BitVec 256) (n : Nat) (f : Nat → Res) (j : Nat) :
    (flagsOf (activeRes mask n f)).toBits.getLsbD j = (List.range n).any fun e => mask.getLsbD e && (f e).fl.toBits.getLsbD j := by
  unfold flagsOf activeRes
  rw [flagsFold_bits j _ (fun _ _ => rfl) (fun _ => rfl), List.any_map]
  have h0 : ({} : FpFlags).toBits.getLsbD j = false := by
    have : ({} : FpFlags).toBits = 0 := by decide
    rw [this]; simp
  rw [h0, Bool.false_or]
  congr 1
  funext e
  simp only [Function.comp]
  split <;> simp_all

theorem activeRes_getElem? (mask : BitVec 256) (n : Nat) (f : Nat → Res) (e : Nat) (h : e < n) :
    ((activeRes mask n f).map fun r => r.map Res.v)[e]?.join = if mask.getLsbD e then some (f e).v else none := by
  simp only [activeRes, List.map_map, List.getElem?_map, List.getElem?_range h, Option.map_some, Option.join_some, Function.comp]
  split <;> rfl

/-- Results put into a line. -/
theorem lineWritten_putElems (t : Tile) (pd : Line) (w : Nat) (hw : w ∈ [8, 16, 32, 64]) (mask : BitVec 256) (f : Nat → Res) :
    LineWritten t (t.putElems pd w (activeRes mask (2048 / w) f)) pd w (fun e => if mask.getLsbD e then some (f e).v else none)
      (flagsOf (activeRes mask (2048 / w) f)).toBits := by
  have hn : ((activeRes mask (2048 / w) f).map fun r => r.map Res.v).length ≤ 2048 / w := by simp [activeRes]
  refine ⟨fun e he => ?_, fun c hc => setElements_off t pd w _ c hc, rfl, rfl⟩
  have := elemAt_setElements t pd w hw _ hn e he
  rw [activeRes_getElem? mask _ f e he] at this
  exact this

theorem findSome_badCell (t : Tile) (ls : List Line) (h : ∀ l ∈ ls, t.badCell l = none) : ls.findSome? t.badCell = none := by
  rw [List.findSome?_eq_none_iff]; exact h

/-- A V slot that computes its active elements: with no bad cell on the lines it reads it writes them and their flags. -/
theorem vecSlot_writes {i : Instr} {mn : String} {g : SlotFn} {pd : Line} {ls : List Line} {f : VMode → Tile → Nat → Res}
    (hx : ∀ s, exec i s = s.runSlot mn i g)
    (hg : ∀ s (t : Tile) b, g s s.focus t b =
      readingLines t ls (.keep (t.putElems pd (elemBits t.vmode.ty) (activeRes t.vmode.mask (elemCount t.vmode) (f t.vmode t))))) :
    WritesElements i pd ls f := by
  intro s b h hl
  refine ⟨_, _, runSlot_commits (accs := []) (fl := .seq) h (hx s) ?_ ?_ ?_ (by simp) (by simp),
    lineWritten_putElems s.here pd _ (vmode_bits _) s.here.vmode.mask (f s.here.vmode s.here), fun j => flagsOf_activeRes ..⟩
  · refine (hg s s.here b).trans ?_
    simp only [readingLines, findSome_badCell _ _ hl]
    rfl
  · exact h.leaf
  · exact h.goes

end Sys2Proof.Machine
end

