-- ==== Sys2Proof/Tests/Slice0.lean ====
section
/-! SUPPORT. Tests of the model on small states: ill-formed terms, words written out from the spec's encodings, results from the
spec's tables and examples, and for every statement states and operands that meet its hypotheses. -/

namespace Sys2Proof.Tests

open Sys2Proof Sys2Proof.Machine

/-! ## Well-formedness -/

/-- An undefined VCVT pair (R105). -/
theorem test_wf_vcvt : (Instr.vcvt ⟨.row, 0⟩ ⟨.row, 1⟩ .e2m1 .f64).wf = false := by decide
/-- A VCVT from a type to itself (R105). -/
theorem test_wf_vcvt_same : (Instr.vcvt ⟨.row, 0⟩ ⟨.row, 1⟩ .f32 .f32).wf = false := by decide
/-- m0 is never written (R22). -/
theorem test_wf_vcmp : (Instr.vcmp .eq 0 ⟨.row, 0⟩ ⟨.row, 1⟩).wf = false := by decide
theorem test_wf_ldm : (Instr.ldm 0 4 0).wf = false := by decide
/-- A packet event names its packet's type (R396). -/
def aPacket (ty : Byte) : Packet := ⟨ty, 0, 0, 0, 0, 0, 0, true, 0, 0, []⟩
theorem test_wf_rd : (Instr.rd 0 (aPacket 2)).wf = false := by decide
theorem test_wf_wr : (Instr.wr 0 (aPacket 1)).wf = false := by decide
theorem test_wf_amo : (Instr.amo 0 (aPacket 1)).wf = false := by decide
theorem test_wf_rdrsp : (Instr.rdrsp 0 (aPacket 5)).wf = false := by decide
theorem test_wf_wrack : (Instr.wrack 0 (aPacket 4)).wf = false := by decide
theorem test_wf_amorsp : (Instr.amorsp 0 (aPacket 4)).wf = false := by decide
/-- The word of an ill-formed term is refused: m0 in the mask field, and an undefined pair in VCVT's B field. -/
theorem test_wf_word_refused : (encode true (.vcmp .eq 0 ⟨.row, 0⟩ ⟨.row, 1⟩)).map decodeSlot = some (.error .badField) ∧
    (encode true (.ldm 0 4 0)).map decodeSlot = some (.error .badField) ∧
    (encode true (.vcvt ⟨.row, 0⟩ ⟨.row, 1⟩ .e2m1 .f64)).map decodeSlot = some (.error .badField) := by decide

/-! ## Words: stop bit, OP, D, A, B as R57 places them -/

/-- S unit: ADDI s9, s9, -4 with the stop bit clear is OP 0x10. -/
theorem test_word_s : decodeSlot 0x100909FC = .ok (.addi 9 9 (-4)) := by decide
/-- C unit: BRNZ s11, -6. -/
theorem test_word_c : decodeSlot 0xA08BFFFA = .ok (.brnz 11 (-6)) := by decide
/-- V unit: VFMA h3, v7, d12. -/
theorem test_word_v : decodeSlot 0x3303478C = .ok (.vfma ⟨.row, 3⟩ ⟨.col, 7⟩ ⟨.diag, 12⟩) := by decide
/-- L unit: LDW s20, s10, 2. -/
theorem test_word_l : decodeSlot 0x54140A02 = .ok (.ldw 20 10 2) := by decide
/-- M unit: MMULZ with accumulator 5, s12, 4 rows, layout 2. -/
theorem test_word_m : decodeSlot 0xE0150C0E = .ok (.mmulz 5 12 3 2) := by decide
/-- T unit: TRISE 3, s8, s9. -/
theorem test_word_t : decodeSlot 0xF0030809 = .ok (.trise 3 8 9) := by decide
/-- Q unit: SWAIT 5, s22. -/
theorem test_word_q : decodeSlot 0xF9050016 = .ok (.swait 5 22) := by decide
/-- A reserved OP and a reserved field are refused by name. -/
theorem test_word_reserved : decodeSlot 0x9F000000 = .error .reservedOp ∧ decodeSlot 0x80000001 = .error .badField := by decide

/-! ## Samples -/

/-- A tile of die 0. -/
def aTile : TileId := ⟨0, 0⟩
/-- Its neighbour. -/
def bTile : TileId := ⟨0, 1⟩

/-- The word of an instruction, as the last of its bundle. -/
def wordOf (i : Instr) : Word := (encode true i).getD 0

/-- A bundle of one slot at word 0x100. -/
def bundleOf (i : Instr) : Inflight :=
  ⟨0x100, [wordOf i], 0, 0, KRegs.reset, 4, 0, 0, 0, 0, false, none, 0, 0, false, 0, 0, false, none, [], 0⟩

/-- A 256-byte launch record with some bytes set: the rest are 0. -/
def recordWith (bs : List (Nat × Byte)) : List Byte := bs.foldl (fun r p => r.set p.1 p.2) (List.replicate 256 0)

/-- A resident launch with handle 1, its FLAGS and its part on die 0; HANDLER is 0x200, the inner extent 16, one tile a crew. -/
def launchWith (flags : Byte) (more : List (Nat × Byte)) (parts : List DieLaunch) : Launch :=
  ⟨1, 1, .resident, 0, 0, 0, recordWith ([(2, flags), (8, 1), (0x41, 2)] ++ more), [], [], parts, false, 0, 0, 0, 0, [], [], [], false, []⟩

/-- A tile that runs a point of launch 1. -/
def running (f : Tile → Tile) : Tile :=
  f { Tile.reset with act := .point, pt := ⟨1, 0, Vector.replicate 3 0, 0, 1, 0, 0, 0, false⟩ }

/-- A state in which a tile runs under a launch with a handler, DSEM, SPR and DIAG. -/
def withTile (x : Tile) : State :=
  { State.reset.setTile aTile x with focus := aTile, launches := [launchWith 0x1E [] []] }

/-- The same with a bundle in flight. -/
def withBundle (b : Inflight) (f : Tile → Tile) : State := withTile { running f with inflight := some b }

/-- The same with the slot standing ready as the last of its bundle. -/
def standing (i : Instr) (f : Tile → Tile) : State := withBundle (bundleOf i) f

@[simp] theorem withTile_tile (x : Tile) : (withTile x).tile aTile = x := by simp [withTile, State.tile, State.setTile]
@[simp] theorem withTile_here (x : Tile) : (withTile x).here = x := withTile_tile x
@[simp] theorem withTile_focus (x : Tile) : (withTile x).focus = aTile := rfl

/-- A slot instruction stands ready. -/
theorem bundle_at (i : Instr) (b : Inflight) (f : Tile → Tile) (hb : b.ready = true) (hk : (running f).k.trapped = false)
    (hl : (running f).leafTrap = none) (hg : (running f).stopReq = false) : (withBundle b f).At i b := by
  have h : (withBundle b f).here = { running f with inflight := some b } := withTile_here _
  exact ⟨by rw [h], hb, fun ht => by rw [h] at ht; simp [hk] at ht, by rw [h]; exact hl, by rw [h]; exact hg⟩

/-- Every slot instruction stands ready in some state. -/
theorem standing_at (i : Instr) (f : Tile → Tile) (hk : (running f).k.trapped = false) (hl : (running f).leafTrap = none)
    (hg : (running f).stopReq = false) : (standing i f).At i (bundleOf i) := bundle_at i _ f rfl hk hl hg

/-- With nothing sent through the crew path, the slot finds its scratchpad as it is. -/
theorem standing_own (i : Instr) (f : Tile → Tile) : (standing i f).own = standing i f := rfl

/-- A slot that uses its tile's own scratchpad stands ready. -/
theorem standing_own_at (i : Instr) (f : Tile → Tile) (hk : (running f).k.trapped = false) (hl : (running f).leafTrap = none)
    (hg : (running f).stopReq = false) : (standing i f).own.At i (bundleOf i) := standing_at i f hk hl hg

/-- Its launch takes a trap with the handler. -/
theorem standing_handles (i : Instr) (f : Tile → Tile) (hp : (running f).pt.handle = 1) (hk : (running f).k.trapped = false)
    (hr : (running f).retiring = false) : (standing i f).Handles (launchWith 0x1E [] []) := by
  have h : (standing i f).here = { running f with inflight := some (bundleOf i) } := withTile_here _
  refine ⟨?_, by decide, by rw [h]; exact hk, by rw [h]; exact hr⟩
  rw [h]
  show (standing i f).launch? (running f).pt.handle = _
  rw [hp]
  rfl

/-- One slot is the last of its bundle. -/
theorem bundleOf_last (i : Instr) : (bundleOf i).atLast := rfl

/-- A tile with scalar registers set. -/
def withS (rs : List (SReg × Word)) (x : Tile) : Tile := rs.foldl (fun x p => x.setS p.1 p.2) x

/-- What the tile holds after a step. -/
def seen {α : Type} (r : Result) (g : Tile → α) : Option α :=
  match r with
  | .next t => some (g (t.tile aTile))
  | _ => none

/-- What the step of a slot leaves in a register. -/
def leaves (i : Instr) (rs : List (SReg × Word)) (d : SReg) : Option Word :=
  seen (exec i (standing i (withS rs))) fun t => t.sreg d

/-! ## Values: the tables of 04 R117-R121 and hand calculation -/

theorem test_add_wraps : leaves (.add 9 10 11) [(10, 0xFFFFFFFF), (11, 2)] 9 = some 1 := by decide
theorem test_add_to_s0 : leaves (.add 0 10 11) [(10, 5), (11, 2)] 0 = some 0 := by decide
theorem test_sub_order : leaves (.sub 9 10 11) [(10, 1), (11, 2)] 9 = some 0xFFFFFFFF := by decide
theorem test_mulh_signed : leaves (.mulh 9 10 11) [(10, 0xFFFFFFFF), (11, 2)] 9 = some 0xFFFFFFFF := by decide
theorem test_mulhu_unsigned : leaves (.mulhu 9 10 11) [(10, 0xFFFFFFFF), (11, 2)] 9 = some 1 := by decide
theorem test_div_truncates : leaves (.div 9 10 11) [(10, 0xFFFFFFF9), (11, 2)] 9 = some 0xFFFFFFFD := by decide
theorem test_div_corner : leaves (.div 9 10 11) [(10, 0x80000000), (11, 0xFFFFFFFF)] 9 = some 0x80000000 := by decide
theorem test_rem_sign : leaves (.rem 9 10 11) [(10, 0xFFFFFFF9), (11, 2)] 9 = some 0xFFFFFFFF := by decide
theorem test_divu_zero : leaves (.divu 9 10 11) [(10, 7)] 9 = some 0xFFFFFFFF := by decide
theorem test_remu_zero : leaves (.remu 9 10 11) [(10, 7)] 9 = some 7 := by decide
theorem test_sra_amount : leaves (.sra 9 10 11) [(10, 0x80000000), (11, 33)] 9 = some 0xC0000000 := by decide
theorem test_addi_sign : leaves (.addi 9 10 0xFC) [(10, 1)] 9 = some 0xFFFFFFFD := by decide
theorem test_andi_zero_extends : leaves (.andi 9 10 0xFC) [(10, 0xFFFFFFFF)] 9 = some 0xFC := by decide
theorem test_slt_signed : leaves (.slt 9 10 11) [(10, 0xFFFFFFFF), (11, 0)] 9 = some 1 := by decide
theorem test_sltu_unsigned : leaves (.sltu 9 10 11) [(10, 0xFFFFFFFF), (11, 0)] 9 = some 0 := by decide
theorem test_sel_old : leaves (.sel 9 10 11) [(9, 4), (10, 5), (11, 6)] 9 = some 5 := by decide
theorem test_clz : leaves (.clz 9 10) [(10, 1)] 9 = some 31 := by decide
theorem test_brev : leaves (.brev 9 10) [(10, 1)] 9 = some 0x80000000 := by decide
theorem test_sextb : leaves (.sextb 9 10) [(10, 0x80)] 9 = some 0xFFFFFF80 := by decide
theorem test_sethi : leaves (.sethi 9 0x1234) [(9, 7)] 9 = some 0x12340000 := by decide
theorem test_call_links : leaves (.call 4) [] 63 = some 0x101 := by decide
/-- R29: the tile of die 0 and site 0 is TILEID 0. -/
theorem test_movk_tileid : leaves (.movk 9 16) [(9, 3)] 9 = some 0 := by decide
/-- R126: LOOPI pushes its count, the start after the bundle and the end before the target. -/
theorem test_loopi_push : seen (exec (.loopi 3 8) (standing (.loopi 3 8) id)) Tile.loops = some [⟨3, 0, 0x101, 0x107⟩] := by decide
/-- R171: STW stores the low byte first. -/
theorem test_stw_bytes : seen (exec (.stw 9 10 1) (standing (.stw 9 10 1) (withS [(9, 0x04030201), (10, 8)])))
    (fun t => t.spadBytes 12 4) = some [1, 2, 3, 4] := by decide
/-- R177: a compare that fails leaves the word, and s[D] gets it. -/
theorem test_atom_cas : seen (exec (.atom .cas 9 10 .loc 11) (standing (.atom .cas 9 10 .loc 11) (withS [(9, 1), (11, 7)])))
    (fun t => (t.spadWord 0, t.sreg 9)) = some (0, 0) := by decide
/-- R185: SWAIT takes the count away. -/
theorem test_swait : seen (exec (.swait 5 9) (standing (.swait 5 9) fun x =>
    { withS [(9, 2)] x with sems := x.sems.set 5 3 })) (fun t => t.semCount 5) = some 1 := by decide
/-- The mode of a reset tile in a type. -/
def modeOf (ty : ElemType) : VMode := { Tile.reset.vmode with ty := ty }
/-- R151: 1.0 + 1.0 is 2.0, and 2^24 + 1 rounds to even, inexact, in F32. -/
theorem test_vadd_f32 : opAdd (modeOf .f32) 0x3F800000 0x3F800000 = ⟨0x40000000, {}⟩ ∧
    opAdd (modeOf .f32) 0x4B800000 0x3F800000 = ⟨0x4B800000, { inx := true }⟩ := by decide
/-- R149: I8 wraps, or with SAT is held. -/
theorem test_vadd_i8 : (opAdd (modeOf .i8) 0x7F 1).v = 0x80 ∧ (opAdd { modeOf .i8 with sat := true } 0x7F 1).v = 0x7F := by decide
/-- R154: 1 / 0 is infinity with DZ. -/
theorem test_vrcp_zero : opFun (modeOf .f32) fmtF32 .rcp 0 = ⟨0x7F800000, { dz := true }⟩ := by decide
/-- R16: lane i of column n is lane n of row i. -/
theorem test_lines : let t := Tile.reset.setLine ⟨.row, 5⟩ (List.replicate 64 7)
    (t.line ⟨.col, 9⟩)[5]? = some 7 ∧ (t.line ⟨.diag, 4⟩)[5]? = some 7 ∧ (t.line ⟨.col, 9⟩)[4]? = some 0 := by decide
/-- R308: a fault in a slot leaves TPC, TCAUSE, SR and the handler's PC. -/
theorem test_trap_entry : seen (exec .lbrk (standing .lbrk id)) (fun t => (t.pc, t.k.tpc, t.k.tcause, t.k.trapped)) =
    some (0x200, 0x100, 0x09, true) := by decide

/-! ## Witnesses: states and operands that meet the hypotheses of the statements -/

/-- Encoding: well-formed terms, words that decode, and a word of an assigned OP. -/
theorem witness_encoding : (Instr.addi 9 9 (-4)).wf = true ∧ decodeSlot 0x100909FC = .ok (.addi 9 9 (-4)) ∧
    decodeSlot 0x80000001 ≠ .error .reservedOp := by decide

/-- The statements of the S, C and V units that ask for a slot at its turn, on lines without a bad cell, in any operands. -/
theorem witness_ready (i : Instr) : (standing i id).At i (bundleOf i) ∧ (bundleOf i).atLast ∧
    ∀ l, (standing i id).here.badCell l = none := by
  refine ⟨standing_at i id rfl rfl rfl, rfl, fun l => ?_⟩
  simp [standing, withBundle, running, Tile.reset, Tile.badCell]

/-- A step with a bundle in flight, whose next word decodes, and with none in flight. -/
theorem witness_step : let s := standing (.add 9 10 11) id
    s.inbox = [] ∧ s.regs.powered = true ∧ s.here.inflight = some (bundleOf (.add 9 10 11)) ∧
    (bundleOf (.add 9 10 11)).words[0]?.map decodeSlot = some (.ok (.add 9 10 11)) ∧ (bundleOf (.add 9 10 11)).ready = true ∧
    (s.deadlineDue s.here && s.here.deadlineHere) = false ∧ gateHold s s.focus = none ∧ s.cutDue s.here.pt.handle = false ∧
    s.sleepDue s.here = false ∧ s.owed s.focus (commitCycle s.here ((bundleOf (.add 9 10 11)).passK s.here)) = false ∧
    (bundleOf (.add 9 10 11)).words.drop 1 = [] := by decide
/-- A PEND with an entry pending holds its bundle at K. -/
theorem witness_step_held : let s := standing .pend fun x => { x with sb := [⟨3, 0, 0, .ldc ⟨.row, 0⟩ none, false, 0, []⟩] }
    s.cutDue s.here.pt.handle = false ∧ s.sleepDue s.here = false ∧ (s.deadlineDue s.here && s.here.deadlineHere) = false ∧
    s.owed s.focus (commitCycle s.here (bundleOf .pend)) = false ∧ (bundleOf .pend).hold = none ∧ gateHold s s.focus = some .pend := by
  decide +kernel
/-- A tile about to issue. -/
def issuing : State := withTile (running fun x => { x with istore := [(0, wordOf .nop)] })
theorem runs_of {o : Result} (h : (match o with | .next _ => true | _ => false) = true) : ∃ t, o = .next t := by
  cases o <;> simp at h ⊢
theorem witness_step_issue : issuing.inbox = [] ∧ issuing.here.inflight = none ∧ (issuing.deadlineDue issuing.here && issuing.here.deadlineHere) = false ∧
    ∃ t, exec (.bundleIssue issuing.focus (Config.stall issuing.draws)) { issuing with draws := issuing.draws + 1 } = .next t :=
  ⟨by decide, by decide, by decide, runs_of (by decide +kernel)⟩
/-- Inputs in the inbox, and a package without power. -/
theorem witness_inbox : { State.reset with inbox := [.event 5 .stickyRead] }.inbox = [.event 5 .stickyRead] ∧
    { State.reset with inbox := [.turn aTile] }.regs.powered = true ∧
    { State.reset with regs := { State.reset.regs with powered := false } }.inbox.head? ≠ some (.event 0 .coldReset) := by decide
/-- A step of canonical memories. -/
def reading : State := { State.reset with inbox := [.event 5 .stickyRead], tiles := Vector.replicate 640 Tile.reset }
theorem witness_canonical : Memory.wf reading = true := by
  have h : reading.tiles.toList.all Tile.wf = true := by
    show (Vector.replicate 640 Tile.reset).toList.all Tile.wf = true
    rw [Vector.toList_replicate, List.all_eq_true]
    intro t ht
    rw [List.eq_of_mem_replicate ht]; decide
  unfold Memory.wf
  rw [h]; rfl
theorem witness_canonical_step : ∃ t, step reading = .next t := ⟨_, rfl⟩
theorem witness_registers : (9 : SReg) ≠ 0 ∧ (8 : SReg) ≠ 9 := by decide

/-- A bundle of two NOPs at its first slot. -/
def twoNops : Inflight := { bundleOf .nop with words := [wordOf .nop, wordOf .nop] }
theorem witness_nop : (withBundle twoNops id).At .nop twoNops ∧ twoNops.next + 1 < twoNops.words.length ∧
    (standing .nop id).At .nop (bundleOf .nop) := ⟨bundle_at _ _ _ rfl rfl rfl rfl, by decide, standing_at _ _ rfl rfl rfl⟩
/-- Branches on a register that is 0, or has its sign set. -/
theorem witness_branch : (standing (.brz 9 4) id).here.sreg 9 = 0 ∧ (standing (.brnz 9 4) (withS [(9, 1)])).here.sreg 9 ≠ 0 ∧
    ((standing (.brlz 9 4) (withS [(9, 0x80000000)])).here.sreg 9).getLsbD 31 = true := by decide
/-- A tile with some loops on its stack. -/
def withLoops (n : Nat) (x : Tile) : Tile := { x with loops := List.replicate n ⟨2, 0, 5, 7⟩ }
/-- LOOP with count 0; a last free entry; a full stack. -/
theorem witness_loop : (standing (.loop 9 4) id).At (.loop 9 4) (bundleOf (.loop 9 4)) ∧ (standing (.loop 9 4) id).here.sreg 9 = 0 ∧
    (standing (.loopi 1 4) (withLoops 5)).At (.loopi 1 4) (bundleOf (.loopi 1 4)) ∧ (standing (.loopi 1 4) (withLoops 5)).here.loops.length < 6 ∧
    (standing (.loopi 1 4) (withLoops 6)).At (.loopi 1 4) (bundleOf (.loopi 1 4)) ∧ 6 ≤ (standing (.loopi 1 4) (withLoops 6)).here.loops.length ∧
    (standing (.loopi 1 4) (withLoops 6)).Handles (launchWith 0x1E [] []) :=
  ⟨standing_at _ _ rfl rfl rfl, by decide, standing_at _ _ rfl rfl rfl, by decide, standing_at _ _ rfl rfl rfl, by decide,
    standing_handles _ _ rfl rfl rfl⟩
/-- LBRK with an entry and with none. -/
theorem witness_lbrk : (standing .lbrk (withLoops 1)).here.loops = ⟨2, 0, 5, 7⟩ :: [] ∧ (standing .lbrk id).here.loops = [] ∧
    (standing .lbrk id).Handles (launchWith 0x1E [] []) := ⟨by decide, by decide, standing_handles _ _ rfl rfl rfl⟩
/-- An entry of the scoreboard. -/
def anEntry (w : SbWork) : SbEntry := ⟨3, 0, 0, w, false, 0, []⟩
/-- PEND with nothing pending, and with an entry pending. -/
theorem witness_pend : (standing .pend id).here.copyq = [] ∧ (standing .pend id).here.sb = [] ∧
    (standing .pend fun x => { x with sb := [anEntry (.ldc ⟨.row, 0⟩ none)] }).here.sb ≠ [] := by
  refine ⟨by decide, by decide, ?_⟩
  rw [standing, withBundle, withTile_here]; simp [running]
/-- A tile whose slot holds its bundle at K. -/
def holding (i : Instr) (k : HoldKind) (f : Tile → Tile) : State := withBundle { bundleOf i with hold := some k } f
theorem holding_tile (i : Instr) (k : HoldKind) (f : Tile → Tile) :
    (holding i k f).tile aTile = { running f with inflight := some { bundleOf i with hold := some k } } := withTile_tile _
/-- A bundle of one slot that may hold it waits at K. -/
theorem holding_waits (i : Instr) (k : HoldKind) (f : Tile → Tile) (hd : decodeSlot (wordOf i) = .ok i)
    (ht : (running f).k.trapped = false ∧ (running f).leafTrap = none ∧ (running f).stopReq = false ∧ (running f).cutReq = none)
    (hs : (running f).sb = []) :
    (holding i k f).WaitsAtK aTile i k { bundleOf i with hold := some k } := by
  have h := holding_tile i k f
  refine ⟨by rw [h], rfl, ⟨rfl, rfl⟩, congrArg some hd, .inr fun _ hw => absurd hw (by simp [bundleOf]), .inl (by rw [h]; exact ht.2.2.2),
    fun hk => by rw [h] at hk; simp [ht.1] at hk, by rw [h]; exact ht.2.1, by rw [h]; exact ht.2.2.1, ?_, ?_⟩
  · unfold State.cutDue
    split
    · rename_i l hl
      have : l ∈ [launchWith 0x1E [] []] := List.mem_of_find?_eq_some hl
      rw [List.mem_singleton.mp this]; rfl
    · rfl
  · unfold State.owed
    rw [h]; simp only [hs, List.any_nil, Bool.false_or]; rfl
/-- A PEND before which no slot of its bundle stands, and one that follows a NOP. -/
theorem witness_pend_gate : (bundleOf .pend).rest = [] ++ [.pend] ∧ (bundleOf .pend).passed = false ∧
    ({ bundleOf .nop with words := [wordOf .nop, wordOf .pend] } : Inflight).rest = [.nop] ++ [.pend] ∧ (∀ i ∈ [Instr.nop], mayHold i = false) ∧
    (let b : Inflight := { bundleOf .nop with words := [wordOf .nop, wordOf .pend] }
     let s := withBundle b fun x => { x with sb := [anEntry (.ldc ⟨.row, 0⟩ none)] }
     trial (s.setTile s.focus { s.here with inflight := some { b with flagsDue := 0 } }) s.focus [.nop] = true) := by decide +kernel
/-- A held PEND with nothing left to wait for. -/
theorem witness_pend_held : (holding .pend .pend id).WaitsAtK aTile .pend .pend { bundleOf .pend with hold := some .pend } ∧
    ((holding .pend .pend id).tile aTile).copyq = [] ∧ ((holding .pend .pend id).tile aTile).sb = [] :=
  ⟨holding_waits _ _ _ (by decide) ⟨rfl, rfl, rfl, rfl⟩ rfl, by rw [holding_tile]; rfl, by rw [holding_tile]; rfl⟩
/-- SEGCHK that matches, and one that does not. -/
theorem witness_segchk : (standing (.segchk 0 0) id).here.sreg 0 = (standing (.segchk 0 0) id).here.k.segcnt ∧
    (standing (.segchk 0 0) id).here.sreg 0 = (standing (.segchk 0 0) id).here.k.segsig ∧
    (standing (.segchk 9 0) (withS [(9, 1)])).here.sreg 9 ≠ (standing (.segchk 9 0) (withS [(9, 1)])).here.k.segcnt ∧
    (standing (.segchk 9 0) (withS [(9, 1)])).Handles (launchWith 0x1E [] []) :=
  ⟨by rw [standing, withBundle, withTile_here]; rfl, by rw [standing, withBundle, withTile_here]; rfl,
    by rw [standing, withBundle, withTile_here]; decide, standing_handles _ _ rfl rfl rfl⟩
/-- Two mismatches within the last 24 hours. -/
theorem witness_segchk_third : let s : State := { standing (.segchk 9 0) (withS [(9, 1)]) with
      sites := Vector.replicate 640 { Site.made 0 with live := { (Site.made 0).live with segt0 := 2, segt1 := 1 } } }
    let r := (s.site s.focus).live
    r.segt0 ≠ 0 ∧ r.segt1 ≠ 0 ∧ s.ltime ≤ r.segt1 + 24 * 3600 * 1000000000 ∧ s.here.k.trapped = false := by decide +kernel
/-- A tile in its handler. -/
def inHandler (x : Tile) : Tile := { x with k := { x.k with trapped := true } }
/-- RTE in a handler. -/
theorem witness_rte : (standing .rte inHandler).At .rte (bundleOf .rte) ∧ (standing .rte inHandler).here.k.trapped = true := by
  refine ⟨⟨withTile_here _ ▸ rfl, rfl, fun _ => by decide, withTile_here _ ▸ rfl, withTile_here _ ▸ rfl⟩, by decide⟩
/-- KMOV of k27 under DIAG, of k4 in a handler, and of a register that it may not write. -/
theorem witness_kmov : (standing (.kmov 27 9) id).launch? (standing (.kmov 27 9) id).here.pt.handle = some (launchWith 0x1E [] []) ∧
    (launchWith 0x1E [] []).diag = true ∧ (standing (.kmov 4 9) inHandler).At (.kmov 4 9) (bundleOf (.kmov 4 9)) ∧
    (standing (.kmov 4 9) inHandler).here.k.trapped = true ∧ (16 : KReg).toNat ∉ [7, 10, 11, 12, 13, 14, 15, 28, 30, 31, 48] :=
  ⟨(standing_handles _ _ rfl rfl rfl).launch, by decide, ⟨withTile_here _ ▸ rfl, rfl, fun _ => by decide, withTile_here _ ▸ rfl, withTile_here _ ▸ rfl⟩, by decide, by decide⟩

theorem standing_here (i : Instr) (f : Tile → Tile) : (standing i f).here = { running f with inflight := some (bundleOf i) } :=
  withTile_here _
theorem standing_tile (i : Instr) (f : Tile → Tile) : (standing i f).tile aTile = { running f with inflight := some (bundleOf i) } :=
  withTile_tile _

/-! ### The V unit -/

/-- A tile with a VCFG. -/
def withVcfg (v : BitVec 16) (x : Tile) : Tile := { x with k := { x.k with vcfg := v } }
theorem witness_integers : elemFloat (modeOf .i8).ty = none ∧ 255 < 2 ^ elemBits (modeOf .i8).ty := by decide
/-- A floating type, and an integer one. -/
theorem witness_functions : elemFloat (standing (.vrcp ⟨.row, 1⟩ ⟨.row, 2⟩) id).here.vmode.ty = some fmtF32 ∧
    elemFloat (standing (.vrcp ⟨.row, 1⟩ ⟨.row, 2⟩) (withVcfg 6)).here.vmode.ty = none ∧
    (standing (.vrcp ⟨.row, 1⟩ ⟨.row, 2⟩) (withVcfg 6)).here.k.trapped = false := by
  simp only [standing_here]; exact ⟨by decide, by decide, rfl⟩
theorem witness_compare_convert : (1 : MaskReg) ≠ 0 ∧ cvtDefined .f32 .e2m1 = true := by decide
/-- Elements 0 and 1 active with none between, and none before 0. -/
theorem witness_scan : let c := (standing (.vscan ⟨.row, 1⟩ ⟨.row, 2⟩ .sum) id).here.vmode
    0 < 2048 / elemBits c.ty ∧ c.mask.getLsbD 0 = true ∧ c.mask.getLsbD 1 = true := by
  simp only [standing_here]; decide
/-- An integer sum, and a mask with nothing active. -/
theorem witness_reduction : elemFloat (standing (.vred 9 ⟨.row, 2⟩ .sum) (withVcfg 6)).here.vmode.ty = none ∧
    (standing (.vred 9 ⟨.row, 2⟩ .sum) (withVcfg 0x16)).here.vmode.mask = 0 := by
  simp only [standing_here]; decide
/-- The last defined type, the first undefined one, a reserved bit. -/
theorem witness_vcfg : (((0x00B : BitVec 16).extractLsb' 0 4).toNat < 12 ∧ (0x00B : BitVec 16).extractLsb' 11 5 = 0) ∧
    ¬ ((0x00C : BitVec 16).extractLsb' 0 4).toNat < 12 ∧ ¬ (0x800 : BitVec 16).extractLsb' 11 5 = 0 := by decide

/-! ### The L unit -/

/-- The last line, word and mask record of the scratchpad. -/
theorem witness_loads : (standing (.ldl ⟨.row, 1⟩ 10 0) (withS [(10, 0x1FFF00)])).own.At (.ldl ⟨.row, 1⟩ 10 0) (bundleOf (.ldl ⟨.row, 1⟩ 10 0)) ∧
    (((standing (.ldl ⟨.row, 1⟩ 10 0) (withS [(10, 0x1FFF00)])).here.sreg 10).toNat : Int) = 0x1FFF00 ∧
    AddrOk 0x1FFF00 256 16 ∧ AddrOk 0x1FFFFC 4 4 ∧ AddrOk 0x1FFFE0 32 32 ∧ (1 : MaskReg) ≠ 0 := by
  refine ⟨standing_own_at _ _ rfl rfl rfl, ?_⟩
  simp only [standing_here]; unfold AddrOk; decide
/-- Past the end, below 0, misaligned, across two regions. -/
theorem witness_bad_addresses : ¬ AddrOk 0x1FFF10 256 16 ∧ ¬ AddrOk (-4) 4 4 ∧ ¬ AddrOk 2 4 4 ∧ ¬ AddrOk 0x1FFF0 256 16 ∧
    (standing (.ldw 9 10 0xFF) id).Handles (launchWith 0x1E [] []) :=
  ⟨by unfold AddrOk; decide, by unfold AddrOk; decide, by unfold AddrOk; decide, by unfold AddrOk; decide, standing_handles _ _ rfl rfl rfl⟩
/-- A crew-space address with a rank past the crew, with bit 21 set, and misaligned. -/
theorem witness_bad_crew : let x := (standing (.ldc ⟨.row, 1⟩ 10) id).here
    x.crewN ≤ ((0x01000000 : Word).extractLsb' 24 8).toNat ∧ ((0x00200000 : Word).extractLsb' 24 8).toNat < x.crewN ∧
    (0x00200000 : Word).extractLsb' 21 3 ≠ 0 ∧ ¬ AddrOk ((0x8 : Word).extractLsb' 0 21).toNat 256 16 := by
  simp only [standing_here]; exact ⟨by decide, by decide, by decide, by unfold AddrOk; decide⟩
theorem lane_zero (x : Tile) (h : x.plane = []) (l : Line) (e : Nat) : x.lane l e = 0 := by
  have hz : ∀ n : Nat, ∀ ws : List Word, (∀ w ∈ ws, w = 0) → packWords ws / 2 ^ n % 2 ^ 32 = 0 := fun n ws hw => by
    have : packWords ws = 0 := by
      induction ws with
      | nil => rfl
      | cons v vs ih => rw [packWords, hw v (by simp), ih fun w m => hw w (by simp [m])]; rfl
    rw [this, Nat.zero_div, Nat.zero_mod]
  unfold Tile.lane elemAt
  by_cases he : e < (elements 32 (x.line l)).length
  · rw [List.getD_eq_getElem _ _ he, elements_getElem]
    refine hz _ _ fun w hw => ?_
    obtain ⟨c, -, rfl⟩ := List.mem_map.mp hw
    rw [h]; rfl
  · rw [List.getD_eq_getElem?_getD, List.getElem?_eq_none (Nat.le_of_not_lt he)]; rfl
/-- A gather whose base is misaligned, and one whose first lane lies past the end. -/
theorem witness_bad_gather : ((withS [(10, 2)] Tile.reset).sreg 10).toNat % 4 ≠ 0 ∧ ((withS [(10, 0x200000)] Tile.reset).sreg 10).toNat % 4 = 0 ∧
    ¬ AddrOk ((0x200000 + 4 * 0 : Nat)) 4 4 ∧ ∀ j < 0, AddrOk ((0x200000 + 4 * j : Nat)) 4 4 :=
  ⟨by decide, by decide, by unfold AddrOk; decide, fun _ h => absurd h (by omega)⟩
/-- A line with a bad cell. -/
theorem witness_bad_cell : (standing (.stl ⟨.row, 1⟩ 10 0) fun x => { x with planeBad := [64] }).here.badCell ⟨.row, 1⟩ = some 64 := by
  rw [standing_here]; decide
/-- A gather of 64 times address 0. -/
theorem witness_gather : ((standing (.ldg ⟨.row, 1⟩ 10 ⟨.row, 2⟩) id).here.sreg 10).toNat % 4 = 0 ∧
    (∀ a ∈ (List.range 64).map fun e => ((standing (.ldg ⟨.row, 1⟩ 10 ⟨.row, 2⟩) id).here.sreg 10).toNat +
      4 * (standing (.ldg ⟨.row, 1⟩ 10 ⟨.row, 2⟩) id).here.lane ⟨.row, 2⟩ e, AddrOk (a : Nat) 4 4) := by
  rw [standing_here]
  refine ⟨by decide, fun a ha => ?_⟩
  obtain ⟨e, -, rfl⟩ := List.mem_map.mp ha
  rw [lane_zero _ rfl]
  unfold AddrOk; decide
/-- A tile with one pending entry. -/
def pending (w : SbWork) (f : Tile → Tile) : State := withTile (running fun x => f { x with sb := [anEntry w] })
theorem pending_tile (w : SbWork) (f : Tile → Tile) : (pending w f).tile aTile = running fun x => f { x with sb := [anEntry w] } :=
  withTile_tile _
/-- No entry goes before the only one. -/
theorem alone (e : SbEntry) : ∀ q ∈ [e], q.before e = false := by simp [SbEntry.before]
theorem witness_gather_entries : ((pending (.ldg ⟨.row, 1⟩ (List.replicate 64 0) (List.replicate 64 none)) id).tile aTile).Pends 3 (anEntry (.ldg ⟨.row, 1⟩ (List.replicate 64 0) (List.replicate 64 none))) ∧
    ((pending (.stg (List.replicate 64 (some 7)) (List.replicate 64 0)) id).tile aTile).Pends 3 (anEntry (.stg (List.replicate 64 (some 7)) (List.replicate 64 0))) ∧
    (List.replicate 64 0).length = 64 := by
  simp only [pending_tile]; exact ⟨⟨rfl, rfl, alone _, by decide⟩, ⟨rfl, rfl, alone _, by decide⟩, by decide⟩
/-- A crew access of rank 0 from the tile to itself: aligned, in the scratchpad, no ATOM come back yet. -/
theorem witness_crew : ((0x1FFF00 : Word).extractLsb' 24 8).toNat < (standing (.ldc ⟨.row, 1⟩ 10) id).here.crewN ∧
    (0x1FFF00 : Word).extractLsb' 21 3 = 0 ∧ AddrOk ((0x1FFF00 : Word).extractLsb' 0 21).toNat 256 16 ∧
    (bundleOf (.atom .add 9 10 .crew 11)).atomBack = none := by
  rw [standing_here]; exact ⟨by decide, by decide, by unfold AddrOk; decide, rfl⟩
/-- An access under way from the tile's neighbour. -/
def accessing (op : CrewOp) : State := { withTile (running id) with crew := [⟨bTile, aTile, op, 1, 1⟩] }
/-- The target serves the launch of the access, or another's. -/
theorem witness_crew_arrival (op : CrewOp) : (accessing op).crew[0]? = some ⟨bTile, aTile, op, 1, 1⟩ ∧
    (∀ e ∈ (accessing op).crew.take 0, ¬ (e.src = bTile ∧ e.dst = aTile)) ∧ ((accessing op).tile aTile).serves 1 = true ∧
    ((accessing op).tile aTile).serves 2 = false ∧ bTile ≠ aTile := by
  have h : (accessing op).tile aTile = running id := withTile_tile _
  rw [h]; exact ⟨rfl, fun _ h => absurd h (by simp), by decide, by decide, by decide⟩
/-- A tile's access to itself. -/
theorem witness_crew_self (op : CrewOp) : let s : State := { withTile (running id) with crew := [⟨aTile, aTile, op, 1, 1⟩] }
    s.crew[0]? = some ⟨aTile, aTile, op, 1, 1⟩ ∧ (s.tile aTile).serves 1 = true := by
  intro s
  have h : s.tile aTile = running id := withTile_tile _
  rw [h]; exact ⟨rfl, by decide⟩
/-- A sender that waits for its ATOM. -/
theorem witness_crew_atom : let b := { bundleOf (.atom .add 9 10 .crew 11) with atomSent := true }
    let s := { accessing (.atom 0 .add 1 0) with tiles := (State.reset.setTile bTile { running id with inflight := some b }).tiles }
    (s.tile bTile).inflight = some b ∧ b.atomSent = true := by
  refine ⟨?_, rfl⟩
  show ((State.reset.setTile bTile _).tile bTile).inflight = _
  rw [tile_setTile]
theorem witness_ldc : ((pending (.ldc ⟨.row, 1⟩ (some (List.replicate 64 7))) id).tile aTile).Pends 3
    (anEntry (.ldc ⟨.row, 1⟩ (some (List.replicate 64 7)))) := by rw [pending_tile]; exact ⟨rfl, rfl, alone _, by decide⟩
/-- An ATOM whose old word has come back. -/
theorem witness_crew_return : let b := { bundleOf (.atom .add 9 10 .crew 11) with atomSent := true, atomBack := some 5 }
    let x := (withBundle b id).tile aTile
    x.inflight = some b ∧ b.flagsDue = 0 ∧ b.hold = none ∧ b.words[b.next]?.map decodeSlot = some (.ok (.atom .add 9 10 .crew 11)) ∧
    x.leafTrap = none ∧ x.stopReq = false ∧ x.k.trapped = false ∧ (withBundle b id).cutDue x.pt.handle = false := by
  intro b x
  have h : x = { running id with inflight := some b } := withTile_tile _
  rw [h]; exact ⟨rfl, rfl, rfl, by decide, rfl, rfl, rfl, by decide⟩

/-! ### The M unit -/

/-- MCFG at the last formats, past them, and with a reserved bit. -/
theorem witness_mcfg : ((0xCC : BitVec 16).extractLsb' 8 8 = 0 ∧ ((0xCC : BitVec 16).extractLsb' 4 4).toNat ≤ 12 ∧
    ((0xCC : BitVec 16).extractLsb' 0 4).toNat ≤ 12) ∧ ¬ ((0xD0 : BitVec 16).extractLsb' 4 4).toNat ≤ 12 ∧
    ¬ (0x100 : BitVec 16).extractLsb' 8 8 = 0 := by decide
/-- A layout record at address 0 with extents 1; one with extents 0 stands at 32. -/
def withRecord (x : Tile) : Tile := { x with spad := [(16, 1), (18, 1), (20, 1), (22, 1)] }
theorem witness_mlay : let x := (standing (.mlay 1 10) withRecord).here
    (∀ j < 4, ¬ (x.byteAt (0 + 16 + 2 * j) = 0 ∧ x.byteAt (0 + 17 + 2 * j) = 0)) ∧ (∀ j < 8, x.byteAt (0 + 24 + j) = 0) ∧
    x.byteAt (32 + 16) = 0 ∧ x.byteAt (32 + 17) = 0 ∧ AddrOk 0 32 32 ∧ AddrOk 32 32 32 := by
  rw [standing_here]
  exact ⟨by decide, by decide, by decide, by decide, by unfold AddrOk; decide, by unfold AddrOk; decide⟩
/-- A layout of 8 chunks in a row. -/
def aLayout : LayoutRec := ⟨#v[1, 0, 0, 0], #v[8, 1, 1, 1]⟩
/-- A tile whose A format is E4M3, whose layout slot 1 holds the layout, and whose macro 1 has a tag. -/
def withMatrix (tag : MacroTag) (mcfg : BitVec 16) (base : Word) (x : Tile) : Tile :=
  { withS [(10, base)] x with k := { x.k with mcfg := mcfg }, lays := #v[LayoutRec.empty, aLayout, LayoutRec.empty, LayoutRec.empty],
                              macros := x.macros.set 1 { MacroState.empty with tag := tag } }
/-- The array's work on macro 1. -/
def someWork : SbWork := .mmul 2 false false 1 4 aLayout 0 0
theorem witness_mwait : (∀ e ∈ (standing (.mwait 1) id).here.sb, e.macro? ≠ some 1) ∧
    (∃ e ∈ [anEntry someWork], e.macro? = some 1) ∧ (∀ e ∈ [anEntry someWork], e.seqNo < 1) := by
  rw [standing_here]; exact ⟨fun _ h => absurd h (by simp [running, Tile.reset]), ⟨_, .head _, by decide⟩, by decide⟩
theorem witness_mwait_held : (holding (.mwait 1) .mwait id).WaitsAtK aTile (.mwait 1) .mwait { bundleOf (.mwait 1) with hold := some .mwait } ∧
    ((holding (.mwait 1) .mwait id).tile aTile).sb = [] ∧ ((holding (.mwait 1) .mwait id).tile aTile).copyq = [] :=
  ⟨holding_waits _ _ _ (by decide) ⟨rfl, rfl, rfl, rfl⟩ rfl, by rw [holding_tile]; rfl, by rw [holding_tile]; rfl⟩
/-- A multiply that passes every check of R213: the last row of the scratchpad. -/
theorem witness_mmul : let x := (standing (.mmul 2 10 0 1) (withMatrix .invalid 0x40 0x1FFF80)).here
    let l := x.lays[1]
    (x.sreg 10).toNat = 0x1FFF80 ∧ (x.k.mcfg.extractLsb' 4 4).toNat = 4 ∧ aMode false 4 = some .float ∧ x.tagAhead 1 = .invalid ∧
    l.isEmpty = false ∧ 1 * chunksPerRow 4 ≤ l.cover ∧ 0x1FFF80 % 16 = 0 ∧ isMx 4 = false ∧
    ∀ q < 8, 0 ≤ chunkAddr l 0x1FFF80 q ∧ chunkAddr l 0x1FFF80 q + 16 ≤ 0x200000 ∧ (chunkAddr l 0x1FFF80 q).toNat / 0x20000 = 0x1FFF80 / 0x20000 := by
  intro x l
  have h : x = _ := standing_here ..
  have hl : l = aLayout := by show x.lays[1] = _; rw [h]; rfl
  rw [hl, h]
  exact ⟨by decide, by decide, by decide, by decide, by decide, by decide, by decide, by decide, by decide⟩
/-- Multiplies that fail: an address past the region formats, a format of no mode, no tag, a tag of another mode, no layout, misaligned. -/
theorem witness_mmul_traps : (¬ ((withMatrix .none 0 0x200000 Tile.reset).k.mcfg.extractLsb' 4 4).toNat ≠ 0 ∧ ¬ 0x200000 ≤ 0x1FFFFF) ∧
    aMode false 1 = none ∧ (withMatrix .none 0x40 0 Tile.reset).tagAhead 1 = .none ∧
    (withMatrix (.fmt 8) 0x40 0 Tile.reset).tagAhead 1 = .fmt 8 ∧ pairOk .float 8 = false ∧ LayoutRec.empty.isEmpty = true ∧
    ((withMatrix .invalid 0x40 8 Tile.reset).sreg 10).toNat % 16 ≠ 0 ∧ (standing (.mmul 2 10 0 1) id).Handles (launchWith 0x1E [] []) :=
  ⟨by decide, by decide, by decide, by decide, by decide, by decide, by decide, standing_handles _ _ rfl rfl rfl⟩
theorem witness_mmul_writeback : ((pending someWork id).tile aTile).Pends 3 (anEntry someWork) ∧
    ((pending someWork id).tile aTile).raced.length ≤ 0 ∧
    Cells.wf 0 ((pending someWork id).tile aTile).acc = true ∧ ((pending someWork id).tile aTile).macroBusy ((2 : BitVec 4).toNat / 2) 0 = false ∧
    (∀ c, (pending someWork id).postsDue aTile c = false) ∧
    aMode false (4 : BitVec 4).toNat = some .float := by
  rw [pending_tile]; exact ⟨⟨rfl, rfl, alone _, by decide⟩, by decide, rfl, by decide, fun _ => rfl, by decide⟩
/-- An image that ends with the scratchpad, and a format that no image has. -/
theorem witness_mldw : 2 ≤ 4 ∧ isMx 4 = false ∧ AddrOk ((0x200000 - imageData 4 : Nat) : Int) (imageData 4) 256 ∧ ¬ (2 ≤ 1 ∧ 1 ≤ 10) := by
  refine ⟨by decide, by decide, ?_, by decide⟩
  have : imageData 4 = 16384 := by decide
  rw [this]; unfold AddrOk; decide
theorem witness_mldw_fill : ((pending (.mldw 1 4 0 0) id).tile aTile).Pends 3 (anEntry (.mldw 1 4 0 0)) ∧
    ((pending (.mldw 1 4 0 0) id).tile aTile).raced.length ≤ 0 ∧ ((pending (.mldw 1 4 0 0) id).tile aTile).macroBusy 1 0 = false ∧
    isMx (4 : BitVec 4).toNat = false := by
  rw [pending_tile]; exact ⟨⟨rfl, rfl, alone _, by decide⟩, by decide, by decide, by decide⟩
/-- A descriptor with some bytes set: the rest are 0. -/
def descWith (bs : List (Nat × Byte)) : List Byte := bs.foldl (fun r p => r.set p.1 p.2) (List.replicate 64 0)
/-- A stream of a raw E4M3 image: LOAD, RANK 1, EXT0 16384, CONV 4, MODE 0. -/
def aStream : List Byte := descWith [(0, 1), (0x0A, 1), (0x21, 0x40), (0x30, 4)]
theorem witness_stream_check : streamCheck aStream = none ∧ streamCheck (descWith []) = some 0x01 ∧ AddrOk 0x1FFFC0 64 64 := by
  exact ⟨by decide, by decide, by unfold AddrOk; decide⟩
/-- A copy with id 1 in the queue of a tile. -/
def copying (c : CopyCmd) : State := withTile (running fun x => { x with copyq := [c], issueNo := 2 })
theorem copying_tile (c : CopyCmd) : (copying c).tile aTile = running fun x => { x with copyq := [c], issueNo := 2 } := withTile_tile _
/-- The stream queued, started with its image read, and failed. -/
def aStreamCopy (st : CopyStage) (d image : List Byte) : CopyCmd := ⟨1, 0, d, some (1, 5), st, [], image, [], 1⟩
theorem witness_stream : let c := aStreamCopy .queued aStream []
    ((copying c).tile aTile).copy? 1 = some c ∧ ((copying c).tile aTile).startsCopies = true ∧ mayStart ((copying c).tile aTile).copyq c = true ∧
    ((copying c).tile aTile).macroBusy 1 1 = false := by
  intro c; rw [copying_tile]; exact ⟨rfl, by decide, by decide, by decide⟩
theorem witness_stream_ready : let c := aStreamCopy .started aStream []
    (copying c).streamReady aTile c 1 = true ∧ (copying c).cutTimeUp aTile = false ∧ streamImage ((copying c).tile aTile) c.desc c.image = some [] ∧
    streamImage ((copying c).tile aTile) (descWith [(0, 1), (0x30, 4), (0x32, 1)]) [] = none := by
  intro c
  have h : (copying c).tile aTile = _ := copying_tile c
  refine ⟨?_, by unfold State.cutTimeUp; rw [h]; rfl, by rw [h]; rfl, by rw [h]; decide⟩
  unfold State.streamReady; rw [h]; decide
/-- A stream that failed for a cut in a handler, behind work of its macro that is pending. -/
theorem witness_stream_cut : let x := inHandler { running id with sb := [anEntry someWork], copyq := [aStreamCopy (.failing .cut) aStream []] }
    x.macroBusy 1 1 = true ∧ x.k.trapped = true ∧ (aStreamCopy (.failing .cut) aStream []).stage = .failing .cut := by decide

/-! ### The T unit -/

theorem witness_tcfg : ((0xF1 : BitVec 16).extractLsb' 1 3 = 0 ∧ (0xF1 : BitVec 16).extractLsb' 8 8 = 0) ∧
    ¬ (0x2 : BitVec 16).extractLsb' 1 3 = 0 ∧ ¬ (0x100 : BitVec 16).extractLsb' 8 8 = 0 := by decide
/-- A block without a bad leaf, and one with. -/
theorem witness_blocks : (∀ n ∈ (standing (.tmvp ⟨.row, 1⟩ 1) id).here.leafBad, n / 64 ≠ (1 : BitVec 4).toNat) ∧
    ¬ (∀ n ∈ [64], n / 64 ≠ (1 : BitVec 4).toNat) ∧ AddrOk 0x1FFF00 256 16 ∧ AddrOk 0x1FFFE0 32 32 := by
  rw [standing_here]
  exact ⟨fun _ h => absurd h (by simp [running, Tile.reset]), by decide, by unfold AddrOk; decide, by unfold AddrOk; decide⟩
theorem witness_tld : ((pending (.tld 1 (List.replicate 64 7)) id).tile aTile).Pends 3 (anEntry (.tld 1 (List.replicate 64 7))) := by
  rw [pending_tile]; exact ⟨rfl, rfl, alone _, by decide⟩
/-- A shape of one leaf. -/
def oneLeaf : BitVec 256 := BitVec.ofNat 256 (2 ^ 248)
theorem witness_forest : shapeFault oneLeaf = none ∧ shapeFault 0 = some (0x01, 31) ∧ 1023 < 1024 ∧
    (List.range (shapeCount oneLeaf)).map (shapeByte oneLeaf) = [0] ∧
    ((pending (.trise oneLeaf 0 5 0) id).tile aTile).Pends 3 (anEntry (.trise oneLeaf 0 5 0)) ∧
    ((pending (.tfall oneLeaf 0 5 0) id).tile aTile).Pends 3 (anEntry (.tfall oneLeaf 0 5 0)) ∧
    ((pending (.trise oneLeaf 0 5 0) id).tile aTile).leafBad = [] ∧
    (∃ n ∈ descLeaves oneLeaf 0, n ∈ ((pending (.trise oneLeaf 0 5 0) fun x => { x with leafBad := [0], inflight := some twoNops }).tile aTile).leafBad) := by
  simp only [pending_tile]
  exact ⟨by decide, by decide, by decide, by decide, ⟨rfl, rfl, alone _, by decide⟩, ⟨rfl, rfl, alone _, by decide⟩, rfl, 0, by decide, by decide⟩

/-- A bad leaf met where the tile stands at a boundary, and while it waits at K before its bundle. -/
theorem witness_bad_leaf : (running id).inflight = none ∧ (running id).resume = 0 ∧
    (let b : Inflight := { bundleOf .pend with hold := some .pend }
     b.next = 0 ∧ b.passed = false ∧ b.atomSent = false ∧ b.atomBack = none ∧ b.hold ≠ none) := by decide

/-! ### The Q unit -/

/-- Target words of every kind: this tile, rank 0, site 79, and the ones that trap. -/
theorem witness_spost : (0x40000000 : Word).extractLsb' 30 2 = 1 ∧ (0x40000000 : Word).extractLsb' 8 22 = 0 ∧
    ((0x40000000 : Word).extractLsb' 0 8).toNat < (running id).crewN ∧ (running id).crewN ≤ ((0x40000001 : Word).extractLsb' 0 8).toNat ∧
    (0x8000004F : Word).extractLsb' 30 2 = 2 ∧ ((0x8000004F : Word).extractLsb' 0 8).toNat < 80 ∧ 80 ≤ ((0x80000050 : Word).extractLsb' 0 8).toNat ∧
    (0xC0000000 : Word).extractLsb' 30 2 = 3 ∧ (0x100 : Word).extractLsb' 8 22 ≠ 0 ∧ ((0x1 : Word).extractLsb' 0 8).toNat ≠ 0 ∧
    (launchWith 0x1E [] []).dsem = true ∧ (launchWith 0x02 [] []).dsem = false := by decide
/-- SWAIT with enough, with too little, and on a saturated semaphore. -/
theorem witness_swait : (running fun x => { withS [(9, 2)] x with sems := x.sems.set 5 2 }).sreg 9 ≤
      (running fun x => { withS [(9, 2)] x with sems := x.sems.set 5 2 }).semCount 5 ∧
    (running (withS [(9, 2)])).semCount 5 < (running (withS [(9, 2)])).sreg 9 ∧ (running id).semSaturated 5 = false ∧
    (running fun x => { x with k := { x.k with semErr := 0x20 } }).semSaturated 5 = true := by decide
theorem witness_swait_held : (holding (.swait 5 9) .swait id).WaitsAtK aTile (.swait 5 9) .swait { bundleOf (.swait 5 9) with hold := some .swait } ∧
    let x := (holding (.swait 5 9) .swait id).tile aTile
    x.asleep = false ∧ x.semSaturated 5 = false ∧ x.sreg 9 ≤ x.semCount 5 := by
  refine ⟨holding_waits _ _ _ (by decide) ⟨rfl, rfl, rfl, rfl⟩ rfl, ?_⟩
  rw [holding_tile]; exact ⟨rfl, by decide, by decide⟩
/-- A held SWAIT on a semaphore that has saturated, under a launch with a handler. -/
theorem witness_swait_saturated : let f : Tile → Tile := fun x => { x with k := { x.k with semErr := 0x20 } }
    (holding (.swait 5 9) .swait f).WaitsAtK aTile (.swait 5 9) .swait { bundleOf (.swait 5 9) with hold := some .swait } ∧
    ((holding (.swait 5 9) .swait f).tile aTile).semSaturated 5 = true ∧
    ({ holding (.swait 5 9) .swait f with focus := aTile } : State).Handles (launchWith 0x1E [] []) := by
  intro f
  refine ⟨holding_waits _ _ _ (by decide) ⟨rfl, rfl, rfl, rfl⟩ rfl, by rw [holding_tile]; decide, ?_⟩
  have h : ({ holding (.swait 5 9) .swait f with focus := aTile } : State).here = _ := holding_tile ..
  exact ⟨by rw [h]; rfl, by decide, by rw [h]; rfl, by rw [h]; rfl⟩
/-- A post for the point that the tile runs, and one for another. -/
def aPost (serial : Nat) : Post := ⟨bTile, aTile, 5, 1, false, 1, serial, false, false, 0, none⟩
theorem witness_posts : let s := { withTile (running id) with posts := [aPost 0, aPost 9] }
    s.posts[0]? = some (aPost 0) ∧ s.postCovered (aPost 0) = true ∧ (s.tile aTile).takesPost (aPost 0) = true ∧
    (s.tile aTile).takesPost (aPost 9) = false ∧ (aPost 0).early (s.tile aTile) = false ∧ s.sleepDue (s.tile aTile) = false ∧
    (s.tile aTile).sleepsBy (aPost 0) = false := by
  intro s
  have h : s.tile aTile = running id := withTile_tile _
  rw [h]; exact ⟨rfl, rfl, by decide, by decide, by decide, by decide, by decide⟩
/-- A raw SPCONV of 16 bytes from address 0 to 0x100. -/
def aCopy : List Byte := descWith [(0, 3), (0x0A, 1), (0x20, 16), (0x2D, 1)]
/-- Its CPY passes its checks; a descriptor of no kind does not; a full queue holds. -/
theorem witness_cpy : copyCheck (standing (.cpy 10) id) aTile (running id) aCopy = none ∧
    copyCheck (standing (.cpy 10) id) aTile (running id) (descWith []) = some 0x01 ∧ AddrOk 0x1FFFC0 64 64 ∧
    32 ≤ (List.replicate 32 (aStreamCopy .queued aStream [])).length := by
  exact ⟨by decide, by decide, by unfold AddrOk; decide, by decide⟩
/-- FENCE with nothing to wait for, with a copy to wait for; a launch that may sprint, and one that may not. -/
theorem witness_fence : (∀ c ∈ (standing (.fence .all .crew) id).crew, c.src ≠ aTile) ∧ (standing (.fence .all .crew) id).here.copyq = [] ∧
    ¬ ((copying (aStreamCopy .queued aStream [])).tile aTile).copyq = [] ∧ (launchWith 0x1E [] []).spr = true ∧
    (launchWith 0x02 [] []).spr = false := by
  rw [standing_here, copying_tile]
  exact ⟨fun _ h => absurd h (by simp [standing, withBundle, withTile, State.reset, State.setTile]), rfl, by simp [running], by decide, by decide⟩
theorem witness_held_copies : let s := holding (.cpy 10) .queueFull (fun x => { x with spad := Cells.ofList 0 aCopy })
    s.WaitsAtK aTile (.cpy 10) .queueFull { bundleOf (.cpy 10) with hold := some .queueFull } ∧ s.flushOwn aTile = s ∧
    (s.tile aTile).copyq.length < 32 ∧ ((s.tile aTile).sreg 10).toNat = 0 ∧ AddrOk 0 64 64 ∧ copyCheck s aTile (s.tile aTile) aCopy = none := by
  intro s
  have h : s.tile aTile = _ := holding_tile ..
  refine ⟨holding_waits _ _ _ (by decide) ⟨rfl, rfl, rfl, rfl⟩ rfl, rfl, ?_⟩
  rw [h]
  exact ⟨by decide, by decide, by unfold AddrOk; decide, by decide⟩
theorem witness_held_stream : let s := holding (.mstream 1 10 5) .queueFull (fun x => { x with spad := Cells.ofList 0 aStream })
    s.WaitsAtK aTile (.mstream 1 10 5) .queueFull { bundleOf (.mstream 1 10 5) with hold := some .queueFull } ∧ s.flushOwn aTile = s ∧
    (s.tile aTile).copyq.length < 32 :=
  ⟨holding_waits _ _ _ (by decide) ⟨rfl, rfl, rfl, rfl⟩ rfl, rfl, by rw [holding_tile]; decide⟩
theorem witness_held_fence :
    (holding (.fence .all .crew) .fence id).WaitsAtK aTile (.fence .all .crew) .fence { bundleOf (.fence .all .crew) with hold := some .fence } ∧
    (holding (.fence .all .crew) .fence id).crew = [] ∧ ((holding (.fence .all .crew) .fence id).tile aTile).sb = [] ∧
    ((holding (.fence .all .crew) .fence id).tile aTile).copyq = [] :=
  ⟨holding_waits _ _ _ (by decide) ⟨rfl, rfl, rfl, rfl⟩ rfl, rfl, by rw [holding_tile]; rfl, by rw [holding_tile]; rfl⟩
/-- A copy queued, started with its write, and failed. -/
def aCopyIn (st : CopyStage) (ws : List ElemWrite) : CopyCmd := ⟨1, 0, aCopy, none, st, ws, [], [], 1⟩
theorem witness_copies : let c := aCopyIn .queued [⟨.spad aTile 0x100, List.replicate 16 0, 1, 0⟩]
    let x := (copying c).tile aTile
    x.copy? 1 = some c ∧ x.startsCopies = true ∧ mayStart x.copyq c = true ∧ dKind c.desc = some .spconv ∧ fmtAt x.k (dSrc c.desc) = 0 ∧
    fmtAt x.k (dSp c.desc) = 0 ∧ c.gaps = [] ∧ (copying c).copyBusy aTile 1 = false ∧ (copying c).cutTimeUp aTile = false ∧
    (copying c).crew = [] ∧ x.sb = [] ∧
    postTarget (copying c) aTile x (dStgt c.desc) = .ok (aTile, false) := by
  intro c x
  have h : x = _ := copying_tile c
  refine ⟨by rw [h]; rfl, by rw [h]; decide, by rw [h]; decide, by decide, by rw [h]; decide, by rw [h]; decide, rfl, ?_, by unfold State.cutTimeUp; rw [show (copying c).tile aTile = _ from h]; rfl, rfl,
    by rw [h]; rfl, ?_⟩
  · show (State.reset.ports.toList.any _) = false
    decide
  have e : dStgt c.desc = 0 := by decide
  unfold postTarget
  rw [e, if_neg (by decide), if_pos (by decide)]

/-! ### The events of a tile -/

/-- A tile that issues the word at 0. -/
def issuingWord (w : Word) : State := withTile (running fun x => { x with istore := [(0, w)] })
theorem witness_issue_word : decodeSlot (wordOf .nop) = .ok .nop := by decide
theorem witness_issue (x : Tile) (h : x = running fun x => { x with istore := [(0, wordOf .nop)] }) :
    (x.act = .point ∧ x.inflight = none ∧ x.asleep = false ∧ x.stopReq = false ∧ x.cutReq = none) ∧
    (State.reset.die aTile.die).crit = false ∧ checkBundle x.k.vcfg x.nextWords x.resume = .ok [Instr.nop] ∧
    heldAtD x [Instr.nop] = false := by
  have hw : x.nextWords = [wordOf .nop] := by rw [h]; rfl
  have hr : x.resume = 0 := by rw [h]; rfl
  refine ⟨by rw [h]; exact ⟨rfl, rfl, rfl, rfl, rfl⟩, rfl, ?_, by rw [h]; rfl⟩
  rw [hw, hr]
  unfold checkBundle
  simp only [List.drop_zero, List.map_cons, List.map_nil, witness_issue_word, List.zipIdx_cons, List.zipIdx_nil, List.filterMap_cons, List.filterMap_nil]
  rfl
/-- Nothing stands before its issue. -/
theorem witness_issue_free : let s : State := { issuingWord (wordOf .nop) with sites := Vector.replicate 640 (Site.made 0) }
    let x := s.tile aTile
    (s.deadlineDue x && x.deadlineHere) = false ∧ x.cox.over = false ∧ s.regs.viral = false ∧ s.barred aTile = false ∧
    s.cutDue x.pt.handle = false ∧ (∀ n, s.owed aTile (x.passAt n) = false) ∧ x.sb = [] ∧ x.copyq = [] := by
  intro s x
  have hx : x = (issuingWord (wordOf .nop)).tile aTile := by show State.tile _ _ = State.tile _ _; unfold State.tile; rfl
  have h : x = running fun x => { x with istore := [(0, wordOf .nop)] } := hx.trans (withTile_tile _)
  have hs : s.site aTile = Site.made 0 := Vector.getElem_replicate _
  rw [h]
  refine ⟨by decide, by decide, rfl, ?_, by decide, fun _ => ?_, rfl, rfl⟩
  · unfold State.barred; rw [hs]; simp only [show s.tile aTile = _ from h]
    exact (by decide : ∀ h, ((Site.made 0).live.bins[(running id).vf.bin]'h).bar = false) _
  · unfold State.owed; rw [show s.tile aTile = _ from h]; rfl
/-- Eight words without a stop bit, a reserved OP, a bad field. -/
theorem witness_issue_traps : (running id).nextWords.length = 8 ∧ (∀ w ∈ (running id).nextWords, stopBit w = false) ∧
    decodeSlot 0x9F000000 = .error .reservedOp ∧ decodeSlot 0x80000001 = .error .badField ∧
    (running fun x => { x with istore := [(0, 0x9F000000)] }).nextWords = [0x9F000000] ∧
    (running fun x => { x with istore := [(0, 0x80000001)] }).nextWords = [0x80000001] :=
  have h : (running id).nextWords = List.replicate 8 0 := by
    have z : (running id).istore = [] := rfl
    simp only [Tile.nextWords, bundleWords, z]; rfl
  ⟨by rw [h]; decide, by rw [h]; simp [stopBit], by decide, by decide, by decide, by decide⟩
/-- A bundle with no, one and two flags; a tile that waits, and one that sleeps. -/
theorem witness_replay (n : Nat) : let b := { bundleOf .nop with flags := n }
    ((withBundle b id).tile aTile).inflight = some b ∧ b.next = b.start ∧ b.passed = false ∧ b.hold = none ∧ b.atomSent = false ∧ b.atomBack = none ∧
    ((withBundle b id).tile aTile).k.trapped = false ∧ anyHolds (withBundle b id) aTile ((withBundle b id).tile aTile) 0 b.rest = false ∧
    (withBundle b id).owed aTile (commitCycle ((withBundle b id).tile aTile) (b.released ((withBundle b id).tile aTile))) = false ∧ (Site.made 0).live.bins[(running id).vf.bin].offset ≤ (running id).cox.pol.ceil := by
  intro b
  have h : (withBundle b id).tile aTile = _ := withTile_tile _
  have hr : b.rest = [.nop] := by show (bundleOf .nop).rest = _; decide
  refine ⟨by rw [h], rfl, rfl, rfl, rfl, rfl, by rw [h]; rfl, by rw [hr]; rfl, ?_, by decide⟩
  unfold State.owed; rw [h]; rfl
/-- A SWAIT held for 4,096 cycles, and a sleeping tile that a post wakes. -/
def sleeper (f : Tile → Tile) : State := { holding (.swait 5 9) .swait (fun x => f (withS [(9, 1)] x)) with time := sleepNs 1 }
theorem sleeper_tile (f : Tile → Tile) : (sleeper f).tile aTile =
    { running (fun x => f (withS [(9, 1)] x)) with inflight := some { bundleOf (.swait 5 9) with hold := some .swait } } := withTile_tile _
theorem witness_sleep :
    (let x := (sleeper id).tile aTile
     x.asleep = false ∧ (wordOf (.swait 5 9) |> decodeSlot) = .ok (.swait 5 9) ∧ x.semSaturated 5 = false ∧ x.semCount 5 < x.sreg 9 ∧
     ((bundleOf (.swait 5 9)).waitFrom + sleepNs x.vf.bin ≤ (sleeper id).time ∧ (sleeper id).deadlineDue x = false)) ∧
    (let s := sleeper fun x => { x with asleep := true, woken := true }
     let x := s.tile aTile
     x.asleep = true ∧ s.wakes x = true ∧ x.planeBad = [] ∧ x.stopReq = false ∧ x.leafTrap = none ∧ x.k.trapped = false) := by
  simp only [sleeper_tile]
  exact ⟨⟨rfl, by decide, by decide, by decide, by decide⟩, rfl, rfl, rfl, rfl, rfl, rfl⟩
/-- A point whose deadline of 1 ns has come. -/
def late : State := { withTile (running id) with time := 1, launches := [launchWith 0x1E [(0x44, 1)] []] }
theorem witness_deadline : late.launch? (late.tile aTile).pt.handle = some (launchWith 0x1E [(0x44, 1)] []) ∧
    (launchWith 0x1E [(0x44, 1)] []).pdeadline ≠ 0 ∧ (late.tile aTile).pt.deadlineTaken = false ∧
    (late.tile aTile).pt.fireTime + (launchWith 0x1E [(0x44, 1)] []).pdeadline ≤ late.time ∧ (late.tile aTile).inflight = none ∧
    (launchWith 0x1E [(0x44, 1)] []).hnd = true := by
  have h : late.tile aTile = running id := withTile_tile _
  rw [h]; exact ⟨rfl, by decide, rfl, by decide, rfl, by decide⟩
/-- A hold at K of which no slot has committed, at a deadline. -/
theorem witness_deadline_held : let b : Inflight := { bundleOf .pend with hold := some .pend }
    b.hold ≠ none ∧ b.next = b.start ∧ b.start = 0 ∧ late.sleepDue { running id with inflight := some b } = false := by decide
/-- A tile that has issued nothing for a millisecond, held by no rule; the scoreboard's dwell for it is over; a hold at K. -/
theorem witness_hang : let s : State := { withTile (running id) with time := 1000000, sites := Vector.replicate 640 (Site.made 0) }
    (s.tile aTile).act = .point ∧ s.heldByRule aTile (s.tile aTile) = false ∧ (s.tile aTile).movedAt + 1000000 ≤ s.time ∧
    (s.site aTile).live.state ≠ .retired ∧ (s.tile aTile).asleep = false ∧ (s.tile aTile).dueLate = false := by
  intro s
  have h : s.tile aTile = running id := withTile_tile _
  have hs : s.site aTile = Site.made 0 := by simp [s, State.site]
  refine ⟨by rw [h]; rfl, ?_, by rw [h]; decide, by rw [hs]; decide, by rw [h]; rfl, by rw [h]; rfl⟩
  have hb : s.barred aTile = false := by unfold State.barred; rw [hs]; simp only [h]; exact (by decide : ∀ h, ((Site.made 0).live.bins[(running id).vf.bin]'h).bar = false) _
  unfold State.heldByRule; rw [hb, h]; decide
theorem witness_droop : (running fun x => { x with k := { x.k with hw := true }, stretchEnd := 6 }).k.hw = true ∧
    (running fun x => { x with stretchEnd := 6 }).stretchEnd ≠ 0 ∧ ({ State.reset.die 0 with dth := 1 } : Die).dth ≠ 0 := by decide

/-! ### The Harrow -/

set_option Elab.async false

/-- A frontier with an empty row and one whose window is set: the first and the last point that may complete in the second. -/
theorem witness_frontier : let fr : Frontier := ⟨2, 4, [⟨0, false, 0⟩, ⟨3, false, 1⟩]⟩
    fr.b + fr.rows.length = fr.t ∧ fr.b ≤ 3 ∧ fr.rows[3 - fr.b]? = some ⟨3, false, 1⟩ ∧ 3 ≤ 3 ∧ 3 ≤ 3 + 64 ∧ 67 ≤ 3 + 64 ∧ 67 < 68 := by decide
/-- A launch of 4 points in one row on die 0, its part, and a state with every site enabled that holds it in a resident slot. -/
def aPart (fr : Frontier) (runs : List PointRun) (waiting : Option Nat) : DieLaunch := ⟨0, fr, 0, 1, runs, [], [], waiting, 0⟩
def aLaunch (prio : Byte) (ps : List DieLaunch) : Launch := launchWith 0x1E [(4, prio), (9, 1), (0x0C, 4)] ps
def resident (l : Launch) (now : Nat) : State :=
  { State.reset with launches := [l], time := now, sites := Vector.replicate 640 (Site.made 0), dies := State.reset.dies.set 0 { Die.reset with slots := [1] } }
/-- A row to open. -/
theorem witness_row_open : let p := aPart ⟨0, 0, []⟩ [] none
    let l := aLaunch 0 [p]
    (resident l 0).launch? l.handle = some l ∧ l.part? 0 = some p ∧ l.phase = .resident ∧ p.fr.t < p.rowHi ∧ p.fr.t - p.fr.b < 1024 ∧
    0 < innerExt l.record ∧ (resident l 0).pointReady l p p.fr.t 0 = true := by decide +kernel
/-- A point to fire. -/
theorem witness_point_fire : let p := aPart ⟨0, 1, [⟨0, false, 0⟩]⟩ [] none
    let l := aLaunch 0 [p]
    let s := resident l 0
    (s.die 0).slots = [l.handle] ∧ (s.die 0).reserve = [] ∧ (s.die 0).fenced = false ∧ s.regs.viral = false ∧ l.restores = [] ∧
    s.nextPoint l p = some (0, 0) ∧ s.chooseRect l 0 = some 0 := by decide +kernel
theorem reset_tile (i : TileId) : State.reset.tile i = Tile.reset := by simp [State.tile, State.reset]
theorem reset_site (i : TileId) : State.reset.site i = Site.made (tileNo i) := by simp [State.site, State.reset]
theorem member_tile {y : Tile} (i : TileId) : (State.reset.setTile aTile y).tile i = if i = aTile then y else Tile.reset := by
  split
  · subst i; simp [State.tile, State.setTile]
  · rename_i hn; rw [tile_setTile_ne _ _ hn, reset_tile]
/-- A point whose member has entered, and one whose member has ended. -/
def aRun (started : Bool) : PointRun := ⟨0, 0, started, 0, none⟩
def member (act : Activity) (p : DieLaunch) : State :=
  { resident (aLaunch 0 [p]) 0 with tiles := (State.reset.setTile aTile (running fun x => { x with act := act })).tiles }
theorem witness_point_members : let p (b : Bool) := aPart ⟨0, 1, [⟨0, false, 0⟩]⟩ [aRun b] none
    (p true).runs.find? (fun x => x.serial == 0) = some (aRun true) ∧ 0 ∈ legalCorners 0 ∧ rectTiles 0 0 0 = [aTile] ∧
    ((member .entering (p false)).tile aTile).act = .entering ∧ ((member .pended (p true)).tile aTile).act = .pended ∧
    (member .pended (p true)).crew = [] := by decide +kernel
/-- A part on another die; a launch that has waited a millisecond, and one at priority 3 that has waited 100 us with every tile busy. -/
theorem witness_waits : let p := aPart ⟨0, 0, []⟩ [] (some 0)
    let q : DieLaunch := { p with die := 1 }
    (aLaunch 0 [p, q]).parts.find? (fun x => x.die == 1) = some q ∧ (aLaunch 0 [p]).f 4 1 + p.boost < (resident (aLaunch 0 [p]) 1000000).effPrio (aLaunch 0 [p]) p ∧
    (let s := { resident (aLaunch 3 [p]) 100000 with tiles := Vector.replicate 640 (running id) }
     s.effPrio (aLaunch 3 [p]) p = 3 ∧ s.chooseRect (aLaunch 3 [p]) 0 = none ∧ (∀ r ∈ (s.die 0).reserve, r.1 ≠ 1) ∧ s.routeBlocked 1 0 = false ∧
     0 ∈ legalCorners 0 ∧ (∀ i ∈ rectTiles 0 0 0, (s.site i).live.state = .enabled) ∧ ∀ n ∈ rectSites 0 0, n ∉ s.reservedFrom 0 1) := by decide +kernel
/-- A launch that is done. -/
theorem witness_launch_done : let p := aPart ⟨1, 1, []⟩ [] none
    let l := aLaunch 0 [p]
    l.isResident = true ∧ l.restores = [] ∧ ∀ q ∈ l.parts, q.done = true ∧ q.runs = [] := by decide
/-! ### The command front-end -/

/-- Context 0 maps addresses below 1 GiB to the host: its entry, one table of each of levels 0 and 1, and a leaf with P, L, W and TGT 1. -/
def mapped (host : Cells Byte) : State :=
  { State.reset with
    regs := { State.reset.regs with ctxCount := 1 }, hostMem := host, sites := Vector.replicate 640 (Site.made 0),
    gmem := [(0, 1), (10, 1), (4194304, 1), (4194306, 3), (134217728, 1), (134217730, 2), (138412032, 0x53)] }
/-- A queue at 0 of 2^2 commands, enabled, with one command to fetch. -/
def aQueue : Queue := { State.reset.queues[0] with en := true, size := 2, tail := 1 }
/-- A command of 64 bytes. -/
def cmdWith (bs : List (Nat × Byte)) : List Byte := bs.foldl (fun r p => r.set p.1 p.2) (List.replicate 64 0)
def queueing (cmd : List Byte) (f : Queue → Queue) : State :=
  { mapped (Cells.ofList 0 cmd) with queues := State.reset.queues.set 0 (f aQueue) }
/-- A KILL of handle 1 to fetch, a command with a bad opcode, and a queue with no context. -/
theorem witness_fetch : let s := queueing (cmdWith [(0, 6), (4, 1)]) id
    let x := s.queue 0
    x.en = true ∧ x.err = false ∧ x.fetched = none ∧ x.head ≠ x.tail ∧ s.launches = [] ∧ s.regs.viral = false ∧
    (s.feRead x.ctx (x.base.toNat + 64 * x.head) 64).2 = some (cmdWith [(0, 6), (4, 1)]) ∧ commandError (cmdWith [(0, 6), (4, 1)]) = none ∧
    commandError (cmdWith []) ≠ none ∧ (State.reset.feRead 0 0 64).2 = none := by decide +kernel
/-- A queue with a command in hand. -/
def inHand (cmd : List Byte) : State := queueing [] fun x => { x with fetched := some cmd }
theorem witness_commands : let wait := cmdWith [(0, 2)]
    let signal := cmdWith [(0, 3), (0x10, 1)]
    ((inHand wait).queue 0).fetched = some wait ∧ field wait 1 1 = 0 ∧ cOp wait = 2 ∧ ((inHand wait).feReadGo .front true 0 0 8).2 = some (List.replicate 8 0) ∧
    (((inHand wait).feReadGo .front true 0 0 8).1.queue 0).fetched = some wait ∧ (inHand wait).regs.ready = true ∧
    cOp signal = 3 ∧ (((inHand signal).feStore 0 0 0 (bytesOfNat 8 1)).1.queue 0).fetched = some signal ∧
    cOp (cmdWith [(0, 7)]) = 7 ∧ ((inHand []).queue 0).running = [] ∧ cOp (cmdWith [(0, 6)]) = 6 ∧ (inHand []).ghosts = [] := by decide +kernel
/-- A KILL's target. -/
theorem witness_kill : let s := { inHand (cmdWith [(0, 6), (4, 1)]) with launches := [launchWith 0x1E [] []] }
    (s.queue 0).fetched = some (cmdWith [(0, 6), (4, 1)]) ∧ (s.queue 0).begun = false ∧ (launchWith 0x1E [] []).handle = 1 ∧
    (launchWith 0x1E [] []).phase = .resident ∧ (launchWith 0x1E [] []).preempts = [] := by decide +kernel
/-- A record of one point that passes R277: version 2, shape 0, class, limits and mode 1, 1, 2, die 0, one word of code at 0x2000. -/
def goodRecord : List Byte := recordWith [(0, 2), (3, 1), (6, 1), (7, 2), (8, 1), (9, 1), (0x0C, 1), (0x31, 0x20), (0x38, 1)]
/-- A LAUNCH of handle 1 whose record stands at 0x1000: the record good, or of zeros. -/
def launching (r : List Byte) : State :=
  { inHand (cmdWith [(0, 1), (4, 1), (9, 0x10)]) with hostMem := Cells.setRange 0 [] 0x1000 r }
theorem witness_launch : let cmd := cmdWith [(0, 1), (4, 1), (9, 0x10)]
    let s := launching goodRecord
    let r := s.feRead 0 (field cmd 8 8) 256
    let p := r.1.readParts 0 goodRecord
    (s.queue 0).fetched = some cmd ∧ cOp cmd = 1 ∧ s.launches = [] ∧ s.ghosts = [] ∧ r.2 = some goodRecord ∧ p.2 = some ([0], []) ∧
    recordDetail p.1 0 1 false goodRecord = none ∧ namedDies goodRecord = [0] ∧ (p.1.die 0).slots.length < 16 := by decide +kernel
theorem witness_launch_fails : let cmd := cmdWith [(0, 1), (4, 1), (9, 0x10)]
    let r := goodRecord.set 0 1
    let q := (launching r).feRead 0 (field cmd 8 8) 256
    let p := q.1.readParts 0 r
    q.2 = some r ∧ p.2 = some ([0], []) ∧ recordDetail p.1 0 1 false r = some 2 := by decide +kernel
/-- A save area at 0x1000 of one die's frontier and no cut point. -/
def anArea : List Byte :=
  goodRecord ++ ((List.replicate 64 0).set 1 1 |>.set 0x18 0x80 |>.set 0x19 1) ++
    ((List.replicate 64 0).set 2 2 |>.set 0x28 1 |>.set 0x30 64)
theorem witness_resume : let cmd := cmdWith [(0, 5), (4, 1), (9, 0x10), (0x19, 2)]
    let s : State := { inHand cmd with hostMem := Cells.setRange 0 [] 0x1000 anArea }
    let q := s.feRead 0 (field cmd 8 8) 0x140
    let h := q.2.getD []
    let p := q.1.readParts 0 (h.take 256)
    q.2.isSome = true ∧ cOp cmd = 5 ∧ p.2 = some ([0], []) ∧ recordDetail p.1 0 1 true (h.take 256) = none ∧
    (p.1.savedLaunch 0 cmd h).2.toOption = some ([newPart 0 ⟨0, 0, []⟩ 0 1], []) := by decide +kernel
/-- A launch that waits for a slot. -/
theorem witness_waiting : let l := { launchWith 0x1E [] [] with phase := .waiting }
    let s := { State.reset with launches := [l] }
    s.launch? 1 = some l ∧ l.phase = .waiting ∧ s.regs.viral = false ∧ ∀ d ∈ namedDies l.record, (s.die d).slots.length < 16 := by decide +kernel
/-- A full die. -/
theorem witness_full_die : 16 ≤ ({ Die.reset with slots := List.replicate 16 2 } : Die).slots.length := by decide

/-! ### Preemption -/

/-- A PREEMPT of a resident launch that nothing chains to, and of none. -/
theorem witness_preempt : let cmd := cmdWith [(0, 4), (4, 1)]
    let s := { inHand cmd with launches := [launchWith 0x1E [] []] }
    (s.queue 0).fetched = some cmd ∧ cOp cmd = 4 ∧ s.launch? 1 = some (launchWith 0x1E [] []) ∧ s.ghostsFull 1 = false ∧
    (inHand cmd).launch? 1 = none := by decide +kernel
/-- A launch that drains for a PREEMPT with deadline 1. -/
def draining (p : DieLaunch) (late : Bool) : State :=
  let l := { aLaunch 0 [p] with phase := .draining, preempts := [⟨0, 0, 0, 0, 1, late, 0⟩] }
  { member .point p with launches := [l], time := 1 }
/-- A PREEMPT whose deadline is past when it comes, of a launch with a started point; and one whose deadline has not come. -/
theorem witness_preempt_past : let p := aPart ⟨0, 1, [⟨0, false, 0⟩]⟩ [aRun true] none
    let l := aLaunch 0 [p]
    let s := member .point p
    let cmd := cmdWith [(0, 4), (4, 1), (0x10, 1)]
    field cmd 0x10 8 ≠ 0 ∧ field cmd 0x10 8 ≤ ({ s with time := 1 } : State).time ∧ ¬ field cmd 0x10 8 ≤ s.time ∧ l.cutting = false ∧ l.phase = .resident ∧
    s.runEnds l 0 (aRun true) = false ∧ (∀ x ∈ l.parts, ∀ r ∈ x.runs, r.started = true) := by decide +kernel
/-- The cut decision that TIME has come to goes before the next bundle. -/
theorem witness_step_cut : let s := draining (aPart ⟨0, 1, [⟨0, false, 0⟩]⟩ [aRun true] none) false
    s.inbox = [] ∧ s.regs.powered = true ∧ s.cutDue 1 = true := by decide +kernel
/-- A launch of which no member but the tile runs has settled once the tile has. -/
theorem settled (l : Launch) (y : Tile) (s : State) (ht : ∀ i, s.tile i = if i = aTile then y else Tile.reset) (hp : s.posts = [])
    (hc : s.crew = []) (hy : y.act = .cut) (hq : y.copyq = [])
    (hr : (l.parts.any fun x => x.runs.any (s.runEnds l x.die)) = false) : s.cutSettled l = true := by
  unfold State.cutSettled
  rw [hp, hc, hr]
  simp only [List.any_nil, Bool.not_false, Bool.and_true, List.all_eq_true]
  intro i _
  rw [ht]
  split
  · simp [hy, hq]
  · simp [Tile.runs, Tile.reset]
/-- With nothing left in flight; with a started point at the deadline; and with its member cut. -/
theorem witness_draining : let idle := aPart ⟨0, 0, []⟩ [] none
    let busy := aPart ⟨0, 1, [⟨0, false, 0⟩]⟩ [aRun true] none
    (∀ x ∈ [idle], x.runs = []) ∧ idle.done = false ∧ (∃ x ∈ [busy], x.runs ≠ []) ∧ (∀ r ∈ busy.runs, r.started = true) ∧
    (draining busy false).ghostsFull 1 = false ∧ (draining busy false).time = 1 ∧
    (∃ l, (draining busy false).launch? 1 = some l ∧ l.cutting = false) ∧
    (let s := { draining busy true with tiles := (State.reset.setTile aTile (running fun x => { x with act := .cut })).tiles }
     ∃ l, s.launch? 1 = some l ∧ l.cutting = true ∧ s.cutSettled l = true ∧ ∀ i ∈ l.members, (s.tile i).badParity = none) := by
  refine ⟨by decide, by decide, by decide, by decide, by decide +kernel, rfl, ⟨_, rfl, rfl⟩, _, rfl, rfl, settled _ _ _ member_tile rfl rfl rfl rfl (by decide +kernel), ?_⟩
  decide +kernel
/-- Members told to stop: outside loops, held, past 16,384 cycles, with a copy of 10 us. -/
theorem witness_cut : let c : Tile := running fun x => { x with cutReq := some (0, 0) }
    let c' : Tile := { c with k := { c.k with cycle := 16384 } }
    let b : Inflight := { bundleOf (.swait 5 9) with hold := some .swait }
    c.cutReq = some (0, 0) ∧ c.act = .point ∧ c.inflight = none ∧ c.loops = [] ∧ b.hold ≠ none ∧ b.next = b.start ∧ c.asleep = false ∧ 0 + 16384 ≤ c'.k.cycle.toNat ∧
    (aCopyIn .started []).stage = .started := by decide +kernel
/-! ### Fences, resets, timing margin -/

/-- The record store of reset is whole. -/
theorem witness_store : State.reset.storeLost = false := by
  have h : State.reset.sites.toList.any (fun x => x.badA && x.badB) = false := by
    show (Vector.ofFn fun n : Fin 640 => Site.made n.val).toList.any _ = false
    rw [Vector.toList_ofFn, List.any_eq_false]
    intro x hx
    obtain ⟨n, rfl⟩ := List.mem_ofFn.mp hx
    simp [Site.made, Site.ofRec]
  unfold State.storeLost
  rw [h]; rfl
/-- Reset has no fence and no viral state, and so has a package that lost its power. -/
theorem witness_resets : (State.reset.die 7).fenced = false ∧ State.reset.regs.viral = false ∧
    ({ State.reset with regs := { State.reset.regs with powered := false } } : State).storeLost = false := ⟨by decide, rfl, witness_store⟩
/-- A reset below the critical threshold; a copy B whose write is under way at this TIME, a header's too. -/
theorem witness_removal : (∀ k, State.reset.dieTemp k < State.reset.regs.threshold 2) ∧
    (let x : Site := { Site.made 0 with tear := some (0, (Site.made 0).live, false) }
     ((State.reset.setSite aTile x).site aTile).tear = some ((State.reset.setSite aTile x).time, (Site.made 0).live, false)) ∧
    ({ State.reset.regs with headTear := some (0, State.reset.headers[1]) } : PkgRegs).headTear = some (State.reset.time, State.reset.headers[1]) := by
  refine ⟨?_, by simp [State.site, State.setSite]; rfl, rfl⟩
  unfold State.dieTemp State.zoneTemp
  simp only [reset_tile]
  decide +kernel
/-- A state with one site's record changed. -/
def withSite (x : Site) : State := { State.reset.setSite aTile x with time := 10000000 }
theorem withSite_site (x : Site) : (withSite x).site aTile = x := by simp [withSite, State.site, State.setSite]
def aSite : Site := Site.made 0
def fencedSite : Site := { aSite with verify := true, live := { aSite.live.setState .fenced with fcause := 0x0E } }
theorem witness_site_writes : ((withSite { aSite with due := true }).site aTile).due = true ∧
    ((withSite { aSite with fallAt := some 0 }).site aTile).fallAt = some 0 ∧ 0 + 10000000 ≤ (withSite aSite).time ∧ aSite.lastWrite = none ∧
    ((withSite fencedSite).site aTile).live.state = .fenced ∧ ((withSite fencedSite).site aTile).verify = true ∧ ((withSite fencedSite).site aTile).live.fcause = 0x0E := by
  simp only [withSite_site]; decide
/-- A window that has ended with one replay above LIMIT, at LIMIT, and below FLOOR and quiet; an offset at CEIL and below it. -/
def aWindow (r limit floor : Nat) : CoxWindow := ⟨4, r, 0, none, ⟨2, floor, limit, 0, 0, 5⟩, false, none⟩
theorem witness_cox : let c := aWindow 3 2 1
    (c.fresh = false ∧ 2 ^ c.pol.wn ≤ c.bundles ∧ c.pol.limit < c.replays) ∧
    (let d := aWindow 2 2 1; d.replays ≤ d.pol.limit ∧ ¬ d.replays < d.pol.floor) ∧
    (let d := aWindow 0 2 1; d.replays ≤ d.pol.limit ∧ d.replays < d.pol.floor ∧ 0 ≤ d.pol.canlim ∧
      (d.quietAt.getD d.begun) + d.pol.quiet * 1000000 ≤ 0) ∧ ¬ (Tile.reset.cox.fresh = false ∧ 2 ^ Tile.reset.cox.pol.wn ≤ Tile.reset.cox.bundles) ∧
    (let e : BinRec := ⟨5, 0, false, 2, 0, 0⟩; e.offset = c.pol.ceil ∧ e.ffv + 2 + e.age ≤ e.offset - 1) ∧
    (let e : BinRec := ⟨4, 0, false, 2, 0, 0⟩; e.offset < c.pol.ceil ∧ ¬ e.ffv + 2 + e.age ≤ e.offset - 1) := by decide
/-- Windows of a bin's sweep: one that passes, one with a third flag; a maintenance window on an idle tile; a sweep under way; the first
hour. -/
theorem witness_sweep : let lim := (State.reset.die 0).cox.limit
    ¬ (4 * lim < (⟨0, false⟩ : TestWindow).replays ∨ (⟨0, false⟩ : TestWindow).third = true) ∧ (⟨0, true⟩ : TestWindow).third = true ∧
    (-128 : Int) ≤ (aSite.live.bins[7]).offset - 1 ∧ Tile.reset.act = .idle ∧ aSite.live.state ≠ .retired ∧
    ({ Die.reset with maint := true } : Die).maint = true ∧ ({ Tile.reset with sweep := some 0 } : Tile).sweep.isSome = true ∧
    Tile.reset.aged < 3600000000000 / 3600000000000 := by decide

/-! ### The host, the memory services -/

/-- The last word and pair of the control space, an aligned and a misaligned access, the registers named, before READY and after. -/
theorem witness_host : 0x1FFFFFC + 4 ≤ 0x2000000 ∧ 0x1FFFFFC % 4 = 0 ∧ ¬ (0x3100 ≤ 0x1FFFFFC ∧ 0x1FFFFFC < 0x3198) ∧
    ¬ ((4 = 4 ∨ 4 = 8) ∧ 2 % 4 = 0) ∧ 0x200200 % 4 = 0 ∧ 0x2FFFFC < 0x300000 ∧ 0x804 % 4 = 0 ∧ 0x804 < 0x100000 ∧ 0x100230 % 4 = 0 ∧
    State.reset.regs.ready = true ∧ ({ State.reset.regs with ready := false } : PkgRegs).ready = false ∧
    ∃ t, exec (.registerWrite 0x804 1) State.reset = .next t ∧ t.regs.viral = false :=
  ⟨by decide, by decide, by decide, by decide, by decide, by decide, by decide, by decide, by decide, rfl, rfl, _, rfl, rfl⟩
/-- A window of 4 KiB at 0x1000, physical or of context 0: its last byte, and past its end. -/
def aWindow' (mode : Bool) (f : State) : State := { f with dmws := State.reset.dmws.set 0 ⟨0x1000, true, mode, 12, 0⟩ }
theorem witness_aperture : let s := aWindow' false (mapped [])
    s.regs.viral = false ∧ s.regs.ready = true ∧ (s.dmws[0]).en = true ∧ (s.dmws[0]).mode = false ∧ 4095 + max 1 1 ≤ 2 ^ (s.dmws[0]).size ∧
    ¬ (4096 + max 1 1 ≤ 2 ^ (s.dmws[0]).size) ∧ (s.readDevBy .host 0x1FFF 1).2.toOption = some [0] ∧
    (s.writeDev 0x1FFF [1]).2.toOption = some () ∧ (State.reset.readDevBy .host (2 ^ 39) 1).2.toOption = none ∧
    (State.reset.writeDev (2 ^ 39) [1]).2.toOption = none ∧
    ((aWindow' true (mapped [])).dmws[0]).mode = true ∧ ((mapped []).feReadGo .host false 0 0x1FFF 1).2 = some [0] := by decide +kernel
/-- A busy mapping check of full rank and one short of it; a line without an error, with a corrected one, with another. -/
theorem witness_maps : rank33 (State.reset.shadows[0]).rows = 33 ∧ rank33 (Vector.replicate 33 0) ≠ 33 ∧
    ({ State.reset with regs := { State.reset.regs with mapBusy := some 0 } } : State).regs.mapBusy = some 0 ∧
    State.reset.errorAt 5 = none ∧ ({ State.reset with lineErr := [⟨5, some 3⟩] } : State).errorAt 5 = some ⟨5, some 3⟩ ∧
    ({ State.reset with lineErr := [⟨5, none⟩] } : State).errorAt 5 = some ⟨5, none⟩ := by decide +kernel
/-- A stack that scrubs, with a row on its hot list; the first day; a busy invalidation with nothing in its range. -/
theorem witness_services : ({ Stack.reset with scrubEn := true } : Stack).scrubEn = true ∧ (State.reset.die 0).fenced = false ∧
    coordRowKey 7 / 2 ^ 30 = 0 ∧ State.reset.regs.halvings < 86400000000000 / 86400000000000 ∧
    ({ State.reset with regs := { State.reset.regs with invBusy := true } } : State).rangeBusy = false := by
  refine ⟨rfl, by decide, by decide, by decide, ?_⟩
  have hp : State.reset.ports.toList.any (fun p => p.pending.any fun _ => true) = false := by decide
  unfold State.rangeBusy
  rw [Bool.or_eq_false_iff]
  constructor
  · have h : ∀ i, ({ State.reset with regs := { State.reset.regs with invBusy := true } } : State).tile i = Tile.reset := reset_tile
    simp [h, Tile.reset]
  · rw [List.any_eq_false] at hp ⊢
    intro p hm
    have := hp p hm
    simp only [List.any_eq_true, not_exists] at this ⊢
    exact fun r hr => this r ⟨hr.1, trivial⟩
/-- A fault with token 1 that waits for an answer, and one whose record waits for space; the copy that waits for it. -/
def aFault (held : Bool) : WaitingFault := ⟨1, 0, 0, [], held⟩
theorem witness_faults : let c := aCopyIn (.waiting 1) []
    (∃ w ∈ [aFault false], w.token = 1 ∧ w.held = false) ∧ (∀ w ∈ [aFault true], w.token = 1 → w.held = true) ∧
    ((copying c).tile aTile).copyq.filter (fun c => c.stage == .waiting 1) = [c] ∧ (0 + 1) % 2 ^ 4 ≠ 0 % 2 ^ 4 ∧
    (((copying c).tile aTile).copyq.all fun c => c.stage != .waiting 0) = true := by
  intro c; rw [copying_tile]; decide
/-- A graft in a context with no entry, and in one with. -/
theorem witness_graft : (State.reset.ctxEntry (some 0) 0).2.toOption = none ∧ ((mapped []).ctxEntry (some 0) 0).2.toOption = some ⟨0x10000, 0, 0⟩ ∧
    ({ Stack.reset with grBusy := true } : Stack).grWait = 0 := by decide +kernel
/-! ### Peer links, the sideband, power -/

/-- A key slot on port 0, a port up with a window open, and a group for them: the first of its key, and one that comes again. -/
def aKey : KeySlot := ⟨7, 0, 1, Vector.replicate 12 0, (Vector.replicate 12 none).set 0 (some 4)⟩
def linked (f : Port → Port) : State :=
  { State.reset with keys := State.reset.keys.set 0 (some aKey), ports := State.reset.ports.set 0 (f { Port.reset with en := true, up := true }),
                     exps := State.reset.exps.set 0 ⟨true, false, true, 0, 0, 1⟩, imps := State.reset.imps.set 0 { State.reset.imps[0] with en := true } }
def aGroup (gcnt : Nat) : GroupHeader := ⟨1, 7, 0, 0, gcnt, 0⟩
theorem witness_groups : let s := linked id
    (s.port 0).en = true ∧ (s.port 0).up = true ∧ (s.port 0).fenced = false ∧ s.regs.viral = false ∧ (s.port 0).pending = [] ∧
    (s.port 0).replies = [] ∧ s.slotFor 0 7 = some 0 ∧ s.keys[0] = some aKey ∧ groupHeader (aGroup 5).bytes = aGroup 5 ∧ (aGroup 5).dnode = s.regs.nodeId ∧
    aKey.lastIn[0] = some 4 ∧ 4 < (aGroup 5).gcnt ∧ (aGroup 4).gcnt ≤ 4 ∧ 1 ≤ (aGroup 5).nflit ∧
    (∀ k : Fin 8, State.reset.keys[k] = none) := by decide +kernel
/-- Requests of the window's last byte, of one byte past it, and through a closed window. -/
def aRequest (ty xw : Byte) (off len : Nat) : Packet := ⟨ty, 0, 7, 0, 0, xw, 0, true, len, off, []⟩
/-- A group that its own sender made opens to its packet. -/
theorem witness_open : openGroup aKey.key 0 (groupBytes aKey.key 0 (aGroup 5) (packetBytes (aRequest 1 0 0 1))) =
    some (packetBytes (aRequest 1 0 0 1) ++ List.replicate 176 0) :=
  (Laws.openGroup_groupBytes aKey.key 0 (aGroup 5) _ (by decide) (by decide) (by decide +kernel)).trans (congrArg some (by decide +kernel))
theorem witness_requests : let s := linked fun x => { x with rx := [(0, aRequest 1 0 0xFFFF 1)] }
    (s.port 0).rx = [(0, aRequest 1 0 0xFFFF 1)] ∧ s.windowStatus (aRequest 1 0 0xFFFF 1) = 0 ∧ s.windowStatus (aRequest 1 0 0xFFFF 2) = 2 ∧
    s.windowStatus (aRequest 1 1 0 1) = 1 ∧ s.windowStatus { aRequest 2 0 0 1 with data := [5] } = 0 ∧
    s.windowStatus { aRequest 3 0 0 0 with data := List.replicate 32 0 } = 0 ∧ s.windowStatus (aRequest 3 1 0 0) = 1 ∧
    s.carries 0 = true ∧ aKey.sent[0] < 2 ^ 48 ∧ (s.readDevBy (.peer 0) (s.windowPa (aRequest 1 0 0xFFFF 1)) 1).2.toOption = some [0] ∧
    (s.writeDev 0 [5]).2.toOption = some () ∧ (s.readDev .agent 0 4).2.toOption = some [0, 0, 0, 0] ∧ Machine.atomOf 0 = some .add := by decide +kernel
/-- A request on its way for 20 us, and the response to it; the copy that made it. -/
def aPending (ty : Byte) : PeerRequest := ⟨true, 0, 5, aTile, 1, 0, aRequest ty 0 0 4, ⟨0, 0⟩, 0, false, none⟩
theorem witness_responses : let c := aCopyIn .started []
    (linked fun x => { x with pending := [aPending 1] }).ports[0].pending = [aPending 1] ∧ (aPending 1).rid.setWidth 16 = (5 : BitVec 16) ∧
    ((copying c).tile (aPending 1).tile).copy? 1 = some c ∧ (aPending 1).at' + 20000 ≤ 20000 ∧
    ({ aKey with sent := Vector.replicate 12 (2 ^ 48) } : KeySlot).sent[0] = 2 ^ 48 := by
  intro c
  have h : (copying c).tile (aPending 1).tile = _ := copying_tile c
  rw [h]; exact ⟨rfl, rfl, rfl, by decide, rfl⟩
/-- A request that cannot be sent, its link down or its key exhausted. -/
theorem witness_stuck : (linked fun x => { x with up := false }).stuck 0 (aPending 1) = true ∧
    ({ linked id with keys := State.reset.keys.set 0 (some { aKey with sent := Vector.replicate 12 (2 ^ 48) }) } : State).stuck 0 (aPending 1) = true := by
  decide +kernel
/-- A response that comes after its request's time. -/
theorem witness_late : ∃ n ∈ ({ Port.reset with stale := [5] } : Port).stale, n.setWidth 16 = (5 : BitVec 16) := by decide
/-- Windows open, and closed but not drained; a link down. -/
theorem witness_windows : ((linked id).exps[0]).en = true ∧ ((linked id).imps[0]).en = true ∧
    (⟨false, false, false, 0, 0, 1⟩ : ExportWin).en = false ∧ (⟨false, false, false, 0, 0, 1⟩ : ExportWin).drained = false ∧
    ((linked fun x => { x with up := false }).port 0).up = false := by decide
/-- A site in each state that SITE_SET tells apart, the limits of POWER_SET, and an owner change that nothing stands in the way of. -/
theorem witness_sideband : (State.reset.site ⟨7, 71⟩).live.state = .enabled ∧ (State.reset.site ⟨7, 72⟩).live.state = .spare ∧
    fencedSite.live.state = .fenced ∧ (aSite.live.setState .retired).state = .retired ∧
    (State.reset.tile ⟨7, 71⟩).act = .idle ∧ (running id).act ≠ .idle ∧ 1 + (0x20000 - 1) ≤ 0x20000 ∧ 1024 + (0x1000000 - 1024) ≤ 0x1000000 ∧
    State.reset.launches = [] ∧ (∀ q, (State.reset.queue q).en = false) ∧ State.reset.regs.revoking = none ∧ State.reset.regs.dump = none := by
  rw [reset_site, reset_site, reset_tile]
  exact ⟨by decide, by decide, by decide, rfl, by decide, by decide, by decide, by decide, rfl, by decide, rfl, rfl⟩
/-- A dump that is being written, and one that is held. -/
theorem witness_dump : let s (n : Nat) : State := { State.reset with regs := { State.reset.regs with dump := some [1], dumpEnd := 5 }, time := n }
    (s 4).dumpHeld = none ∧ (s 4).time < (s 4).regs.dumpEnd ∧ (s 5).dumpHeld = some [1] ∧ (s 5).regs.dumpEnd ≤ (s 5).time :=
  ⟨rfl, by decide, rfl, by decide⟩
/-- A voltage below its goal, above it, and at it with another bin. -/
theorem witness_voltage : let s := State.reset
    let low : Tile := { Tile.reset with vf := ⟨0, 1⟩ }
    let high : Tile := { Tile.reset with vf := ⟨2000, 1⟩ }
    let slow : Tile := { Tile.reset with vf := ⟨2000, 0⟩ }
    let t (x : Tile) : State := s.setTile aTile x
    ((t low).tile aTile).sweep = none ∧ ((t low).tile aTile).cox.over = false ∧ ((t low).tile aTile).vf.mv < (t low).targetMv aTile ∧
    ((t high).targetMv aTile < ((t high).tile aTile).vf.mv ∧ ((t high).tile aTile).vf.bin = (t high).goalBin aTile) ∧
    ((t slow).tile aTile).vf.bin ≠ (t slow).goalBin aTile ∧ (t slow).targetMv aTile ≤ ((t slow).tile aTile).vf.mv := by decide +kernel
/-- Zones: an interval that ends, a refill that is due, the last permit spent, a midpoint held 10 us, and crossings 4 ms apart. -/
theorem witness_zones : 0 < State.reset.regs.ivl ∧ State.reset.zoneAbove 0 0 = false ∧ (Zone.reset.ivlEnd / 1000 + 1) * 1000 ≤ 1000 ∧
    (let x : Zone := { Zone.reset with permits := 1, sprinting := true, fall := .midpoint (some 0) }
     x.permits = 1 ∧ x.sprinting = true ∧ x.fall = .midpoint (some 0) ∧ x.lastAbove + 20000 ≤ 20000) ∧
    (∀ n, Zone.reset.sprChange = some n → n + 4000000 ≤ 0) ∧ Zone.reset.sprT = false ∧ Zone.reset.thrT = false ∧
    (∀ n, (some 0 : Option Nat) = some n → n + 4000000 ≤ 4000000) ∧ (State.reset.die 0).crit = false := by
  exact ⟨by decide, by decide +kernel, by decide, by decide, by simp [Zone.reset], rfl, rfl, by simp, rfl⟩
/-- A reading at each threshold with no state set; and 3 degrees below for 2 ms, with every state set. -/
theorem witness_heat : let r := State.reset.regs
    let at' (n : Nat) : Int := (State.reset.setTile aTile { Tile.reset with temp := r.threshold n }).zoneTemp 0 (zoneOf 0)
    r.threshold 0 ≤ at' 0 ∧ r.threshold 1 ≤ at' 1 ∧ r.threshold 2 ≤ (State.reset.setTile aTile { Tile.reset with temp := r.threshold 2 }).dieTemp 0 ∧
    State.reset.zoneTemp 0 0 ≤ r.threshold 0 - 3 ∧ State.reset.dieTemp 0 ≤ r.threshold 2 - 3 ∧ (∃ n, (some 0 : Option Nat) = some n ∧ n + 2000000 ≤ 2000000) ∧
    Tile.reset.temp ≤ r.threshold 0 := by
  exact ⟨by decide +kernel, by decide +kernel, by decide +kernel, by decide +kernel, by decide +kernel, ⟨0, rfl, by decide⟩, by decide⟩
/-- Zones 0 and 1 of die 0 with a tile each that claims the sprint. -/
def claiming (two : Bool) : State :=
  let x : Tile := { running id with claim := true }
  let s := (withTile x).setTile bTile x
  if two then s.setTile ⟨0, 5⟩ x else s
theorem witness_claims : ∀ two, ((claiming two).settleDie 0).zoneClaims 0 0 = true ∧ ((claiming two).settleDie 0).zoneClaims 0 1 = two ∧
    (∀ w, w ≠ 0 → w ≠ 1 → ((claiming two).settleDie 0).zoneClaims 0 w = false) ∧ 0 < State.reset.regs.spz := by decide +kernel

end Sys2Proof.Tests
end

section
namespace Sys2Proof.Machine

/-! ## The scalar file (R14) -/

@[simp] theorem sreg_zero (t : Tile) : t.sreg 0 = 0 := by simp [Tile.sreg]
@[simp] theorem setS_zero (t : Tile) (v : Word) : t.setS 0 v = t := by simp [Tile.setS]

theorem sreg_setS_same (t : Tile) {r : SReg} (v : Word) (h : r ≠ 0) : (t.setS r v).sreg r = v := by
  unfold Tile.sreg Tile.setS
  rw [if_neg h, if_neg h]
  exact Vector.getElem_set_self _

theorem sreg_setS_ne (t : Tile) {r q : SReg} (v : Word) (h : q ≠ r) : (t.setS r v).sreg q = t.sreg q := by
  by_cases hr : r = 0
  · rw [hr, setS_zero]
  · have hn : r.toNat ≠ q.toNat := fun e => h (BitVec.eq_of_toNat_eq e.symm)
    unfold Tile.sreg Tile.setS
    rw [if_neg hr]
    exact congrArg (ite (q = 0) 0) (Vector.getElem_set_ne r.isLt q.isLt hn)

/-- A write of a scalar register moves the scalar file and nothing else. -/
theorem setS_eq_scal (t : Tile) (r : SReg) (v : Word) : t.setS r v = { t with scal := (t.setS r v).scal } := by
  unfold Tile.setS; split <;> rfl

/-- Settles O10: s0 is no storage, and every other register is a cell of its own. -/
theorem scalarFileReadsWhatWasWritten : Obligations.ScalarFileReadsWhatWasWritten := fun t r _ v =>
  ⟨sreg_zero t, setS_zero t v, sreg_setS_same t v, sreg_setS_ne t v, congrArg Tile.data (setS_eq_scal t r v)⟩

/-! ## The state after reset (R338) -/

theorem tile_reset (i : TileId) : State.reset.tile i = Tile.reset := by simp [State.tile, State.reset]
theorem die_reset (d : Fin 8) : State.reset.die d = Die.reset := by simp [State.die, State.reset]
theorem zone_reset (d : Fin 8) (z : Fin 4) : State.reset.zone d z = Zone.reset := by simp [State.zone, die_reset, Die.reset]

/-- Settles O7: after reset every array of the state holds copies of one reset record. -/
theorem resetLeaves : Obligations.ResetLeaves := by
  unfold Obligations.ResetLeaves
  simp only [tile_reset, die_reset, zone_reset]
  have hq (q : Fin 16) : State.reset.queues[q] = Queue.reset := by simp [State.reset]
  have hp (p : Fin 12) : State.reset.ports[p] = Port.reset := by simp [State.reset]
  have hi (w : Fin 32) : State.reset.imps[w] = ⟨false, true, 0, 0, 0, 0, 0⟩ := by simp [State.reset]
  have he (w : Fin 32) : State.reset.exps[w] = ⟨false, true, false, 0, 0, 0⟩ := by simp [State.reset]
  have hk (k : Fin 8) : State.reset.keys[k] = none := by simp [State.reset]
  have hv (v : Fin 32) : State.reset.vecs[v] = ⟨0, 0, true, false⟩ := by simp [State.reset]
  have hs (i : Fin 19) : State.reset.energy[i] = 0 ∧ State.reset.regs.snapHost[i] = none ∧ State.reset.regs.snapSide[i] = none := by
    simp [State.reset, PkgRegs.reset]
  simp only [hq, hp, hi, he, hk, hv, hs]
  refine ⟨rfl, rfl, rfl, rfl, rfl, rfl, rfl, rfl, rfl, rfl, rfl, rfl, fun _ => by decide, ?_⟩
  and_intros <;> decide
end Sys2Proof.Machine
end

section
namespace Sys2Proof.Machine

/-! ## Reading the machine: LIDX, TSTAMP, MOVK (R129, R139, R141) -/

theorem loopIndex_eq (ls : List LoopEntry) (n : Nat) : loopIndex ls n = if h : n < ls.length then ls[n].index else 0 := by
  unfold loopIndex
  by_cases h : n < ls.length
  · simp [h]
  · simp [h]

theorem loopIndexAt_succ (ls : List LoopEntry) (n : Nat) :
    loopIndexAt ls (n + 1) = if h : n < ls.length then (ls.reverse[n]'(by simpa using h)).index else 0 := by
  unfold loopIndexAt
  by_cases h : n < ls.length
  · rw [Nat.add_sub_cancel, List.getElem?_eq_getElem (by simpa using h), dif_pos h]
  · rw [Nat.add_sub_cancel, List.getElem?_eq_none (by simpa using h), dif_neg h]

theorem setPair_leafTrap (t : Tile) (p : BitVec 5) (v : Nat) : (t.setPair p v).leafTrap = t.leafTrap := by
  simp only [Tile.setPair, setS_leafTrap]
theorem setPair_stopReq (t : Tile) (p : BitVec 5) (v : Nat) : (t.setPair p v).stopReq = t.stopReq := by
  simp only [Tile.setPair, setS_stopReq]

/-- What a slot finds does not hang on TIME and on the number of free values taken. -/
theorem State.At.later {s : State} {i : Instr} {b : Inflight} (h : s.At i b) (n d : Nat) :
    ({ s with time := n, draws := d } : State).At i b :=
  ⟨h.bundle, h.ready, h.runs, h.leaf, h.goes⟩

/-- A slot that commits, sends posts and accesses, and goes on. -/
theorem runSlot_sends {s : State} {i : Instr} {b : Inflight} (h : s.At i b) (mn : String) {f : SlotFn} {y : Tile} {e : Emit} {fl : Flow}
    (hf : f s s.focus s.here b = .done y [] e fl) (hl : y.leafTrap = none) (hg : y.stopReq = false)
    (hn : ∀ c d, fl ≠ .trapAfter c d) (he : fl ≠ .ended) (hr : e.raise = none) (hd : e.drops = []) :
    ∃ t, s.runSlot mn i f = .next t ∧ OnlyTile s.focus { s with posts := s.posts ++ e.posts, crew := s.crew ++ e.crew } t ∧
      t.focus = s.focus ∧ (t.tile s.focus).data = y.data := by
  obtain ⟨z, hz, hzd⟩ := finishSlot_done s b s.here.k.trapped y [] e fl hl hg hn he hr hd
  refine ⟨_, by rw [runSlot_eq h, hf, hz], onlyTile_setTile _ _ _, rfl, ?_⟩
  rw [tile_setTile, hzd, share_nil]

/-- The fields of STATUS (R28). -/
theorem status_fields (k : KRegs) :
    k.status.extractLsb' 0 3 = k.sr ∧ k.status.getLsbD 3 = k.hw ∧ k.status.getLsbD 4 = k.trapped ∧
      k.status.extractLsb' 5 2 = k.numv ∧ k.status.extractLsb' 7 25 = 0 := by
  unfold KRegs.status
  generalize k.sr = a
  generalize k.hw = b
  generalize k.trapped = c
  generalize k.numv = d
  revert a b c d
  decide

theorem tileIdWord_toNat (f : TileId) : (tileIdWord f).toNat = f.die.val * 256 + f.site.val / 10 * 16 + f.site.val % 10 := by
  have hd := f.die.isLt; have hs := f.site.isLt
  unfold tileIdWord
  rw [BitVec.toNat_ofNat, Nat.mod_eq_of_lt (by omega)]

theorem kRead_region (r : KRegs) (ls : List LoopEntry) (f : TileId) (j : Fin 16) :
    kRead r ls f (BitVec.ofNat 6 (32 + j.val)) = r.regions[j] := by
  fin_cases j <;> rfl

theorem kRead_loop (r : KRegs) (ls : List LoopEntry) (f : TileId) (j : Fin 6) :
    kRead r ls f (BitVec.ofNat 6 (20 + j.val)) = loopIndexAt ls (j.val + 1) := by
  fin_cases j <;> rfl

/-- A number from 49 on names no register. -/
theorem kRead_none (r : KRegs) (ls : List LoopEntry) (f : TileId) (n : Nat) (h : 49 ≤ n) (hn : n < 64) :
    kRead r ls f (BitVec.ofNat 6 n) = 0 := by
  interval_cases n <;> rfl

/-- The high half of a 64-bit register. -/
theorem high_half (v : Dword) : v.extractLsb' 32 32 = (v >>> 32).setWidth 32 := by
  ext i hi
  simp

theorem exec_lidx (sd : SReg) (level : Fin 6) (s : State) :
    exec (.lidx sd level) s = s.runPure "LIDX" (.lidx sd level) fun t => t.setS sd (loopIndex t.loops level.val) := rfl

theorem exec_tstamp (p : BitVec 5) (s : State) : exec (.tstamp p) s =
    ({ s with time := s.time + Config.elapsed s.draws, draws := s.draws + 1 } : State).runSlot "TSTAMP" (.tstamp p)
      fun s _ t _ => .keep (t.setPair p s.time) := rfl

/-- The tile after a MOVK of a bundle with given registers at D (R139). -/
def Tile.afterMovk (t : Tile) (snap : KRegs) (i : TileId) (sd : SReg) (k : KReg) : Tile :=
  let y := t.setS sd (kRead snap t.loops i k)
  if k = 5 then { y with k := { y.k with cycleHi := snap.cycle.extractLsb' 32 32 } } else y

theorem exec_movk (sd : SReg) (k : KReg) (s : State) :
    exec (.movk sd k) s = s.runSlot "MOVK" (.movk sd k) fun _ i t b => .keep (t.afterMovk b.snap i sd k) := rfl

theorem afterMovk_leafTrap (t : Tile) (snap : KRegs) (i : TileId) (sd : SReg) (k : KReg) :
    (t.afterMovk snap i sd k).leafTrap = t.leafTrap := by
  unfold Tile.afterMovk; simp only; split <;> exact setS_leafTrap ..
theorem afterMovk_stopReq (t : Tile) (snap : KRegs) (i : TileId) (sd : SReg) (k : KReg) :
    (t.afterMovk snap i sd k).stopReq = t.stopReq := by
  unfold Tile.afterMovk; simp only; split <;> exact setS_stopReq ..

/-- LIDX (R129). -/
theorem lidx_writes (sd : SReg) (level : Fin 6) :
    Writes (.lidx sd level) sd fun t => if h : level.val < t.loops.length then (t.loops[level.val]).index else 0 :=
  fun s _ h => writes_scalar h (exec_lidx sd level s) (by simp only [loopIndex_eq])

/-- TSTAMP (R141): the slot runs where TIME has moved on. -/
theorem tstamp_writes {s : State} {b : Inflight} {p : BitVec 5} (h : s.At (.tstamp p) b) :
    ∃ t, exec (.tstamp p) s = .next t ∧ s.time ≤ t.time ∧ OnlyTile s.focus { s with time := t.time, draws := t.draws } t ∧
      t.here.data = ((s.here.setS (pairLo p) (BitVec.ofNat 32 t.time)).setS (pairHi p) (BitVec.ofNat 32 (t.time / 2 ^ 32))).data := by
  obtain ⟨t, ht, ho, hf, hd⟩ := runSlot_sends (h.later (s.time + Config.elapsed s.draws) (s.draws + 1)) "TSTAMP"
    (f := fun s _ t _ => .keep (t.setPair p s.time)) rfl ((setPair_leafTrap ..).trans h.leaf) ((setPair_stopReq ..).trans h.goes)
    (by simp) (by simp) rfl rfl
  have hs := ho.1
  rw [List.append_nil, List.append_nil] at ho hs
  have htime : t.time = s.time + Config.elapsed s.draws := congrArg State.time hs
  have hdraws : t.draws = s.draws + 1 := congrArg State.draws hs
  refine ⟨t, (exec_tstamp p s).trans ht, ?_, ?_, ?_⟩
  · rw [htime]; exact Nat.le_add_right ..
  · rw [htime, hdraws]; exact ho
  · rw [State.here, hf, htime]; exact hd

/-- MOVK (R139). -/
theorem movk_writes {s : State} {b : Inflight} {sd : SReg} {k : KReg} (h : s.At (.movk sd k) b) :
    Commits (.movk sd k) s (s.here.afterMovk b.snap s.focus sd k) :=
  runSlot_commits (accs := []) (fl := .seq) h (exec_movk sd k s) rfl ((afterMovk_leafTrap ..).trans h.leaf)
    ((afterMovk_stopReq ..).trans h.goes) (by simp) (by simp)

/-- Settles O21: LIDX by the lookup in the loop stack, TSTAMP in the state whose TIME has moved on, MOVK by the table of `kRead`. -/
theorem lidxTstampAndMovkReadTheMachine : Obligations.LidxTstampAndMovkReadTheMachine := by
  refine ⟨lidx_writes, fun s b p => tstamp_writes, fun s b sd k h => ?_, fun r ls f => ?_⟩
  · have := movk_writes h
    unfold Tile.afterMovk at this
    rw [high_half] at this
    exact this
  · obtain ⟨h1, h2, h3, h4, h5⟩ := status_fields r
    refine ⟨h1, h2, h3, h4, h5, rfl, rfl, rfl, rfl, rfl, rfl, rfl, rfl, rfl, rfl, rfl, rfl, rfl, rfl, rfl, tileIdWord_toNat f, rfl, rfl, rfl,
      fun j => (kRead_loop r ls f j).trans (loopIndexAt_succ ls j.val), rfl, rfl, rfl, rfl, rfl, high_half r.cerr, kRead_region r ls f,
      high_half r.semErr, kRead_none r ls f⟩
end Sys2Proof.Machine
end

section
namespace Sys2Proof.Machine

/-! ## Slots of any tile -/

/-- A tile told neither to stop nor to trap stands as it is at a boundary. -/
theorem boundary_id (s : State) (i : TileId) (hl : (s.tile i).leafTrap = none) (hg : (s.tile i).stopReq = false) : s.boundary i = s := by
  simp [State.boundary, hl, hg]

theorem runSlotOn_eq {s : State} {i : TileId} {b : Inflight} {ins : Instr} (hb : (s.tile i).inflight = some b) (hr : b.ready = true)
    (hf : (s.tile i).k.trapped = true → handlerFault (s.tile i) ins = none) (mn : String) (f : SlotFn) :
    s.runSlotOn i mn ins f = .next (s.finishSlot i b (s.tile i).k.trapped (f s i (s.tile i) b)) := by
  have hn : (if (s.tile i).k.trapped = true then handlerFault (s.tile i) ins else none) = none := by
    split
    · exact hf ‹_›
    · rfl
  simp only [State.runSlotOn, hb, hr, if_true, hn]

/-- A slot of any tile that commits, sends nothing and goes on changes that tile alone. -/
theorem finishSlot_keep (s : State) (i : TileId) (b : Inflight) (w : Bool) (y : Tile) (hl : y.leafTrap = none) (hg : y.stopReq = false) :
    ∃ z, s.finishSlot i b w (.keep y) = s.setTile i z ∧ z.data = y.data := by
  simp only [SlotOut.keep, State.finishSlot, State.commitSlot, share_nil, shared_nil, List.isEmpty_nil, if_true, List.append_nil]
  split
  · exact ⟨_, rfl, rfl⟩
  · refine ⟨_, afterBundle_setTile _ _ _ _ ?_ ?_ (by simp), ?_⟩
    · exact (openWindow_leafTrap ..).trans hl
    · exact (openWindow_stopReq ..).trans hg
    · rw [data_movedAt, data_openWindow, data_endBundle _ _ _ _ (by simp)]

/-- The tile whose handler was entered from a slot of its bundle. -/
def Tile.handled (t : Tile) (b : Inflight) (l : Launch) (c d : Nat) : Tile :=
  ((t.atCycle (commitCycle t b)).enterTrap c d 0 b.first b.next).toHandler l.handler

/-- A slot of any tile that faults in a launch with a handler enters it (R308). -/
theorem slotTrap_handled {s : State} {i : TileId} {b : Inflight} {l : Launch} {c d : Nat} (hl : s.launch? (s.tile i).pt.handle = some l)
    (hh : l.hnd = true) (ht : (s.tile i).k.trapped = false) (hs : (s.tile i).retiring = false) (hr : routeH c = true) (hc : c ≠ 0x0A)
    (hf : (s.tile i).leafTrap = none) (hg : (s.tile i).stopReq = false) :
    s.slotTrap i b c d = s.setTile i ((s.tile i).handled b l c d) := by
  simp only [State.slotTrap]
  rw [takeTrap_handler (l := l) (by rw [tile_setTile]; exact ht) (by rw [tile_setTile]; exact hl) hh (by rw [tile_setTile]; exact hs) hr hc,
    tile_setTile, setTile_setTile]
  exact boundary_id _ _ (by rw [tile_setTile]; exact hf) (by rw [tile_setTile]; exact hg)

/-! ## The end of a hold at K (R423) -/

/-- The bundle of a tile whose hold at K has ended: it passes K now, or had before. -/
def Inflight.afterHold (b : Inflight) (t : Tile) : Inflight := if b.passed then b.released t else b.passK t

/-- The tile with that bundle. -/
def State.letGo (s : State) (f : TileId) (b : Inflight) : Tile :=
  { s.tile f with inflight := some (b.afterHold (s.tile f)), movedAt := s.time }

theorem afterHold_cycle (b : Inflight) (t : Tile) : commitCycle t (b.afterHold t) = commitCycle t (b.released t) := by
  unfold Inflight.afterHold; split <;> rfl
theorem afterHold_next (b : Inflight) (t : Tile) : (b.afterHold t).next = b.next := by unfold Inflight.afterHold; split <;> rfl
theorem afterHold_first (b : Inflight) (t : Tile) : (b.afterHold t).first = b.first := by unfold Inflight.afterHold; split <;> rfl
theorem afterHold_semErr (b : Inflight) (t u : Tile) : (b.afterHold t).semErr u = b.semErr t := by
  unfold Inflight.afterHold Inflight.semErr
  by_cases h : b.passed = true <;> simp [h, Inflight.released, Inflight.passK]

/-- The words of a bundle from a slot that holds an instruction on. -/
theorem drop_next_eq {b : Inflight} {i : Instr} (h : b.words[b.next]?.map decodeSlot = some (.ok i)) :
    ∃ w, decodeSlot w = .ok i ∧ b.next < b.words.length ∧ b.words.drop b.next = w :: b.words.drop (b.next + 1) := by
  obtain ⟨w, hw, hd⟩ := Option.map_eq_some_iff.mp h
  obtain ⟨hn, rfl⟩ := List.getElem?_eq_some_iff.mp hw
  exact ⟨_, hd, hn, List.drop_eq_getElem_cons hn⟩

theorem rest_eq_cons {b : Inflight} {i : Instr} (h : b.words[b.next]?.map decodeSlot = some (.ok i)) :
    ∃ is, b.rest = i :: is ∧ ∀ j ∈ is, ∃ w ∈ b.words.drop (b.next + 1), decodeSlot w = .ok j := by
  obtain ⟨w, hd, -, hw⟩ := drop_next_eq h
  refine ⟨({ b with next := b.next + 1 } : Inflight).rest, ?_, fun j hj => ?_⟩
  · simp only [Inflight.rest, hw, List.filterMap_cons, hd]
  · obtain ⟨v, hv, hj⟩ := List.mem_filterMap.mp hj
    refine ⟨v, hv, ?_⟩
    revert hj
    cases decodeSlot v <;> simp

/-- The slot that its bundle has come to is the first that a test picks. -/
theorem heldSlot_next {t : Tile} {b : Inflight} {i : Instr} {p : Instr → Bool} (hb : t.inflight = some b)
    (h : b.words[b.next]?.map decodeSlot = some (.ok i)) (hp : p i = true) : heldSlot t p = some i := by
  obtain ⟨is, hi, -⟩ := rest_eq_cons h
  have : heldSlot t p = b.rest.find? p := by simp only [heldSlot, hb]; rfl
  rw [this, hi, List.find?_cons_of_pos hp]

theorem afterHold_ready {s : State} {f : TileId} {i : Instr} {k : HoldKind} {b : Inflight} (h : s.WaitsAtK f i k b) :
    (b.afterHold (s.tile f)).ready = true := by
  obtain ⟨-, -, hn, -⟩ := drop_next_eq h.slot
  obtain ⟨hq, ha⟩ := h.quiet
  unfold Inflight.afterHold
  split <;> simp [Inflight.ready, Inflight.released, Inflight.passK, hq, ha, hn]

/-- The hold of a bundle that no other slot may hold ends, and the slot runs. -/
theorem holdEnds_eq {s : State} {f : TileId} {i : Instr} {k : HoldKind} {b : Inflight} (h : s.WaitsAtK f i k b) (hm : mayHold i = true)
    (mn : String) (g : SlotFn) :
    s.holdEnds f mn i g = .next ((s.setTile f (s.letGo f b)).finishSlot f (b.afterHold (s.tile f)) (s.tile f).k.trapped
      (g (s.setTile f (s.letGo f b)) f (s.letGo f b) (b.afterHold (s.tile f)))) := by
  obtain ⟨hq, -⟩ := h.quiet
  have hcut : ((s.tile f).cutReq.isSome && b.next == b.start) = false := by
    rcases h.uncut with hc | hc <;> simp [hc]
  have hgo : (b.passed || decide ((b.rest.filter mayHold).length = 1)) = true := by
    rcases h.sole with hp | hp
    · simp [hp]
    · obtain ⟨is, hi, hj⟩ := rest_eq_cons h.slot
      have : is.filter mayHold = [] := List.filter_eq_nil_iff.mpr fun j hj' => by
        obtain ⟨w, hw, hd⟩ := hj j hj'
        simp [hp w hw j hd]
      simp [hi, hm, this]
  have howed : s.owed f (commitCycle (s.tile f) (b.afterHold (s.tile f))) = false := by rw [afterHold_cycle]; exact h.first
  have hb' : (if b.passed then b.released (s.tile f) else b.passK (s.tile f)) = b.afterHold (s.tile f) := rfl
  have hrun : (s.setTile f (s.letGo f b)).runSlotOn f mn i g = _ :=
    runSlotOn_eq (b := b.afterHold (s.tile f)) (by rw [tile_setTile]; rfl) (afterHold_ready h)
      (by rw [tile_setTile]; exact h.runs) mn g
  rw [tile_setTile] at hrun
  simp only [State.holdEnds, h.bundle, hq, hcut, hgo, if_true, hb', howed, h.stays, h.slot]
  exact hrun

/-! ## Semaphores (R182-R185) -/

/-- The slot function of SPOST (R183). -/
def spostSlot (e : BitVec 6) (sa sb : SReg) : SlotFn := fun s i t _ =>
  match postTarget s i t (t.sreg sa) with
  | .error d => .trap 0x06 d
  | .ok (j, wide) => .done { t with issueNo := t.issueNo + 1 } [] { posts := [tilePost i j t e (t.sreg sb) false wide t.issueNo] } .seq

theorem exec_spost (scope : PostScope) (e : BitVec 6) (sa sb : SReg) (s : State) :
    exec (.spost scope e sa sb) s = s.runSlot "SPOST" (.spost scope e sa sb) (spostSlot e sa sb) := rfl

/-- SPOST to a target that passes its checks sends one post. -/
theorem spost_sends {s : State} {b : Inflight} {scope : PostScope} {e : BitVec 6} {sa sb : SReg} {dst : TileId} {wide : Bool}
    (h : s.At (.spost scope e sa sb) b) (hp : postTarget s s.focus s.here (s.here.sreg sa) = .ok (dst, wide)) :
    Sends (.spost scope e sa sb) s { s.here with issueNo := s.here.issueNo + 1 }
      [tilePost s.focus dst s.here e (s.here.sreg sb) false wide s.here.issueNo] [] := by
  obtain ⟨t, ht, ho, hf, hd⟩ := runSlot_sends h "SPOST" (f := spostSlot e sa sb) (y := { s.here with issueNo := s.here.issueNo + 1 })
    (e := { posts := [tilePost s.focus dst s.here e (s.here.sreg sb) false wide s.here.issueNo] }) (fl := .seq)
    (by simp only [spostSlot, hp]) h.leaf h.goes (by simp) (by simp) rfl rfl
  exact ⟨t, (exec_spost ..).trans ht, ho, by rw [State.here, hf]; exact hd⟩

theorem spost_traps {s : State} {b : Inflight} {scope : PostScope} {e : BitVec 6} {sa sb : SReg} {d : Nat} {l : Launch}
    (h : s.At (.spost scope e sa sb) b) (hl : s.Handles l) (hp : postTarget s s.focus s.here (s.here.sreg sa) = .error d) :
    TrapsTo (.spost scope e sa sb) s b l 0x06 d :=
  runSlot_traps h hl (exec_spost scope e sa sb s) (by simp only [spostSlot, hp]) rfl (by decide)

/-- The fields of a semaphore's target word (R182). -/
theorem target_mode (v : Word) : bits v.toNat 30 2 = (v.extractLsb' 30 2).toNat := by
  simp [bits, Nat.shiftRight_eq_div_pow]
theorem target_index (v : Word) : bits v.toNat 0 8 = (v.extractLsb' 0 8).toNat := by
  simp [bits]
theorem target_rest (v : Word) : bits v.toNat 8 22 = (v.extractLsb' 8 22).toNat := by
  simp [bits, Nat.shiftRight_eq_div_pow]

section
variable {s : State} {i : TileId} {t : Tile} {v : Word}

/-- A word with MODE 3, a reserved bit, or an index beside MODE 0 names no target. -/
theorem postTarget_reserved
    (h : v.extractLsb' 30 2 = 3 ∨ ¬ v.extractLsb' 8 22 = 0 ∨ v.extractLsb' 30 2 = 0 ∧ (v.extractLsb' 0 8).toNat ≠ 0) :
    postTarget s i t v = .error 0x02 := by
  have h' : (v.extractLsb' 30 2).toNat = 3 ∨ (v.extractLsb' 8 22).toNat ≠ 0 ∨
      (v.extractLsb' 30 2).toNat = 0 ∧ (v.extractLsb' 0 8).toNat ≠ 0 := by
    rcases h with h | h | ⟨h, hi⟩
    · exact .inl (congrArg BitVec.toNat h)
    · exact .inr (.inl fun e => h (BitVec.eq_of_toNat_eq e))
    · exact .inr (.inr ⟨congrArg BitVec.toNat h, hi⟩)
  simp only [postTarget, target_mode, target_index, target_rest]
  rw [if_pos h']

/-- The word 0 names the tile itself. -/
theorem postTarget_own : postTarget s i t 0 = .ok (i, false) := rfl

theorem postTarget_crew (hm : v.extractLsb' 30 2 = 1) (hc : v.extractLsb' 8 22 = 0) : postTarget s i t v =
    if t.crewN ≤ (v.extractLsb' 0 8).toNat then .error 0x01 else .ok (crewTile i t (v.extractLsb' 0 8).toNat, false) := by
  simp [postTarget, target_mode, target_index, target_rest, hm, hc]

theorem postTarget_die {l : Launch} (hm : v.extractLsb' 30 2 = 2) (hc : v.extractLsb' 8 22 = 0) (hl : s.launch? t.pt.handle = some l)
    (hd : l.dsem = true) : postTarget s i t v =
      if 80 ≤ (v.extractLsb' 0 8).toNat then .error 0x04 else .ok (⟨i.die, siteOf (v.extractLsb' 0 8).toNat⟩, true) := by
  simp [postTarget, target_mode, target_index, target_rest, hm, hc, hl, hd]

theorem postTarget_noDsem (hm : v.extractLsb' 30 2 = 2) (hc : v.extractLsb' 8 22 = 0)
    (hd : ¬ ∃ l, s.launch? t.pt.handle = some l ∧ l.dsem = true) : postTarget s i t v = .error 0x03 := by
  cases hl : s.launch? t.pt.handle with
  | none => simp [postTarget, target_mode, target_index, target_rest, hm, hc, hl]
  | some l =>
    have hf : l.dsem = false := by simpa [hl] using hd
    simp [postTarget, target_mode, target_index, target_rest, hm, hc, hl, hf]
end

theorem exec_swait (e : BitVec 6) (sb : SReg) (s : State) :
    exec (.swait e sb) s = s.runSlot "SWAIT" (.swait e sb) (swaitSlot e sb) := rfl

/-- The tile after an SWAIT that has its count (R184). -/
def Tile.waited (t : Tile) (e : BitVec 6) (sb : SReg) : Tile :=
  { t with sems := t.sems.set e.toNat (t.semCount e - t.sreg sb) e.isLt }

section
variable {s : State} {i : TileId} {t : Tile} {b : Inflight} {e : BitVec 6} {sb : SReg}

theorem swaitSlot_takes (he : (b.semErr t).getLsbD e.toNat = false) (hn : t.sreg sb ≤ t.semCount e) :
    swaitSlot e sb s i t b = .keep (t.waited e sb) := by
  simp [swaitSlot, he, hn, Tile.waited]
theorem swaitSlot_holds (he : (b.semErr t).getLsbD e.toNat = false) (hn : t.semCount e < t.sreg sb) :
    swaitSlot e sb s i t b = .hold .swait := by
  simp [swaitSlot, he, BitVec.not_le.mpr hn]
theorem swaitSlot_traps (he : (b.semErr t).getLsbD e.toNat = true) : swaitSlot e sb s i t b = .trap 0x07 e.toNat := by
  simp [swaitSlot, he]

/-- A slot at its turn that finds that it must wait holds its bundle. -/
theorem runSlot_holds {ins : Instr} {mn : String} {f : SlotFn} {k : HoldKind} (h : s.At ins b)
    (hx : exec ins s = s.runSlot mn ins f) (hf : f s s.focus s.here b = .hold k) : HoldsAtK ins s b k := by
  unfold HoldsAtK HoldsFrom
  rw [hx, runSlot_eq h, hf]
  exact congrArg _ (boundary_id _ _ (by rw [tile_setTile]; exact h.leaf) (by rw [tile_setTile]; exact h.goes))

/-- SWAIT at its turn (R184). -/
theorem swait_atTurn (h : s.At (.swait e sb) b) :
    ((b.semErr s.here).getLsbD e.toNat = false → s.here.sreg sb ≤ s.here.semCount e →
      Commits (.swait e sb) s (s.here.waited e sb)) ∧
    ((b.semErr s.here).getLsbD e.toNat = false → s.here.semCount e < s.here.sreg sb → HoldsAtK (.swait e sb) s b .swait) ∧
    (∀ l, (b.semErr s.here).getLsbD e.toNat = true → s.Handles l → TrapsTo (.swait e sb) s b l 0x07 e.toNat) :=
  ⟨fun he hn => runSlot_commits (accs := []) (fl := .seq) h (exec_swait e sb s) (swaitSlot_takes he hn) h.leaf h.goes (by simp) (by simp),
    fun he hn => runSlot_holds h (exec_swait e sb s) (swaitSlot_holds he hn),
    fun _ he hl => runSlot_traps h hl (exec_swait e sb s) (swaitSlot_traps he) rfl (by decide)⟩

theorem spoll_writes (sd : SReg) (e : BitVec 6) : Writes (.spoll sd e) sd fun t => t.sems[e.toNat]'e.isLt :=
  fun _ _ h => writes_scalar h (g := fun t => t.setS sd (t.semCount e)) rfl rfl

/-- SWAIT_SATISFIED ends the hold of a tile whose semaphore has enough or has saturated. -/
theorem exec_swaitSatisfied {f : TileId} (h : s.WaitsAtK f (.swait e sb) .swait b) (ha : (s.tile f).asleep = false)
    (hs : (s.tile f).semSaturated e = true ∨ (s.tile f).sreg sb ≤ (s.tile f).semCount e) :
    exec (.swaitSatisfied f) s = s.holdEnds f "SWAIT_SATISFIED" (.swait e sb) (swaitSlot e sb) := by
  have hk : heldFor (s.tile f) .swait = true := by simp [heldFor, h.bundle, h.held]
  have hi : heldSlot (s.tile f) isSwait = some (.swait e sb) := heldSlot_next h.bundle h.slot rfl
  have hor : ((s.tile f).semSaturated e || decide ((s.tile f).sreg sb ≤ (s.tile f).semCount e)) = true := by simpa using hs
  show execSwaitSatisfied f s = _
  simp only [execSwaitSatisfied, hi, hk, ha, hor, Bool.not_false, Bool.and_self, if_true]

/-- A waiting SWAIT whose count has come takes it. -/
theorem swaitSatisfied_takes {f : TileId} (h : s.WaitsAtK f (.swait e sb) .swait b) (ha : (s.tile f).asleep = false)
    (he : (b.semErr (s.tile f)).getLsbD e.toNat = false) (hn : (s.tile f).sreg sb ≤ (s.tile f).semCount e) :
    ReleasesOn f (.swaitSatisfied f) s ((s.tile f).waited e sb) := by
  obtain ⟨z, hz, hd⟩ := finishSlot_keep (s.setTile f (s.letGo f b)) f (b.afterHold (s.tile f)) (s.tile f).k.trapped
    ((s.letGo f b).waited e sb) h.leaf h.goes
  refine ⟨s.setTile f z, ?_, onlyTile_setTile _ _ _, by rw [tile_setTile, hd]; rfl⟩
  rw [exec_swaitSatisfied h ha (.inr hn), holdEnds_eq h rfl,
    swaitSlot_takes (by rw [afterHold_semErr]; exact he) (by exact hn), hz, setTile_setTile]

/-- A waiting SWAIT on a semaphore that has saturated since its bundle came to K traps. -/
theorem swaitSatisfied_traps {f : TileId} {l : Launch} (h : s.WaitsAtK f (.swait e sb) .swait b) (ha : (s.tile f).asleep = false)
    (hp : b.passed = false) (he : (s.tile f).semSaturated e = true) (hl : ({ s with focus := f } : State).Handles l) :
    TrapsOn f (.swaitSatisfied f) s b l 0x07 e.toNat := by
  have herr : (b.semErr (s.tile f)).getLsbD e.toNat = true := by rw [Inflight.semErr, if_neg (by simp [hp])]; exact he
  have hx : exec (.swaitSatisfied f) s =
      .next (s.setTile f ((s.letGo f b).handled (b.afterHold (s.tile f)) l 0x07 e.toNat)) := by
    rw [exec_swaitSatisfied h ha (.inl he), holdEnds_eq h rfl, swaitSlot_traps (by rw [afterHold_semErr]; exact herr)]
    have := slotTrap_handled (s := s.setTile f (s.letGo f b)) (i := f) (b := b.afterHold (s.tile f)) (l := l) (c := 0x07) (d := e.toNat)
      (by rw [tile_setTile]; exact hl.launch) hl.handler (by rw [tile_setTile]; exact hl.outside) (by rw [tile_setTile]; exact hl.stays)
      rfl (by decide) (by rw [tile_setTile]; exact h.leaf) (by rw [tile_setTile]; exact h.goes)
    rw [tile_setTile, setTile_setTile] at this
    exact congrArg _ this
  refine ⟨_, hx, onlyTile_setTile _ _ _, ?_⟩
  rw [tile_setTile]
  refine ⟨rfl, rfl, rfl, rfl, rfl, ?_⟩
  simp only [Tile.handled, Tile.toHandler, Tile.enterTrap, afterHold_first, afterHold_next]
  rfl
end
end Sys2Proof.Machine
end

section
namespace Sys2Proof.Machine

/-! ## Posts (R183, R37, R27) -/

theorem addSem_eq (t : Tile) (e : BitVec 6) (n : Word) :
    t.addSem e n = { t with sems := (t.addSem e n).sems, k := { t.k with semErr := (t.addSem e n).k.semErr } } := by
  simp only [Tile.addSem]; split <;> rfl

theorem addSem_count (t : Tile) (e : BitVec 6) (n : Word) :
    ((t.addSem e n).semCount e).toNat = min ((t.semCount e).toNat + n.toNat) 0xFFFFFFFF := by
  have hs : (t.sems[e.toNat]'e.isLt).toNat = (t.semCount e).toNat := rfl
  simp only [Tile.addSem]
  split
  · rename_i h
    simp only [Tile.semCount, Vector.getElem_set_self, BitVec.toNat_ofNat] at h ⊢
    omega
  · rename_i h
    simp only [Tile.semCount, Vector.getElem_set_self] at h ⊢
    simp
    omega

theorem addSem_count_ne (t : Tile) {e c : BitVec 6} (n : Word) (h : c ≠ e) : (t.addSem e n).semCount c = t.semCount c := by
  have hn : e.toNat ≠ c.toNat := fun k => h (BitVec.eq_of_toNat_eq k.symm)
  simp only [Tile.addSem]
  split <;> exact Vector.getElem_set_ne e.isLt c.isLt hn

theorem addSem_semErr (t : Tile) (e : BitVec 6) (n : Word) : (t.addSem e n).k.semErr =
    if 0xFFFFFFFF < (t.semCount e).toNat + n.toNat then t.k.semErr ||| BitVec.twoPow 64 e.toNat else t.k.semErr := by
  simp only [Tile.addSem]
  split
  · exact (if_neg (Nat.not_lt.mpr ‹_›)).symm
  · exact (if_pos (Nat.lt_of_not_le ‹_›)).symm

/-- What a post leaves of its target's semaphores and of SEMERR and CERR. -/
structure Taken (p : Post) (x y : Tile) : Prop where
  count : (y.semCount p.sem).toNat = min ((x.semCount p.sem).toNat + p.count.toNat) 0xFFFFFFFF
  others : ∀ e, e ≠ p.sem → y.semCount e = x.semCount e
  semErr : y.k.semErr =
    if 0xFFFFFFFF < (x.semCount p.sem).toNat + p.count.toNat then x.k.semErr ||| BitVec.twoPow 64 p.sem.toNat else x.k.semErr
  cerr : y.k.cerr = if p.cerr then x.k.cerr ||| BitVec.twoPow 64 p.sem.toNat else x.k.cerr
  frame : y = { x with sems := y.sems, k := { x.k with semErr := y.k.semErr, cerr := y.k.cerr } }

theorem taken_takePost (t : Tile) (p : Post) : Taken p t (t.takePost p) := by
  have hc := addSem_count t p.sem p.count
  have ho := fun e => addSem_count_ne t (e := p.sem) (c := e) p.count
  have he := addSem_semErr t p.sem p.count
  have hf := addSem_eq t p.sem p.count
  have hk : (t.addSem p.sem p.count).k.cerr = t.k.cerr := by rw [hf]
  unfold Tile.takePost
  generalize t.addSem p.sem p.count = y at *
  cases h : p.cerr
  · exact ⟨hc, ho, he, by simpa [h] using hk, by rw [if_neg (by simp), hk]; exact hf⟩
  · refine ⟨hc, ho, he, ?_, ?_⟩
    · simp [h, Tile.setCerr, hk]
    · rw [if_pos rfl]
      unfold Tile.setCerr
      rw [hf]

theorem postAt_eq (t : Tile) (p : Post) (n : Nat) : t.postAt p n = { t with inflight := (t.postAt p n).inflight } := by
  unfold Tile.postAt
  split
  · split <;> rfl
  · rfl

theorem semCount_postAt (t : Tile) (p : Post) (n : Nat) (e : BitVec 6) : (t.postAt p n).semCount e = t.semCount e := by
  rw [postAt_eq]; rfl
theorem k_postAt (t : Tile) (p : Post) (n : Nat) : (t.postAt p n).k = t.k := by rw [postAt_eq]

/-! ## Falling asleep (R20) -/

/-- Marking a zone touches its die alone. -/
theorem noteAbove_eq (s : State) (i : TileId) : s.noteAbove i = { s with dies := (s.noteAbove i).dies } := by
  unfold State.noteAbove; split <;> rfl

theorem noteAbove_tile (s : State) (i j : TileId) : (s.noteAbove i).tile j = s.tile j := by rw [noteAbove_eq]; rfl

theorem onlyTile_noteAbove (s : State) (i j : TileId) (y : Tile) :
    OnlyTile j { s with dies := ((s.noteAbove i).setTile j y).dies } ((s.noteAbove i).setTile j y) := by
  rw [setTile_dies, ← noteAbove_eq]
  exact onlyTile_setTile ..

/-- The tile asleep from cycle `c` on, in the SWAIT that bundle `b` waits at (R20). -/
def Tile.sleeping (x : Tile) (c : Nat) (b : Inflight) : Tile :=
  { x.atCycle c with asleep := true, woken := false, inflight := some b }

@[simp] theorem sleeping_asleep (x : Tile) (c : Nat) (b : Inflight) : (x.sleeping c b).asleep = true := rfl
@[simp] theorem sleeping_woken (x : Tile) (c : Nat) (b : Inflight) : (x.sleeping c b).woken = false := rfl
/-- Asleep or not, a tile holds the same data. -/
theorem data_sleeping (x : Tile) (c : Nat) (b : Inflight) :
    (x.sleeping c b).data = ({ x with asleep := true, woken := false } : Tile).data := rfl

theorem fallAsleep_eq {s : State} {i : TileId} {b : Inflight} (h : (s.tile i).inflight = some b) : s.fallAsleep i =
    (s.noteAbove i).setTile i
      ((s.tile i).sleeping (holdStart (s.tile i) b + 4096) { b with waitFrom := (s.tile i).sleepAt b }) := by
  simp only [State.fallAsleep, h]; rfl

/-- A tile that waits has a bundle. -/
theorem inflight_of_stillWaits {x : Tile} (h : stillWaits x = true) : ∃ b, x.inflight = some b := by
  cases hb : x.inflight with
  | none => simp [stillWaits, heldFor, hb] at h
  | some b => exact ⟨b, rfl⟩

/-! ## The arrival of a post (R183, R21) -/

/-- Whether a post finds its target asleep that was awake before. -/
def State.dozes (s : State) (p : Post) : Bool := s.sleepDue (s.tile p.dst) || (s.tile p.dst).sleepsBy p

theorem dozes_iff (s : State) (p : Post) :
    s.dozes p = true ↔ s.sleepDue (s.tile p.dst) = true ∨ (s.tile p.dst).sleepsBy p = true := by simp [State.dozes]

theorem inflight_of_dozes {s : State} {p : Post} (h : s.dozes p = true) : ∃ b, (s.tile p.dst).inflight = some b := by
  refine inflight_of_stillWaits ?_
  rcases (dozes_iff s p).mp h with h | h
  · simp only [State.sleepDue, Bool.and_eq_true] at h; exact h.1.1
  · simp only [Tile.sleepsBy, Bool.and_eq_true] at h; exact h.1.1

/-- The state in which a post is taken off its way. -/
def State.arrived (s : State) (i : Nat) : State := { s with posts := s.posts.eraseIdx i, draws := s.draws + 1 }

/-- That state with the target asleep where its wait has lasted its cycles. -/
def State.dozed (s : State) (i : Nat) (p : Post) : State := if s.dozes p then (s.arrived i).fallAsleep p.dst else s.arrived i

/-- The target after a post that it takes. -/
def Tile.posted (t : Tile) (p : Post) (n : Nat) : Tile := { (t.postAt p n).takePost p with woken := t.woken || t.asleep }

theorem exec_semaphorePostArrival {s : State} {i : Nat} {p : Post} (hp : s.posts[i]? = some p) (hc : s.postCovered p = true)
    (he : p.early (s.tile p.dst) = false) : exec (.semaphorePostArrival i) s =
      .next (if ((s.dozed i p).tile p.dst).takesPost p then
        (s.dozed i p).setTile p.dst (((s.dozed i p).tile p.dst).posted p (s.dozed i p).draws) else s.dozed i p) := by
  show execSemaphorePostArrival i s = _
  simp only [execSemaphorePostArrival, hp, hc, he, Bool.not_false, Bool.and_self, if_true]
  rfl

/-- A tile with the semaphores of another, SEMERR and CERR among them, and a value of `woken`. -/
def Tile.withSems (t y : Tile) (w : Bool) : Tile :=
  { t with sems := y.sems, woken := w, k := { t.k with semErr := y.k.semErr, cerr := y.k.cerr } }

theorem data_withSems (t y : Tile) (w : Bool) : (t.withSems y w).data = t.data.withSems y w := rfl

theorem posted_frame (t : Tile) (p : Post) (n : Nat) : (t.posted p n).data = (t.withSems (t.posted p n) (t.woken || t.asleep)).data := by
  have h := (taken_takePost (t.postAt p n) p).frame
  unfold Tile.posted
  rw [h, postAt_eq]
  rfl

theorem posted_taken (t : Tile) (p : Post) (n : Nat) : ((t.posted p n).semCount p.sem).toNat =
      min ((t.semCount p.sem).toNat + p.count.toNat) 0xFFFFFFFF ∧
    (∀ e, e ≠ p.sem → (t.posted p n).semCount e = t.semCount e) ∧
    (t.posted p n).k.semErr =
      (if 0xFFFFFFFF < (t.semCount p.sem).toNat + p.count.toNat then t.k.semErr ||| BitVec.twoPow 64 p.sem.toNat else t.k.semErr) ∧
    (t.posted p n).k.cerr = (if p.cerr then t.k.cerr ||| BitVec.twoPow 64 p.sem.toNat else t.k.cerr) := by
  have h := taken_takePost (t.postAt p n) p
  exact ⟨h.count.trans (by rw [semCount_postAt]), fun e he => (h.others e he).trans (semCount_postAt ..),
    h.semErr.trans (by rw [semCount_postAt, k_postAt]), h.cerr.trans (by rw [k_postAt])⟩

/-- What a post meets: its target as it stands, or fallen asleep first; beside that tile at most a zone's mark moves. -/
theorem dozed_spec (s : State) (i : Nat) (p : Post) :
    ∃ y, (∀ z, OnlyTile p.dst { s.arrived i with dies := ((s.dozed i p).setTile p.dst z).dies } ((s.dozed i p).setTile p.dst z)) ∧
      (s.dozed i p).tile p.dst = y ∧ y.takesPost p = (s.tile p.dst).takesPost p ∧ y.sems = (s.tile p.dst).sems ∧
      y.k.semErr = (s.tile p.dst).k.semErr ∧ y.k.cerr = (s.tile p.dst).k.cerr ∧
      (y.woken || y.asleep) = ((s.tile p.dst).woken || y.asleep) ∧
      y.data = ({ s.tile p.dst with asleep := y.asleep, woken := y.woken } : Tile).data ∧
      (y.asleep = true ↔ (s.tile p.dst).asleep = true ∨ s.dozes p = true) := by
  unfold State.dozed
  split
  · rename_i h
    obtain ⟨b, hb⟩ := inflight_of_dozes h
    obtain ⟨c, b', he⟩ : ∃ c b', (s.arrived i).fallAsleep p.dst =
        ((s.arrived i).noteAbove p.dst).setTile p.dst ((s.tile p.dst).sleeping c b') := ⟨_, _, fallAsleep_eq hb⟩
    refine ⟨(s.tile p.dst).sleeping c b', fun z => ?_, by rw [he, tile_setTile], rfl, rfl, rfl, rfl, by simp, data_sleeping .., by simp [h]⟩
    rw [he, setTile_setTile]
    exact onlyTile_noteAbove ..
  · rename_i h
    exact ⟨s.tile p.dst, fun z => onlyTile_setTile _ (s.arrived i) z, rfl, rfl, rfl, rfl, rfl, rfl, rfl, by simp [h]⟩

/-- A post that its target does not take is lost (R176). -/
theorem post_lost {s : State} {i : Nat} {p : Post} (hp : s.posts[i]? = some p) (hc : s.postCovered p = true)
    (he : p.early (s.tile p.dst) = false) (ht : (s.tile p.dst).takesPost p = false) (hd : ¬ s.dozes p = true) :
    exec (.semaphorePostArrival i) s = .next (s.arrived i) := by
  have hs : s.dozed i p = s.arrived i := by simp [State.dozed, hd]
  have ht' : ((s.arrived i).tile p.dst).takesPost p = false := ht
  rw [exec_semaphorePostArrival hp hc he, hs, ht']
  rfl

/-- A post that its target takes (R183). -/
theorem post_taken {s : State} {i : Nat} {p : Post} (hp : s.posts[i]? = some p) (hc : s.postCovered p = true)
    (he : p.early (s.tile p.dst) = false) (ht : (s.tile p.dst).takesPost p = true) :
    let x := s.tile p.dst
    let total := (x.semCount p.sem).toNat + p.count.toNat
    ∃ t, exec (.semaphorePostArrival i) s = .next t ∧ OnlyTile p.dst { s.arrived i with dies := t.dies } t ∧
      let y := t.tile p.dst
      y.data = ({ x with sems := y.sems, asleep := y.asleep, woken := x.woken || y.asleep,
                         k := { x.k with semErr := y.k.semErr, cerr := y.k.cerr } } : Tile).data ∧
      (y.asleep = true ↔ x.asleep = true ∨ s.dozes p = true) ∧
      (y.semCount p.sem).toNat = min total 0xFFFFFFFF ∧ (∀ e, e ≠ p.sem → y.semCount e = x.semCount e) ∧
      y.k.semErr = (if 0xFFFFFFFF < total then x.k.semErr ||| BitVec.twoPow 64 p.sem.toNat else x.k.semErr) ∧
      y.k.cerr = (if p.cerr then x.k.cerr ||| BitVec.twoPow 64 p.sem.toNat else x.k.cerr) := by
  obtain ⟨v, hv, htile, htakes, hsems, hsem, hcerr, hwoken, hdata, hasleep⟩ := dozed_spec s i p
  have hx := exec_semaphorePostArrival hp hc he
  rw [htile, htakes, ht, if_pos rfl] at hx
  have hn : ∀ e, v.semCount e = (s.tile p.dst).semCount e := fun e => by simp only [Tile.semCount, hsems]
  obtain ⟨h1, h2, h3, h4⟩ := posted_taken v p (s.dozed i p).draws
  have hframe := posted_frame v p (s.dozed i p).draws
  have ha : (v.posted p (s.dozed i p).draws).asleep = v.asleep := by have := congrArg Tile.asleep hframe; exact this
  refine ⟨_, hx, hv _, ?_⟩
  simp only [tile_setTile]
  generalize v.posted p (s.dozed i p).draws = y at *
  refine ⟨?_, by rw [ha]; exact hasleep, by rw [h1, hn], fun e hne => (h2 e hne).trans (hn e), by rw [h3, hn, hsem], by rw [h4, hcerr]⟩
  rw [hframe, data_withSems, hdata, hwoken, ha]
  rfl

theorem spost_rows {s : State} {b : Inflight} {scope : PostScope} {e : BitVec 6} {sa sb : SReg} (h : s.At (.spost scope e sa sb) b) :
    let x := s.here
    let v := x.sreg sa
    let ix := (v.extractLsb' 0 8).toNat
    let clean := v.extractLsb' 8 22 = 0
    let mode := v.extractLsb' 30 2
    let dsem := ∃ l, s.launch? x.pt.handle = some l ∧ l.dsem = true
    let posts (dst : TileId) (wide : Bool) : Prop :=
      Sends (.spost scope e sa sb) s { x with issueNo := x.issueNo + 1 } [tilePost s.focus dst x e (x.sreg sb) false wide x.issueNo] []
    let traps (d : Nat) : Prop := ∀ l, s.Handles l → TrapsTo (.spost scope e sa sb) s b l 0x06 d
    (v = 0 → posts s.focus false) ∧
    (mode = 1 → clean → ix < x.crewN → posts (crewTile s.focus x ix) false) ∧
    (mode = 2 → clean → dsem → ix < 80 → posts ⟨s.focus.die, siteOf ix⟩ true) ∧
    (mode = 3 ∨ ¬ clean ∨ (mode = 0 ∧ ix ≠ 0) → traps 0x02) ∧
    (mode = 1 → clean → x.crewN ≤ ix → traps 0x01) ∧
    (mode = 2 → clean → ¬ dsem → traps 0x03) ∧
    (mode = 2 → clean → dsem → 80 ≤ ix → traps 0x04) := by
  intro x v ix clean mode dsem posts traps
  refine ⟨fun hv => spost_sends h ?_, fun hm hc hi => spost_sends h ?_, fun hm hc ⟨l, hl, hd⟩ hi => spost_sends h ?_,
    fun hr l hh => spost_traps h hh (postTarget_reserved hr), fun hm hc hi l hh => spost_traps h hh ?_,
    fun hm hc hd l hh => spost_traps h hh (postTarget_noDsem hm hc hd), fun hm hc ⟨l, hl, hd⟩ hi k hh => spost_traps h hh ?_⟩
  · rw [show s.here.sreg sa = 0 from hv]; exact postTarget_own
  · rw [postTarget_crew hm hc, if_neg (Nat.not_le.mpr hi)]
  · rw [postTarget_die hm hc hl hd, if_neg (Nat.not_le.mpr hi)]
  · rw [postTarget_crew hm hc, if_pos hi]
  · rw [postTarget_die hm hc hl hd, if_pos hi]

/-- Settles O43: a post is checked row by row of its target word and runs as a slot that sends; an SWAIT runs or holds by its semaphore at K;
a post's arrival adds to its target alone, asleep or not. -/
theorem semaphoresCountPostsAndWaits : Obligations.SemaphoresCountPostsAndWaits := by
  unfold Obligations.SemaphoresCountPostsAndWaits
  refine ⟨fun s b scope e sa sb sd => ⟨fun h => spost_rows h, fun h => swait_atTurn h, spoll_writes sd e⟩, ?_, ?_⟩
  · intro s f b e sb x h ha
    exact ⟨swaitSatisfied_takes h ha, fun l => swaitSatisfied_traps h ha⟩
  · intro s i p hp hc he x rest total sleeps
    refine ⟨fun ht hs => post_lost hp hc he ht fun hd => hs ((dozes_iff s p).mp hd), fun ht => ?_⟩
    have := post_taken hp hc he ht
    simp only [dozes_iff] at this
    exact this

end Sys2Proof.Machine
end

section
namespace Sys2Proof.Machine

/-! ## Operations that touch no tile -/

theorem tiles_foldl {α : Type} (g : State → α → State) (h : ∀ s x, (g s x).tiles = s.tiles) :
    ∀ (xs : List α) (s : State), (xs.foldl g s).tiles = s.tiles
  | [], _ => rfl
  | x :: xs, s => (tiles_foldl g h xs _).trans (h s x)

@[simp] theorem mapSite_tiles (s : State) (i : TileId) (g : SiteRec → SiteRec) : (s.mapSite i g).tiles = s.tiles := rfl
@[simp] theorem setVerify_tiles (s : State) (i : TileId) (on : Bool) : (s.setVerify i on).tiles = s.tiles := rfl
@[simp] theorem writeSiteNow_tiles (s : State) (i : TileId) : (s.writeSiteNow i).tiles = s.tiles := rfl
@[simp] theorem writeSiteDue_tiles (s : State) (i : TileId) : (s.writeSiteDue i).tiles = s.tiles := by
  unfold State.writeSiteDue
  split
  · split <;> rfl
  · rfl
@[simp] theorem setFstat_tiles (s : State) (b : Nat) : (s.setFstat b).tiles = s.tiles := (memFrame_setFstat s b).tiles
@[simp] theorem feWrite_tiles (s : State) (c : BitVec 16) (va : Nat) (bs : List Byte) : (s.feWrite c va bs).1.tiles = s.tiles :=
  (memFrame_feWrite s c va bs).tiles
@[simp] theorem raiseVector_tiles (s : State) (v : Nat) : (s.raiseVector v).tiles = s.tiles := (memFrame_raiseVector s v).tiles
@[simp] theorem noteAbove_tiles (s : State) (i : TileId) : (s.noteAbove i).tiles = s.tiles := by rw [noteAbove_eq]

@[simp] theorem logError_tiles (s : State) (cls src unit : Nat) (detail : List Byte) : (s.logError cls src unit detail).tiles = s.tiles := by
  simp only [State.logError]

@[simp] theorem captureRecord_tiles (s : State) (h : BitVec 16) (d : Fin 8) (cls : Nat) (rec : List Byte) :
    (s.captureRecord h d cls rec).tiles = s.tiles := by
  unfold State.captureRecord
  have hl := logError_tiles s cls 0 d.val rec
  generalize s.logError cls 0 d.val rec = u at hl
  dsimp only
  split
  · exact hl
  · exact (setLaunch_tiles ..).trans hl

@[simp] theorem tellFence_tiles (s : State) (i : TileId) : (s.tellFence i).tiles = s.tiles := by
  simp only [State.tellFence]
  split
  · split
    · rfl
    · exact setFstat_tiles s 3
  · exact setFstat_tiles s 3

@[simp] theorem sameCycle_tiles (s : State) (i : TileId) : (s.sameCycle i).tiles = s.tiles := by
  simp only [State.sameCycle]
  split
  · split
    · split
      · split
        · exact captureRecord_tiles ..
        · rfl
      · rfl
    · rfl
  · rfl

@[simp] theorem notify_tiles (s : State) (q : Fin 16) (cmd : List Byte) : (s.notify q cmd).tiles = s.tiles := by
  have hs : (if bit (field cmd 1 1) 0 then
      (s.feStore (field cmd 2 1) (s.queue q).ctx (field cmd 0x20 8) (bytesOfNat 8 (field cmd 0x28 8))).1 else s).tiles = s.tiles := by
    split
    · exact (memFrame_feStore ..).tiles
    · rfl
  simp only [State.notify]
  split
  · exact (raiseVector_tiles ..).trans hs
  · exact hs

@[simp] theorem completeRunning_tiles (s : State) (q : Fin 16) (n : Nat) : (s.completeRunning q n).tiles = s.tiles := by
  simp only [State.completeRunning]
  split
  · rfl
  · exact (notify_tiles ..).trans rfl

@[simp] theorem endPreempts_tiles (s : State) (l : Launch) (code : Nat) : (s.endPreempts l code).tiles = s.tiles :=
  tiles_foldl _ (fun s _ => (completeRunning_tiles ..).trans (feWrite_tiles s ..)) _ _

@[simp] theorem leaveDies_tiles (s : State) (h : BitVec 16) : (s.leaveDies h).tiles = s.tiles :=
  tiles_foldl (fun s d => s.setDie d _) (fun _ _ => rfl) _ _

@[simp] theorem writeRecords_tiles (s : State) (l : Launch) : (s.writeRecords l).tiles = s.tiles := by
  unfold State.writeRecords
  split
  · rfl
  · exact (feWrite_tiles ..).trans (tiles_foldl _ (fun s x => feWrite_tiles s ..) _ _)

@[simp] theorem storeWord_tiles (s : State) (h c : BitVec 16) (r : List Byte) (v : Nat) : (s.storeWord h c r v).tiles = s.tiles := by
  unfold State.storeWord
  split
  · rfl
  · exact (memFrame_feWord ..).tiles

@[simp] theorem storeCword_tiles (s : State) (l : Launch) (n : Nat) : (s.storeCword l n).tiles = s.tiles := storeWord_tiles ..

@[simp] theorem fenceSites_tiles (s : State) (d : Fin 8) : (s.fenceSites d).tiles = s.tiles := by
  refine tiles_foldl _ (fun s i => ?_) _ _
  dsimp only
  split
  · exact setFstat_tiles ..
  · rfl

@[simp] theorem settleFences_tiles (s : State) : s.settleFences.tiles = s.tiles := by
  refine tiles_foldl _ (fun s d => ?_) _ _
  split
  · exact (fenceSites_tiles ..).trans ((setFstat_tiles ..).trans rfl)
  · rfl

@[simp] theorem tellEnd_tiles (s : State) (l : Launch) : (s.tellEnd l).tiles = s.tiles := by
  have hset : ∀ (c : Prop) [Decidable c] (t : State) (b : Nat), (if c then t.setFstat b else t).tiles = t.tiles := fun c _ t b => by
    split
    · exact setFstat_tiles t b
    · rfl
  exact (tiles_foldl _ (fun s (k : Fin 16 × Nat) => completeRunning_tiles s k.1 k.2) _ _).trans ((hset _ _ 3).trans (hset _ s 2))

/-! ## A tile that has stopped stays stopped (R311) -/

/-- A tile that stopped as what `x` was, told nothing since, with its special registers as `k`. -/
structure Tile.AtRest (x : Tile) (k : KRegs) (y : Tile) : Prop where
  stopped : HasStopped x y
  told : y.stopReq = false
  met : y.leafTrap = none
  kept : y.k = k

theorem atRest_stopped (x : Tile) (n : Nat) : x.AtRest x.k (x.stopped n) where
  stopped := ⟨.inl rfl, rfl, rfl, fun c hc => by
    obtain ⟨hm, hs⟩ := List.mem_filter.mp hc
    exact ⟨hm, by simpa using hs⟩⟩
  told := rfl
  met := rfl
  kept := rfl

/-- A tile that has stopped and is free again is at rest. -/
theorem Tile.AtRest.freed {x y : Tile} {k : KRegs} (h : x.AtRest k y) : x.AtRest k y.freed where
  stopped := ⟨.inr ⟨rfl, rfl⟩, rfl, rfl, fun _ hc => absurd hc List.not_mem_nil⟩
  told := rfl
  met := rfl
  kept := h.kept

theorem Tile.AtRest.act {x y : Tile} {k : KRegs} (h : x.AtRest k y) : y.act = .stopped ∨ y.act = .idle := h.stopped.1.imp_right And.left

/-- From one state to another, a tile at rest stays at rest. -/
def State.Rests (i : TileId) (s t : State) : Prop := ∀ x k, Tile.AtRest x k (s.tile i) → Tile.AtRest x k (t.tile i)

section
variable {i : TileId} {s t u : State}

theorem rests_of_tiles (h : t.tiles = s.tiles) : State.Rests i s t := fun x k hr => by
  rw [State.tile, h]; exact hr
theorem State.Rests.trans (h : State.Rests i s t) (g : State.Rests i t u) : State.Rests i s u := fun x k hr => g x k (h x k hr)
theorem State.Rests.refl (i : TileId) (s : State) : State.Rests i s s := fun _ _ hr => hr

theorem rests_foldl {α : Type} {g : State → α → State} (h : ∀ s x, State.Rests i s (g s x)) :
    ∀ (xs : List α) (s : State), State.Rests i s (xs.foldl g s)
  | [], s => .refl i s
  | x :: xs, s => (h s x).trans (rests_foldl h xs _)

/-- A change of one tile that leaves a tile at rest so. -/
theorem rests_setTile {j : TileId} {y : Tile} (h : j = i → ∀ x k, Tile.AtRest x k (s.tile i) → Tile.AtRest x k y) :
    State.Rests i s (s.setTile j y) := fun x k hr => by
  by_cases hj : j = i
  · subst hj; rw [tile_setTile]; exact h rfl x k hr
  · rw [tile_setTile_ne s y (Ne.symm hj)]; exact hr

/-- Any tile may be freed. -/
theorem rests_setTile_freed (j : TileId) : State.Rests i s (s.setTile j (s.tile j).freed) :=
  rests_setTile fun hj x k hr => by subst hj; exact hr.freed

theorem rests_freeIf (c : Bool) (j : TileId) : State.Rests i s (if c then s.setTile j (s.tile j).freed else s) := by
  split
  · exact rests_setTile_freed j
  · exact .refl i s

theorem rests_stopLaunchTiles (s : State) (h : BitVec 16) : State.Rests i s (s.stopLaunchTiles h) := by
  refine rests_foldl (fun s j => ?_) _ s
  dsimp only
  split
  · rename_i hj
    have hrun : j = i → ∀ x k, ¬ Tile.AtRest x k (s.tile i) := fun e x k hr => by
      subst e
      rcases hr.act with ha | ha <;> simp [Tile.runs, ha] at hj
    split
    · refine (rests_of_tiles (t := { s.sameCycle j with crew := _ }) (sameCycle_tiles s j)).trans
        (rests_setTile fun e x k hr => absurd (?_ : Tile.AtRest x k (s.tile i)) (hrun e x k))
      rwa [State.tile, sameCycle_tiles] at hr
    · exact rests_setTile fun e x k hr => absurd hr (hrun e x k)
  · exact .refl i s

theorem rests_reap (s : State) (h : BitVec 16) : State.Rests i s (s.reap h) := by
  unfold State.reap
  split
  · rename_i l hl
    generalize (if l.phase = .killed then killBits else faultBit) = bits
    split
    · have hf := rests_foldl (i := i) (fun s j => rests_freeIf (s := s) (c := (s.tile j).runs h) j) allTiles
        ((s.writeRecords l).storeCword l bits)
      refine .trans (rests_of_tiles ?_) (hf.trans (rests_of_tiles ?_))
      · rw [storeCword_tiles, writeRecords_tiles]
      · rw [settleFences_tiles, tellEnd_tiles, dropLaunch_tiles]
    · exact .refl i s
  · exact .refl i s

theorem rests_settleStopped (s : State) (j : TileId) : State.Rests i s (s.settleStopped j) := by
  simp only [State.settleStopped]
  split
  · split
    · split
      · exact rests_reap s _
      · exact rests_setTile_freed j
    · exact rests_setTile_freed j
  · exact .refl i s

theorem rests_faultOne (s : State) (l : Launch) : State.Rests i s (s.faultOne l) :=
  .trans (.trans (rests_of_tiles (t := s.setLaunch { l with phase := .faulted }) rfl) (rests_stopLaunchTiles _ _))
    (.trans (rests_of_tiles ((leaveDies_tiles ..).trans (endPreempts_tiles ..))) (rests_reap _ _))

theorem rests_faultChain : ∀ (fuel : Nat) (s : State) (h : BitVec 16), State.Rests i s (s.faultChain fuel h)
  | 0, s, h => .refl i s
  | fuel + 1, s, h => by
    unfold State.faultChain
    split
    · exact .refl i s
    · split
      · exact (rests_faultOne s _).trans (rests_foldl (fun s (d : Launch) => rests_faultChain fuel s d.handle) _ _)
      · exact .refl i s

theorem rests_faultLaunch (s : State) (h : BitVec 16) : State.Rests i s (s.faultLaunch h) := rests_faultChain _ s h

theorem rests_faultShapeless (s : State) (d : Fin 8) : State.Rests i s (s.faultShapeless d) := by
  refine rests_foldl (fun s l => ?_) _ s
  split
  · exact .refl i s
  · exact rests_faultLaunch s _

theorem rests_fenceSite (s : State) (j : TileId) (cause : Nat) : State.Rests i s (s.fenceSite j cause) := by
  unfold State.fenceSite
  split
  · exact .refl i s
  · exact .trans (rests_of_tiles (by simp)) (rests_faultShapeless _ _)

theorem rests_notRetiring (s : State) (j : TileId) : State.Rests i s ((s.noteAbove j).setTile j { s.tile j with retiring := false }) :=
  .trans (rests_of_tiles (noteAbove_tiles s j)) (rests_setTile fun e x k hr => by
    subst e
    rw [noteAbove_tile] at hr
    exact ⟨hr.stopped, hr.told, hr.met, hr.kept⟩)

theorem rests_retireSite (s : State) (j : TileId) : State.Rests i s (s.retireSite j) := by
  unfold State.retireSite
  dsimp only
  split
  · exact rests_notRetiring s j
  · refine .trans (rests_notRetiring s j) (.trans (rests_of_tiles ?_) (rests_faultShapeless _ _))
    rw [tellFence_tiles]
    split <;> simp

theorem rests_timingFence (s : State) (j : TileId) (injected : Bool) : State.Rests i s (s.timingFence j injected) := by
  unfold State.timingFence
  dsimp only
  split
  · exact .refl i s
  · split
    · exact (rests_fenceSite s j 0x0E).trans (rests_of_tiles (by simp))
    · have hf : State.Rests i s ((s.mapSite j fun r => { r with tfence := s.ltime }).fenceSite j 0x0E) :=
        .trans (rests_of_tiles (mapSite_tiles ..)) (rests_fenceSite _ _ _)
      split
      · exact hf.trans (rests_retireSite _ _)
      · exact hf.trans (rests_of_tiles (setVerify_tiles ..))

/-- A tile that stops with a record is at rest afterwards, whatever its launch and its site come to. -/
theorem atRest_stopWith (s : State) (i : TileId) (kind cause dfpc dfcause : Nat) (retire injected : Bool) :
    (s.tile i).AtRest (s.tile i).k ((s.stopWith i kind cause dfpc dfcause retire injected).tile i) := by
  simp only [State.stopWith]
  generalize trapRecord _ _ _ _ _ _ _ = r
  generalize (if (classTile cause || retire) = true then 2 else 1) = cls
  have hr : (s.tile i).AtRest (s.tile i).k ((((s.captureRecord (s.tile i).pt.handle i.die cls r).stopTile i).faultLaunch
      (s.tile i).pt.handle |>.settleStopped i).tile i) := by
    refine ((rests_faultLaunch _ _).trans (rests_settleStopped _ _)) _ _ ?_
    have ht : (s.captureRecord (s.tile i).pt.handle i.die cls r).tile i = s.tile i := by rw [State.tile, captureRecord_tiles]; rfl
    simp only [State.stopTile, ht, tile_setTile]
    exact atRest_stopped ..
  split
  · exact rests_retireSite _ _ _ _ hr
  · split
    · split
      · exact rests_timingFence _ _ _ _ _ hr
      · exact rests_fenceSite _ _ _ _ _ hr
    · exact hr

end

end Sys2Proof.Machine
end

section
namespace Sys2Proof.Machine

/-! ## Traps that stop a tile (R306-R311) -/

section
variable {s : State} {i : TileId} {c d : Nat} {m : Byte} {pc : BitVec 16} {n : Nat} {inj : Bool}

/-- A cause that goes to no handler stops a tile outside a handler, with the registers of R308 written. -/
theorem takeTrap_rests (hc : c ≠ 0x0A) (hr : routeH c = false) (ht : (s.tile i).k.trapped = false) :
    ((s.tile i).enterTrap c d m pc n).AtRest ((s.tile i).enterTrap c d m pc n).k ((s.takeTrap i c d m pc n inj).tile i) := by
  have hs : s.takeTrap i c d m pc n inj =
      (s.setTile i ((s.tile i).enterTrap c d m pc n)).stopWith i 1 c 0 0 (c == 0x0A && (s.tile i).retiring) inj := by
    simp only [State.takeTrap, if_neg hc, ht, hr, tile_setTile, enterTrap_retiring, Bool.false_and, Bool.false_eq_true, if_false]
    split <;> rfl
  have := atRest_stopWith (s.setTile i ((s.tile i).enterTrap c d m pc n)) i 1 c 0 0 (c == 0x0A && (s.tile i).retiring) inj
  rw [tile_setTile] at this
  rwa [hs]

/-- A second trap stops a tile in its handler, with the registers of the first kept (R310). -/
theorem takeTrap_rests_trapped (hc : c ≠ 0x0A) (ht : (s.tile i).k.trapped = true) :
    (s.tile i).AtRest (s.tile i).k ((s.takeTrap i c d m pc n inj).tile i) := by
  simp only [State.takeTrap, if_neg hc, ht, if_true]
  split
  · exact atRest_stopWith ..
  · exact atRest_stopWith ..

/-- A tile at rest stands as it is at a boundary. -/
theorem Tile.AtRest.boundary {x : Tile} {k : KRegs} (h : x.AtRest k (s.tile i)) : s.boundary i = s := boundary_id s i h.met h.told

theorem Tile.AtRest.trapStopped {x y : Tile} (h : (x.enterTrap c d m pc n).AtRest (x.enterTrap c d m pc n).k y) (ht : x.k.trapped = false) :
    TrapStopped x y pc n c d m := by
  have hs : HasStopped x y := h.stopped
  refine ⟨hs, ?_⟩
  rw [h.kept]
  exact ⟨ht, rfl, rfl, rfl, rfl⟩

/-- A tile that takes a trap of a cause without a handler has stopped at the boundary after it, trapped before or not. -/
theorem takeTrap_boundary (hc : c ≠ 0x0A) (hr : routeH c = false) :
    HasStopped (s.tile i) (((s.takeTrap i c d m pc n inj).boundary i).tile i) ∧
    (((s.takeTrap i c d m pc n inj).boundary i).tile i).k.replays = (s.tile i).k.replays ∧
    ((s.tile i).k.trapped = false → TrapStopped (s.tile i) (((s.takeTrap i c d m pc n inj).boundary i).tile i) pc n c d m) := by
  cases ht : (s.tile i).k.trapped
  · have h := takeTrap_rests (d := d) (m := m) (pc := pc) (n := n) (inj := inj) hc hr ht
    rw [h.boundary]
    exact ⟨(h.trapStopped ht).1, by rw [h.kept]; rfl, fun _ => h.trapStopped ht⟩
  · have h := takeTrap_rests_trapped (d := d) (m := m) (pc := pc) (n := n) (inj := inj) hc ht
    rw [h.boundary]
    exact ⟨h.stopped, by rw [h.kept], fun e => absurd e (by simp)⟩
end

/-! ## What flags change (R328-R330) -/

theorem settleAt_setTile (s : State) (i : TileId) (t : Tile) (h : Bool) (a n : Nat) :
    (s.setTile i t).settleAt h a n = (s.settleAt h a n).setTile i t := by
  unfold State.settleAt
  by_cases hn : s.narrow.isEmpty = true
  · rw [if_pos hn]; exact if_pos hn
  · rw [if_neg hn]; exact if_neg hn

theorem hostStore_setTile (s : State) (i : TileId) (t : Tile) (a : Nat) (bs : List Byte) :
    (s.setTile i t).hostStore a bs = (s.hostStore a bs).setTile i t := by
  unfold State.hostStore
  rw [settleAt_setTile]
  by_cases hv : s.regs.viral = true
  · rw [if_pos hv]; exact if_pos hv
  · rw [if_neg hv]; exact if_neg hv

theorem raiseVector_setTile (s : State) (i : TileId) (t : Tile) (v : Nat) : (s.setTile i t).raiseVector v = (s.raiseVector v).setTile i t := by
  unfold State.raiseVector
  split
  · rename_i h
    dsimp only [setTile_vecs]
    rw [hostStore_setTile]
    by_cases hm : (s.vecs[v]).mask = true
    · rw [if_pos hm, if_pos hm]; rfl
    · rw [if_neg hm, if_neg hm]
  · rfl

/-- A tile has no say in the package's status: marking FSTAT and changing a tile commute. -/
theorem setFstat_setTile (s : State) (i : TileId) (t : Tile) (n : Nat) : (s.setTile i t).setFstat n = (s.setFstat n).setTile i t := by
  have h : ∀ (c : Bool) (r : PkgRegs), (if c = true then ((s.setTile i t).setRegs r).raiseVector 16 else (s.setTile i t).setRegs r) =
      (if c = true then (s.setRegs r).raiseVector 16 else s.setRegs r).setTile i t := fun c r => by
    split
    · exact raiseVector_setTile (s.setRegs r) i t 16
    · rfl
  exact h _ _

end Sys2Proof.Machine
end

section
namespace Sys2Proof.Machine

/-! ## Flags (R327-R330) -/

/-- A flag is found at K of a bundle of which no slot has committed and that nothing holds there. -/
theorem flaggable_eq {s : State} {f : TileId} {b : Inflight} (hn : b.next = b.start) (hp : b.passed = false)
    (hh : b.hold = none) (hs : b.atomSent = false) (ha : b.atomBack = none) (hany : anyHolds s f (s.tile f) 0 b.rest = false)
    (ho : s.owed f (commitCycle (s.tile f) (b.released (s.tile f))) = false) : s.flaggable f (s.tile f) b = true := by
  simp [State.flaggable, hn, hp, hh, hs, ha, hany, ho]

/-- A tile whose replays count one more. -/
def Tile.replayCounted (x : Tile) (time : Nat) : Tile := { x with k := { x.k with replays := satAdd32 x.k.replays 1 }, movedAt := time }

theorem commitCycle_replayCounted (x : Tile) (time : Nat) (b : Inflight) : commitCycle (x.replayCounted time) b = commitCycle x b := rfl

/-- A tile whose bundle a flag has squashed. -/
def Tile.flagged (x : Tile) (b : Inflight) (time : Nat) : Tile :=
  { x.replayCounted time with inflight := some (b.replayed (x.replayCounted time)), cox := { x.cox with replays := x.cox.replays + 1 } }

/-- What a replay keeps of a bundle, and what it costs it. -/
theorem replayed_spec (b : Inflight) (t u : Tile) : ((b.released t).replayed u).flags = b.flags + 1 ∧
    ((b.released t).replayed u).extra = b.extra + (if b.flags = 1 then 4 * b.depth + 11 else 2 * b.depth + 6) ∧
    ((b.released t).replayed u).words = b.words ∧ ((b.released t).replayed u).next = b.next ∧
    ((b.released t).replayed u).first = b.first := by
  refine ⟨rfl, ?_, rfl, rfl, rfl⟩
  show b.extra + (if (b.flags == 1) = true then _ else _) = _
  simp [Inflight.released]

section
variable {s : State} {f : TileId} {b : Inflight}

theorem exec_replayReissue (hb : (s.tile f).inflight = some b) (hf : s.flaggable f (s.tile f) b = true) : exec (.replayReissue f) s =
    .next (if b.flags = 2 then
        ((s.setTile f ((s.tile f).atCycle (commitCycle (s.tile f) (b.released (s.tile f)) - 4))).takeTrap f 0x0E 0 0 b.first b.start
          (b.injected && b.flagsDue != 0)).boundary f
      else if b.flags = 1 then
        ((s.setFstat 0).setTile f ((s.tile f).flagged (b.released (s.tile f)) s.time)).twoStepRise f
          (commitCycle (s.tile f) (b.released (s.tile f)) - 2)
      else (s.setFstat 0).setTile f ((s.tile f).flagged (b.released (s.tile f)) s.time)) := by
  rw [← setFstat_setTile]
  rw [← commitCycle_replayCounted (s.tile f) s.time]
  show execReplayReissue f s = _
  simp only [execReplayReissue, hb, hf, Bool.not_true, Bool.false_eq_true, if_false]
  rw [show (b.released (s.tile f)).flags = b.flags from rfl]
  split
  · rfl
  · rfl

/-- The first flag squashes the bundle and issues it again (R328). -/
theorem replay_first (hb : (s.tile f).inflight = some b) (hf : s.flaggable f (s.tile f) b = true) (h0 : b.flags = 0) :
    ∃ y b', exec (.replayReissue f) s = .next ((s.setFstat 0).setTile f y) ∧ y.inflight = some b' ∧ b'.flags = 1 ∧
      b'.extra = b.extra + (2 * b.depth + 6) ∧ b'.words = b.words ∧ b'.next = b.next ∧ b'.first = b.first ∧
      y.data = { (s.tile f).data with k := { (s.tile f).data.k with replays := satAdd32 (s.tile f).k.replays 1 } } := by
  obtain ⟨h1, h2, h3, h4, h5⟩ := replayed_spec b (s.tile f) ((s.tile f).replayCounted s.time)
  refine ⟨(s.tile f).flagged (b.released (s.tile f)) s.time, _, ?_, rfl, ?_, ?_, h3, h4, h5, rfl⟩
  · rw [exec_replayReissue hb hf, h0, if_neg (by decide), if_neg (by decide)]
  · rw [h1, h0]
  · rw [h2, h0, if_neg (by decide)]

/-- The third flag traps 0x0E, and the tile stops (R330). -/
theorem replay_third (hb : (s.tile f).inflight = some b) (hf : s.flaggable f (s.tile f) b = true) (h2 : b.flags = 2) :
    ∃ t, exec (.replayReissue f) s = .next t ∧ HasStopped (s.tile f) (t.tile f) ∧ (t.tile f).k.replays = (s.tile f).k.replays ∧
      ((s.tile f).k.trapped = false → TrapStopped (s.tile f) (t.tile f) b.first b.start 0x0E 0 0) := by
  rw [exec_replayReissue hb hf, if_pos h2]
  have h := takeTrap_boundary (s := s.setTile f ((s.tile f).atCycle (commitCycle (s.tile f) (b.released (s.tile f)) - 4))) (i := f)
    (c := 0x0E) (d := 0) (m := 0) (pc := b.first) (n := b.start) (inj := b.injected && b.flagsDue != 0) (by decide) rfl
  simp only [tile_setTile] at h
  exact ⟨_, rfl, h⟩

end

/-! ## What a rise of a bin's offset moves (R329, R339, R408) -/

/-- Between two states only the V/F side of a tile has moved, with its site, its die and the clock of its pipeline. -/
structure BinMoved (f : TileId) (s t : State) : Prop where
  frame : { t with tiles := s.tiles, sites := s.sites, dies := s.dies } = s
  tiles : t.tiles = (s.setTile f (t.tile f)).tiles
  sites : ∀ j, j ≠ f → t.site j = s.site j
  tile : { t.tile f with vf := (s.tile f).vf, cox := (s.tile f).cox, pipe := (s.tile f).pipe, movedAt := (s.tile f).movedAt } = s.tile f

end Sys2Proof.Machine
end

section
namespace Sys2Proof.Machine

/-! ## The operations that a rise is made of -/

namespace BinMoved
variable {f : TileId} {s t u : State}

theorem refl (f : TileId) (s : State) : BinMoved f s s := ⟨rfl, by rw [setTile_self], fun _ _ => rfl, rfl⟩

theorem trans (h : BinMoved f s t) (g : BinMoved f t u) : BinMoved f s u where
  frame := by
    have := g.frame
    rw [← h.frame, ← this]
  tiles := by
    rw [g.tiles]
    simp only [State.setTile, h.tiles, Vector.set_set]
  sites j hj := (g.sites j hj).trans (h.sites j hj)
  tile := by
    have := g.tile
    rw [← h.tile, ← this]

/-- Marks on dies alone. -/
theorem of_dies (h : { t with dies := s.dies } = s) : BinMoved f s t := by
  have ht : t.tiles = s.tiles := by have := congrArg State.tiles h; exact this
  have hs : t.sites = s.sites := by have := congrArg State.sites h; exact this
  exact ⟨by rw [← ht, ← hs]; exact h, by rw [State.tile, ht]; exact congrArg State.tiles (setTile_self s f).symm,
    fun j _ => by rw [State.site, hs]; rfl,
    by rw [State.tile, ht]; rfl⟩

theorem setSite (f : TileId) (s : State) (x : Site) : BinMoved f s (s.setSite f x) :=
  ⟨rfl, (congrArg State.tiles (setTile_self s f)).symm, fun _ h => site_setSite_ne s x h, rfl⟩

theorem setTile (f : TileId) (s : State) {y : Tile}
    (h : { y with vf := (s.tile f).vf, cox := (s.tile f).cox, pipe := (s.tile f).pipe, movedAt := (s.tile f).movedAt } = s.tile f) :
    BinMoved f s (s.setTile f y) :=
  ⟨rfl, by rw [tile_setTile], fun _ _ => rfl, by rw [tile_setTile]; exact h⟩

theorem newWindow (f : TileId) (s : State) : BinMoved f s (s.newWindow f) := setTile f s rfl

theorem setBin (f : TileId) (s : State) (b : Fin 8) : BinMoved f s (s.setBin f b) :=
  trans (t := s.setTile f { s.tile f with
      vf := { (s.tile f).vf with bin := b }, movedAt := if s.barred f then s.time else (s.tile f).movedAt,
      pipe := { (s.tile f).pipe with loose := (s.tile f).pipe.loose || s.barred f } })
    (setTile f s rfl) (newWindow f _)

theorem noteAbove (f : TileId) (s : State) (i : TileId) : BinMoved f s (s.noteAbove i) := of_dies (by rw [noteAbove_eq])

theorem markMidpoint (f : TileId) (s : State) (d : Fin 8) (z : Fin 4) : BinMoved f s (s.markMidpoint d z) := by
  unfold State.markMidpoint
  split
  · split
    · exact of_dies rfl
    · exact refl f s
  · exact refl f s

theorem settleZone (f : TileId) (s : State) (d : Fin 8) (z : Fin 4) : BinMoved f s (s.settleZone d z) := by
  refine (markMidpoint f s d z).trans ?_
  unfold State.settleZone
  dsimp only
  split
  · exact of_dies rfl
  · exact refl f _

theorem capBin (f : TileId) (s : State) : BinMoved f s (s.capBin f) := by
  unfold State.capBin
  dsimp only
  split
  · exact (noteAbove f s f).trans ((setBin f _ _).trans (settleZone f _ _ _))
  · exact refl f s

theorem writeSiteDue (f : TileId) (s : State) : BinMoved f s (s.writeSiteDue f) := by
  unfold State.writeSiteDue
  split
  · split
    · exact setSite f s _
    · exact setSite f s _
  · exact setSite f s _

theorem riseTo (f : TileId) (s : State) (b : Fin 8) (v : Int) : BinMoved f s (s.riseTo f b v) := by
  unfold State.riseTo
  dsimp only
  generalize hu : (s.mapSite f fun r => r.setOffset b v).setSite f _ = u
  have h : BinMoved f s u := by
    subst hu
    exact (setSite f s { s.site f with live := ((s.site f).live).setOffset b v }).trans (setSite f _ _)
  refine h.trans ((writeSiteDue f u).trans (.trans ?_ (capBin f _)))
  split
  · exact newWindow f _
  · exact refl f _

theorem twoStepRise (f : TileId) (s : State) (c : Nat) : BinMoved f s (s.twoStepRise f c) := by
  unfold State.twoStepRise
  dsimp only
  generalize (min _ _ : Int) = v
  refine .trans ?_ (newWindow f _)
  split
  · exact refl f s
  · exact riseTo f s _ _

end BinMoved

/-! ## The offset that a rise leaves (R329, R351) -/

/-- The offset of a bin in a site's live record. -/
def State.offset (s : State) (i : TileId) (b : Fin 8) : Int := ((s.site i).live.bins[b]).offset

theorem offset_of_sites {s t : State} (h : t.sites = s.sites) (i : TileId) (b : Fin 8) : t.offset i b = s.offset i b := by
  unfold State.offset State.site; rw [h]

theorem stored_offset (x y : BinRec) : (x.stored y).offset = x.offset := by unfold BinRec.stored; split <;> rfl

theorem offset_writeSiteNow (s : State) (i : TileId) (b : Fin 8) : (s.writeSiteNow i).offset i b = s.offset i b := by
  simp [State.offset, State.writeSiteNow, Site.written, stored_offset]

theorem offset_writeSiteDue (s : State) (i : TileId) (b : Fin 8) : (s.writeSiteDue i).offset i b = s.offset i b := by
  unfold State.writeSiteDue
  split
  · split
    · simp [State.offset]
    · exact offset_writeSiteNow ..
  · exact offset_writeSiteNow ..

@[simp] theorem newWindow_sites (s : State) (i : TileId) : (s.newWindow i).sites = s.sites := rfl

@[simp] theorem settleZone_sites (s : State) (d : Fin 8) (z : Fin 4) : (s.settleZone d z).sites = s.sites := by
  have hm : (s.markMidpoint d z).sites = s.sites := by
    unfold State.markMidpoint
    split
    · split <;> rfl
    · rfl
  unfold State.settleZone
  dsimp only
  split
  · exact hm
  · exact hm

@[simp] theorem capBin_sites (s : State) (i : TileId) : (s.capBin i).sites = s.sites := by
  unfold State.capBin
  dsimp only
  split
  · rw [settleZone_sites]
    show (s.noteAbove i).sites = _
    rw [noteAbove_eq]
  · rfl

theorem offset_riseTo (s : State) (i : TileId) (b : Fin 8) (v : Int) : (s.riseTo i b v).offset i b = v := by
  unfold State.riseTo
  dsimp only
  rw [offset_of_sites (capBin_sites ..)]
  generalize hu : (s.mapSite i fun r => r.setOffset b v).setSite i _ = u
  have hv : u.offset i b = v := by
    subst hu
    simp [State.offset, State.mapSite, SiteRec.setOffset, SiteRec.mapBin]
  have hw := offset_writeSiteDue u i b
  split
  · rw [offset_of_sites (newWindow_sites ..), hw, hv]
  · rw [hw, hv]

/-- The two-step rise leaves the offset two steps up, one where the window had risen in the same cycle, and CEIL at most (R329, R353). -/
theorem offset_twoStepRise (s : State) (i : TileId) (c : Nat) : (s.twoStepRise i c).offset i (s.tile i).vf.bin =
    min (s.offset i (s.tile i).vf.bin + if (s.tile i).cox.roseAt = some c then 1 else 2) (s.tile i).cox.pol.ceil := by
  unfold State.twoStepRise
  dsimp only
  rw [offset_of_sites (newWindow_sites ..)]
  have h : ∀ v o : Int, s.offset i (s.tile i).vf.bin = o →
      (if o = v then s else s.riseTo i (s.tile i).vf.bin v).offset i (s.tile i).vf.bin = v := fun v o ho => by
    split
    · rename_i hv; exact ho.trans hv
    · exact offset_riseTo ..
  refine (h _ _ rfl).trans ?_
  split <;> rfl

end Sys2Proof.Machine
end

section
namespace Sys2Proof.Machine

/-! ## The second flag (R329) -/

theorem setFstat_dies (s : State) (n : Nat) : (s.setFstat n).dies = s.dies := by
  have hs : ∀ (u : State) (a : Nat) (bs : List Byte), (u.hostStore a bs).dies = u.dies := fun u a bs => by
    unfold State.hostStore State.settleAt
    split
    · rfl
    · split <;> rfl
  have hr : ∀ (u : State) (v : Nat), (u.raiseVector v).dies = u.dies := fun u v => by
    unfold State.raiseVector
    split
    · dsimp only
      split
      · rfl
      · exact hs ..
    · rfl
  have h : ∀ (c : Bool) (r : PkgRegs), (if c = true then (s.setRegs r).raiseVector 16 else s.setRegs r).dies = s.dies := fun c r => by
    split
    · exact hr _ 16
    · rfl
  exact h _ _

/-- What a V/F rise leaves of a tile that was replaced just before it. -/
theorem BinMoved.ofSetTile {f : TileId} {n r : State} {y : Tile} (h : BinMoved f (n.setTile f y) r) :
    ∃ (u : State) (z : Tile), r = u.setTile f z ∧
    { u with sites := n.sites, dies := n.dies } = n ∧ (∀ j, j ≠ f → u.site j = n.site j) ∧ u.sites = r.sites ∧
    { z with vf := y.vf, cox := y.cox, pipe := y.pipe, movedAt := y.movedAt } = y := by
  obtain ⟨hframe, htiles, hsites, htile⟩ := h
  rw [tile_setTile] at htile
  rw [setTile_setTile] at htiles
  refine ⟨{ r with tiles := n.tiles }, r.tile f, ?_, ?_, hsites, rfl, htile⟩
  · show r = { r with tiles := (n.setTile f (r.tile f)).tiles }
    rw [← htiles]
  · have := congrArg (fun u : State => { u with tiles := n.tiles }) hframe
    exact this

section
variable {s : State} {f : TileId} {b : Inflight}

/-- The second flag also raises the offset of the present bin by two steps, up to CEIL (R329, R339, R353). -/
theorem replay_second (hb : (s.tile f).inflight = some b) (hf : s.flaggable f (s.tile f) b = true) (h1 : b.flags = 1) :
    ∃ (u : State) (y : Tile) (b' : Inflight), exec (.replayReissue f) s = .next (u.setTile f y) ∧ y.inflight = some b' ∧ b'.flags = 2 ∧
      b'.extra = b.extra + (4 * b.depth + 11) ∧ b'.words = b.words ∧ b'.next = b.next ∧ b'.first = b.first ∧
      y.data = { (s.tile f).data with vf := y.vf, k := { (s.tile f).data.k with replays := satAdd32 (s.tile f).k.replays 1 } } ∧
      { u with sites := s.sites, dies := s.dies } = s.setFstat 0 ∧ (∀ j, j ≠ f → u.site j = s.site j) ∧
      u.offset f (s.tile f).vf.bin = min (s.offset f (s.tile f).vf.bin +
        if (s.tile f).cox.roseAt = some (commitCycle (s.tile f) (b.released (s.tile f)) - 2) then 1 else 2) (s.tile f).cox.pol.ceil := by
  have hx := exec_replayReissue hb hf
  rw [h1, if_neg (by decide), if_pos rfl] at hx
  obtain ⟨r1, r2, r3, r4, r5⟩ := replayed_spec b (s.tile f) ((s.tile f).replayCounted s.time)
  have hsites : (s.setFstat 0).sites = s.sites := (memFrame_setFstat s 0).sites
  generalize commitCycle (s.tile f) (b.released (s.tile f)) - 2 = c at hx ⊢
  have hoff := offset_twoStepRise ((s.setFstat 0).setTile f ((s.tile f).flagged (b.released (s.tile f)) s.time)) f c
  obtain ⟨u, z, hr, hu, hs, hus, hz⟩ := BinMoved.ofSetTile (BinMoved.twoStepRise f
    ((s.setFstat 0).setTile f ((s.tile f).flagged (b.released (s.tile f)) s.time)) c)
  rw [offset_of_sites hus.symm, tile_setTile] at hoff
  refine ⟨u, z, ((b.released (s.tile f)).replayed ((s.tile f).replayCounted s.time)), by rw [hx, hr], ?_, ?_, ?_, r3, r4, r5, ?_, ?_, ?_, ?_⟩
  · have := congrArg Tile.inflight hz; exact this
  · rw [r1, h1]
  · rw [r2, h1, if_pos rfl]
  · have := congrArg (fun t : Tile => ({ t with vf := z.vf } : Tile).data) hz; exact this
  · have hd := setFstat_dies s 0
    rw [hsites, hd] at hu
    exact hu
  · intro j hj; rw [hs j hj]; exact congrArg (·[tileNo j]'(tileNo_lt j)) hsites
  · have ho := offset_of_sites hsites f (s.tile f).vf.bin
    rw [← ho]
    exact hoff
end

end Sys2Proof.Machine
end

section
namespace Sys2Proof.Machine

/-! ## Sleep (R20, R21) -/

section
variable {s : State} {f : TileId} {b : Inflight}

theorem stillWaits_eq {x : Tile} {e : BitVec 6} {sb : SReg} (hb : x.inflight = some b) (hh : b.hold = some .swait)
    (hslot : b.words[b.next]?.map decodeSlot = some (.ok (.swait e sb))) (hs : x.semSaturated e = false)
    (hn : x.semCount e < x.sreg sb) : stillWaits x = true := by
  have hk : heldFor x .swait = true := by simp [heldFor, hb, hh]
  have hi : heldSlot x isSwait = some (.swait e sb) := heldSlot_next hb hslot rfl
  simp [stillWaits, hk, hi, hs, hn]

/-- A tile that has waited its 4,096 cycles is to sleep. -/
theorem sleepDue_eq {x : Tile} (hb : x.inflight = some b) (hw : stillWaits x = true) (ha : x.asleep = false)
    (ht : b.waitFrom + sleepNs x.vf.bin ≤ s.time) (hd : s.deadlineDue x = false) : s.sleepDue x = true := by
  have hn : x.sleepAt b ≤ s.time := ht
  simp [State.sleepDue, hw, ha, hb, hn, hd]

theorem tileSleep_sleeps (hb : (s.tile f).inflight = some b) (hd : s.sleepDue (s.tile f) = true) :
    ∃ t, exec (.tileSleep f) s = .next t ∧ OnlyTile f { s with dies := t.dies } t ∧
      (t.tile f).data = ({ s.tile f with asleep := true, woken := false } : Tile).data ∧
      (t.tile f).k.cycle = BitVec.ofNat 64 (holdStart (s.tile f) b + 4096) ∧
      (t.tile f).inflight = some { b with waitFrom := (s.tile f).sleepAt b } := by
  have hx : exec (.tileSleep f) s = .next (s.fallAsleep f) := if_pos hd
  have he := fallAsleep_eq (i := f) hb
  generalize holdStart (s.tile f) b + 4096 = c at he ⊢
  refine ⟨_, hx, ?_⟩
  rw [he, tile_setTile]
  exact ⟨onlyTile_noteAbove .., data_sleeping .., rfl, rfl⟩

/-- The tile that has woken and swept its plane, in its SWAIT again. -/
def Tile.awake (x : Tile) (b : Inflight) (time : Nat) : Tile :=
  { x.swept with asleep := false, woken := false, movedAt := time,
                 inflight := some { b with heldTo := x.k.cycle.toNat + 64, waitFrom := time } }

theorem badPlane_awake (x : Tile) (b : Inflight) (n : Nat) : (x.awake b n).badPlane = x.badPlane := rfl

theorem exec_tileWake (hb : (s.tile f).inflight = some b) (ha : (s.tile f).asleep = true) (hw : s.wakes (s.tile f) = true) :
    exec (.tileWake f) s = .next (match ((s.tile f).awake b s.time).badPlane with
      | some d => ((s.setTile f ((s.tile f).awake b s.time)).takeTrap f 0x0F d 0 b.first b.next).boundary f
      | none => ((s.noteAbove f).setTile f ((s.tile f).awake b s.time)).boundary f) := by
  show execTileWake f s = _
  simp only [execTileWake, hb, ha, hw, Bool.not_true, Bool.or_self, Bool.false_eq_true, if_false]
  unfold Tile.awake
  generalize Tile.badPlane _ = o
  cases o <;> rfl

/-- No bad cell below `n` is found below `n`. -/
theorem find?_range_eq_none {bad : List Nat} {n : Nat} (h : ∀ c ∈ bad, n ≤ c) : (List.range n).find? bad.contains = none := by
  rw [List.find?_eq_none]
  intro c hc hm
  exact absurd (h c (List.contains_iff_mem.mp hm)) (Nat.not_le.mpr (List.mem_range.mp hc))

/-- A plane with no bad cell sweeps clean. -/
theorem badPlane_none {x : Tile} (h : ∀ c ∈ x.planeBad, 4096 ≤ c) : x.badPlane = none :=
  Option.map_eq_none_iff.mpr (find?_range_eq_none h)

/-- A sweep finds the lowest bad cell. -/
theorem badPlane_least {x : Tile} {c : Nat} (hc : c ∈ x.planeBad) (hn : c < 4096) (hl : ∀ d ∈ x.planeBad, c ≤ d) :
    x.badPlane = some (c / 64 + 256 * (c % 64)) := by
  have hf : (List.range 4096).find? x.planeBad.contains = some c := by
    rw [List.find?_range_eq_some]
    refine ⟨List.contains_iff_mem.mpr hc, List.mem_range.mpr hn, fun j hj => ?_⟩
    have : j ∉ x.planeBad := fun hm => absurd (hl j hm) (Nat.not_le.mpr hj)
    simpa using this
  rw [Tile.badPlane, hf]
  rfl

/-- A tile that wakes over a plane without a bad cell and has nothing else to do waits in its SWAIT anew. -/
theorem tileWake_wakes (hb : (s.tile f).inflight = some b) (ha : (s.tile f).asleep = true) (hw : s.wakes (s.tile f) = true)
    (hp : ∀ c ∈ (s.tile f).planeBad, 4096 ≤ c) (hg : (s.tile f).stopReq = false) (hl : (s.tile f).leafTrap = none) :
    ∃ t, exec (.tileWake f) s = .next t ∧ OnlyTile f { s with dies := t.dies } t ∧
      (t.tile f).data = ({ s.tile f with asleep := false, woken := false } : Tile).data ∧
      (t.tile f).k.cycle = BitVec.ofNat 64 ((s.tile f).k.cycle.toNat + 64) ∧
      (t.tile f).inflight = some { b with heldTo := (s.tile f).k.cycle.toNat + 64, waitFrom := s.time } := by
  have hx := exec_tileWake hb ha hw
  rw [badPlane_awake, badPlane_none hp] at hx
  dsimp only at hx
  rw [boundary_id _ _ (by rw [tile_setTile]; exact hl) (by rw [tile_setTile]; exact hg)] at hx
  refine ⟨_, hx, onlyTile_noteAbove .., ?_⟩
  rw [tile_setTile]
  exact ⟨rfl, rfl, rfl⟩

/-- A tile told to stop that may stop is at rest after its boundary. -/
theorem boundary_stops {i : TileId} (hg : (s.tile i).stopReq = true) (hm : (s.tile i).mayStop = true) :
    (s.tile i).AtRest (s.tile i).k ((s.boundary i).tile i) := by
  have hx : s.boundary i = (s.stopTile i).settleStopped i := by simp [State.boundary, hg, hm]
  rw [hx]
  refine rests_settleStopped _ _ _ _ ?_
  simp only [State.stopTile, tile_setTile]
  exact atRest_stopped ..

theorem tileWake_stops (hb : (s.tile f).inflight = some b) (hh : b.hold = some .swait) (ha : (s.tile f).asleep = true)
    (hw : s.wakes (s.tile f) = true) (hp : ∀ c ∈ (s.tile f).planeBad, 4096 ≤ c) (hg : (s.tile f).stopReq = true) :
    ∃ t, exec (.tileWake f) s = .next t ∧ HasStopped (s.tile f) (t.tile f) := by
  have hx := exec_tileWake hb ha hw
  rw [badPlane_awake, badPlane_none hp] at hx
  have hm : ((s.tile f).awake b s.time).mayStop = true := by simp [Tile.mayStop, Tile.awake, hh]
  have h := boundary_stops (s := (s.noteAbove f).setTile f ((s.tile f).awake b s.time)) (i := f)
    (by rw [tile_setTile]; exact hg) (by rw [tile_setTile]; exact hm)
  rw [tile_setTile] at h
  exact ⟨_, hx, h.stopped⟩

theorem tileWake_traps {c : Nat} (hb : (s.tile f).inflight = some b) (ha : (s.tile f).asleep = true) (hw : s.wakes (s.tile f) = true)
    (hc : c ∈ (s.tile f).planeBad) (hn : c < 4096) (hl : ∀ d ∈ (s.tile f).planeBad, c ≤ d) (ht : (s.tile f).k.trapped = false) :
    ∃ t, exec (.tileWake f) s = .next t ∧ TrapStopped (s.tile f) (t.tile f) b.first b.next 0x0F (c / 64 + 256 * (c % 64)) 0 := by
  have hx := exec_tileWake hb ha hw
  rw [badPlane_awake, badPlane_least hc hn hl] at hx
  obtain ⟨-, -, h⟩ := takeTrap_boundary (s := s.setTile f ((s.tile f).awake b s.time)) (i := f) (c := 0x0F)
    (d := c / 64 + 256 * (c % 64)) (m := 0) (pc := b.first) (n := b.next) (inj := false) (by decide) rfl
  rw [tile_setTile] at h
  exact ⟨_, hx, h ht⟩
end

/-- Settles O47: a flag squashes, raises or stops by the count before it; sleep and waking change the tile and its zone's mark, and a bad
cell, a stop or a third flag ends in the stop that `atRest_stopWith` follows to the end. -/
theorem replaysAndSleepKeepTheTile : Obligations.ReplaysAndSleepKeepTheTile := by
  unfold Obligations.ReplaysAndSleepKeepTheTile
  intro s f b hb x once next
  refine ⟨fun hn hp hh hs ha hany ho => ?_,
    fun hh => ⟨fun e sb ha hslot hs hn ht hd => ?_, fun ha hw => ⟨fun hp => ⟨?_, ?_⟩, ?_⟩⟩⟩
  · have hf : s.flaggable f (s.tile f) b = true := flaggable_eq hn hp hh hs ha hany ho
    exact ⟨replay_first hb hf, replay_second hb hf, replay_third hb hf⟩
  · exact tileSleep_sleeps hb (sleepDue_eq hb (stillWaits_eq hb hh hslot hs hn) ha ht hd)
  · exact tileWake_wakes hb ha hw hp
  · exact tileWake_stops hb hh ha hw hp
  · exact fun c hc hn hl ht => tileWake_traps hb ha hw hc hn hl ht

end Sys2Proof.Machine
end

section
namespace Sys2Proof.Machine

/-! ## The words of a bundle (R55) -/

theorem bundleWords_stop {c : Cells Word} {a : BitVec 16} (n : Nat) (h : stopBit (Cells.get 0 c a.toNat) = true) :
    bundleWords c (n + 1) a = [Cells.get 0 c a.toNat] := if_pos h

theorem bundleWords_more {c : Cells Word} {a : BitVec 16} (n : Nat) (h : stopBit (Cells.get 0 c a.toNat) = false) :
    bundleWords c (n + 1) a = Cells.get 0 c a.toNat :: bundleWords c n (a + 1) := if_neg (ne_true_of_eq_false h)

theorem bundleWords_length_le (c : Cells Word) : ∀ (n : Nat) (a : BitVec 16), (bundleWords c n a).length ≤ n
  | 0, _ => Nat.le_refl 0
  | n + 1, a => by
    cases hs : stopBit (Cells.get 0 c a.toNat) with
    | true => rw [bundleWords_stop n hs]; exact Nat.succ_le_succ (Nat.zero_le n)
    | false => rw [bundleWords_more n hs]; exact Nat.succ_le_succ (bundleWords_length_le c n (a + 1))

theorem bundleWords_length_pos (c : Cells Word) (n : Nat) (a : BitVec 16) : 1 ≤ (bundleWords c (n + 1) a).length := by
  cases hs : stopBit (Cells.get 0 c a.toNat) with
  | true => rw [bundleWords_stop n hs]; exact Nat.le_refl 1
  | false => rw [bundleWords_more n hs]; exact Nat.succ_le_succ (Nat.zero_le _)

/-- The words of a bundle are those of the instruction store from its address on. -/
theorem bundleWords_get (c : Cells Word) : ∀ (n : Nat) (a : BitVec 16) (j : Nat) (w : Word), (bundleWords c n a)[j]? = some w →
    w = Cells.get 0 c (a + BitVec.ofNat 16 j).toNat
  | 0, _, _, _, h => by simp [bundleWords] at h
  | n + 1, a, j, w, h => by
    have hz : a = a + BitVec.ofNat 16 0 := (BitVec.add_zero a).symm
    cases hs : stopBit (Cells.get 0 c a.toNat) with
    | true =>
      rw [bundleWords_stop n hs] at h
      cases j with
      | zero => rw [← hz]; exact (Option.some.inj h).symm
      | succ j => exact absurd h (by simp)
    | false =>
      rw [bundleWords_more n hs] at h
      cases j with
      | zero => rw [← hz]; exact (Option.some.inj h).symm
      | succ j =>
        rw [bundleWords_get c n (a + 1) j w h, BitVec.add_assoc]
        congr 3
        rw [Nat.add_comm j 1, BitVec.ofNat_add]
        rfl

/-- Before the last word of a bundle no word has the stop bit. -/
theorem bundleWords_goesOn (c : Cells Word) : ∀ (n : Nat) (a : BitVec 16) (j : Nat) (w : Word), j + 1 < (bundleWords c n a).length →
    (bundleWords c n a)[j]? = some w → stopBit w = false
  | 0, _, _, _, h, _ => absurd h (Nat.not_lt_zero _)
  | n + 1, a, j, w, h, hw => by
    cases hs : stopBit (Cells.get 0 c a.toNat) with
    | true =>
      rw [bundleWords_stop n hs] at h
      exact absurd (Nat.lt_of_succ_lt_succ h) (Nat.not_lt_zero j)
    | false =>
      rw [bundleWords_more n hs] at h hw
      cases j with
      | zero => rw [← Option.some.inj hw]; exact hs
      | succ j => exact bundleWords_goesOn c n (a + 1) j w (Nat.lt_of_succ_lt_succ h) hw

/-- A bundle of fewer than its most words ends with the stop bit. -/
theorem bundleWords_ends (c : Cells Word) : ∀ (n : Nat) (a : BitVec 16) (w : Word), (bundleWords c n a).length < n →
    (bundleWords c n a).getLast? = some w → stopBit w = true
  | 0, _, _, h, _ => absurd h (Nat.not_lt_zero _)
  | n + 1, a, w, h, hw => by
    cases hs : stopBit (Cells.get 0 c a.toNat) with
    | true =>
      rw [bundleWords_stop n hs] at hw
      rw [← Option.some.inj hw]; exact hs
    | false =>
      rw [bundleWords_more n hs] at h hw
      have hn : (bundleWords c n (a + 1)).length < n := Nat.lt_of_succ_lt_succ h
      obtain ⟨m, rfl⟩ := Nat.exists_eq_succ_of_ne_zero (Nat.ne_zero_of_lt hn)
      obtain ⟨v, vs, hl⟩ := List.exists_cons_of_length_pos (bundleWords_length_pos c m (a + 1))
      rw [hl, List.getLast?_cons_cons, ← hl] at hw
      exact bundleWords_ends c (m + 1) (a + 1) w hn hw

/-! ## The slots that a check picks (R68) -/

theorem getLsbD_foldl_marks (j : Nat) (hj : j < 8) : ∀ (qs : List (Bool × Nat)) (m : Byte),
    ((qs.foldl (fun m q => if q.1 then m ||| BitVec.twoPow 8 q.2 else m) m).getLsbD j = true ↔
      m.getLsbD j = true ∨ (true, j) ∈ qs)
  | [], m => by simp
  | (c, i) :: qs, m => by
    rw [List.foldl_cons, getLsbD_foldl_marks j hj qs]
    cases c
    · simp
    · have : (BitVec.twoPow 8 i).getLsbD j = true ↔ i = j := by simp [hj, eq_comm]
      simp only [if_true, BitVec.getLsbD_or, Bool.or_eq_true, this, List.mem_cons, Prod.mk.injEq, true_and, or_assoc]
      exact or_congr_right (or_congr_left eq_comm)

/-- A bit of a slot mask. -/
theorem slotMask_getLsbD (start : Nat) (p : List Bool) {j : Nat} (hj : j < 8) :
    (slotMask start p).getLsbD j = true ↔ start ≤ j ∧ p[j - start]? = some true := by
  rw [slotMask, getLsbD_foldl_marks j hj, List.mk_mem_zipIdx_iff_le_and_getElem?_sub]
  simp

/-- A list of marks says of each word of a bundle, from a slot on, whether it has a property. -/
def Marks (ws : List Word) (start : Nat) (p : Nat → Except SlotError Instr → Prop) (m : List Bool) : Prop :=
  ∀ j, start ≤ j → (m[j - start]? = some true ↔ ∃ w, ws[j]? = some w ∧ p j (decodeSlot w))

theorem Marks.mask {ws : List Word} {start : Nat} {p : Nat → Except SlotError Instr → Prop} {m : List Bool} (h : Marks ws start p m)
    (j : Nat) (hj : j < 8) : (slotMask start m).getLsbD j = true ↔ start ≤ j ∧ ∃ w, ws[j]? = some w ∧ p j (decodeSlot w) := by
  rw [slotMask_getLsbD start m hj]
  exact and_congr_right fun hs => h j hs

/-- No word is marked where none has the property. -/
theorem Marks.any {ws : List Word} {start : Nat} {p : Nat → Except SlotError Instr → Prop} {m : List Bool} (h : Marks ws start p m) :
    m.any id = false ↔ ∀ j w, start ≤ j → ws[j]? = some w → ¬ p j (decodeSlot w) := by
  have hany : m.any id = false ↔ ∀ i : Nat, m[i]? ≠ some true := by
    rw [List.any_eq_false]
    constructor
    · intro hf i hi
      exact hf true (List.mem_of_getElem? hi) rfl
    · intro hf b hb
      obtain ⟨i, hi⟩ := List.mem_iff_getElem?.mp hb
      cases b
      · simp
      · exact absurd hi (hf i)
  rw [hany]
  constructor
  · intro hf j w hs hw hp
    exact hf _ ((h j hs).mpr ⟨w, hw, hp⟩)
  · intro hf i hi
    have hi' : m[start + i - start]? = some true := by rw [Nat.add_sub_cancel_left]; exact hi
    obtain ⟨w, hw, hp⟩ := (h _ (Nat.le_add_right start i)).mp hi'
    exact hf _ w (Nat.le_add_right start i) hw hp

/-- The marks of a test of the decoded slots. -/
theorem marks_map {ws : List Word} {start : Nat} (f : Except SlotError Instr → Bool) :
    Marks ws start (fun _ d => f d = true) (((ws.drop start).map decodeSlot).map f) := fun j hs => by
  rw [List.getElem?_map, List.getElem?_map, List.getElem?_drop, Nat.add_sub_of_le hs]
  cases ws[j]? <;> simp

/-- The marks of a test of the decoded slots and their places. -/
theorem marks_zipIdx {ws : List Word} {start : Nat} (f : Except SlotError Instr × Nat → Bool) :
    Marks ws start (fun j d => f (d, j) = true) ((((ws.drop start).map decodeSlot).zipIdx start).map f) := fun j hs => by
  rw [List.getElem?_map, List.getElem?_zipIdx, List.getElem?_map, List.getElem?_drop, Nat.add_sub_of_le hs]
  cases ws[j]? <;> simp

end Sys2Proof.Machine
end

section
namespace Sys2Proof.Machine

/-! ## The first checks at D (R68) -/

/-- A reserved OP. -/
def isReserved : Except SlotError Instr → Bool
  | .error .reservedOp => true
  | _ => false

/-- A field that its format does not allow, or an operand that the bundle does not (R68 check 3). -/
def isMisfit (k : BitVec 16) : Except SlotError Instr × Nat → Bool
  | (.error .badField, _) => true
  | (.ok i, j) => badOperand k j i
  | (.error .reservedOp, _) => false

/-- The marks of the second and third check. -/
def reservedMarks (ws : List Word) (start : Nat) : List Bool := ((ws.drop start).map decodeSlot).map isReserved
def misfitMarks (k : BitVec 16) (ws : List Word) (start : Nat) : List Bool := (((ws.drop start).map decodeSlot).zipIdx start).map (isMisfit k)

/-- The instructions of a bundle from a slot on. -/
def bundleInstrs (ws : List Word) (start : Nat) : List Instr :=
  ((ws.drop start).map decodeSlot).filterMap fun d => match d with | .ok i => some i | .error _ => none

theorem checkBundle_eq (k : BitVec 16) (ws : List Word) (start : Nat) : checkBundle k ws start =
    if ws.length = 8 && !(ws.any stopBit) then .error (0x01, 0x01, 0xFF)
    else if (reservedMarks ws start).any id then .error (0x02, 0x01, slotMask start (reservedMarks ws start))
    else if (misfitMarks k ws start).any id then .error (0x02, 0x02, slotMask start (misfitMarks k ws start))
    else match checkUses start ((bundleInstrs ws start).map (slotUse k)) with
      | some e => .error e
      | none => .ok (bundleInstrs ws start) := by
  have hr : (fun d : Except SlotError Instr => match d with | .error .reservedOp => true | _ => false) = isReserved := by
    funext d; unfold isReserved; rfl
  have hm : (fun d : Except SlotError Instr × Nat => match d.1 with
      | .error .badField => true
      | .ok i => badOperand k d.2 i
      | _ => false) = isMisfit k := by
    funext ⟨d, j⟩
    match d with
    | .error .badField => rfl
    | .error .reservedOp => rfl
    | .ok i => rfl
  unfold reservedMarks misfitMarks
  rw [← hr, ← hm]
  rfl

theorem isReserved_iff (d : Except SlotError Instr) : isReserved d = true ↔ d = .error .reservedOp := by
  match d with
  | .error .badField => simp [isReserved]
  | .error .reservedOp => simp [isReserved]
  | .ok i => simp [isReserved]

theorem isMisfit_iff (k : BitVec 16) (d : Except SlotError Instr) (j : Nat) :
    isMisfit k (d, j) = true ↔ d = .error .badField ∨ ∃ i, d = .ok i ∧ badOperand k j i = true := by
  match d with
  | .error .badField => simp [isMisfit]
  | .error .reservedOp => simp [isMisfit]
  | .ok i => simp [isMisfit]

theorem Marks.congr {ws : List Word} {start : Nat} {p q : Nat → Except SlotError Instr → Prop} {m : List Bool} (h : Marks ws start p m)
    (hpq : ∀ j d, p j d ↔ q j d) : Marks ws start q m := fun j hs =>
  (h j hs).trans (exists_congr fun w => and_congr_right fun _ => hpq j (decodeSlot w))

theorem marks_reserved (ws : List Word) (start : Nat) : Marks ws start (fun _ d => d = .error .reservedOp) (reservedMarks ws start) :=
  (marks_map isReserved).congr fun _ d => isReserved_iff d

theorem marks_misfit (k : BitVec 16) (ws : List Word) (start : Nat) :
    Marks ws start (fun j d => d = .error .badField ∨ ∃ i, d = .ok i ∧ badOperand k j i = true) (misfitMarks k ws start) :=
  (marks_zipIdx (isMisfit k)).congr fun j d => isMisfit_iff k d j

/-- A list of decoded slots without an error is that of its instructions. -/
theorem eq_map_ok : ∀ (ds : List (Except SlotError Instr)), (∀ d ∈ ds, ∃ i, d = .ok i) →
    ds = (ds.filterMap fun d => match d with | .ok i => some i | .error _ => none).map .ok
  | [], _ => rfl
  | d :: ds, h => by
    obtain ⟨i, rfl⟩ := h d List.mem_cons_self
    have ih := eq_map_ok ds fun e he => h e (List.mem_cons_of_mem _ he)
    exact congrArg (.ok i :: ·) ih

section
variable {k : BitVec 16} {ws : List Word} {start : Nat}

/-- A bundle that passes the checks decodes, slot by slot. -/
theorem checkBundle_ok {is : List Instr} (h : checkBundle k ws start = .ok is) : (ws.drop start).map decodeSlot = is.map .ok := by
  rw [checkBundle_eq] at h
  split at h
  · exact absurd h (by simp)
  · split at h
    · exact absurd h (by simp)
    · rename_i hr
      split at h
      · exact absurd h (by simp)
      · rename_i hm
        have hi : bundleInstrs ws start = is := by
          split at h
          · exact absurd h (by simp)
          · exact Except.ok.inj h
        rw [← hi]
        refine eq_map_ok _ fun d hd => ?_
        obtain ⟨w, hw, rfl⟩ := List.mem_map.mp hd
        obtain ⟨i, hi⟩ := List.mem_iff_getElem?.mp hw
        rw [List.getElem?_drop] at hi
        have hr' := (marks_reserved ws start).any.mp (by simpa using hr) _ w (Nat.le_add_right start i) hi
        have hm' := (marks_misfit k ws start).any.mp (by simpa using hm) _ w (Nat.le_add_right start i) hi
        match hd : decodeSlot w with
        | .ok j => exact ⟨j, rfl⟩
        | .error .reservedOp => exact absurd hd hr'
        | .error .badField => exact absurd (.inl hd) hm'

/-- Whether a bundle ends: it has the stop bit, or fewer than eight words. -/
theorem ends_iff (hl : ws.length ≤ 8) :
    (decide (ws.length = 8) && !(ws.any stopBit)) = false ↔ ws.length < 8 ∨ ∃ w ∈ ws, stopBit w = true := by
  simp only [Bool.and_eq_false_iff, decide_eq_false_iff_not, Bool.not_eq_false', List.any_eq_true]
  exact or_congr_left ⟨fun h => Nat.lt_of_le_of_ne hl h, Nat.ne_of_lt⟩

theorem checkBundle_endless (h : (decide (ws.length = 8) && !(ws.any stopBit)) = true) : checkBundle k ws start = .error (0x01, 0x01, 0xFF) := by
  rw [checkBundle_eq, if_pos h]

theorem checkBundle_reserved (h : (decide (ws.length = 8) && !(ws.any stopBit)) = false) (hr : (reservedMarks ws start).any id = true) :
    checkBundle k ws start = .error (0x02, 0x01, slotMask start (reservedMarks ws start)) := by
  rw [checkBundle_eq, h, if_neg Bool.false_ne_true, if_pos hr]

theorem checkBundle_misfit (h : (decide (ws.length = 8) && !(ws.any stopBit)) = false) (hr : (reservedMarks ws start).any id = false)
    (hm : (misfitMarks k ws start).any id = true) :
    checkBundle k ws start = .error (0x02, 0x02, slotMask start (misfitMarks k ws start)) := by
  rw [checkBundle_eq, h, if_neg Bool.false_ne_true, hr, if_neg Bool.false_ne_true, if_pos hm]
end

/-! ## What goes on beside the bundles (R35, R41) -/

theorem satAdd32_zero (w : Word) : satAdd32 w 0 = w := by
  have hw : w.toNat ≤ 0xFFFFFFFF := Nat.le_of_lt_succ w.isLt
  have hm : (w.toNat + 0).min 0xFFFFFFFF = w.toNat := Nat.min_eq_left hw
  rw [satAdd32, hm, BitVec.ofNat_toNat, BitVec.setWidth_eq]

theorem tally_eq (x : Tile) (c : Nat) : ∃ p q r, x.tally c = { x with sb := p, k := { x.k with bconf := q, aconf := r } } := ⟨_, _, _, rfl⟩

theorem meet_eq (x : Tile) (f : TileId) (c m n : Nat) :
    ∃ p q r, x.meet f c m n = { x with sb := p, meets := q, k := { x.k with bconf := r } } := by
  unfold Tile.meet
  split
  · exact ⟨x.sb, x.meets, _, rfl⟩
  · exact ⟨_, _, _, rfl⟩

/-- Pending work moves the scoreboard's accounts and the two counters of conflicts. -/
theorem beside_eq (x : Tile) (f : TileId) (c : Nat) :
    ∃ p q r v, x.beside f c = { x with sb := p, meets := q, k := { x.k with bconf := r, aconf := v } } := by
  obtain ⟨p, q, r, ht⟩ := tally_eq x c
  obtain ⟨p', q', r', hm⟩ := meet_eq (x.tally c) f c 0 ((x.rivals c).sum - (x.rivals c).foldl Nat.max 0)
  exact ⟨p', q', r', r, hm.trans (by rw [ht])⟩

theorem delayed_num (t : Tile) (i : TileId) (c n : Nat) (e : SbEntry) : (SbEntry.delayed t i c n e).num = e.num := by
  unfold SbEntry.delayed; split <;> rfl

theorem beside_nums (x : Tile) (f : TileId) (c : Nat) : (x.beside f c).sb.map SbEntry.num = x.sb.map SbEntry.num := by
  have ht : (x.tally c).sb.map SbEntry.num = x.sb.map SbEntry.num := by
    simp [Tile.tally, List.map_map, Function.comp_def]
  unfold Tile.beside Tile.meet
  dsimp only
  split
  · exact ht
  · rw [← ht]
    simp [List.map_map, Function.comp_def, delayed_num]

/-- Without pending work of the Loom its counter stands. -/
theorem beside_aconf {x : Tile} (f : TileId) (c : Nat) (h : ∀ e ∈ x.sb, e.isMatrix = false) : (x.beside f c).k.aconf = x.k.aconf := by
  have hf : x.sb.filter SbEntry.isMatrix = [] := List.filter_eq_nil_iff.mpr fun e he => by simp [h e he]
  have ht : (x.tally c).k.aconf = x.k.aconf := by
    simp only [Tile.tally, Tile.addAconf, Tile.addBconf, hf, List.map_nil, List.sum_nil, satAdd32_zero]
  unfold Tile.beside Tile.meet
  dsimp only
  split
  · exact ht
  · exact ht

/-- With nothing pending and no copy started no access meets another. -/
theorem beside_bconf {x : Tile} (f : TileId) (c : Nat) (h : x.sb = []) (hq : ∀ q ∈ x.copyq, q.stage ≠ .started) :
    (x.beside f c).k.bconf = x.k.bconf := by
  have hf : x.copyq.filter (fun q => q.stage == .started && q.stream.isNone) = [] :=
    List.filter_eq_nil_iff.mpr fun q hm => by simp [hq q hm]
  have hr : x.rivals c = [] := by simp [Tile.rivals, hf, h]
  simp [Tile.beside, hr, Tile.meet, Tile.tally, Tile.addBconf, Tile.addAconf, h, satAdd32_zero]

end Sys2Proof.Machine
end

section
namespace Sys2Proof.Machine

/-! ## Issue (R53, R68) -/

section
variable {s : State} {f : TileId} {stall : Nat}

/-- A tile that nothing keeps from issuing, told neither to stop nor to be cut. -/
theorem mayIssue_eq (ha : (s.tile f).act = .point ∨ (s.tile f).act = .prologue) (hb : (s.tile f).inflight = none)
    (hs : (s.tile f).asleep = false) (hg : (s.tile f).stopReq = false) (hc : (s.tile f).cutReq = none)
    (hd : (s.deadlineDue (s.tile f) && (s.tile f).deadlineHere) = false) (hw : (s.tile f).cox.over = false)
    (hv : s.regs.viral = false) (hcut : s.cutDue (s.tile f).pt.handle = false)
    (ho : s.owed f ((s.tile f).passAt stall) = false) : s.mayIssue f (s.tile f) ((s.tile f).passAt stall) = true := by
  have hact : ((s.tile f).act == .point || (s.tile f).act == .prologue) = true := by rcases ha with h | h <;> simp [h]
  simp only [State.mayIssue, hact, hb, hs, hg, hd, hw, hv, hcut, ho, Tile.cutStops, Tile.cutOver, hc, Option.isNone_none, Option.isSome_none,
    Bool.not_false, Bool.and_self, Bool.false_and]

theorem exec_bundleIssue_ok {is : List Instr} (hm : s.mayIssue f (s.tile f) ((s.tile f).passAt stall) = true)
    (hc : (s.die f.die).crit = false) (hb : s.barred f = false)
    (hk : checkBundle (s.tile f).k.vcfg (s.tile f).nextWords (s.tile f).resume = .ok is) (hh : heldAtD (s.tile f) is = false) :
    exec (.bundleIssue f stall) s = .next (s.setTile f
      { ((s.tile f).beside f ((s.tile f).passAt stall)).issued is ((s.tile f).passAt stall) with movedAt := s.time }) := by
  show execBundleIssue f stall s = _
  simp only [execBundleIssue, hm, hc, hb, hk, hh, Bool.not_false, Bool.and_self, if_true, Bool.false_eq_true, if_false]

theorem exec_bundleIssue_error {c e : Nat} {m : Byte} (hm : s.mayIssue f (s.tile f) ((s.tile f).passAt stall) = true)
    (hc : (s.die f.die).crit = false) (hb : s.barred f = false)
    (hk : checkBundle (s.tile f).k.vcfg (s.tile f).nextWords (s.tile f).resume = .error (c, e, m)) :
    exec (.bundleIssue f stall) s =
      .next (((s.setTile f ((s.tile f).atCycle (Nat.max ((s.tile f).passAt stall) (s.tile f).pipe.lastC))).takeTrap f c e m
        (s.tile f).pc 0).boundary f) := by
  show execBundleIssue f stall s = _
  simp only [execBundleIssue, hm, hc, hb, hk, Bool.not_false, Bool.and_self, if_true]

/-- A bundle that passes the checks and is not held at D is in flight from the slot it resumes at. -/
theorem issue_passes {is : List Instr} (hi : (s.tile f).inflight = none)
    (hm : s.mayIssue f (s.tile f) ((s.tile f).passAt stall) = true) (hc : (s.die f.die).crit = false)
    (hb : s.barred f = false) (hk : checkBundle (s.tile f).k.vcfg (s.tile f).nextWords (s.tile f).resume = .ok is)
    (hh : heldAtD (s.tile f) is = false) :
    let x := s.tile f
    ∃ (y : Tile) (b : Inflight), exec (.bundleIssue f stall) s = .next (s.setTile f y) ∧
      y.inflight = some b ∧ b.dCycle = x.passAt stall ∧ b.snap.cycle = BitVec.ofNat 64 b.dCycle ∧
      b.snap.hw = x.halfWidthAt b.dCycle ∧ b.first = x.pc ∧ b.words = x.nextWords ∧ b.start = x.resume ∧ b.next = x.resume ∧
      b.hold = none ∧ b.passed = false ∧ b.atomSent = false ∧ b.atomBack = none ∧ b.flags = 0 ∧ b.extra = 0 ∧ y.resume = 0 ∧
      y.sb.map SbEntry.num = x.sb.map SbEntry.num ∧
      ((∀ e ∈ x.sb, e.isMatrix = false) → y.k.aconf = x.k.aconf) ∧
      (x.sb = [] → (∀ q ∈ x.copyq, q.stage ≠ .started) → y.k.bconf = x.k.bconf) ∧
      { y with inflight := none, resume := x.resume, bundleNo := x.bundleNo, sameNo := x.sameNo, cutHere := x.cutHere,
               movedAt := x.movedAt, meets := x.meets, pipe := x.pipe, sb := x.sb,
               k := { y.k with hw := x.k.hw, aconf := x.k.aconf, bconf := x.k.bconf } } = x := by
  have hx := exec_bundleIssue_ok (stall := stall) hm hc hb hk hh
  intro x
  have hnone : ({ x with inflight := none } : Tile) = x := by rw [← hi]
  have hn := beside_nums x f (x.passAt stall)
  have ha := beside_aconf (x := x) f (x.passAt stall)
  have hbc := beside_bconf (x := x) f (x.passAt stall)
  obtain ⟨p, q, r, v, he⟩ := beside_eq x f (x.passAt stall)
  rw [show s.tile f = x from rfl] at hx
  generalize x.passAt stall = d at *
  rw [he] at hx hn ha hbc
  exact ⟨_, _, hx, rfl, rfl, rfl, rfl, rfl, rfl, rfl, rfl, rfl, rfl, rfl, rfl, rfl, rfl, rfl, hn, ha, hbc, hnone⟩

/-- A bundle that fails the checks outside a handler stops the tile before any of it runs. -/
theorem issue_traps {c d : Nat} {m : Byte} (hm : s.mayIssue f (s.tile f) ((s.tile f).passAt stall) = true) (hc : (s.die f.die).crit = false)
    (hb : s.barred f = false) (hk : checkBundle (s.tile f).k.vcfg (s.tile f).nextWords (s.tile f).resume = .error (c, d, m))
    (ha : c ≠ 0x0A) (hr : routeH c = false) (ht : (s.tile f).k.trapped = false) :
    ∃ t, exec (.bundleIssue f stall) s = .next t ∧ TrapStopped (s.tile f) (t.tile f) (s.tile f).pc 0 c d m := by
  have hx := exec_bundleIssue_error (stall := stall) hm hc hb hk
  obtain ⟨-, -, h⟩ := takeTrap_boundary (s := s.setTile f ((s.tile f).atCycle (Nat.max ((s.tile f).passAt stall) (s.tile f).pipe.lastC)))
    (i := f) (c := c) (d := d) (m := m) (pc := (s.tile f).pc) (n := 0) (inj := false) ha hr
  rw [tile_setTile] at h
  exact ⟨_, hx, h ht⟩
end

/-- Settles O46: the words are those of the store up to the stop bit; the checks pick the first of their marks that any slot has, and a
trap of cause 1 or 2 goes to no handler. -/
theorem bundlesPassTheChecksAtD : Obligations.BundlesPassTheChecksAtD := by
  unfold Obligations.BundlesPassTheChecksAtD
  intro s f stall x ws from' bad reserved misfit none' stops traps
  have hlen : ws.length ≤ 8 := bundleWords_length_le _ 8 _
  refine ⟨⟨fun j h => bundleWords_get _ 8 _ j _ (List.getElem?_eq_getElem h), bundleWords_length_pos _ 7 _, hlen,
    fun j h => bundleWords_goesOn _ 8 _ j _ h (List.getElem?_eq_getElem (Nat.lt_of_succ_lt h)), fun w => bundleWords_ends _ 8 _ w⟩, ?_⟩
  intro ha hb hs hg hc hd hw hv hcrit hbar hcut ho
  have hm : s.mayIssue f x (x.passAt stall) = true := mayIssue_eq ha hb hs hg hc hd hw hv hcut ho
  refine ⟨fun is hk hh => ?_, fun ht => ?_⟩
  · have hdec : from'.map decodeSlot = is.map .ok := checkBundle_ok hk
    refine ⟨by simpa using (congrArg List.length hdec).symm, fun j i hi => ?_, ?_⟩
    · have hj : (from'.map decodeSlot)[j]? = some (.ok i) := by rw [hdec, List.getElem?_map, hi]; rfl
      rwa [List.getElem?_map, Option.map_eq_some_iff] at hj
    · exact issue_passes hb hm hcrit hbar hk hh
  · have hends := ends_iff (ws := ws) hlen
    have hr := marks_reserved ws x.resume
    have hf := marks_misfit x.k.vcfg ws x.resume
    refine ⟨fun hn => ?_, fun he hn => ?_, fun he hn hn' => ?_⟩
    · have hk := checkBundle_endless (k := x.k.vcfg) (start := x.resume) (Bool.eq_true_of_not_eq_false fun h => hn (hends.mp h))
      obtain ⟨t, hx, h⟩ := issue_traps hm hcrit hbar hk (by decide) rfl ht
      exact ⟨t, 0xFF, hx, h, rfl⟩
    · have hk := checkBundle_reserved (k := x.k.vcfg) (hends.mpr he) (Bool.eq_true_of_not_eq_false fun h => hn (hr.any.mp h))
      obtain ⟨t, hx, h⟩ := issue_traps hm hcrit hbar hk (by decide) rfl ht
      exact ⟨t, _, hx, h, hr.mask⟩
    · have hk := checkBundle_misfit (k := x.k.vcfg) (hends.mpr he) (hr.any.mpr hn) (Bool.eq_true_of_not_eq_false fun h => hn' (hf.any.mp h))
      obtain ⟨t, hx, h⟩ := issue_traps hm hcrit hbar hk (by decide) rfl ht
      exact ⟨t, _, hx, h, hf.mask⟩

end Sys2Proof.Machine
end

section
namespace Sys2Proof.Machine

/-! ## Launches and their parts -/

/-- A change of launches that keeps their handles is found by them. -/
theorem launch?_map (s : State) {g : Launch → Launch} (hg : ∀ l, (g l).handle = l.handle) (h : BitVec 16) :
    ({ s with launches := s.launches.map g } : State).launch? h = (s.launch? h).map g := by
  have hp : (fun l : Launch => l.handle == h) ∘ g = fun l => l.handle == h := by funext l; simp [hg]
  simp only [State.launch?, List.find?_map, hp]

/-- A change of parts that keeps their dies is found by them. -/
theorem part?_map (l : Launch) {g : DieLaunch → DieLaunch} (hg : ∀ p, (g p).die = p.die) (d : Fin 8) :
    ({ l with parts := l.parts.map g } : Launch).part? d = (l.part? d).map g := by
  have hp : (fun p : DieLaunch => p.die == d) ∘ g = fun p => p.die == d := by funext p; simp [hg]
  simp only [Launch.part?, List.find?_map, hp]

theorem handle_of_launch? {s : State} {h : BitVec 16} {l : Launch} (hl : s.launch? h = some l) : l.handle = h := by
  simpa using List.find?_some hl

theorem die_of_part? {l : Launch} {d : Fin 8} {p : DieLaunch} (hp : l.part? d = some p) : p.die = d := by
  simpa using List.find?_some hp

/-- A launch's part on a die, where the state knows it. -/
def State.PartIn (s : State) (h : BitVec 16) (d : Fin 8) (q : DieLaunch) : Prop := ∃ l, s.launch? h = some l ∧ l.part? d = some q

section
variable {s : State} {h : BitVec 16} {d : Fin 8} {p : DieLaunch}

theorem partIn_mapPart {g : DieLaunch → DieLaunch} (hg : ∀ p, (g p).die = p.die) (hp : s.PartIn h d p) :
    (s.mapPart h d g).PartIn h d (g p) := by
  obtain ⟨l, hl, hp⟩ := hp
  have hm := launch?_map s (g := fun l => if l.handle == h then
    { l with parts := l.parts.map fun p => if p.die == d then g p else p } else l) (fun l => by split <;> rfl) h
  have hh : (l.handle == h) = true := by simpa using handle_of_launch? hl
  rw [hl, Option.map_some, if_pos hh] at hm
  refine ⟨_, hm, ?_⟩
  rw [part?_map l (g := fun p => if p.die == d then g p else p) (fun p => by split <;> simp [hg]) d, hp, Option.map_some, die_of_part? hp,
    beq_self_eq_true, if_pos rfl]

/-- A frontier's change that chained launches see moves what they see of it. -/
theorem partIn_chainSees (h' : BitVec 16) (src k : Fin 8) (f : Frontier) (hp : s.PartIn h d p) :
    ∃ c, (s.chainSees h' src k f).PartIn h d { p with chain := c } := by
  obtain ⟨l, hl, hp⟩ := hp
  have hm := launch?_map s (g := fun l => if l.chained && l.chainH == h' then
    { l with parts := l.parts.map fun p =>
        if p.die == k then { p with chain := (src.val, f) :: p.chain.filter fun m => m.1 != src.val } else p } else l)
    (fun l => by split <;> rfl) h
  rw [hl, Option.map_some] at hm
  split at hm
  · have hq := part?_map l (g := fun p => if p.die == k then { p with chain := (src.val, f) :: p.chain.filter fun m => m.1 != src.val } else p)
      (fun p => by split <;> rfl) d
    rw [hp, Option.map_some] at hq
    split at hq
    · exact ⟨_, _, hm, hq⟩
    · exact ⟨_, _, hm, hq⟩
  · exact ⟨p.chain, l, hm, hp⟩
end

theorem die_setDie_ne (s : State) {d k : Fin 8} (x : Die) (h : k ≠ d) : (s.setDie d x).die k = s.die k :=
  Vector.getElem_set_ne d.isLt k.isLt fun e => h (Fin.ext e.symm)

/-! ## Waits brought up to date (R296) -/

/-- Between two states waits and priorities of parts have moved, and reservations have ended. -/
structure Refreshed (s t : State) : Prop where
  frame : { t with launches := s.launches, dies := s.dies } = s
  dies : ∀ k, { t.die k with reserve := (s.die k).reserve } = s.die k
  handles : t.launches.map Launch.handle = s.launches.map Launch.handle
  parts : ∀ h d p, s.PartIn h d p → ∃ w n, t.PartIn h d { p with waiting := w, boost := n }

theorem Refreshed.refl (s : State) : Refreshed s s := ⟨rfl, fun _ => rfl, rfl, fun _ _ p hp => ⟨p.waiting, p.boost, hp⟩⟩

theorem Refreshed.trans {s t u : State} (a : Refreshed s t) (b : Refreshed t u) : Refreshed s u where
  frame := by
    have := b.frame
    rw [← a.frame, ← this]
  dies k := by
    have := b.dies k
    rw [← a.dies k, ← this]
  handles := b.handles.trans a.handles
  parts h d p hp := by
    obtain ⟨w, n, hq⟩ := a.parts h d p hp
    obtain ⟨w', n', hr⟩ := b.parts h d _ hq
    exact ⟨w', n', hr⟩

theorem refreshed_checkReserve (s : State) (d : Fin 8) : Refreshed s (s.checkReserve d) where
  frame := rfl
  dies k := by
    by_cases hk : k = d
    · subst hk; simp only [State.checkReserve, die_setDie]
    · simp only [State.checkReserve, die_setDie_ne _ _ hk]
  handles := rfl
  parts h e p hp := ⟨p.waiting, p.boost, hp⟩

theorem refreshed_refreshWaits (s : State) (d : Fin 8) : Refreshed s (s.refreshWaits d) := by
  refine .trans (t := { s with launches := s.launches.map fun l => { l with parts := l.parts.map fun p => if p.die == d then
    (if s.hasWork l p then { p with waiting := some (p.waiting.getD s.time) } else { p with waiting := none, boost := 0 }) else p } })
    ⟨rfl, fun _ => rfl, by simp [List.map_map, Function.comp_def], ?_⟩ (refreshed_checkReserve _ d)
  rintro h e p ⟨l, hl, hp⟩
  have hm := launch?_map s (g := fun l => { l with parts := l.parts.map fun p => if p.die == d then
    (if s.hasWork l p then { p with waiting := some (p.waiting.getD s.time) } else { p with waiting := none, boost := 0 }) else p })
    (fun l => rfl) h
  rw [hl, Option.map_some] at hm
  have hq := part?_map l (g := fun p => if p.die == d then
    (if s.hasWork l p then { p with waiting := some (p.waiting.getD s.time) } else { p with waiting := none, boost := 0 }) else p)
    (fun p => by split; (split <;> rfl); rfl) e
  rw [hp, Option.map_some] at hq
  split at hq
  · split at hq
    · exact ⟨_, _, _, hm, hq⟩
    · exact ⟨_, _, _, hm, hq⟩
  · exact ⟨_, _, _, hm, hq⟩

theorem refreshed_refreshAll (s : State) : Refreshed s s.refreshAll := by
  have h : ∀ (ds : List (Fin 8)) (s : State), Refreshed s (ds.foldl State.refreshWaits s) := fun ds => by
    induction ds with
    | nil => exact .refl
    | cons d ds ih => exact fun s => (refreshed_refreshWaits s d).trans (ih _)
  exact h _ s

end Sys2Proof.Machine
end

section
namespace Sys2Proof.Machine

/-! ## The tiles of a rectangle (R42) -/

theorem shapeDims_cases (c : Nat) :
    shapeDims c = (1, 1) ∨ shapeDims c = (2, 1) ∨ shapeDims c = (2, 2) ∨ shapeDims c = (4, 2) ∨ shapeDims c = (4, 4) := by
  unfold shapeDims
  split <;> simp

/-- The place of a member in its rectangle. -/
theorem rectSites_eq (c corner : Nat) : rectSites c corner =
    (List.range ((shapeDims c).1 * (shapeDims c).2)).map fun r => corner + r % (shapeDims c).1 + 10 * (r / (shapeDims c).1) := rfl

theorem mem_legalCorners {c corner : Nat} : corner ∈ legalCorners c ↔
    corner < 80 ∧ corner % 10 + (shapeDims c).1 ≤ 10 ∧ corner / 10 + (shapeDims c).2 ≤ 8 := by
  have h : legalCorners c = (List.range 80).filter fun n =>
      decide (n % 10 + (shapeDims c).1 ≤ 10) && decide (n / 10 + (shapeDims c).2 ≤ 8) := rfl
  simp [h]

theorem lt_of_mem_rectSites {c corner n : Nat} (h : corner ∈ legalCorners c) (hn : n ∈ rectSites c corner) : n < 80 := by
  rw [mem_legalCorners] at h
  rw [rectSites_eq, List.mem_map] at hn
  obtain ⟨r, hr, rfl⟩ := hn
  rw [List.mem_range] at hr
  rcases shapeDims_cases c with e | e | e | e | e <;> rw [e] at h hr ⊢ <;> simp only at h hr ⊢ <;> omega

theorem nodup_rectSites (c corner : Nat) : (rectSites c corner).Nodup := by
  rw [rectSites_eq]
  refine List.nodup_range.map_on fun a ha b hb hab => ?_
  rw [List.mem_range] at ha hb
  rcases shapeDims_cases c with e | e | e | e | e <;> rw [e] at ha hb hab <;> simp only at ha hb hab <;> omega

/-- The members of a legal rectangle are distinct tiles. -/
theorem nodup_rectTiles (d : Fin 8) {c corner : Nat} (h : corner ∈ legalCorners c) : (rectTiles d c corner).Nodup := by
  refine (nodup_rectSites c corner).map_on fun a ha b hb hab => ?_
  have hs : (siteOf a).val = (siteOf b).val := congrArg (fun i : TileId => i.site.val) hab
  have h1 := lt_of_mem_rectSites h ha
  have h2 := lt_of_mem_rectSites h hb
  simpa [siteOf, Nat.mod_eq_of_lt h1, Nat.mod_eq_of_lt h2] using hs

/-! ## Members changed together -/

/-- The tiles of a list changed in turn, each by its place. -/
def State.setAll (s : State) (f : Nat → Tile → Tile) (xs : List (TileId × Nat)) : State :=
  xs.foldl (fun s x => s.setTile x.1 (f x.2 (s.tile x.1))) s

theorem setAll_frame (f : Nat → Tile → Tile) : ∀ (xs : List (TileId × Nat)) (s : State), { s.setAll f xs with tiles := s.tiles } = s
  | [], _ => rfl
  | x :: xs, s => congrArg (fun u : State => { u with tiles := s.tiles }) (setAll_frame f xs (s.setTile x.1 (f x.2 (s.tile x.1))))

theorem setAll_tile_ne (f : Nat → Tile → Tile) {j : TileId} : ∀ (xs : List (TileId × Nat)) (s : State), j ∉ xs.map Prod.fst →
    (s.setAll f xs).tile j = s.tile j
  | [], _, _ => rfl
  | x :: xs, s, h => by
    rw [List.map_cons, List.mem_cons, not_or] at h
    exact (setAll_tile_ne f xs _ h.2).trans (tile_setTile_ne s _ h.1)

theorem setAll_tile (f : Nat → Tile → Tile) {i : TileId} {k : Nat} : ∀ (xs : List (TileId × Nat)) (s : State), (xs.map Prod.fst).Nodup →
    (i, k) ∈ xs → (s.setAll f xs).tile i = f k (s.tile i)
  | [], _, _, h => absurd h List.not_mem_nil
  | x :: xs, s, hd, h => by
    rw [List.map_cons, List.nodup_cons] at hd
    rcases List.mem_cons.mp h with rfl | h
    · exact (setAll_tile_ne f xs _ hd.1).trans (tile_setTile ..)
    · have hx : i ≠ x.1 := fun e => hd.1 (e ▸ List.mem_map_of_mem (f := Prod.fst) h)
      exact (setAll_tile f xs _ hd.2 h).trans (by rw [tile_setTile_ne s _ hx])

section
variable {s : State} {d : Fin 8} {c corner : Nat} {f : Nat → Tile → Tile}

theorem mapCrew_frame : { s.mapCrew d c corner f with tiles := s.tiles } = s := setAll_frame f _ s

theorem mapCrew_tile_ne {j : TileId} (h : j ∉ rectTiles d c corner) : (s.mapCrew d c corner f).tile j = s.tile j :=
  setAll_tile_ne f _ s (by rwa [List.zipIdx_map_fst])

theorem mapCrew_tile {k : Nat} {i : TileId} (hc : corner ∈ legalCorners c) (h : (rectTiles d c corner)[k]? = some i) :
    (s.mapCrew d c corner f).tile i = f k (s.tile i) := by
  refine setAll_tile f _ s (by rw [List.zipIdx_map_fst]; exact nodup_rectTiles d hc) ?_
  rw [List.mk_mem_zipIdx_iff_getElem?]
  exact h

/-- A member of a crew has a rank. -/
theorem rank_of_mem {i : TileId} (h : i ∈ rectTiles d c corner) : ∃ k : Nat, (rectTiles d c corner)[k]? = some i :=
  List.mem_iff_getElem?.mp h
end

end Sys2Proof.Machine
end

section
namespace Sys2Proof.Machine

/-! ## Rows, mirrors, ages and reservations (R282, R288, R296, R297) -/

/-- Between two states waits, priorities and parts of launches have moved, and reservations of dies. -/
def State.Within (s t : State) : Prop :=
  { t with launches := s.launches, dies := s.dies } = s ∧ ∀ k, { t.die k with reserve := (s.die k).reserve } = s.die k

/-- Launches changed and then refreshed. -/
theorem within_refreshed {s u t : State} (h : Refreshed u t) (hu : { u with launches := s.launches } = s) : s.Within t := by
  obtain ⟨hf, hd, -, -⟩ := h
  have hdies : u.dies = s.dies := by have := congrArg State.dies hu; exact this
  refine ⟨?_, fun k => ?_⟩
  · have := congrArg (fun v : State => { v with launches := s.launches, dies := s.dies }) hf
    exact this.trans (by rw [← hdies]; exact hu)
  · have hk : s.die k = u.die k := by rw [State.die, State.die, hdies]
    rw [hk]; exact hd k

section
variable {s : State} {d : Fin 8} {l : Launch} {p : DieLaunch}

theorem partIn_of (hl : s.launch? l.handle = some l) (hp : l.part? d = some p) : s.PartIn l.handle d p := ⟨l, hl, hp⟩

theorem rowOpen_opens (hl : s.launch? l.handle = some l) (hp : l.part? d = some p) (hr : l.phase = .resident) (ht : p.fr.t < p.rowHi)
    (hb : p.fr.t - p.fr.b < 1024) (hn : ∃ n, n ≤ 64 ∧ n < innerExt l.record ∧ s.pointReady l p p.fr.t n = true) :
    ∃ t q, exec (.rowOpen d l.handle) s = .next t ∧ s.Within t ∧ t.PartIn l.handle d q ∧ q.runs = p.runs ∧
      q.fr = ⟨p.fr.b, p.fr.t + 1, p.fr.rows ++ [⟨0, false, 0⟩]⟩ := by
  have hany : ((List.range 65).any fun n => decide (n < innerExt l.record) && s.pointReady l p p.fr.t n) = true := by
    obtain ⟨n, h64, he, hready⟩ := hn
    exact List.any_eq_true.mpr ⟨n, List.mem_range.mpr (Nat.lt_succ_of_le h64), by simp [he, hready]⟩
  have hf : l.fires s.time = true := by simp [Launch.fires, hr]
  have hx : exec (.rowOpen d l.handle) s =
      .next ((s.mapPart l.handle d fun p => { p with fr := p.fr.openRow }).refreshWaits d) := by
    show execRowOpen d l.handle s = _
    simp only [execRowOpen, hl, hp, hf, ht, hb, hany, decide_true, Bool.and_self, if_true]
  have hu := partIn_mapPart (g := fun p => { p with fr := p.fr.openRow }) (fun _ => rfl) (partIn_of hl hp)
  have hw := refreshed_refreshWaits (s.mapPart l.handle d fun p => { p with fr := p.fr.openRow }) d
  obtain ⟨w, n, hq⟩ := hw.parts _ _ _ hu
  exact ⟨_, _, hx, within_refreshed hw rfl, hq, rfl, rfl⟩

theorem priorityAge_ages (hl : s.launch? l.handle = some l) (hp : l.part? d = some p) (ha : l.f 4 1 + p.boost < s.effPrio l p) :
    ∃ t q, exec (.priorityAge d l.handle) s = .next t ∧ { t with launches := s.launches } = s ∧ t.PartIn l.handle d q ∧
      q = { p with boost := p.boost + 1 } := by
  have hx : exec (.priorityAge d l.handle) s = .next (s.mapPart l.handle d fun p => { p with boost := p.boost + 1 }) := by
    show execPriorityAge d l.handle s = _
    simp only [execPriorityAge, hl, hp, ha, if_true]
  exact ⟨_, _, hx, rfl, partIn_mapPart (g := fun p => { p with boost := p.boost + 1 }) (fun _ => rfl) (partIn_of hl hp), rfl⟩

/-- A resident launch that a handle finds is the one whose parts the handle names. -/
theorem partsOf_eq (hl : s.launch? l.handle = some l) (hr : l.isResident = true) : s.partsOf l.handle = l.parts := by
  have hfind : (s.launches.find? fun x => x.isResident && x.handle == l.handle) = some l := by
    rw [State.launch?, List.find?_eq_some_iff_append] at hl
    obtain ⟨hh, as, bs, he, hn⟩ := hl
    refine List.find?_eq_some_iff_append.mpr ⟨by simp [hr], as, bs, he, fun x hx => ?_⟩
    have : (x.handle == l.handle) = false := by simpa using hn x hx
    simp [this]
  simp only [State.partsOf, hfind]

theorem mirrorUpdate_updates {src : Fin 8} {p' : DieLaunch} (hl : s.launch? l.handle = some l) (hp : l.part? d = some p) (hs : src ≠ d)
    (hr : l.isResident = true) (hf : l.parts.find? (fun x => x.die == src) = some p') (hb : s.routeBlocked src d = false) :
    ∃ t q, exec (.mirrorUpdate d l.handle src) s = .next t ∧ s.Within t ∧ t.PartIn l.handle d q ∧
      q.sees src = some p'.fr ∧ q.fr = p.fr := by
  have hx : exec (.mirrorUpdate d l.handle src) s =
      .next (((s.mirrorSees l.handle src d p'.fr).chainSees l.handle src d p'.fr).refreshWaits d) := by
    show execMirrorUpdate d l.handle src s = _
    simp only [execMirrorUpdate, partsOf_eq hl hr, hf, hb, Bool.false_eq_true, if_false]
  have hd := die_of_part? hp
  have hpd : (p.die == src) = false := by simpa [hd] using Ne.symm hs
  have hu := partIn_mapPart (g := fun p : DieLaunch =>
    if p.die == src then p else { p with mirrors := (src.val, p'.fr) :: p.mirrors.filter fun m => m.1 != src.val })
    (fun _ => by split <;> rfl) (partIn_of hl hp)
  rw [hpd, if_neg Bool.false_ne_true] at hu
  obtain ⟨c, hc⟩ := partIn_chainSees l.handle src d p'.fr hu
  have hw := refreshed_refreshWaits ((s.mirrorSees l.handle src d p'.fr).chainSees l.handle src d p'.fr) d
  obtain ⟨w, n, hq⟩ := hw.parts _ _ _ hc
  refine ⟨_, _, hx, within_refreshed hw rfl, hq, ?_, rfl⟩
  have : src ≠ p.die := by rw [hd]; exact hs
  simp [DieLaunch.sees, this]
end

/-! ## Reservations (R297) -/

/-- The first of the least elements of a list, by a measure, from a best one so far. -/
def leastFrom (m : Nat → Nat) : List Nat → Nat → Nat
  | [], x => x
  | c :: cs, x => leastFrom m cs (if m c < m x then c else x)

theorem leastFrom_mem (m : Nat → Nat) : ∀ (cs : List Nat) (x : Nat), leastFrom m cs x ∈ x :: cs
  | [], x => List.mem_cons_self
  | c :: cs, x => by
    have := leastFrom_mem m cs (if m c < m x then c else x)
    unfold leastFrom
    rcases List.mem_cons.mp this with h | h
    · rw [h]; split <;> simp
    · exact List.mem_cons_of_mem _ (List.mem_cons_of_mem _ h)

/-- In a list that ascends, the first of the least elements is the lowest of them. -/
theorem leastFrom_le (m : Nat → Nat) : ∀ (cs : List Nat) (x : Nat), (x :: cs).Pairwise (· < ·) → ∀ y ∈ x :: cs,
    m (leastFrom m cs x) < m y ∨ m (leastFrom m cs x) = m y ∧ leastFrom m cs x ≤ y
  | [], x, _, y, hy => by
    obtain rfl : y = x := by simpa using hy
    exact .inr ⟨rfl, Nat.le_refl y⟩
  | c :: cs, x, hp, y, hy => by
    obtain ⟨hx, hc⟩ := List.pairwise_cons.mp hp
    have hxc := hx c List.mem_cons_self
    unfold leastFrom
    by_cases h : m c < m x
    · rw [if_pos h]
      have ih := leastFrom_le m cs c hc
      rcases List.mem_cons.mp hy with rfl | hy
      · rcases ih c List.mem_cons_self with h' | ⟨h', -⟩
        · exact .inl (Nat.lt_trans h' h)
        · exact .inl (h' ▸ h)
      · exact ih y hy
    · rw [if_neg h]
      have ih := leastFrom_le m cs x (List.pairwise_cons.mpr ⟨fun z hz => hx z (List.mem_cons_of_mem _ hz), (List.pairwise_cons.mp hc).2⟩)
      rcases List.mem_cons.mp hy with rfl | hy
      · exact ih y List.mem_cons_self
      · rcases List.mem_cons.mp hy with rfl | hy
        · rcases ih x List.mem_cons_self with h' | ⟨h', hle⟩
          · exact .inl (Nat.lt_of_lt_of_le h' (Nat.not_lt.mp h))
          · rcases Nat.lt_or_eq_of_le (Nat.not_lt.mp h) with h'' | h''
            · exact .inl (h' ▸ h'')
            · exact .inr ⟨h'.trans h'', Nat.le_of_lt (Nat.lt_of_le_of_lt hle hxc)⟩
        · exact ih y (List.mem_cons_of_mem _ hy)

/-- The fold of RECTANGLE_RESERVATION picks it. -/
theorem foldl_least (m : Nat → Nat) : ∀ (cs : List Nat) (x : Nat), cs.foldl (fun (b : Option Nat) c => match b with
    | none => some c
    | some x => if m c < m x then some c else some x) (some x) = some (leastFrom m cs x)
  | [], _ => rfl
  | c :: cs, x => by
    rw [List.foldl_cons]
    show cs.foldl _ (if m c < m x then some c else some x) = _
    unfold leastFrom
    split
    · exact foldl_least m cs c
    · exact foldl_least m cs x

end Sys2Proof.Machine
end

section
namespace Sys2Proof.Machine

/-- The corners at which a launch may get a reservation on a die. -/
def State.usable (s : State) (l : Launch) (d : Fin 8) : List Nat :=
  (legalCorners l.shape).filter fun c =>
    ((rectTiles d l.shape c).all fun i => (s.site i).live.state == .enabled) &&
      !((rectSites l.shape c).any (s.reservedFrom d l.handle).contains)

theorem mem_usable {s : State} {l : Launch} {d : Fin 8} {c : Nat} : c ∈ s.usable l d ↔ c ∈ legalCorners l.shape ∧
    (∀ i ∈ rectTiles d l.shape c, (s.site i).live.state = .enabled) ∧ ∀ n ∈ rectSites l.shape c, n ∉ s.reservedFrom d l.handle := by
  simp [State.usable]

theorem usable_ascends (s : State) (l : Launch) (d : Fin 8) : (s.usable l d).Pairwise (· < ·) :=
  (List.pairwise_lt_range.filter _).filter _

/-- How many tiles of a rectangle are busy. -/
def State.busyIn (s : State) (l : Launch) (d : Fin 8) (c : Nat) : Nat := ((rectTiles d l.shape c).filter fun i => (s.tile i).busy).length

section
variable {s : State} {d : Fin 8} {l : Launch} {p : DieLaunch}

theorem reservation_reserves {w : Nat} (hl : s.launch? l.handle = some l) (hp : l.part? d = some p) (he : s.effPrio l p = 3)
    (hw : p.waiting = some w) (ht : w + 100000 ≤ s.time) (hc : s.chooseRect l d = none) (hr : ∀ r ∈ (s.die d).reserve, r.1 ≠ l.handle)
    (hu : ∃ c, c ∈ s.usable l d) :
    ∃ c, exec (.rectangleReservation d l.handle) s =
        .next (s.setDie d { s.die d with reserve := (s.die d).reserve ++ [(l.handle, c)] }) ∧
      c ∈ s.usable l d ∧ ∀ c', c' ∈ s.usable l d →
        s.busyIn l d c < s.busyIn l d c' ∨ s.busyIn l d c = s.busyIn l d c' ∧ c ≤ c' := by
  obtain ⟨x, cs, hcs⟩ := List.exists_cons_of_length_pos (List.length_pos_of_mem hu.choose_spec)
  have hasc := usable_ascends s l d
  have hfold : (s.usable l d).foldl (fun (b : Option Nat) c => match b with
      | none => some c
      | some x => if s.busyIn l d c < s.busyIn l d x then some c else some x) none = some (leastFrom (s.busyIn l d) cs x) := by
    rw [hcs, List.foldl_cons]
    exact foldl_least _ cs x
  have hno : ((s.die d).reserve.any fun r => r.1 == l.handle) = false := by simpa using hr
  have hwait : decide (w + 100000 ≤ s.time) = true := decide_eq_true ht
  refine ⟨leastFrom (s.busyIn l d) cs x, ?_, hcs ▸ leastFrom_mem _ cs x, fun c' hm => leastFrom_le _ cs x (hcs ▸ hasc) c' (hcs ▸ hm)⟩
  show execRectangleReservation d l.handle s = _
  generalize leastFrom (s.busyIn l d) cs x = c at hfold ⊢
  unfold State.usable State.busyIn at hfold
  simp only [execRectangleReservation, hl, hp, hw]
  split
  · rename_i c' h'
    have hcc : c' = c := Option.some.inj (h'.symm.trans hfold)
    rw [hcc]
    simp only [he, hwait, hc, hno]
    rfl
  · rename_i h'
    exact absurd (h'.symm.trans hfold) (by simp)
end

/-! ## The end of a launch (R289) -/

/-- A launch leaves the slots of every die. -/
theorem leaveDies_slots (s : State) (h : BitVec 16) (k : Fin 8) : h ∉ ((s.leaveDies h).die k).slots := by
  have step : ∀ (u : State) (d : Fin 8) (x : Die), h ∉ x.slots → h ∉ (u.die k).slots ∨ d = k → h ∉ ((u.setDie d x).die k).slots :=
    fun u d x hx hk => by
      by_cases e : k = d
      · subst e; rw [die_setDie]; exact hx
      · rw [die_setDie_ne u x e]; exact hk.resolve_right (Ne.symm e)
  have key : ∀ (ds : List (Fin 8)) (u : State), (h ∉ (u.die k).slots ∨ k ∈ ds) →
      h ∉ ((ds.foldl (fun s d => s.setDie d { s.die d with
        slots := (s.die d).slots.filter (· != h),
        served := if (s.die d).served = some h then slotBefore h (s.die d).slots else (s.die d).served,
        reserve := (s.die d).reserve.filter fun r => r.1 != h }) u).die k).slots := fun ds => by
    induction ds with
    | nil => exact fun u hu => hu.resolve_right List.not_mem_nil
    | cons d ds ih =>
      intro u hu
      refine ih _ ?_
      by_cases hm : k ∈ ds
      · exact .inr hm
      · refine .inl (step u d _ (by simp) ?_)
        rcases hu with hu | hu
        · exact .inl hu
        · exact .inr ((List.mem_cons.mp hu).resolve_right hm).symm
  exact key _ s (.inr (List.mem_finRange k))

theorem handle_unchain (s : State) (h : BitVec 16) : (s.unchain h).launches.map Launch.handle = s.launches.map Launch.handle := by
  have hf : Launch.handle ∘ (fun l : Launch => if l.chained && l.chainH == h then { l with chained := false } else l) = Launch.handle := by
    funext l
    show Launch.handle (if _ then _ else _) = _
    split <;> rfl
  rw [State.unchain, List.map_map, hf]

theorem completion_leaves {s : State} {l : Launch} (hl : s.launch? l.handle = some l) (hr : l.isResident = true) (hc : l.restores = [])
    (hp : ∀ q ∈ l.parts, q.done = true ∧ q.runs = []) (hv : s.regs.viral = false) :
    ∃ t, exec (.launchCompletion l.handle) s = .next t ∧ (∀ x ∈ t.launches, x.handle ≠ l.handle) ∧
      ∀ k, l.handle ∉ (t.die k).slots := by
  have hparts : (l.parts.all fun p => p.done && p.runs.isEmpty) = true :=
    List.all_eq_true.mpr fun q hq => by obtain ⟨hd, hn⟩ := hp q hq; simp [hd, hn]
  have hx : exec (.launchCompletion l.handle) s =
      .next ((((((s.storeCword l 0).endPreempts l 4).leaveDies l.handle).dropLaunch l.handle).unchain l.handle).refreshAll) := by
    show execLaunchCompletion l.handle s = _
    simp only [execLaunchCompletion, hl, hr, hc, hparts, hv, List.isEmpty_nil, Bool.not_false, Bool.and_self, if_true]
  generalize (s.storeCword l 0).endPreempts l 4 = u at hx
  obtain ⟨-, hdies, hhandles, -⟩ := refreshed_refreshAll (((u.leaveDies l.handle).dropLaunch l.handle).unchain l.handle)
  generalize (((u.leaveDies l.handle).dropLaunch l.handle).unchain l.handle).refreshAll = t at *
  refine ⟨t, hx, fun x hm he => ?_, fun k => ?_⟩
  · have hmem : l.handle ∈ t.launches.map Launch.handle := List.mem_map.mpr ⟨x, hm, he⟩
    rw [hhandles, handle_unchain, List.mem_map] at hmem
    obtain ⟨y, hy, hye⟩ := hmem
    have : (y.handle != l.handle) = true := (List.mem_filter.mp hy).2
    simp [hye] at this
  · have hk := congrArg Die.slots (hdies k)
    rw [show (t.die k).slots = ((u.leaveDies l.handle).die k).slots from hk]
    exact leaveDies_slots u l.handle k

end Sys2Proof.Machine
end

section
namespace Sys2Proof.Machine

/-! ## The start of a point (R43) -/

theorem sreg_begin (t : Tile) (pc : BitVec 16) (vs : List Nat) {r : SReg} (hr : r ≠ 0) :
    (t.begin pc vs).sreg r = BitVec.ofNat 32 (vs.getD (r.toNat - 1) 0) := by
  have hn : r.toNat ≠ 0 := fun e => hr (BitVec.eq_of_toNat_eq e)
  unfold Tile.sreg
  rw [if_neg hr]
  show (scalars vs)[r.toNat]'r.isLt = _
  rw [scalars, Vector.getElem_ofFn, if_neg hn]

/-- The values of s1 to s7 at the start of a point. -/
def Tile.startValues (t : Tile) : List Nat :=
  (t.pt.coord.toList.map fun w => w.toNat) ++ [t.pt.rank, t.pt.crewSize, argBase, t.pt.serial % 2 ^ 32]

theorem startValues_eq (t : Tile) : t.startValues =
    [t.pt.coord[0].toNat, t.pt.coord[1].toNat, t.pt.coord[2].toNat, t.pt.rank, t.pt.crewSize, argBase, t.pt.serial % 2 ^ 32] := by
  have hc : t.pt.coord.toList = [t.pt.coord[0], t.pt.coord[1], t.pt.coord[2]] := by
    apply List.ext_getElem
    · simp
    · intro n h1 h2
      match n with
      | 0 => simp
      | 1 => simp
      | 2 => simp
      | n + 3 => simp at h2
  simp [Tile.startValues, hc]

theorem sreg_startPoint (t : Tile) (entry : BitVec 16) {r : SReg} (hr : r ≠ 0) :
    (t.startPoint entry).sreg r = BitVec.ofNat 32 (t.startValues.getD (r.toNat - 1) 0) := sreg_begin t entry _ hr

/-- A member of a point starts with the values of R43. -/
def Tile.Starts (x y : Tile) (entry : BitVec 16) : Prop :=
  y.act = .point ∧ y.pc = entry ∧ y.loops = [] ∧ y.sb = [] ∧ y.copyq = [] ∧ y.inflight = none ∧
  (∀ e, y.semCount e = 0) ∧ y.sreg 1 = x.pt.coord[0] ∧ y.sreg 2 = x.pt.coord[1] ∧ y.sreg 3 = x.pt.coord[2] ∧
  y.sreg 4 = BitVec.ofNat 32 x.pt.rank ∧ y.sreg 5 = BitVec.ofNat 32 x.pt.crewSize ∧ y.sreg 6 = 0x1FF000 ∧
  y.sreg 7 = BitVec.ofNat 32 x.pt.serial ∧ (∀ g : SReg, 8 ≤ g.toNat → y.sreg g = 0) ∧
  y.k = x.k.atStart x.pt.handle x.pt.serial ∧ y.plane = x.plane ∧ y.spad = x.spad ∧ y.leaves = x.leaves ∧ y.acc = x.acc ∧
  y.macros = x.macros ∧ y.istore = x.istore

theorem startPoint_starts (t : Tile) (entry : BitVec 16) : t.Starts (t.startPoint entry) entry := by
  have h := fun (r : SReg) (hr : r ≠ 0) => sreg_startPoint t entry hr
  rw [startValues_eq] at h
  refine ⟨rfl, rfl, rfl, rfl, rfl, rfl, fun e => ?_, ?_, ?_, ?_, h 4 (by decide), h 5 (by decide), h 6 (by decide), ?_, fun g hg => ?_,
    rfl, rfl, rfl, rfl, rfl, rfl, rfl⟩
  · simp [Tile.semCount, Tile.startPoint, Tile.begin]
  · exact (h 1 (by decide)).trans (by simp)
  · exact (h 2 (by decide)).trans (by simp)
  · exact (h 3 (by decide)).trans (by simp)
  · refine (h 7 (by decide)).trans (BitVec.eq_of_toNat_eq ?_)
    simp
  · have hg0 : g ≠ 0 := fun e => by subst e; exact absurd hg (by decide)
    rw [h g hg0, List.getD_eq_default _ _ (by simp; omega)]
    rfl

section
variable {s : State} {d : Fin 8} {l : Launch} {p : DieLaunch} {q : PointRun}

theorem run?_eq (hl : s.launch? l.handle = some l) (hp : l.part? d = some p)
    (hq : p.runs.find? (fun x => x.serial == q.serial) = some q) : s.run? d l.handle q.serial = some (l, q) := by
  simp only [State.run?, hl, hp, hq, Option.map_some]

theorem harrowRuns_eq (hf : (s.die d).fenced = false) (hv : s.regs.viral = false) : s.harrowRuns d = true := by
  simp [State.harrowRuns, hf, hv]

theorem pointStart_starts (hl : s.launch? l.handle = some l) (hp : l.part? d = some p)
    (hq : p.runs.find? (fun x => x.serial == q.serial) = some q) (hc : q.corner ∈ legalCorners l.shape) (hs : q.started = false)
    (hcut : q.cut = none) (hf : (s.die d).fenced = false) (hv : s.regs.viral = false) (hd : s.cutDue l.handle = false)
    (ha : ∀ i ∈ rectTiles d l.shape q.corner, (s.tile i).act = .entering) :
    ∃ t, exec (.pointStart d l.handle q.serial) s = .next t ∧ (∀ j, j ∉ rectTiles d l.shape q.corner → t.tile j = s.tile j) ∧
      ∀ i ∈ rectTiles d l.shape q.corner, (s.tile i).Starts (t.tile i) (BitVec.ofNat 16 (l.f 0x3C 2)) := by
  have hready : ((rectTiles d l.shape q.corner).all fun i =>
      (s.tile i).act == .entering || (false && (s.tile i).act == .pended)) = true :=
    List.all_eq_true.mpr fun i hi => by simp [ha i hi]
  have hx : exec (.pointStart d l.handle q.serial) s = .next ((s.mapCrew d l.shape q.corner fun _ t =>
      ({ t with movedAt := s.time } : Tile).startPoint (BitVec.ofNat 16 (l.f 0x3C 2))).mapPart l.handle d fun p =>
        { p with runs := p.runs.map fun x => if x.serial == q.serial then { x with started := true } else x }) := by
    show execPointStart d l.handle q.serial s = _
    simp only [execPointStart, run?_eq hl hp hq, hs, harrowRuns_eq hf hv, hd, hcut, Option.isSome_none, hready, Bool.not_false,
      Bool.and_self, if_true, Bool.false_eq_true, if_false]
  refine ⟨_, hx, fun j hj => mapCrew_tile_ne hj, fun i hi => ?_⟩
  obtain ⟨k, hk⟩ := rank_of_mem hi
  have ht := mapCrew_tile (s := s) (f := fun _ t => ({ t with movedAt := s.time } : Tile).startPoint (BitVec.ofNat 16 (l.f 0x3C 2))) hc hk
  have := startPoint_starts { s.tile i with movedAt := s.time } (BitVec.ofNat 16 (l.f 0x3C 2))
  rw [← ht] at this
  exact this

/-! ## The completion of a point (R282) -/

theorem mapCrew_launches {s : State} {d : Fin 8} {c corner : Nat} {f : Nat → Tile → Tile} :
    (s.mapCrew d c corner f).launches = s.launches := by
  have := congrArg State.launches (mapCrew_frame (s := s) (d := d) (c := c) (corner := corner) (f := f))
  exact this

theorem partIn_of_launches {s t : State} {h : BitVec 16} {d : Fin 8} {p : DieLaunch} (ht : t.launches = s.launches)
    (hp : s.PartIn h d p) : t.PartIn h d p := by
  unfold State.PartIn State.launch? at hp ⊢
  rwa [ht]

theorem Refreshed.tile {s t : State} (h : Refreshed s t) (i : TileId) : t.tile i = s.tile i := by
  have := congrArg (State.tile · i) h.frame
  exact this

/-- The part of a launch in which a point has completed. -/
def DieLaunch.completed (l : Launch) (q : PointRun) (p : DieLaunch) : DieLaunch :=
  { p with runs := p.runs.filter fun x => x.serial != q.serial,
           fr := p.fr.complete (innerExt l.record) (q.serial / innerExt l.record) (q.serial % innerExt l.record) }

/-- The launches that a launch's frontier on a die lets go on see it. -/
def State.chainCompletion (s : State) (h : BitVec 16) (d : Fin 8) : State :=
  match (s.launch? h).bind fun l => l.part? d with
  | some p => s.chainSees h d d p.fr
  | none => s

theorem chainCompletion_spec {s : State} {h : BitVec 16} {d : Fin 8} {p : DieLaunch} (hp : s.PartIn h d p) :
    ∃ c, (s.chainCompletion h d).PartIn h d { p with chain := c } ∧ (s.chainCompletion h d).tiles = s.tiles := by
  have hb : ((s.launch? h).bind fun l => l.part? d) = some p := by
    obtain ⟨l, hl, hp⟩ := hp
    rw [hl]; exact hp
  obtain ⟨c, hc⟩ := partIn_chainSees h d d p.fr hp
  have he : s.chainCompletion h d = s.chainSees h d d p.fr := by simp only [State.chainCompletion, hb]
  rw [he]
  exact ⟨c, hc, rfl⟩

theorem completion_completes (hl : s.launch? l.handle = some l) (hp : l.part? d = some p)
    (hq : p.runs.find? (fun x => x.serial == q.serial) = some q) (hc : q.corner ∈ legalCorners l.shape) (hs : q.started = true)
    (hcrew : ∀ a ∈ s.crew, a.src ∉ rectTiles d l.shape q.corner) (ha : ∀ i ∈ rectTiles d l.shape q.corner, (s.tile i).act = .pended) :
    ∃ t q', exec (.pointCompletion d l.handle q.serial) s = .next t ∧
      (∀ j, j ∉ rectTiles d l.shape q.corner → t.tile j = s.tile j) ∧
      (∀ i ∈ rectTiles d l.shape q.corner, t.tile i = { s.tile i with act := .idle, cutReq := none }) ∧ t.PartIn l.handle d q' ∧
      q'.runs = p.runs.filter (fun x => x.serial != q.serial) ∧
      q'.fr = p.fr.complete (innerExt l.record) (q.serial / innerExt l.record) (q.serial % innerExt l.record) := by
  have hsettled : (s.crew.any fun a => (rectTiles d l.shape q.corner).contains a.src) = false := by
    rw [List.any_eq_false]
    exact fun a hm he => hcrew a hm (List.contains_iff_mem.mp he)
  have hpended : ((rectTiles d l.shape q.corner).all fun i => (s.tile i).act == .pended) = true :=
    List.all_eq_true.mpr fun i hi => by simp [ha i hi]
  have hx : exec (.pointCompletion d l.handle q.serial) s =
      .next ((State.chainCompletion (((s.coverPoint l (rectTiles d l.shape q.corner) q).mapCrew d l.shape q.corner
        fun _ t => { t with act := .idle, cutReq := none }).mapPart l.handle d (DieLaunch.completed l q)) l.handle d).refreshWaits d) := by
    show execPointCompletion d l.handle q.serial s = _
    simp only [execPointCompletion, run?_eq hl hp hq, hs, hsettled, hpended, Bool.not_false, Bool.and_self, if_true]
    rfl
  have hcrewed : ((s.coverPoint l (rectTiles d l.shape q.corner) q).mapCrew d l.shape q.corner
      fun _ t => { t with act := .idle, cutReq := none }).PartIn l.handle d p := partIn_of_launches mapCrew_launches (partIn_of hl hp)
  obtain ⟨c, hc', htiles⟩ := chainCompletion_spec (partIn_mapPart (g := DieLaunch.completed l q) (fun _ => rfl) hcrewed)
  have hw := refreshed_refreshWaits (State.chainCompletion (((s.coverPoint l (rectTiles d l.shape q.corner) q).mapCrew d l.shape q.corner
        fun _ t => { t with act := .idle, cutReq := none }).mapPart l.handle d (DieLaunch.completed l q)) l.handle d) d
  obtain ⟨w, n, hq'⟩ := hw.parts _ _ _ hc'
  have ht : ∀ j, ((State.chainCompletion (((s.coverPoint l (rectTiles d l.shape q.corner) q).mapCrew d l.shape q.corner
      fun _ t => { t with act := .idle, cutReq := none }).mapPart l.handle d (DieLaunch.completed l q)) l.handle d).refreshWaits d).tile j =
      ((s.coverPoint l (rectTiles d l.shape q.corner) q).mapCrew d l.shape q.corner fun _ t => { t with act := .idle, cutReq := none }).tile j :=
    fun j => (hw.tile j).trans (by rw [State.tile, htiles]; rfl)
  refine ⟨_, _, hx, fun j hj => (ht j).trans (mapCrew_tile_ne hj), fun i hi => ?_, hq', rfl, rfl⟩
  obtain ⟨k, hk⟩ := rank_of_mem hi
  exact (ht i).trans (mapCrew_tile hc hk)
end

end Sys2Proof.Machine
end

section
namespace Sys2Proof.Machine

/-! ## Launch entry (R47) -/

theorem get_filterMap_indices {α : Type} [DecidableEq α] (d : α) (f : Nat → α) (i : Nat) : ∀ xs : List Nat,
    Cells.get d (xs.filterMap fun i => if f i = d then none else some (i, f i)) i = if i ∈ xs then f i else d
  | [] => rfl
  | x :: xs => by
    have ih := get_filterMap_indices d f i xs
    by_cases hx : x = i
    · subst hx
      by_cases hf : f x = d
      · simp [hf, ih]
      · simp [hf, Cells.get]
    · by_cases hf : f x = d
      · simp [hf, ih, Ne.symm hx]
      · simp [hf, Cells.get, hx, Ne.symm hx, ih]

/-- A tabulated file reads what its function gives. -/
theorem get_tabulate {α : Type} [DecidableEq α] (d : α) {n i : Nat} (f : Nat → α) (h : i < n) :
    Cells.get d (Cells.tabulate d n f) i = f i :=
  (get_filterMap_indices d f i _).trans (if_pos (List.mem_range.mpr h))

section
variable {t : Tile} {l : Launch} {c : PointCtx}

theorem takePoint_entered (h : t.hasEntered l = true) : t.takePoint l c = { t with pt := c, act := .entering } := if_pos h

/-- What launch entry leaves of a tile that had not entered the launch, the prologue before it or not. -/
structure Tile.Enters (l : Launch) (c : PointCtx) (y : Tile) : Prop where
  pt : y.pt = c
  act : y.act = if bit (l.f 2 1) 0 then .prologue else .entering
  plane : y.plane = []
  leaves : y.leaves = []
  acc : y.acc = []
  entered : y.entered = l.uid
  code : ∀ n, n < min 65536 l.code.length → Cells.get 0 y.istore n = l.code.getD n 0

theorem takePoint_enters (h : t.hasEntered l = false) : (t.takePoint l c).Enters l c := by
  have hcode : ∀ n, n < min 65536 l.code.length → Cells.get 0 (({ t with pt := c } : Tile).enterLaunch l).istore n = l.code.getD n 0 :=
    fun n hn => by
      have : n < Nat.min 65536 l.code.toArray.size := hn
      refine (get_tabulate 0 _ this).trans ?_
      simp
  unfold Tile.takePoint
  rw [h, if_neg Bool.false_ne_true]
  dsimp only
  split
  · rename_i hb; exact ⟨rfl, by rw [hb]; rfl, rfl, rfl, rfl, rfl, hcode⟩
  · rename_i hb; exact ⟨rfl, by rw [if_neg hb], rfl, rfl, rfl, rfl, hcode⟩
end

/-! ## The firing of a point (R283, R284, R286) -/

/-- The TIME of a die's next firing decision (R284). -/
def State.firingTime (s : State) (d : Fin 8) : Nat :=
  match (s.die d).decided with
  | some n => max s.time (n + 4)
  | none => s.time

section
variable {s : State} {d : Fin 8} {l : Launch} {p : DieLaunch} {row inner c : Nat}

/-- A decision changes nothing that the choice of a launch and its point rests on. -/
theorem nextPoint_decides : (s.decides d).nextPoint l p = s.nextPoint l p := rfl

theorem die_decides : (s.decides d).die d = { s.die d with decided := some (s.firingTime d) } := die_setDie _ _ _

theorem reservedFrom_decides (h : BitVec 16) : (s.decides d).reservedFrom d h = s.reservedFrom d h := by
  unfold State.reservedFrom
  rw [die_decides]
  rfl

theorem chooseRect_decides : (s.decides d).chooseRect l d = s.chooseRect l d := by
  have hfree : (s.decides d).rectFree d l.handle l.shape = s.rectFree d l.handle l.shape := by
    funext k
    unfold State.rectFree
    rw [reservedFrom_decides]
    rfl
  unfold State.chooseRect
  rw [hfree]
  rfl

/-- A rectangle that is chosen for a launch is a legal one. -/
theorem legal_of_chooseRect (h : s.chooseRect l d = some c) : c ∈ legalCorners l.shape := by
  unfold State.chooseRect at h
  dsimp only at h
  split at h
  · rename_i c' hc
    obtain rfl : c' = c := Option.some.inj h
    exact (List.mem_filter.mp (List.mem_of_find?_eq_some hc)).1
  · exact (List.mem_filter.mp (List.mem_of_head? h)).1

theorem serveOrder_single {x : Die} {h : BitVec 16} (hs : x.slots = [h]) : x.serveOrder = [h] := by
  unfold Die.serveOrder
  rw [hs]
  by_cases hx : (some h == x.served) = true
  · simp [List.findIdx?_cons, hx]
  · simp [List.findIdx?_cons, hx]

theorem fireChoice_point (hr : l.phase = .resident) (hres : l.restores = []) (hd : p.die = d)
    (hn : s.nextPoint l p = some (row, inner)) (hc : s.chooseRect l d = some c) : s.fireChoice l p = some (c, .inr (row, inner)) := by
  have hf : l.fires s.time = true := by simp [Launch.fires, hr]
  simp [State.fireChoice, hf, hres, hn, hd, hc]

theorem exec_pointFire (hl : s.launch? l.handle = some l) (hp : l.part? d = some p) (hr : l.phase = .resident) (hres : l.restores = [])
    (hs : (s.die d).slots = [l.handle]) (hf : (s.die d).fenced = false) (hv : s.regs.viral = false)
    (hn : s.nextPoint l p = some (row, inner)) (hc : s.chooseRect l d = some c) :
    exec (.pointFire d) s = .next ((s.decides d).firePoint l d c row inner) := by
  have hl' : (s.decides d).launch? l.handle = some l := hl
  have hchoice : (s.decides d).fireChoice l p = some (c, .inr (row, inner)) :=
    fireChoice_point hr hres (die_of_part? hp) (nextPoint_decides.trans hn) (chooseRect_decides.trans hc)
  have hserve : ((s.decides d).die d).serveOrder = [l.handle] := serveOrder_single (by rw [die_decides]; exact hs)
  have hruns : (s.decides d).harrowRuns d = true := harrowRuns_eq (by rw [die_decides]; exact hf) hv
  show execPointFire d s = _
  unfold execPointFire
  dsimp only
  rw [hserve]
  simp [hl', hp, hchoice, hruns]

theorem mapCrew_time {f : Nat → Tile → Tile} : (s.mapCrew d row inner f).time = s.time := by
  have := congrArg State.time (mapCrew_frame (s := s) (d := d) (c := row) (corner := inner) (f := f))
  exact this

/-- What a fired point leaves beside its tiles. -/
theorem fired_spec {u : State} {k : PointRun} (hp : u.PartIn l.handle d p) :
    (u.fired l d c k).time = u.time ∧ ((u.fired l d c k).die d).decided = (u.die d).decided ∧
      (∀ j, (u.fired l d c k).tile j = u.tile j) ∧ ∃ q, (u.fired l d c k).PartIn l.handle d q ∧ q.fr = p.fr ∧ q.runs = p.runs ++ [k] := by
  have hq := partIn_mapPart (g := fun p => { p with runs := p.runs ++ [k], waiting := none, boost := 0 }) (fun _ => rfl) hp
  have hw := refreshed_refreshWaits ((u.mapPart l.handle d fun p => { p with runs := p.runs ++ [k], waiting := none, boost := 0 }).setDie d
    { u.die d with served := some l.handle, reserve := (u.die d).reserve.filter fun r => r != (l.handle, c) }) d
  obtain ⟨w, n, hq'⟩ := hw.parts _ _ _ (partIn_of_launches rfl hq)
  refine ⟨?_, ?_, hw.tile, _, hq', rfl, rfl⟩
  · have := congrArg State.time hw.frame; exact this
  · have := congrArg Die.decided (hw.dies d)
    rw [die_setDie] at this
    exact this

/-- The context of the member of a rank of a point that fires at a TIME. -/
def firedCtx (l : Launch) (row inner c now k : Nat) : PointCtx :=
  ⟨l.handle, row * innerExt l.record + inner, coordWords (coordOf l.record row inner), k,
    (shapeDims l.shape).1 * (shapeDims l.shape).2, l.shape, c, now, false⟩

/-- That member. -/
def firedMember (l : Launch) (row inner c now k : Nat) (t : Tile) : Tile :=
  { t.takePoint l (firedCtx l row inner c now k) with movedAt := now }

/-- That point in flight. -/
def firedRun (l : Launch) (row inner c now : Nat) : PointRun := ⟨row * innerExt l.record + inner, c, false, now, none⟩

theorem firePoint_eq (u : State) (l : Launch) (d : Fin 8) (c row inner : Nat) : u.firePoint l d c row inner =
    (u.mapCrew d l.shape c (firedMember l row inner c u.time)).fired l d c (firedRun l row inner c u.time) := by
  have hctx : ∀ k, memberCtx l (row * innerExt l.record + inner) (coordWords (coordOf l.record row inner)) c k u.time =
      firedCtx l row inner c u.time k := fun _ => rfl
  simp only [State.firePoint, serialOf, hctx, mapCrew_time]
  rfl

theorem pointFire_fires (hl : s.launch? l.handle = some l) (hp : l.part? d = some p) (hr : l.phase = .resident) (hres : l.restores = [])
    (hs : (s.die d).slots = [l.handle]) (hf : (s.die d).fenced = false) (hv : s.regs.viral = false)
    (hn : s.nextPoint l p = some (row, inner)) (hc : s.chooseRect l d = some c) :
    ∃ t q, exec (.pointFire d) s = .next t ∧ (∀ j, j ∉ rectTiles d l.shape c → t.tile j = s.tile j) ∧ t.time = s.firingTime d ∧
      (t.die d).decided = some (s.firingTime d) ∧ t.PartIn l.handle d q ∧ q.fr = p.fr ∧
      q.runs = p.runs ++ [firedRun l row inner c (s.firingTime d)] ∧
      ∀ (k : Nat) i, (rectTiles d l.shape c)[k]? = some i → t.tile i = firedMember l row inner c (s.firingTime d) k (s.tile i) := by
  have hx := exec_pointFire hl hp hr hres hs hf hv hn hc
  have hnow : (s.decides d).time = s.firingTime d := rfl
  rw [firePoint_eq, hnow] at hx
  have hlegal := legal_of_chooseRect hc
  have hcrewed : ((s.decides d).mapCrew d l.shape c (firedMember l row inner c (s.firingTime d))).PartIn l.handle d p :=
    partIn_of_launches mapCrew_launches (partIn_of_launches rfl (partIn_of hl hp))
  obtain ⟨ht, hd, htile, q, hq, hfr, hruns⟩ := fired_spec (c := c) (k := firedRun l row inner c (s.firingTime d)) hcrewed
  refine ⟨_, q, hx, fun j hj => (htile j).trans (mapCrew_tile_ne hj), ht.trans (mapCrew_time.trans hnow), hd.trans ?_, hq, hfr, hruns,
    fun k i hk => (htile i).trans (mapCrew_tile hlegal hk)⟩
  have := congrArg (fun u : State => (u.die d).decided) (mapCrew_frame (s := s.decides d) (d := d) (c := l.shape) (corner := c)
    (f := firedMember l row inner c (s.firingTime d)))
  exact this.trans (congrArg Die.decided die_decides)

end

end Sys2Proof.Machine
end

section
namespace Sys2Proof.Machine

/-- A tile that takes a fired point: at once where it has entered the launch, else through launch entry (R286). -/
theorem takePoint_spec (x : Tile) (l : Launch) (c : PointCtx) (now : Nat) :
    let y : Tile := { x.takePoint l c with movedAt := now }
    y.pt = c ∧ (x.hasEntered l = true → y = { x with pt := y.pt, act := .entering, movedAt := now }) ∧
      (x.hasEntered l = false → y.act = (if bit (l.f 2 1) 0 then .prologue else .entering) ∧ y.plane = [] ∧ y.leaves = [] ∧
        y.acc = [] ∧ y.entered = l.uid ∧ ∀ n, n < min 65536 l.code.length → Cells.get 0 y.istore n = l.code.getD n 0) := by
  cases h : x.hasEntered l
  · obtain ⟨hpt, hact, hplane, hleaves, hacc, hentered, hcode⟩ := takePoint_enters (c := c) h
    exact ⟨hpt, fun e => absurd e (by simp), fun _ => ⟨hact, hplane, hleaves, hacc, hentered, hcode⟩⟩
  · rw [takePoint_entered h]
    exact ⟨rfl, fun _ => rfl, fun e => absurd e (by simp)⟩

/-- Settles O50: each event changes the launch's part on the die and then brings waits up to date (`Refreshed`); those of a point also change
the members of its rectangle, which are distinct tiles (`nodup_rectTiles`). -/
theorem theHarrowFiresStartsAndCompletesPoints : Obligations.TheHarrowFiresStartsAndCompletesPoints := by
  unfold Obligations.TheHarrowFiresStartsAndCompletesPoints
  intro s d l p h r hl hp hd partIn rect others within
  refine ⟨rowOpen_opens hl hp, fun row inner c hr hres hs _ hf hv hn hc => ?_, fun q hq hc => ⟨?_, completion_completes hl hp hq hc⟩, ?_,
    priorityAge_ages hl hp, ?_, completion_leaves hl⟩
  · obtain ⟨t, q, hx, ho, ht, hdec, hq, hfr, hruns, htiles⟩ := pointFire_fires hl hp hr hres hs hf hv hn hc
    refine ⟨t, q, hx, ho, ht, hdec, hq, hfr, hruns, fun k i hk => ?_⟩
    rw [htiles k i hk]
    exact takePoint_spec ..
  · exact fun hs hcut hf hv hdue ha => pointStart_starts hl hp hq hc hs hcut hf hv hdue ha
  · exact fun src p' hs hr hf hb => mirrorUpdate_updates hl hp hs hr hf hb
  · intro w he hw ht hc hr usable busy hu
    have hmem : ∀ c, c ∈ s.usable l d ↔ usable c := fun c => mem_usable
    obtain ⟨c, hc0⟩ := hu
    obtain ⟨c', hx, hm, hle⟩ := reservation_reserves hl hp he hw ht hc hr ⟨c, (hmem c).mpr hc0⟩
    exact ⟨c', hx, (hmem c').mp hm, fun k hk => hle k ((hmem k).mpr hk)⟩

end Sys2Proof.Machine
end

section
namespace Sys2Proof

/-! ## What the decoder reads from a field is what the encoder writes into it (R58) -/

/-- A reader gives a value only for the field that encodes it. -/
def Inverts {n : Nat} {α : Type} (read : BitVec n → Option α) (enc : α → BitVec n) : Prop := ∀ x a, read x = some a → enc a = x

theorem inverts_of_all {n : Nat} {α : Type} {read : BitVec n → Option α} {enc : α → BitVec n}
    (h : ∀ x, (read x).all (fun a => enc a == x) = true) : Inverts read enc := fun x a hx => by simpa [hx] using h x

theorem zero?_inverts : Inverts zero? fun _ => 0 := inverts_of_all (by decide)
theorem six?_inverts : Inverts six? enc6 := inverts_of_all (by decide)
theorem five?_inverts : Inverts five? enc5 := inverts_of_all (by decide)
theorem four?_inverts : Inverts four? enc4 := inverts_of_all (by decide)
theorem three?_inverts : Inverts three? enc3 := inverts_of_all (by decide)
theorem two?_inverts : Inverts two? enc2 := inverts_of_all (by decide)
theorem pair?_inverts : Inverts pair? encPair := inverts_of_all (by decide)
theorem line_inverts : Inverts (fun x => some (lineOf x)) encLine := inverts_of_all (by decide)
/-- An imm8 field is its own value. -/
theorem byte_inverts : Inverts (some : Byte → Option Byte) id := fun _ _ h => (Option.some.inj h).symm
theorem typeOf_inverts : Inverts (fun x : BitVec 4 => typeOf x.toNat) encType := inverts_of_all (by decide)
theorem condOf?_inverts : Inverts (fun x : BitVec 3 => condOf? x.toNat) encCond := inverts_of_all (by decide)
theorem redOf?_inverts : Inverts (fun x : Byte => redOf? x.toNat) encRed := inverts_of_all (by decide)
theorem atomOf?_inverts : Inverts (fun x : BitVec 4 => atomOf? x.toNat) encAtom := inverts_of_all (by decide)
theorem scopeOf?_inverts : Inverts (fun x : Byte => scopeOf? x.toNat) encScope := inverts_of_all (by decide)

/-! ## Fields of several parts, written back from their slices -/

theorem cat2_slices (x : Byte) : cat2 (x.extractLsb' 6 2) (x.extractLsb' 0 6) = x := by revert x; decide
theorem cat4_slices (x : Byte) : cat4 (x.extractLsb' 4 4) (x.extractLsb' 0 4) = x := by revert x; decide
theorem catCmp_slices {x : Byte} (h : x.extractLsb' 6 2 = 0) : catCmp (x.extractLsb' 3 3) (x.extractLsb' 0 3) = x := by
  revert x; decide
theorem catRows_slices {x : Byte} (h : x.extractLsb' 6 2 = 0) : catRows (x.extractLsb' 2 4) (x.extractLsb' 0 2) = x := by
  revert x; decide
theorem catHalf_slices {x : Byte} (h : x.extractLsb' 5 3 = 0) : catHalf (x.extractLsb' 4 1) (x.extractLsb' 0 4) = x := by
  revert x; decide
theorem enc4_slice {x : Byte} (h : x.extractLsb' 5 3 = 0) (hz : x.extractLsb' 4 1 = 0) : enc4 (x.extractLsb' 0 4) = x := by
  revert x; decide
theorem catZ_slice {x : Byte} (h : x.extractLsb' 5 3 = 0) (hz : x.extractLsb' 4 1 ≠ 0) : catZ (x.extractLsb' 0 4) = x := by
  revert x; decide
theorem even_slice {x : Byte} (h : x.extractLsb' 0 1 = 0) : (x.extractLsb' 1 3 ++ 0#1 : BitVec 4) = x.extractLsb' 0 4 := by
  revert x; decide
theorem hi2_append_slice (u v : BitVec 2) : hi2 (u ++ v : BitVec 4) = u := by revert u v; decide
theorem lo2_append_slice (u v : BitVec 2) : lo2 (u ++ v : BitVec 4) = v := by revert u v; decide
theorem hi8_append (y z : Byte) : hi8 (y ++ z : BitVec 16) = y := (slice_high _ _ 0 8).trans (by simp)
theorem lo8_append (y z : Byte) : lo8 (y ++ z : BitVec 16) = z := slice_low _ _

/-- A field that holds a number is that number's field. -/
theorem eq_ofNat {w : Nat} {x : BitVec w} {n : Nat} (h : x.toNat = n) : x = BitVec.ofNat w n := by simp [← h]
theorem cat2_of_high {x : Byte} {n : Nat} (h : (x.extractLsb' 6 2).toNat = n) : cat2 (.ofNat 2 n) (x.extractLsb' 0 6) = x := by
  rw [← eq_ofNat h]; exact cat2_slices x

/-! ## Slots read and written back -/

/-- An instruction is well formed, and its fields are the given ones. -/
def Encodes (i : Instr) (f : SlotFields) : Prop := encodeFields i = some f ∧ i.wf = true

/-- An instruction whose fields are equal to given ones. -/
theorem encodes_of_eq {i : Instr} {f g : SlotFields} (he : encodeFields i = some g) (hw : i.wf = true) (hg : g = f) : Encodes i f :=
  ⟨hg ▸ he, hw⟩

/-- Whatever is read from fields is an instruction with these fields. -/
def ReadsBack (f : SlotFields) (r : Option Instr) : Prop := ∀ i, r = some i → Encodes i f

/-! What a reader is made of. -/

theorem readsBack_none (f : SlotFields) : ReadsBack f none := fun _ h => absurd h.symm (Option.some_ne_none _)
theorem readsBack_some {f : SlotFields} {i : Instr} (h : Encodes i f) : ReadsBack f (some i) := fun _ hj => Option.some.inj hj ▸ h
theorem readsBack_bind {f : SlotFields} {α : Type} {r : Option α} {g : α → Option Instr} (h : ∀ a, r = some a → ReadsBack f (g a)) :
    ReadsBack f (r >>= g) := fun i hi => by
  obtain ⟨a, ha, hg⟩ := Option.bind_eq_some_iff.mp hi
  exact h a ha i hg
theorem readsBack_ite {f : SlotFields} {p : Prop} [Decidable p] {r : Option Instr} (h : p → ReadsBack f r) :
    ReadsBack f (if p then r else none) := fun i hi => by
  obtain ⟨hp, hj⟩ := Option.ite_none_right_eq_some.mp hi
  exact h hp i hj

/-! ## Slot shapes -/

section Shapes

variable {o : BitVec 7} {x y z : Byte}

/-- The fields D, A and B are read each in its role: what is then read with their values is read from the fields that encode them. -/
theorem readsBack_parts {α β γ : Type} {rd : Byte → Option α} {ra : Byte → Option β} {rb : Byte → Option γ}
    {ed : α → Byte} {ea : β → Byte} {eb : γ → Byte} (hd : Inverts rd ed) (ha : Inverts ra ea) (hb : Inverts rb eb)
    {k : α → β → γ → Option Instr} (hk : ∀ d a b, ReadsBack ⟨o, ed d, ea a, eb b⟩ (k d a b)) :
    ReadsBack ⟨o, x, y, z⟩ (do let d ← rd x; let a ← ra y; let b ← rb z; k d a b) :=
  readsBack_bind fun d hx => readsBack_bind fun a hy => readsBack_bind fun b hz => by
    rw [← hd x d hx, ← ha y a hy, ← hb z b hz]
    exact hk d a b

/-- The fields are read each in its role, and their values make an instruction. -/
theorem readsBack_roles {α β γ : Type} {rd : Byte → Option α} {ra : Byte → Option β} {rb : Byte → Option γ}
    {ed : α → Byte} {ea : β → Byte} {eb : γ → Byte} (hd : Inverts rd ed) (ha : Inverts ra ea) (hb : Inverts rb eb)
    {k : α → β → γ → Instr} (hk : ∀ d a b, Encodes (k d a b) ⟨o, ed d, ea a, eb b⟩) :
    ReadsBack ⟨o, x, y, z⟩ (do let d ← rd x; let a ← ra y; let b ← rb z; some (k d a b)) :=
  readsBack_parts hd ha hb fun d a b => readsBack_some (hk d a b)

theorem readsBack_zzz {i : Instr} (hk : Encodes i ⟨o, 0, 0, 0⟩) : ReadsBack ⟨o, x, y, z⟩ (zzz ⟨o, x, y, z⟩ i) :=
  readsBack_roles zero?_inverts zero?_inverts zero?_inverts fun _ _ _ => hk
theorem readsBack_sss {k : BitVec 6 → BitVec 6 → BitVec 6 → Instr} (hk : ∀ d a b, Encodes (k d a b) ⟨o, enc6 d, enc6 a, enc6 b⟩) :
    ReadsBack ⟨o, x, y, z⟩ (sss ⟨o, x, y, z⟩ k) := readsBack_roles six?_inverts six?_inverts six?_inverts hk
theorem readsBack_ssi {k : BitVec 6 → BitVec 6 → Byte → Instr} (hk : ∀ d a b, Encodes (k d a b) ⟨o, enc6 d, enc6 a, b⟩) :
    ReadsBack ⟨o, x, y, z⟩ (ssi ⟨o, x, y, z⟩ k) := readsBack_roles six?_inverts six?_inverts byte_inverts hk
theorem readsBack_ssh {k : BitVec 6 → BitVec 6 → BitVec 5 → Instr} (hk : ∀ d a b, Encodes (k d a b) ⟨o, enc6 d, enc6 a, enc5 b⟩) :
    ReadsBack ⟨o, x, y, z⟩ (ssh ⟨o, x, y, z⟩ k) := readsBack_roles six?_inverts six?_inverts five?_inverts hk
theorem readsBack_zsz {k : BitVec 6 → Instr} (hk : ∀ a, Encodes (k a) ⟨o, 0, enc6 a, 0⟩) :
    ReadsBack ⟨o, x, y, z⟩ (zsz ⟨o, x, y, z⟩ k) := readsBack_roles zero?_inverts six?_inverts zero?_inverts fun _ a _ => hk a
theorem readsBack_zss {k : BitVec 6 → BitVec 6 → Instr} (hk : ∀ a b, Encodes (k a b) ⟨o, 0, enc6 a, enc6 b⟩) :
    ReadsBack ⟨o, x, y, z⟩ (zss ⟨o, x, y, z⟩ k) := readsBack_roles zero?_inverts six?_inverts six?_inverts fun _ a b => hk a b
theorem readsBack_szs {k : BitVec 6 → BitVec 6 → Instr} (hk : ∀ d b, Encodes (k d b) ⟨o, enc6 d, 0, enc6 b⟩) :
    ReadsBack ⟨o, x, y, z⟩ (szs ⟨o, x, y, z⟩ k) := readsBack_roles six?_inverts zero?_inverts six?_inverts fun d _ b => hk d b
theorem readsBack_ssz {k : BitVec 6 → BitVec 6 → Instr} (hk : ∀ d a, Encodes (k d a) ⟨o, enc6 d, enc6 a, 0⟩) :
    ReadsBack ⟨o, x, y, z⟩ (ssz ⟨o, x, y, z⟩ k) := readsBack_roles six?_inverts six?_inverts zero?_inverts fun d a _ => hk d a
theorem readsBack_szz {k : BitVec 6 → Instr} (hk : ∀ d, Encodes (k d) ⟨o, enc6 d, 0, 0⟩) :
    ReadsBack ⟨o, x, y, z⟩ (szz ⟨o, x, y, z⟩ k) := readsBack_roles six?_inverts zero?_inverts zero?_inverts fun d _ _ => hk d
theorem readsBack_ppp {k : Line → Line → Line → Instr} (hk : ∀ d a b, Encodes (k d a b) ⟨o, encLine d, encLine a, encLine b⟩) :
    ReadsBack ⟨o, x, y, z⟩ (ppp ⟨o, x, y, z⟩ k) := readsBack_roles line_inverts line_inverts line_inverts hk
theorem readsBack_ppz {k : Line → Line → Instr} (hk : ∀ d a, Encodes (k d a) ⟨o, encLine d, encLine a, 0⟩) :
    ReadsBack ⟨o, x, y, z⟩ (ppz ⟨o, x, y, z⟩ k) := readsBack_roles line_inverts line_inverts zero?_inverts fun d a _ => hk d a
theorem readsBack_pps {k : Line → Line → BitVec 6 → Instr} (hk : ∀ d a b, Encodes (k d a b) ⟨o, encLine d, encLine a, enc6 b⟩) :
    ReadsBack ⟨o, x, y, z⟩ (pps ⟨o, x, y, z⟩ k) := readsBack_roles line_inverts line_inverts six?_inverts hk
theorem readsBack_psz {k : Line → BitVec 6 → Instr} (hk : ∀ d a, Encodes (k d a) ⟨o, encLine d, enc6 a, 0⟩) :
    ReadsBack ⟨o, x, y, z⟩ (psz ⟨o, x, y, z⟩ k) := readsBack_roles line_inverts six?_inverts zero?_inverts fun d a _ => hk d a
theorem readsBack_pzz {k : Line → Instr} (hk : ∀ d, Encodes (k d) ⟨o, encLine d, 0, 0⟩) :
    ReadsBack ⟨o, x, y, z⟩ (pzz ⟨o, x, y, z⟩ k) := readsBack_roles line_inverts zero?_inverts zero?_inverts fun d _ _ => hk d
theorem readsBack_psi {k : Line → BitVec 6 → Byte → Instr} (hk : ∀ d a b, Encodes (k d a b) ⟨o, encLine d, enc6 a, b⟩) :
    ReadsBack ⟨o, x, y, z⟩ (psi ⟨o, x, y, z⟩ k) := readsBack_roles line_inverts six?_inverts byte_inverts hk
theorem readsBack_pss {k : Line → BitVec 6 → BitVec 6 → Instr} (hk : ∀ d a b, Encodes (k d a b) ⟨o, encLine d, enc6 a, enc6 b⟩) :
    ReadsBack ⟨o, x, y, z⟩ (pss ⟨o, x, y, z⟩ k) := readsBack_roles line_inverts six?_inverts six?_inverts hk
theorem readsBack_psp {k : Line → BitVec 6 → Line → Instr} (hk : ∀ d a b, Encodes (k d a b) ⟨o, encLine d, enc6 a, encLine b⟩) :
    ReadsBack ⟨o, x, y, z⟩ (psp ⟨o, x, y, z⟩ k) := readsBack_roles line_inverts six?_inverts line_inverts hk
theorem readsBack_blkS {k : BitVec 4 → BitVec 6 → Instr} (hk : ∀ d a, Encodes (k d a) ⟨o, enc4 d, enc6 a, 0⟩) :
    ReadsBack ⟨o, x, y, z⟩ (blkS ⟨o, x, y, z⟩ k) := readsBack_roles four?_inverts six?_inverts zero?_inverts fun d a _ => hk d a

/-- A and B are the halves of imm16. -/
theorem encodes_halves {k : BitVec 16 → Instr} (hk : ∀ i, Encodes (k i) ⟨o, x, hi8 i, lo8 i⟩) (a b : Byte) :
    Encodes (k (a ++ b)) ⟨o, x, a, b⟩ := by
  have h := hk (a ++ b)
  rwa [hi8_append, lo8_append] at h
theorem readsBack_s16 {k : BitVec 6 → BitVec 16 → Instr} (hk : ∀ d i, Encodes (k d i) ⟨o, enc6 d, hi8 i, lo8 i⟩) :
    ReadsBack ⟨o, x, y, z⟩ (s16 ⟨o, x, y, z⟩ k) := readsBack_roles six?_inverts byte_inverts byte_inverts fun d => encodes_halves (hk d)
theorem readsBack_z16 {k : BitVec 16 → Instr} (hk : ∀ i, Encodes (k i) ⟨o, 0, hi8 i, lo8 i⟩) :
    ReadsBack ⟨o, x, y, z⟩ (z16 ⟨o, x, y, z⟩ k) := readsBack_roles zero?_inverts byte_inverts byte_inverts fun _ => encodes_halves hk

end Shapes

/-! ## Slots of a shape of their own -/

section Slots

variable {x y z : Byte}

theorem readsBack_xop : ReadsBack ⟨0x1e, x, y, z⟩ (xop ⟨0x1e, x, y, z⟩) :=
  readsBack_bind fun d hd => readsBack_bind fun a ha => by
    rw [← six?_inverts x d hd, ← six?_inverts y a ha]
    dsimp only
    split
    case h_10 => exact readsBack_none _
    all_goals cases eq_ofNat ‹z.toNat = _›; exact readsBack_some ⟨rfl, rfl⟩

/-- A conditional branch: the condition's code stands over the register (R123). -/
theorem encodes_branch {k : BitVec 6 → BitVec 16 → Instr} {n : Nat}
    (hk : ∀ r i, Encodes (k r i) ⟨0x20, cat2 (.ofNat 2 n) r, hi8 i, lo8 i⟩) (h : (x.extractLsb' 6 2).toNat = n) :
    Encodes (k (x.extractLsb' 0 6) (imm16 ⟨0x20, x, y, z⟩)) ⟨0x20, x, y, z⟩ := by
  have e := encodes_halves (hk (x.extractLsb' 0 6)) y z
  rwa [cat2_of_high h] at e

theorem readsBack_branch : ReadsBack ⟨0x20, x, y, z⟩ (branch ⟨0x20, x, y, z⟩) := by
  unfold branch
  dsimp only
  split
  case h_1 h =>
    refine readsBack_ite fun hr => readsBack_some ?_
    rw [← cat2_of_high h, hr]
    exact encodes_halves (fun _ => ⟨rfl, rfl⟩) y z
  case h_2 h | h_3 h => exact readsBack_some (encodes_branch (fun _ _ => ⟨rfl, rfl⟩) h)
  case h_4 h0 h1 h2 =>
    have h : (x.extractLsb' 6 2).toNat = 3 := by
      have := (x.extractLsb' 6 2).isLt
      simp only [imp_false] at *
      omega
    exact readsBack_some (encodes_branch (fun _ _ => ⟨rfl, rfl⟩) h)

theorem readsBack_loopi : ReadsBack ⟨0x25, x, y, z⟩ (some (.loopi x (imm16 ⟨0x25, x, y, z⟩))) :=
  readsBack_some (encodes_halves (fun _ => ⟨rfl, rfl⟩) y z)

theorem readsBack_lidx : ReadsBack ⟨0x27, x, y, z⟩ (lidx ⟨0x27, x, y, z⟩) :=
  readsBack_parts six?_inverts zero?_inverts byte_inverts
    (k := fun d _ b => if h : b.toNat < 6 then some (.lidx d ⟨b.toNat, h⟩) else none) fun d _ b => by
    split
    · exact readsBack_some (encodes_of_eq rfl rfl (by simp))
    · exact readsBack_none _

theorem readsBack_tstamp : ReadsBack ⟨0x2f, x, y, z⟩ (tstampOf ⟨0x2f, x, y, z⟩) :=
  readsBack_roles pair?_inverts zero?_inverts zero?_inverts fun _ _ _ => ⟨rfl, rfl⟩

theorem readsBack_vcvt : ReadsBack ⟨0x3e, x, y, z⟩ (vcvtOf ⟨0x3e, x, y, z⟩) :=
  readsBack_bind fun s hs => readsBack_bind fun t ht => readsBack_ite fun hc => readsBack_some <| encodes_of_eq rfl hc <| by
    rw [line_inverts x _ rfl, line_inverts y _ rfl, typeOf_inverts _ s hs, typeOf_inverts _ t ht, cat4_slices]

theorem readsBack_vcmp : ReadsBack ⟨0x3f, x, y, z⟩ (vcmpOf ⟨0x3f, x, y, z⟩) :=
  readsBack_bind fun k hk => readsBack_ite fun ⟨hx, hm⟩ => readsBack_some <| encodes_of_eq rfl (bne_iff_ne.mpr hm) <| by
    rw [line_inverts y _ rfl, line_inverts z _ rfl, condOf?_inverts _ k hk, catCmp_slices hx]

theorem readsBack_vscan : ReadsBack ⟨0x4d, x, y, z⟩ (vscanOf ⟨0x4d, x, y, z⟩) := by
  unfold vscanOf
  dsimp only
  split
  case h_4 => exact readsBack_none _
  all_goals
    cases eq_ofNat ‹z.toNat = _›
    exact readsBack_some (encodes_of_eq rfl rfl (by rw [line_inverts x _ rfl, line_inverts y _ rfl]; rfl))

theorem readsBack_vred : ReadsBack ⟨0x4e, x, y, z⟩ (vredOf ⟨0x4e, x, y, z⟩) :=
  readsBack_roles six?_inverts line_inverts redOf?_inverts fun _ _ _ => ⟨rfl, rfl⟩

/-- ATOM: the space's code stands over register B (R177). -/
theorem encodes_atom {p : AtomSpace} {n : Nat} {q : AtomOp} (hp : encSpace p = .ofNat 2 n) (h : (z.extractLsb' 6 2).toNat = n)
    (hq : encAtom q = (x.extractLsb' 6 2 ++ y.extractLsb' 6 2 : BitVec 4)) :
    Encodes (.atom q (x.extractLsb' 0 6) (y.extractLsb' 0 6) p (z.extractLsb' 0 6)) ⟨0x5a, x, y, z⟩ :=
  encodes_of_eq rfl rfl (by
    rw [hp, hq, hi2_append_slice, lo2_append_slice, cat2_of_high h, cat2_slices, cat2_slices])

theorem readsBack_atom : ReadsBack ⟨0x5a, x, y, z⟩ (atomOf ⟨0x5a, x, y, z⟩) :=
  readsBack_bind fun q hq => by
    have hq := atomOf?_inverts _ q hq
    dsimp only at *
    split
    case h_1 h | h_2 h => exact readsBack_some (encodes_atom rfl h hq)
    case h_3 => exact readsBack_none _

theorem readsBack_ldm : ReadsBack ⟨0x5b, x, y, z⟩ (ldmOf ⟨0x5b, x, y, z⟩) :=
  readsBack_parts three?_inverts six?_inverts byte_inverts (k := fun m a i => if m ≠ 0 then some (.ldm m a i) else none)
    fun _ _ _ => readsBack_ite fun hm => readsBack_some ⟨rfl, bne_iff_ne.mpr hm⟩

theorem readsBack_stm : ReadsBack ⟨0x5c, x, y, z⟩ (stmOf ⟨0x5c, x, y, z⟩) :=
  readsBack_roles three?_inverts six?_inverts byte_inverts fun _ _ _ => ⟨rfl, rfl⟩

theorem readsBack_mmul : ReadsBack ⟨0x60, x, y, z⟩ (mmulOf ⟨0x60, x, y, z⟩) :=
  readsBack_bind fun a ha => readsBack_ite fun ⟨hx, hz⟩ => by
    split
    case isTrue h =>
      exact readsBack_some (encodes_of_eq rfl rfl (by rw [enc4_slice hx h, six?_inverts _ a ha, catRows_slices hz]))
    case isFalse h =>
      exact readsBack_some (encodes_of_eq rfl rfl (by rw [catZ_slice hx h, six?_inverts _ a ha, catRows_slices hz]))

theorem readsBack_mmuld : ReadsBack ⟨0x61, x, y, z⟩ (mmuldOf ⟨0x61, x, y, z⟩) :=
  readsBack_bind fun a ha => readsBack_ite fun ⟨hx, he, hz⟩ => by
    split
    case isTrue h =>
      exact readsBack_some (encodes_of_eq rfl rfl (by rw [even_slice he, enc4_slice hx h, six?_inverts _ a ha, catRows_slices hz]))
    case isFalse h =>
      exact readsBack_some (encodes_of_eq rfl rfl (by rw [even_slice he, catZ_slice hx h, six?_inverts _ a ha, catRows_slices hz]))

theorem readsBack_mstream : ReadsBack ⟨0x62, x, y, z⟩ (mstreamOf ⟨0x62, x, y, z⟩) :=
  readsBack_roles three?_inverts six?_inverts six?_inverts fun _ _ _ => ⟨rfl, rfl⟩
theorem readsBack_mldw : ReadsBack ⟨0x63, x, y, z⟩ (mldwOf ⟨0x63, x, y, z⟩) :=
  readsBack_roles (k := fun m a _ => .mldw m a) three?_inverts six?_inverts zero?_inverts fun _ _ _ => ⟨rfl, rfl⟩

theorem readsBack_mva {o : BitVec 7} {k : Line → BitVec 1 → BitVec 4 → BitVec 4 → Instr}
    (hk : ∀ d h a r, Encodes (k d h a r) ⟨o, encLine d, catHalf h a, enc4 r⟩) : ReadsBack ⟨o, x, y, z⟩ (mvaOf ⟨o, x, y, z⟩ k) :=
  readsBack_bind fun r hr => readsBack_ite fun hy => readsBack_some <| by
    have e := hk (lineOf x) (y.extractLsb' 4 1) (y.extractLsb' 0 4) r
    rwa [line_inverts x _ rfl, catHalf_slices hy, four?_inverts z r hr] at e

theorem readsBack_macz : ReadsBack ⟨0x66, x, y, z⟩ (maczOf ⟨0x66, x, y, z⟩) :=
  readsBack_roles (k := fun a _ _ => .macz a) four?_inverts zero?_inverts zero?_inverts fun _ _ _ => ⟨rfl, rfl⟩
theorem readsBack_mlay : ReadsBack ⟨0x67, x, y, z⟩ (mlayOf ⟨0x67, x, y, z⟩) :=
  readsBack_roles (k := fun l a _ => .mlay l a) two?_inverts six?_inverts zero?_inverts fun _ _ _ => ⟨rfl, rfl⟩
theorem readsBack_mwait : ReadsBack ⟨0x69, x, y, z⟩ (mwaitOf ⟨0x69, x, y, z⟩) :=
  readsBack_roles (k := fun m _ _ => .mwait m) three?_inverts zero?_inverts zero?_inverts fun _ _ _ => ⟨rfl, rfl⟩
theorem readsBack_tmvp : ReadsBack ⟨0x74, x, y, z⟩ (tmvpOf ⟨0x74, x, y, z⟩) :=
  readsBack_roles (k := fun d b _ => .tmvp d b) line_inverts four?_inverts zero?_inverts fun _ _ _ => ⟨rfl, rfl⟩
theorem readsBack_tmvn : ReadsBack ⟨0x75, x, y, z⟩ (tmvnOf ⟨0x75, x, y, z⟩) :=
  readsBack_roles (k := fun b a _ => .tmvn b a) four?_inverts line_inverts zero?_inverts fun _ _ _ => ⟨rfl, rfl⟩

/-- SPOST: the scope's code stands over the semaphore (R183). -/
theorem encodes_spost {c : PostScope} {n : Nat} {a b : BitVec 6} (hc : encPost c = .ofNat 2 n) (h : (x.extractLsb' 6 2).toNat = n)
    (ha : enc6 a = y) (hb : enc6 b = z) : Encodes (.spost c (x.extractLsb' 0 6) a b) ⟨0x78, x, y, z⟩ :=
  encodes_of_eq rfl rfl (by rw [hc, cat2_of_high h, ha, hb])

theorem readsBack_spost : ReadsBack ⟨0x78, x, y, z⟩ (spostOf ⟨0x78, x, y, z⟩) := by
  unfold spostOf
  dsimp only
  split
  case h_4 => exact readsBack_none _
  case h_1 h | h_2 h | h_3 h =>
    exact readsBack_bind fun c hc => readsBack_bind fun a ha => readsBack_bind fun b hb => by
      cases hc
      exact readsBack_some (encodes_spost rfl h (six?_inverts y a ha) (six?_inverts z b hb))

theorem readsBack_fence : ReadsBack ⟨0x7b, x, y, z⟩ (fenceOf ⟨0x7b, x, y, z⟩) :=
  readsBack_bind fun u hu => by
    rw [← zero?_inverts x u hu]
    dsimp only
    split
    case h_4 => exact readsBack_none _
    all_goals
      cases eq_ofNat ‹y.toNat = _›
      refine readsBack_bind fun k hk => readsBack_bind fun c hc => ?_
      cases hk
      exact readsBack_some (encodes_of_eq rfl rfl (by rw [← scopeOf?_inverts z c hc]; rfl))

theorem readsBack_sprint : ReadsBack ⟨0x7e, x, y, z⟩ (sprintOf ⟨0x7e, x, y, z⟩) :=
  readsBack_bind fun u hu => readsBack_bind fun v hv => by
    rw [← zero?_inverts x u hu, ← zero?_inverts y v hv]
    dsimp only
    split
    case h_3 => exact readsBack_none _
    all_goals cases eq_ofNat ‹z.toNat = _›; exact readsBack_some ⟨rfl, rfl⟩

end Slots

/-! ## The opcode map (R76, R77): the rows of each unit, taken together by the shapes of their slots -/

theorem readsBack_decodeS (f : SlotFields) : ReadsBack f (decodeS f) := by
  obtain ⟨o, x, y, z⟩ := f
  unfold decodeS
  split
  case h_1 h => cases eq_ofNat h; exact readsBack_zzz ⟨rfl, rfl⟩
  case h_2 h | h_3 h | h_4 h | h_5 h | h_6 h | h_7 h | h_8 h | h_9 h | h_10 h | h_11 h | h_12 h | h_13 h | h_14 h | h_15 h | h_16 h |
      h_25 h | h_26 h | h_27 h | h_28 h | h_29 h | h_30 h =>
    cases eq_ofNat h; exact readsBack_sss fun _ _ _ => ⟨rfl, rfl⟩
  case h_17 h | h_18 h | h_19 h => cases eq_ofNat h; exact readsBack_ssi fun _ _ _ => ⟨rfl, rfl⟩
  case h_20 h | h_21 h | h_22 h => cases eq_ofNat h; exact readsBack_ssh fun _ _ _ => ⟨rfl, rfl⟩
  case h_23 h | h_24 h => cases eq_ofNat h; exact readsBack_s16 fun _ _ => ⟨rfl, rfl⟩
  case h_31 h => cases eq_ofNat h; exact readsBack_xop
  case h_32 => exact readsBack_none _

theorem readsBack_decodeC (f : SlotFields) : ReadsBack f (decodeC f) := by
  obtain ⟨o, x, y, z⟩ := f
  unfold decodeC
  split
  case h_1 h => cases eq_ofNat h; exact readsBack_branch
  case h_2 h | h_4 h => cases eq_ofNat h; exact readsBack_zsz fun _ => ⟨rfl, rfl⟩
  case h_3 h | h_11 h | h_13 h => cases eq_ofNat h; exact readsBack_z16 fun _ => ⟨rfl, rfl⟩
  case h_5 h => cases eq_ofNat h; exact readsBack_s16 fun _ _ => ⟨rfl, rfl⟩
  case h_6 h => cases eq_ofNat h; exact readsBack_loopi
  case h_7 h | h_9 h | h_12 h => cases eq_ofNat h; exact readsBack_zzz ⟨rfl, rfl⟩
  case h_8 h => cases eq_ofNat h; exact readsBack_lidx
  case h_10 h => cases eq_ofNat h; exact readsBack_zss fun _ _ => ⟨rfl, rfl⟩
  case h_14 h => cases eq_ofNat h; exact readsBack_szs fun _ _ => ⟨rfl, rfl⟩
  case h_15 h => cases eq_ofNat h; exact readsBack_ssz fun _ _ => ⟨rfl, rfl⟩
  case h_16 h => cases eq_ofNat h; exact readsBack_tstamp
  case h_17 => exact readsBack_none _

theorem readsBack_decodeV (f : SlotFields) : ReadsBack f (decodeV f) := by
  obtain ⟨o, x, y, z⟩ := f
  unfold decodeV
  split
  case h_1 h | h_2 h | h_3 h | h_4 h | h_5 h | h_6 h | h_7 h | h_8 h | h_17 h | h_18 h | h_19 h | h_20 h | h_21 h | h_22 h | h_23 h |
      h_29 h =>
    cases eq_ofNat h; exact readsBack_ppp fun _ _ _ => ⟨rfl, rfl⟩
  case h_9 h | h_10 h | h_11 h | h_12 h | h_13 h | h_14 h => cases eq_ofNat h; exact readsBack_ppz fun _ _ => ⟨rfl, rfl⟩
  case h_15 h => cases eq_ofNat h; exact readsBack_vcvt
  case h_16 h => cases eq_ofNat h; exact readsBack_vcmp
  case h_24 h | h_25 h | h_26 h => cases eq_ofNat h; exact readsBack_pps fun _ _ _ => ⟨rfl, rfl⟩
  case h_27 h => cases eq_ofNat h; exact readsBack_psz fun _ _ => ⟨rfl, rfl⟩
  case h_28 h => cases eq_ofNat h; exact readsBack_pzz fun _ => ⟨rfl, rfl⟩
  case h_30 h => cases eq_ofNat h; exact readsBack_vscan
  case h_31 h => cases eq_ofNat h; exact readsBack_vred
  case h_32 h => cases eq_ofNat h; exact readsBack_z16 fun _ => ⟨rfl, rfl⟩
  case h_33 => exact readsBack_none _

theorem readsBack_decodeL (f : SlotFields) : ReadsBack f (decodeL f) := by
  obtain ⟨o, x, y, z⟩ := f
  unfold decodeL
  split
  case h_1 h | h_2 h => cases eq_ofNat h; exact readsBack_psi fun _ _ _ => ⟨rfl, rfl⟩
  case h_3 h | h_4 h => cases eq_ofNat h; exact readsBack_pss fun _ _ _ => ⟨rfl, rfl⟩
  case h_5 h | h_6 h => cases eq_ofNat h; exact readsBack_ssi fun _ _ _ => ⟨rfl, rfl⟩
  case h_7 h | h_8 h => cases eq_ofNat h; exact readsBack_psz fun _ _ => ⟨rfl, rfl⟩
  case h_9 h | h_10 h => cases eq_ofNat h; exact readsBack_psp fun _ _ _ => ⟨rfl, rfl⟩
  case h_11 h => cases eq_ofNat h; exact readsBack_atom
  case h_12 h => cases eq_ofNat h; exact readsBack_ldm
  case h_13 h => cases eq_ofNat h; exact readsBack_stm
  case h_14 => exact readsBack_none _

theorem readsBack_decodeM (f : SlotFields) : ReadsBack f (decodeM f) := by
  obtain ⟨o, x, y, z⟩ := f
  unfold decodeM
  split
  case h_1 h => cases eq_ofNat h; exact readsBack_mmul
  case h_2 h => cases eq_ofNat h; exact readsBack_mmuld
  case h_3 h => cases eq_ofNat h; exact readsBack_mstream
  case h_4 h => cases eq_ofNat h; exact readsBack_mldw
  case h_5 h | h_6 h => cases eq_ofNat h; exact readsBack_mva fun _ _ _ _ => ⟨rfl, rfl⟩
  case h_7 h => cases eq_ofNat h; exact readsBack_macz
  case h_8 h => cases eq_ofNat h; exact readsBack_mlay
  case h_9 h => cases eq_ofNat h; exact readsBack_z16 fun _ => ⟨rfl, rfl⟩
  case h_10 h => cases eq_ofNat h; exact readsBack_mwait
  case h_11 => exact readsBack_none _

theorem readsBack_decodeT (f : SlotFields) : ReadsBack f (decodeT f) := by
  obtain ⟨o, x, y, z⟩ := f
  unfold decodeT
  split
  case h_1 h | h_2 h => cases eq_ofNat h; exact readsBack_sss fun _ _ _ => ⟨rfl, rfl⟩
  case h_3 h | h_4 h => cases eq_ofNat h; exact readsBack_blkS fun _ _ => ⟨rfl, rfl⟩
  case h_5 h => cases eq_ofNat h; exact readsBack_tmvp
  case h_6 h => cases eq_ofNat h; exact readsBack_tmvn
  case h_7 h => cases eq_ofNat h; exact readsBack_ssz fun _ _ => ⟨rfl, rfl⟩
  case h_8 h => cases eq_ofNat h; exact readsBack_z16 fun _ => ⟨rfl, rfl⟩
  case h_9 => exact readsBack_none _

theorem readsBack_decodeQ (f : SlotFields) : ReadsBack f (decodeQ f) := by
  obtain ⟨o, x, y, z⟩ := f
  unfold decodeQ
  split
  case h_1 h => cases eq_ofNat h; exact readsBack_spost
  case h_2 h | h_3 h => cases eq_ofNat h; exact readsBack_szs fun _ _ => ⟨rfl, rfl⟩
  case h_4 h => cases eq_ofNat h; exact readsBack_fence
  case h_5 h => cases eq_ofNat h; exact readsBack_zsz fun _ => ⟨rfl, rfl⟩
  case h_6 h => cases eq_ofNat h; exact readsBack_szz fun _ => ⟨rfl, rfl⟩
  case h_7 h => cases eq_ofNat h; exact readsBack_sprint
  case h_8 => exact readsBack_none _

/-- Whatever instruction fields stand for, it is well formed and these are its fields. -/
theorem readsBack_decodeFields (f : SlotFields) : ReadsBack f (decodeFields f) := by
  unfold decodeFields
  dsimp only
  split_ifs
  · exact readsBack_decodeS f
  · exact readsBack_decodeC f
  · exact readsBack_decodeV f
  · exact readsBack_decodeL f
  · exact readsBack_decodeM f
  · exact readsBack_decodeT f
  · exact readsBack_decodeQ f

/-! ## Whole words (R55, R57) -/

theorem ofBool_stopBit (w : Word) : BitVec.ofBool (stopBit w) = w.extractLsb' 31 1 := by
  ext i hi
  obtain rfl : i = 0 := by omega
  simp [stopBit]

/-- A word is its stop bit and its fields. -/
theorem packSlot_slotFields (w : Word) : packSlot (stopBit w) (slotFields w) = w :=
  calc packSlot (stopBit w) (slotFields w)
    _ = (w.extractLsb' 31 1 ++ w.extractLsb' 24 7 ++ w.extractLsb' 16 8 ++ w.extractLsb' 8 8 ++ w.extractLsb' 0 8 :
          BitVec (1 + 7 + 8 + 8 + 8)) := by rw [← ofBool_stopBit]; rfl
    _ = w := by
      rw [BitVec.extractLsb'_append_extractLsb'_eq_extractLsb' (show 31 = 24 + 7 from rfl),
        BitVec.extractLsb'_append_extractLsb'_eq_extractLsb' (show 24 = 16 + 8 from rfl),
        BitVec.extractLsb'_append_extractLsb'_eq_extractLsb' (show 16 = 8 + 8 from rfl),
        BitVec.extractLsb'_append_extractLsb'_eq_extractLsb' (show 8 = 0 + 8 from rfl), BitVec.extractLsb'_eq_self]

/-- A word decodes to an instruction where its OP is assigned and its fields stand for the instruction. -/
theorem decodeSlot_eq_ok {w : Word} {i : Instr} :
    decodeSlot w = .ok i ↔ opAssigned (slotFields w).op.toNat = true ∧ decodeFields (slotFields w) = some i := by
  unfold decodeSlot
  split
  · cases decodeFields (slotFields w) <;> simp_all
  · simp_all

theorem decodeSlot_eq_reservedOp {w : Word} : decodeSlot w = .error .reservedOp ↔ opAssigned (slotFields w).op.toNat = false := by
  unfold decodeSlot
  split
  · cases decodeFields (slotFields w) <;> simp_all
  · simp_all

theorem decodeSlot_encodes {w : Word} {i : Instr} (h : decodeSlot w = .ok i) : Encodes i (slotFields w) :=
  readsBack_decodeFields _ i (decodeSlot_eq_ok.mp h).2

/-- The unassigned numbers of R76. -/
theorem opAssigned_eq_false {n : Nat} (h : n < 128) :
    opAssigned n = false ↔ n = 0x1F ∨ (0x5D ≤ n ∧ n ≤ 0x5F) ∨ (0x6A ≤ n ∧ n ≤ 0x6F) ∨ n = 0x7F := by
  simp [opAssigned]
  omega

/-- Settles O2: the fields of a word that decodes are those of its instruction (`readsBack_decodeFields`), and with the stop bit they are
the whole word. -/
theorem decodedWordsEncodeBack : Obligations.DecodedWordsEncodeBack := fun w i h => by
  obtain ⟨he, hw⟩ := decodeSlot_encodes h
  refine ⟨hw, ?_, slotFields w, he, rfl, rfl, rfl, rfl, rfl⟩
  rw [encode, he, Option.map_some, packSlot_slotFields]

/-- Settles O3: OP is refused where `opAssigned` says no, and any other word either stands for an instruction or has a bad field. -/
theorem reservedOpcodesAreRefused : Obligations.ReservedOpcodesAreRefused := fun w => by
  refine ⟨decodeSlot_eq_reservedOp.trans (opAssigned_eq_false (slotFields w).op.isLt), fun hr => ?_⟩
  cases h : decodeSlot w with
  | ok i => exact .inr ⟨i, (decodeSlot_encodes h).2, rfl⟩
  | error e =>
    cases e with
    | reservedOp => exact absurd h hr
    | badField => exact .inl rfl

/-- Settles O4: each word is cut into its fields and read by the row of its OP. -/
theorem wordsOfTheSpecDecode : Obligations.WordsOfTheSpecDecode :=
  ⟨rfl, rfl, rfl, rfl, rfl, rfl, rfl, rfl, rfl, rfl, rfl, rfl, rfl, rfl, rfl⟩

end Sys2Proof
end

section
namespace Sys2Proof.Laws.Encoding

/-- Every instruction has what `slot` or `event` says of it: a slot by the lemma of its own encoding. -/
theorem statement_holds (i : Instr) : Statement i := by
  cases i with
  | nop => exact nop | add => exact add _ _ _ | sub => exact sub _ _ _ | mul => exact mul _ _ _ | mulh => exact mulh _ _ _
  | mulhu => exact mulhu _ _ _ | div => exact div _ _ _ | divu => exact divu _ _ _ | rem => exact rem _ _ _ | remu => exact remu _ _ _
  | and => exact and _ _ _ | or => exact or _ _ _ | xor => exact xor _ _ _ | shl => exact shl _ _ _ | shr => exact shr _ _ _
  | sra => exact sra _ _ _ | addi => exact addi _ _ _ | andi => exact andi _ _ _ | ori => exact ori _ _ _ | shli => exact shli _ _ _
  | shri => exact shri _ _ _ | srai => exact srai _ _ _ | setlo => exact setlo _ _ | sethi => exact sethi _ _ | seq => exact seq _ _ _
  | slt => exact slt _ _ _ | sltu => exact sltu _ _ _ | min => exact min _ _ _ | max => exact max _ _ _ | sel => exact sel _ _ _
  | clz => exact clz _ _ | popc => exact popc _ _ | brev => exact brev _ _ | sextb => exact sextb _ _ | sexth => exact sexth _ _
  | zextb => exact zextb _ _ | zexth => exact zexth _ _ | abs => exact abs _ _ | not => exact not _ _ | br => exact br _
  | brz => exact brz _ _ | brnz => exact brnz _ _ | brlz => exact brlz _ _ | jr => exact jr _ | call => exact call _
  | callr => exact callr _ | loop => exact loop _ _ | loopi => exact loopi _ _ | lbrk => exact lbrk | lidx => exact lidx _ _
  | pend => exact pend | segchk => exact segchk _ _ | trap => exact trap _ | rte => exact rte | bkpt => exact bkpt _
  | movk => exact movk _ _ | kmov => exact kmov _ _ | tstamp => exact tstamp _ | vadd => exact vadd _ _ _ | vsub => exact vsub _ _ _
  | vmul => exact vmul _ _ _ | vfma => exact vfma _ _ _ | vfms => exact vfms _ _ _ | vfnma => exact vfnma _ _ _
  | vmin => exact vmin _ _ _ | vmax => exact vmax _ _ _ | vabs => exact vabs _ _ | vneg => exact vneg _ _ | vrcp => exact vrcp _ _
  | vrsq => exact vrsq _ _ | vexp2 => exact vexp2 _ _ | vlog2 => exact vlog2 _ _ | vcvt => exact vcvt _ _ _ _
  | vcmp => exact vcmp _ _ _ _ | vsel => exact vsel _ _ _ | vand => exact vand _ _ _ | vor => exact vor _ _ _ | vxor => exact vxor _ _ _
  | vshl => exact vshl _ _ _ | vshr => exact vshr _ _ _ | vsra => exact vsra _ _ _ | vadds => exact vadds _ _ _
  | vmuls => exact vmuls _ _ _ | vfmas => exact vfmas _ _ _ | vbcast => exact vbcast _ _ | viota => exact viota _
  | vshuf => exact vshuf _ _ _ | vscan => exact vscan _ _ _ | vred => exact vred _ _ _ | vcfg => exact vcfg _ | ldl => exact ldl _ _ _
  | stl => exact stl _ _ _ | ldlx => exact ldlx _ _ _ | stlx => exact stlx _ _ _ | ldw => exact ldw _ _ _ | stw => exact stw _ _ _
  | ldc => exact ldc _ _ | stc => exact stc _ _ | ldg => exact ldg _ _ _ | stg => exact stg _ _ _ | atom => exact atom _ _ _ _ _
  | ldm => exact ldm _ _ _ | stm => exact stm _ _ _ | mmul => exact mmul _ _ _ _ | mmulz => exact mmulz _ _ _ _
  | mmuld => exact mmuld _ _ _ _ | mmuldz => exact mmuldz _ _ _ _ | mstream => exact mstream _ _ _ | mldw => exact mldw _ _
  | mva => exact mva _ _ _ _ | mvaz => exact mvaz _ _ _ _ | macz => exact macz _ | mlay => exact mlay _ _ | mcfg => exact mcfg _
  | mwait => exact mwait _ | trise => exact trise _ _ _ | tfall => exact tfall _ _ _ | tld => exact tld _ _ | tst => exact tst _ _
  | tmvp => exact tmvp _ _ | tmvn => exact tmvn _ _ | tshp => exact tshp _ _ | tcfg => exact tcfg _ | spost => exact spost _ _ _ _
  | swait => exact swait _ _ | spoll => exact spoll _ _ | fence => exact fence _ _ | cpy => exact cpy _ | cpyq => exact cpyq _
  | sprintClaim => exact sprintClaim | sprintRelease => exact sprintRelease
  | _ => exact event rfl

/-- Settles O1: each slot instruction has its lemma in `Laws.Encoding`, and every other instruction is an event. -/
theorem slotWordsDecodeToTheirInstruction : Obligations.SlotWordsDecodeToTheirInstruction := statement_holds

end Sys2Proof.Laws.Encoding
end

section
namespace Sys2Proof.Machine

/-! ## NOP (R78) -/

theorem exec_nop (s : State) : exec .nop s = s.runPure "NOP" .nop fun t => t := rfl

/-- A slot that is not its bundle's last, uses no bank and sends nothing leaves its bundle at the next slot. -/
theorem finishSlot_inside (s : State) (b : Inflight) (w : Bool) (y : Tile) (fl : Flow) (hb : b.next + 1 < b.words.length) :
    s.finishSlot s.focus b w (.done y [] {} fl) =
      s.setTile s.focus { y with inflight := some { b with next := b.next + 1, atomBack := none } } := by
  simp [State.finishSlot, State.commitSlot, hb]

/-- Settles O14: inside its bundle a NOP commits by `finishSlot_inside`, at the end of it by `runSlot_goesOn`, each with the tile it found. -/
theorem nopMovesOnlyTheBookkeeping : Obligations.NopMovesOnlyTheBookkeeping := fun s b h => by
  refine ⟨fun hb => ?_, fun hb => ?_⟩
  · rw [exec_nop, State.runPure, runSlot_eq h]
    exact congrArg Host.Outcome.next (finishSlot_inside s b _ s.here .seq hb)
  · exact runSlot_goesOn h hb (exec_nop s) rfl h.leaf h.goes rfl rfl

/-! ## What is due before K -/

/-- What an entry owes before a cycle it owes before any later one. -/
theorem owes_mono {t : Tile} {c d : Nat} (h : c ≤ d) {e : SbEntry} (ho : t.owes c e = true) : t.owes d e = true := by
  unfold Tile.owes at *
  cases hd : t.due e with
  | none => simp [hd] at ho
  | some n =>
    simp only [hd, Bool.and_eq_true, decide_eq_true_eq] at *
    exact ⟨Nat.lt_of_lt_of_le ho.1 h, ho.2⟩

theorem owed_mono {s : State} {i : TileId} {c d : Nat} (h : c ≤ d) (ho : s.owed i c = true) : s.owed i d = true := by
  simp only [State.owed, Bool.or_eq_true, List.any_eq_true, Bool.and_eq_true] at *
  rcases ho with ⟨e, he, hw⟩ | ⟨p, hp, hi, hd⟩
  · exact .inl ⟨e, he, owes_mono h hw⟩
  · refine .inr ⟨p, hp, hi, ?_⟩
    cases hq : p.due with
    | none => simp [hq] at hd
    | some n =>
      simp only [hq, Option.any_some, decide_eq_true_eq] at *
      exact Nat.lt_of_lt_of_le hd h

theorem le_foldl_max {α : Type} (f : α → Nat) : ∀ (xs : List α) (m : Nat), m ≤ xs.foldl (fun m x => Nat.max m (f x)) m
  | [], _ => Nat.le_refl _
  | x :: xs, m => Nat.le_trans (Nat.le_max_left m (f x)) (le_foldl_max f xs _)

/-- A bundle that is not held commits no earlier for what its slots waited for. -/
theorem commitCycle_le_passK (t : Tile) {b : Inflight} (h : b.hold = none) : commitCycle t b ≤ commitCycle t (b.passK t) := by
  have hh : b.heldTo ≤ (b.passK t).heldTo := by
    simpa [Inflight.passK, Inflight.released, h] using le_foldl_max t.releaseOf b.rest b.heldTo
  exact max_le_max le_rfl (Nat.succ_le_succ hh)

/-! ## A move of the focus tile -/

theorem step_eq_moveFocus {s : State} (hi : s.inbox = []) (hp : s.regs.powered = true) : step s = moveFocus s := by
  simp [step, stepOnce, hi, hp]

/-- Nothing comes before the slot or the issue of the tile: no cut of its launch, no sleep, no deadline. -/
def State.Free (s : State) : Prop :=
  s.cutDue s.here.pt.handle = false ∧ s.sleepDue s.here = false ∧ (s.deadlineDue s.here && s.here.deadlineHere) = false

theorem moveFocus_bundle {s : State} {b : Inflight} (hb : s.here.inflight = some b) : moveFocus s = bundleStep s b := by
  simp only [State.here] at hb
  simp only [moveFocus, hb]

/-- A due cut comes first (R299). -/
theorem moveFocus_cut {s : State} (hc : s.cutDue s.here.pt.handle = true) :
    moveFocus s = exec (.preemptDeadline s.here.pt.handle) s := by
  simp only [State.here] at *
  cases hb : (s.tile s.focus).inflight with
  | none => simp only [moveFocus, hb, hc, if_true]
  | some b => simp only [moveFocus, hb, bundleStep, hc, if_true]

/-- With no bundle in flight one is issued (R61). -/
theorem moveFocus_issues {s t : State} (hf : s.Free) (hb : s.here.inflight = none)
    (ht : exec (.bundleIssue s.focus (Config.stall s.draws)) { s with draws := s.draws + 1 } = .next t) : moveFocus s = .next t := by
  obtain ⟨hc, -, hd⟩ := hf
  simp only [State.here] at *
  simp [moveFocus, hb, hc, hd, ht]

/-- A bundle that is about to pass K holds where one of its slots does (R80). -/
theorem bundleStep_holds {s : State} {b : Inflight} {k : HoldKind} (hf : s.Free) (hh : b.hold = none) (ha : b.atomSent = false)
    (ho : s.owed s.focus (commitCycle s.here b) = false) (hk : gateHold s s.focus = some k) :
    bundleStep s b = .next ((s.setTile s.focus { s.here.beside s.focus (commitCycle s.here b) with
      inflight := some { b with hold := some k, waitFrom := s.time } }).boundary s.focus) := by
  obtain ⟨hc, hs, hd⟩ := hf
  simp only [State.here] at *
  simp [bundleStep, hc, hs, hd, hh, ha, ho, hk]

theorem ready_iff {b : Inflight} : b.ready = true ↔ b.flagsDue = 0 ∧ b.hold = none ∧ b.atomSent = false ∧ b.next < b.words.length := by
  simp [Inflight.ready, and_assoc]

/-- A bundle as its next slot finds it: it has passed K. -/
def Inflight.past (b : Inflight) (t : Tile) : Inflight := if b.passed then b else b.passK t

theorem commitCycle_le_past (t : Tile) {b : Inflight} (h : b.hold = none) : commitCycle t b ≤ commitCycle t (b.past t) := by
  unfold Inflight.past
  split
  · exact Nat.le_refl _
  · exact commitCycle_le_passK t h

/-- The slot that a bundle has come to is the same past K. -/
theorem past_slot (b : Inflight) (t : Tile) : (b.past t).words[(b.past t).next]? = b.words[b.next]? := by
  unfold Inflight.past; split <;> rfl

/-- A bundle that nothing holds passes K, and its next slot runs. -/
theorem bundleStep_runs {s : State} {b : Inflight} {i : Instr} (hf : s.Free) (hw : b.words[b.next]?.map decodeSlot = some (.ok i))
    (hr : b.ready = true) (hk : gateHold s s.focus = none) (ho : s.owed s.focus (commitCycle s.here (b.past s.here)) = false) :
    bundleStep s b = exec i (s.setTile s.focus { s.here with inflight := some (b.past s.here) }) := by
  obtain ⟨hc, hs, hd⟩ := hf
  obtain ⟨hq, hh, ha, -⟩ := ready_iff.mp hr
  have hfirst : s.owed s.focus (commitCycle s.here b) = false :=
    Bool.eq_false_iff.mpr fun h => Bool.eq_false_iff.mp ho (owed_mono (commitCycle_le_past _ hh) h)
  have hslot := past_slot b s.here
  unfold Inflight.past at *
  simp only [State.here] at *
  simp [bundleStep, hc, hs, hd, hh, ha, hfirst, hk, ho, hq, hr, slotStep, hslot, hw]

/-! ## Holds at K -/

theorem slotHold_eq_none {s : State} {i : TileId} {t : Tile} {n : Nat} {ins : Instr} (h : mayHold ins = false) :
    slotHold s i t n ins = none := by
  unfold slotHold
  split
  · rfl
  · split
    case h_7 => rfl
    all_goals cases h

theorem gateFrom_eq_none {s : State} {i : TileId} {t : Tile} {all : List Instr} : ∀ {is : List Instr} {n : Nat},
    (∀ j ∈ is, mayHold j = false) → gateFrom s i t all n is = none
  | [], _, _ => rfl
  | j :: is, n, h => by
    simp only [gateFrom, slotHold_eq_none (h j (List.mem_cons_self ..))]
    exact gateFrom_eq_none fun k hk => h k (List.mem_cons_of_mem _ hk)

theorem mem_rest {b : Inflight} {j : Instr} : j ∈ b.rest ↔ ∃ w ∈ b.words.drop b.next, decodeSlot w = .ok j := by
  simp only [Inflight.rest, List.mem_filterMap]
  refine exists_congr fun w => and_congr_right fun _ => ?_
  cases decodeSlot w <;> simp

theorem gateHold_eq_none {s : State} {b : Inflight} (hb : s.here.inflight = some b)
    (h : b.next ≠ b.start ∨ b.passed = true ∨ ∀ j ∈ b.rest, mayHold j = false) : gateHold s s.focus = none := by
  simp only [State.here] at hb
  simp only [gateHold, hb]
  split
  case isFalse => rfl
  case isTrue hg =>
    rcases h with h | h | h
    · simp [h] at hg
    · simp [h] at hg
    · exact gateFrom_eq_none h

/-- Six kinds of slot may hold their bundle. -/
theorem mayHold_eq_false {i : Instr} (hp : i ≠ .pend) (hs : ∀ e r, i ≠ .swait e r) (hf : ∀ k c, i ≠ .fence k c)
    (hm : ∀ m, i ≠ .mwait m) (hc : ∀ r, i ≠ .cpy r) (hst : ∀ m r e, i ≠ .mstream m r e) : mayHold i = false := by
  unfold mayHold
  split <;> simp_all

/-- Settles O5: a step without input is a move of the focus tile (`step_eq_moveFocus`), and each clause is one way that move goes. -/
theorem aStepRunsTheDecodedInstruction : Obligations.AStepRunsTheDecodedInstruction := by
  unfold Obligations.AStepRunsTheDecodedInstruction
  intro s hi hp x free
  rw [step_eq_moveFocus hi hp]
  refine ⟨moveFocus_cut, fun b i hf hb hw hr hk => ?_, fun b k hf hb hh ha ho hk => ?_, fun b hb hor => ?_,
    fun t hf hb ht => moveFocus_issues hf hb ht⟩
  · intro past ho
    rw [moveFocus_bundle hb, bundleStep_runs hf hw hr hk ho]
    refine ⟨rfl, fun hpass => ?_⟩
    have hpast : b.past s.here = b := if_pos hpass
    rw [hpast, ← hb]
    exact congrArg (exec i) (setTile_self s s.focus)
  · rw [moveFocus_bundle hb]
    exact bundleStep_holds hf hh ha ho hk
  · refine gateHold_eq_none hb (hor.imp_right (Or.imp_right fun h j hj => ?_))
    obtain ⟨w, hw, hd⟩ := mem_rest.mp hj
    obtain ⟨h1, h2, h3, h4, h5, h6⟩ := h w hw j hd
    exact mayHold_eq_false h1 h2 h3 h4 h5 h6

end Sys2Proof.Machine
end

section
namespace Sys2Proof.Machine

/-! ## The scalar forms (R117) -/

/-- A shift amount is the register modulo 32. -/
theorem amount_eq (b : Word) : amount b = b.toNat % 32 := by simp [amount]

/-- Zero-extended words multiply to their product's low half as the words themselves do. -/
theorem mul_low (a b : Word) : a * b = (a.setWidth 64 * b.setWidth 64).extractLsb' 0 32 := by
  apply BitVec.eq_of_toNat_eq
  simp [BitVec.toNat_mul]

theorem mulHighU_eq (a b : Word) : mulHighU a b = (a.setWidth 64 * b.setWidth 64).extractLsb' 32 32 := by
  apply BitVec.eq_of_toNat_eq
  simp [mulHighU, Nat.shiftRight_eq_div_pow]
  omega

/-- The high half of an integer taken modulo 2^64. -/
theorem ofInt_high (p : Int) : (BitVec.ofInt 64 p).extractLsb' 32 32 = BitVec.ofInt 32 (p / 2 ^ 32) := by
  apply BitVec.eq_of_toNat_eq
  simp [Nat.shiftRight_eq_div_pow, BitVec.toNat_ofInt]
  omega

theorem mulHigh_eq (a b : Word) : mulHigh a b = (a.signExtend 64 * b.signExtend 64).extractLsb' 32 32 := by
  rw [mulHigh, ← ofInt_high, BitVec.ofInt_mul]
  rfl

theorem flagWord_beq (a b : Word) : flagWord (a == b) = if a = b then 1 else 0 := by
  by_cases h : a = b <;> simp [flagWord, h]

theorem minWord_eq (a b : Word) : minWord a b = if b.slt a then b else a := by
  by_cases h : a.toInt ≤ b.toInt
  · simp [minWord, h, BitVec.slt]
  · simp [minWord, h, BitVec.slt]

/-- The larger of two: of equal ones either is the other. -/
theorem maxWord_eq (a b : Word) : maxWord a b = if a.slt b then b else a := by
  rcases lt_trichotomy a.toInt b.toInt with h | h | h
  · simp [maxWord, BitVec.slt, h, h.le]
  · simp [maxWord, BitVec.slt, BitVec.eq_of_toInt_eq h]
  · simp [maxWord, BitVec.slt, h.not_gt, h.not_ge]

/-- A scalar form whose meaning `e` puts a function of the tile into its destination writes that function. -/
theorem writes_of {i : Instr} {mn : String} {sd : SReg} {f g : Tile → Word} (e : State → Result) (hx : exec i = e)
    (he : e = fun s => s.runPure mn i fun t => t.setS sd (f t)) (hf : ∀ t, f t = g t) : Writes i sd g :=
  fun s _ h => writes_scalar h (congrFun (hx.trans he) s) (congrArg (s.here.setS sd) (hf s.here))

/-- Settles O11: each form runs its function (`writes_of`), and the functions are those of the table. -/
theorem scalarFormsWriteTheTablesFunction : Obligations.ScalarFormsWriteTheTablesFunction := fun sd sa sb imm n =>
  ⟨writes_of (execAdd sd sa sb) rfl rfl fun _ => rfl,
    writes_of (execSub sd sa sb) rfl rfl fun _ => rfl,
    writes_of (execMul sd sa sb) rfl rfl fun _ => mul_low ..,
    writes_of (execMulh sd sa sb) rfl rfl fun _ => mulHigh_eq ..,
    writes_of (execMulhu sd sa sb) rfl rfl fun _ => mulHighU_eq ..,
    writes_of (execAnd sd sa sb) rfl rfl fun _ => rfl,
    writes_of (execOr sd sa sb) rfl rfl fun _ => rfl,
    writes_of (execXor sd sa sb) rfl rfl fun _ => rfl,
    writes_of (execShl sd sa sb) rfl rfl fun _ => by rw [amount_eq],
    writes_of (execShr sd sa sb) rfl rfl fun _ => by rw [amount_eq],
    writes_of (execSra sd sa sb) rfl rfl fun _ => by rw [amount_eq],
    writes_of (execAddi sd sa imm) rfl rfl fun _ => rfl,
    writes_of (execAndi sd sa imm) rfl rfl fun _ => rfl,
    writes_of (execOri sd sa imm) rfl rfl fun _ => rfl,
    writes_of (execShli sd sa n) rfl rfl fun _ => rfl,
    writes_of (execShri sd sa n) rfl rfl fun _ => rfl,
    writes_of (execSrai sd sa n) rfl rfl fun _ => rfl,
    writes_of (execSeq sd sa sb) rfl rfl fun _ => flagWord_beq ..,
    writes_of (execSlt sd sa sb) rfl rfl fun _ => rfl,
    writes_of (execSltu sd sa sb) rfl rfl fun _ => rfl,
    writes_of (execMin sd sa sb) rfl rfl fun _ => minWord_eq ..,
    writes_of (execMax sd sa sb) rfl rfl fun _ => maxWord_eq ..⟩

end Sys2Proof.Machine
end

section
namespace Sys2Proof.Machine

/-! ## Division (R118) -/

/-- The word of a well-formed slot's fields decodes to it. -/
theorem decodeSlot_of_encodeFields {i : Instr} {f : SlotFields} (hw : i.wf = true) (he : encodeFields i = some f) (stop : Bool) :
    decodeSlot (packSlot stop f) = .ok i := by
  have h := Laws.Encoding.statement_holds i hw stop
  simp only [Instr.isSlot, encode, he, Option.isSome_some, if_true, Option.map_some, Option.some.injEq] at h
  obtain ⟨w, rfl, hd, -⟩ := h
  exact hd

theorem enc6_eq_setWidth (r : BitVec 6) : enc6 r = r.setWidth 8 := by revert r; decide

/-- A slot of three scalar registers under an OP. -/
theorem decodeSlot_sss {i : Instr} {op : BitVec 7} {sd sa sb : SReg} (hw : i.wf = true)
    (he : encodeFields i = some ⟨op, enc6 sd, enc6 sa, enc6 sb⟩) (stop : Bool) :
    decodeSlot (packSlot stop ⟨op, sd.setWidth 8, sa.setWidth 8, sb.setWidth 8⟩) = .ok i := by
  simp only [← enc6_eq_setWidth]
  exact decodeSlot_of_encodeFields hw he stop

theorem udiv_eq (a b : Word) : udiv a b = if b = 0 then 0xFFFFFFFF else a / b := by
  unfold udiv
  rw [← BitVec.toNat_udiv, BitVec.ofNat_toNat, BitVec.setWidth_eq]

theorem urem_eq (a b : Word) : urem a b = if b = 0 then a else a % b := by
  unfold urem
  rw [← BitVec.toNat_umod, BitVec.ofNat_toNat, BitVec.setWidth_eq]

/-- The remainder of the truncating division, as a word. -/
theorem ofInt_tmod (a b : Word) : BitVec.ofInt 32 (a.toInt.tmod b.toInt) = a - b * BitVec.ofInt 32 (a.toInt.tdiv b.toInt) := by
  rw [Int.tmod_def, Int.sub_eq_add_neg, BitVec.ofInt_add, BitVec.ofInt_neg, BitVec.ofInt_mul, BitVec.ofInt_toInt, BitVec.ofInt_toInt,
    BitVec.sub_eq_add_neg]

theorem srem_eq (a b : Word) : srem a b =
    if b = 0 then a else if a = 0x80000000 ∧ b = 0xFFFFFFFF then 0 else a - b * BitVec.ofInt 32 (a.toInt.tdiv b.toInt) := by
  rw [← ofInt_tmod]; rfl

/-- Settles O12: the words by the encoder's rows, the division by its definition, and each remainder as what the division leaves. -/
theorem divisionTruncatesAndSettlesItsCorners : Obligations.DivisionTruncatesAndSettlesItsCorners := fun sd sa sb =>
  ⟨fun stop => ⟨decodeSlot_sss rfl rfl stop, decodeSlot_sss rfl rfl stop, decodeSlot_sss rfl rfl stop, decodeSlot_sss rfl rfl stop⟩,
    writes_of (execDiv sd sa sb) rfl rfl fun _ => rfl,
    writes_of (execDivu sd sa sb) rfl rfl fun _ => udiv_eq ..,
    writes_of (execRem sd sa sb) rfl rfl fun _ => srem_eq ..,
    writes_of (execRemu sd sa sb) rfl rfl fun _ => urem_eq ..⟩

end Sys2Proof.Machine
end

section
namespace Sys2Proof.Machine

/-! ## Functions of one operand (R119-R121) -/

/-- The leading zeros of a word other than 0: a 1 stands below them, and nothing above it. -/
theorem leadingZeros_spec {a : Word} (ha : a ≠ 0) : (leadingZeros a).toNat < 32 ∧ a.getLsbD (31 - (leadingZeros a).toNat) = true ∧
    ∀ j, 31 - (leadingZeros a).toNat < j → a.getLsbD j = false := by
  have h0 : a.toNat ≠ 0 := fun h => ha (BitVec.eq_of_toNat_eq h)
  have hl : Nat.log2 a.toNat < 32 := (Nat.log2_lt h0).mpr a.isLt
  have hn : (leadingZeros a).toNat = 31 - Nat.log2 a.toNat := by
    rw [leadingZeros, if_neg ha, BitVec.toNat_ofNat, Nat.mod_eq_of_lt (by omega)]
  have hi : 31 - (31 - Nat.log2 a.toNat) = Nat.log2 a.toNat := by omega
  rw [hn, hi]
  refine ⟨by omega, Nat.testBit_log2 h0, fun j hj => Nat.testBit_lt_two_pow ?_⟩
  exact Nat.lt_of_lt_of_le Nat.lt_log2_self (Nat.pow_le_pow_right (by omega) hj)

/-- Adding up bits counts those that are set. -/
theorem foldl_bits (p : Nat → Bool) : ∀ (is : List Nat) (n : Nat), is.foldl (fun n i => n + (p i).toNat) n = n + (is.filter p).length
  | [], _ => rfl
  | i :: is, n => by
    rw [List.foldl_cons, foldl_bits p is]
    cases h : p i <;> simp [h]
    omega

theorem popCount_toNat (a : Word) : (popCount a).toNat = ((List.range 32).filter fun j => a.getLsbD j).length := by
  have hle : ((List.range 32).filter fun j => a.getLsbD j).length ≤ 32 := List.length_filter_le ..
  rw [popCount, foldl_bits, Nat.zero_add, BitVec.toNat_ofNat, Nat.mod_eq_of_lt (Nat.lt_of_le_of_lt hle (by decide))]

/-- Bits shifted in from below stand in the opposite order. -/
theorem testBit_foldl_bits (p : Nat → Bool) : ∀ n j : Nat, j < n →
    ((List.range n).foldl (fun m i => 2 * m + (p i).toNat) 0).testBit j = p (n - 1 - j)
  | n + 1, 0, _ => by
    rw [List.range_succ, List.foldl_concat]
    cases h : p n <;> simp [h]
  | n + 1, j + 1, h => by
    have ih := testBit_foldl_bits p n j (by omega)
    rw [List.range_succ, List.foldl_concat, Nat.testBit_succ]
    have hd : ∀ m : Nat, (2 * m + (p n).toNat) / 2 = m := fun m => by cases p n <;> simp; omega
    rw [hd, ih]
    congr 1
    omega

theorem bitReverse_getLsbD (a : Word) {j : Nat} (hj : j < 32) : (bitReverse a).getLsbD j = a.getLsbD (31 - j) := by
  rw [bitReverse, BitVec.getLsbD_ofNat, testBit_foldl_bits _ 32 j hj]
  simp [hj]

theorem append_zero_eq_shift (imm : BitVec 16) : (imm ++ 0#16 : BitVec 32) = imm.setWidth 32 <<< 16 := by
  rw [BitVec.shiftLeft_eq_concat_of_lt (by decide)]
  simp [BitVec.extractLsb'_setWidth_of_le]

/-- The low bits of a word, by a mask. -/
theorem low_eq_and (a : Word) {k : Nat} (hk : k < 32) : (a.setWidth k).setWidth 32 = a &&& BitVec.ofNat 32 (2 ^ k - 1) := by
  have h : 2 ^ k < 2 ^ 32 := Nat.pow_lt_pow_right (by decide) hk
  have hm : a.toNat % 2 ^ k < 2 ^ k := Nat.mod_lt _ (Nat.two_pow_pos k)
  apply BitVec.eq_of_toNat_eq
  rw [BitVec.toNat_and, BitVec.toNat_ofNat, Nat.mod_eq_of_lt (by omega : 2 ^ k - 1 < 2 ^ 32), Nat.and_two_pow_sub_one_eq_mod,
    BitVec.toNat_setWidth, BitVec.toNat_setWidth, Nat.mod_eq_of_lt (by omega)]

/-- A word is negative where its bit 31 is set. -/
theorem absWord_eq (a : Word) : absWord a = if a.getLsbD 31 then 0 - a else a := by
  have h : a.getLsbD 31 = decide (a.toInt < 0) := by rw [← BitVec.msb_eq_toInt, BitVec.msb_eq_getLsbD_last]
  rw [h]
  simp [absWord]

/-- Settles O13: each form runs its function (`writes_of`); the bits of CLZ, POPC and BREV are those of their loops. -/
theorem constantsSelectionAndOneOperandFunctions : Obligations.ConstantsSelectionAndOneOperandFunctions := fun sd sa sb imm =>
  ⟨writes_of (execSetlo sd imm) rfl rfl fun _ => rfl,
    writes_of (execSethi sd imm) rfl rfl fun _ => append_zero_eq_shift imm,
    writes_of (execSel sd sa sb) rfl rfl fun _ => rfl,
    ⟨leadingZeros, writes_of (execClz sd sa) rfl rfl fun _ => rfl, rfl, fun _ => leadingZeros_spec⟩,
    ⟨popCount, writes_of (execPopc sd sa) rfl rfl fun _ => rfl, popCount_toNat⟩,
    ⟨bitReverse, writes_of (execBrev sd sa) rfl rfl fun _ => rfl, fun a _ => bitReverse_getLsbD a⟩,
    writes_of (execSextb sd sa) rfl rfl fun _ => by rw [← BitVec.setWidth_eq_extractLsb' (by omega)],
    writes_of (execSexth sd sa) rfl rfl fun _ => by rw [← BitVec.setWidth_eq_extractLsb' (by omega)],
    writes_of (execZextb sd sa) rfl rfl fun _ => low_eq_and _ (by decide),
    writes_of (execZexth sd sa) rfl rfl fun _ => low_eq_and _ (by decide),
    writes_of (execAbs sd sa) rfl rfl fun _ => absWord_eq _,
    writes_of (execNot sd sa) rfl rfl fun _ => rfl⟩

end Sys2Proof.Machine
end

section
namespace Sys2Proof.Machine

/-! ## Transfers (R123, R124) -/

section
variable {s : State} {i : Instr} {b : Inflight} {mn : String} {f : SlotFn} {y : Tile}

/-- A last slot that redirects the PC, which is fed. -/
theorem runSlot_redirects {pc : BitVec 16} {cut : Bool} (h : s.At i b) (hb : b.atLast) (hx : exec i s = s.runSlot mn i f)
    (hf : f s s.focus s.here b = .done y [] {} (.redirect pc true cut)) (hl : y.leafTrap = none) (hg : y.stopReq = false)
    (hk : y.k = s.here.k) : Transfers i s b y pc y.loops [pc.setWidth 32] :=
  runSlot_transfers h hb hx hf hl hg (by simp) (by rw [hk]) (by rw [hk]) rfl rfl rfl (data_endBundle _ _ _ _ (by simp))

/-- A branch is taken where its register passes its test, and goes on as any slot otherwise. -/
theorem branch_atTurn {p : Word → Bool} {r : SReg} {off : BitVec 16} (h : s.At i b) (hb : b.atLast)
    (hx : exec i s = s.runSlot mn i (branchIf p r off)) :
    if p (s.here.sreg r) then Transfers i s b s.here (b.first + off) s.here.loops [(b.first + off).setWidth 32]
    else GoesOn i s b s.here := by
  split
  case isTrue hp => exact runSlot_redirects (cut := false) h hb hx (by simp only [branchIf, hp, if_true]; rfl) h.leaf h.goes rfl
  case isFalse hp => exact runSlot_goesOn h hb hx (by simp [branchIf, hp]) h.leaf h.goes rfl rfl

theorem setS_k (t : Tile) (r : SReg) (v : Word) : (t.setS r v).k = t.k := by rw [setS_eq_scal]
theorem setS_loops (t : Tile) (r : SReg) (v : Word) : (t.setS r v).loops = t.loops := by rw [setS_eq_scal]

/-- A call leaves the word after its bundle in s63 (R123). -/
theorem call_transfers {pc : BitVec 16} (h : s.At i b) (hb : b.atLast) (hx : exec i s = s.runSlot mn i f)
    (hf : f s s.focus s.here b = .done (s.here.setS 63 (b.after.setWidth 32)) [] {} (goTo pc)) :
    Transfers i s b (s.here.setS 63 (b.after.setWidth 32)) pc s.here.loops [pc.setWidth 32] := by
  have hr := runSlot_redirects h hb hx hf ((setS_leafTrap ..).trans h.leaf) ((setS_stopReq ..).trans h.goes) (setS_k ..)
  rwa [setS_loops] at hr
end

/-- Settles O15: each transfer redirects the PC (`runSlot_redirects`), a branch where its register passes its test. -/
theorem transfersGoToTheirTargets : Obligations.TransfersGoToTheirTargets := by
  intro s b r off hb tgt reg linked jump
  refine ⟨fun h => ?_, fun h => ?_, fun h => ?_, fun h => ?_, fun h => ?_, fun h => ?_, fun h => ?_⟩
  · exact runSlot_redirects h hb (show execBr off s = _ from rfl) rfl h.leaf h.goes rfl
  · have ht := branch_atTurn h hb (show execBrz r off s = _ from rfl)
    simpa only [beq_iff_eq] using ht
  · have ht := branch_atTurn h hb (show execBrnz r off s = _ from rfl)
    simpa only [bne_iff_ne, ne_eq, ite_not] using ht
  · exact branch_atTurn h hb (show execBrlz r off s = _ from rfl)
  · exact runSlot_redirects h hb (show execJr r s = _ from rfl) rfl h.leaf h.goes rfl
  · exact call_transfers h hb (show execCall off s = _ from rfl) rfl
  · exact call_transfers h hb (show execCallr r s = _ from rfl) rfl

end Sys2Proof.Machine
end

section
namespace Sys2Proof.Machine

/-! ## Hardware loops (R126, R128) -/

section
variable {s : State} {i : Instr} {b : Inflight} {mn : String} {f : SlotFn} {count : Word} {off : BitVec 16}

/-- What LOOP and LOOPI do with a count (R126). -/
theorem pushLoop_atTurn (l : Launch) (h : s.At i b) (hb : b.atLast) (hx : exec i s = s.runSlot mn i f)
    (hf : f s s.focus s.here b = pushLoop count off s s.focus s.here b) :
    (count = 0 → Transfers i s b s.here (b.first + off) s.here.loops [(b.first + off).setWidth 32]) ∧
    (count ≠ 0 → s.here.loops.length < 6 →
      Transfers i s b s.here b.after (⟨count, 0, b.after, b.first + off - 1⟩ :: s.here.loops) []) ∧
    (count ≠ 0 → 6 ≤ s.here.loops.length → s.Handles l → TrapsTo i s b l 0x08 0) := by
  refine ⟨fun h0 => ?_, fun h0 hn => ?_, fun h0 hn hl => ?_⟩
  · exact runSlot_redirects h hb hx (hf.trans (if_pos h0)) h.leaf h.goes rfl
  · exact runSlot_transfers h hb hx (hf.trans ((if_neg h0).trans (if_neg (Nat.not_le.mpr hn)))) h.leaf h.goes (by simp) rfl rfl rfl rfl
      rfl (data_endBundle _ _ _ _ (by simp))
  · exact runSlot_traps h hl hx (hf.trans ((if_neg h0).trans (if_pos hn))) rfl (by decide)
end

/-- Settles O16: both forms push by `pushLoop`. -/
theorem loopsSkipPushOrTrap : Obligations.LoopsSkipPushOrTrap := by
  intro s b l i count off hb h hi tgt
  rcases hi with ⟨r, rfl, rfl⟩ | ⟨n, rfl, rfl⟩
  · exact pushLoop_atTurn l h hb (show execLoop r off s = _ from rfl) rfl
  · exact pushLoop_atTurn l h hb (show execLoopi n off s = _ from rfl) rfl

/-- Settles O17: LBRK redirects the PC where the loop stack holds an entry, and faults where it is empty. -/
theorem lbrkPopsTheInnermostLoop : Obligations.LbrkPopsTheInnermostLoop := by
  refine ⟨decodeSlot_of_encodeFields rfl rfl, fun s b l hb h => ⟨fun e es he => ?_, fun he hl => ?_⟩⟩
  · exact runSlot_redirects (y := { s.here with loops := es }) (cut := true) h hb (show execLbrk s = _ from rfl) (by simp only [he]) h.leaf h.goes rfl
  · exact runSlot_traps h hl (show execLbrk s = _ from rfl) (by simp only [he]) rfl (by decide)

end Sys2Proof.Machine
end

section
namespace Sys2Proof.Machine

/-! ## PEND (R131, R414) -/

/-- A PEND that has to wait holds its bundle, and its zone is settled besides. -/
theorem exec_pend_holds {s : State} {b : Inflight} (h : s.At .pend b) (hp : pendReady s.here = false) :
    exec .pend s = .next ((s.setTile s.focus { s.here with
      inflight := some { b with hold := some .pend, waitFrom := s.time },
      cutHere := s.here.cutHere || (s.here.cutReq.isSome && decide (b.start < b.next)) }).settleZone s.focus.die
        (zoneOf s.focus.site.val)) := by
  have hf : pendSlot s s.focus s.here b = .hold .pend := by simp [pendSlot, hp]
  show settled s.focus (s.runSlot "PEND" .pend pendSlot) = _
  rw [runSlot_eq h, hf]
  simp only [settled, State.finishSlot]
  rw [boundary_id _ _ (by rw [tile_setTile]; exact h.leaf) (by rw [tile_setTile]; exact h.goes)]
  rfl

@[simp] theorem zone_mapZone (s : State) (d : Fin 8) (z : Fin 4) (g : Zone → Zone) : (s.mapZone d z g).zone d z = g (s.zone d z) := by
  simp [State.zone, State.mapZone]

/-- A zone that sprints though none of its tiles claims the sprint or runs above nominal gives back its slot (R414). -/
theorem settleZone_gives_back {s : State} {d : Fin 8} {z : Fin 4} (hs : (s.zone d z).sprinting = true) (hf : (s.zone d z).fall = .none)
    (hc : ∀ i, (s.tile i).claim = false) (ha : ∀ i, (s.tile i).vf.bin = 1) : ((s.settleZone d z).zone d z).sprinting = false := by
  have hm : s.markMidpoint d z = s := by simp [State.markMidpoint, hf]
  have he : s.sprintEnding d z = true := by simp [State.sprintEnding, State.claims, hc]
  have hn : s.zoneAbove d z = false := by simp [State.zoneAbove, State.above, ha]
  simp [State.settleZone, hm, hs, he, hn]

/-- A bundle whose one word is PEND. -/
def pendBundle : Inflight :=
  ⟨0x100, [packSlot true ⟨0x28, 0, 0, 0⟩], 0, 0, KRegs.reset, 4, 0, 0, 0, 0, false, none, 0, 0, false, 0, 0, false, none, [], 0⟩

/-- A tile at that PEND with a load still pending. -/
def pendingTile : Tile :=
  { Tile.reset with act := .point, inflight := some pendBundle, sb := [⟨0, 0, 0, .ldc ⟨.row, 0⟩ none, false, 0, []⟩] }

/-- The state after reset, but with a zone that sprints though no tile claims the sprint. -/
def idleSprint : State := State.reset.mapZone 0 0 fun x => { x with sprinting := true }

/-- The zone with that tile in it. -/
def unsettledState : State := idleSprint.setTile State.reset.focus pendingTile

theorem idleSprint_tile {x : Tile} (hc : x.claim = false) (hb : x.vf.bin = 1) (i : TileId) :
    ((idleSprint.setTile State.reset.focus x).tile i).claim = false ∧ ((idleSprint.setTile State.reset.focus x).tile i).vf.bin = 1 := by
  by_cases hi : i = State.reset.focus
  · rw [hi, tile_setTile]; exact ⟨hc, hb⟩
  · rw [tile_setTile_ne _ _ hi, show idleSprint.tile i = Tile.reset from tile_reset i]; exact ⟨rfl, rfl⟩

theorem idleSprint_zone (x : Tile) : (idleSprint.setTile State.reset.focus x).zone 0 0 = { Zone.reset with sprinting := true } := by
  show (State.reset.mapZone 0 0 fun x => { x with sprinting := true }).zone 0 0 = _
  rw [zone_mapZone, zone_reset]

/-- Settling it ends the sprint. -/
theorem idleSprint_settles {x : Tile} (hc : x.claim = false) (hb : x.vf.bin = 1) :
    (((idleSprint.setTile State.reset.focus x).settleZone 0 0).zone 0 0).sprinting = false :=
  settleZone_gives_back (by rw [idleSprint_zone]) (by rw [idleSprint_zone]; rfl) (fun i => (idleSprint_tile hc hb i).1)
    fun i => (idleSprint_tile hc hb i).2

theorem unsettled_here : unsettledState.here = pendingTile := tile_setTile ..

theorem unsettled_at : unsettledState.At .pend pendBundle where
  bundle := by rw [unsettled_here]; rfl
  ready := rfl
  runs ht := by rw [unsettled_here] at ht; cases ht
  leaf := by rw [unsettled_here]; rfl
  goes := by rw [unsettled_here]; rfl

/-- Refutes O18: a PEND that holds its bundle withdraws no claim, and yet its zone is settled: in `unsettledState` the zone of the
waiting tile gives back its sprint slot at the hold, where the statement's second clause lets the held bundle be all that changes. -/
theorem not_pendEndsThePointOrWaits : ¬ Obligations.PendEndsThePointOrWaits := by
  intro h
  obtain ⟨-, hwaits, -⟩ := h unsettledState pendBundle rfl
  have hpending : unsettledState.here.sb ≠ [] := by rw [unsettled_here]; simp [pendingTile]
  have hready : pendReady unsettledState.here = false := by rw [unsettled_here]; rfl
  have hsame := Host.Outcome.next.inj ((hwaits unsettled_at (.inr hpending)).symm.trans (exec_pend_holds unsettled_at hready))
  rw [unsettled_here, show unsettledState.setTile unsettledState.focus = idleSprint.setTile State.reset.focus from
    funext fun x => setTile_setTile ..] at hsame
  have hzone := congrArg (fun u : State => (u.zone 0 0).sprinting) hsame
  simp only [idleSprint_zone] at hzone
  exact absurd (hzone.trans (idleSprint_settles rfl rfl)) (by decide)

end Sys2Proof.Machine
end

section
namespace Sys2Proof.Machine

/-! ## What stopping a tile keeps: the turn, the SEGCHK times of every site, and retirement (R325, R345) -/

/-- Between two states the turn stands, each site's record keeps the times of its SEGCHK mismatches, and a retired site stays retired. -/
structure State.Keeps (s t : State) : Prop where
  focus : t.focus = s.focus
  segt : ∀ i, (t.site i).live.segt0 = (s.site i).live.segt0 ∧ (t.site i).live.segt1 = (s.site i).live.segt1
  retired : ∀ i, (s.site i).live.state = .retired → (t.site i).live.state = .retired

section
variable {s t u : State}

theorem State.Keeps.refl (s : State) : s.Keeps s := ⟨rfl, fun _ => ⟨rfl, rfl⟩, fun _ h => h⟩

theorem State.Keeps.trans (h : s.Keeps t) (g : t.Keeps u) : s.Keeps u where
  focus := g.focus.trans h.focus
  segt i := ⟨(g.segt i).1.trans (h.segt i).1, (g.segt i).2.trans (h.segt i).2⟩
  retired i hr := g.retired i (h.retired i hr)

/-- Where the turn and the sites stand. -/
theorem keeps_of_sites (hf : t.focus = s.focus) (hs : t.sites = s.sites) : s.Keeps t where
  focus := hf
  segt i := by simp only [State.site, hs, and_self]
  retired i hr := by simpa only [State.site, hs] using hr

theorem MemFrame.keeps (h : MemFrame s t) : s.Keeps t := keeps_of_sites h.focus h.sites

theorem keeps_foldl {α : Type} {g : State → α → State} (h : ∀ (s : State) (x : α), s.Keeps (g s x)) : ∀ (xs : List α) (s : State), s.Keeps (xs.foldl g s)
  | [], s => .refl s
  | x :: xs, s => (h s x).trans (keeps_foldl h xs _)

theorem keeps_ite {c : Prop} [Decidable c] (h : s.Keeps t) (g : s.Keeps u) : s.Keeps (if c then t else u) := by
  split
  · exact h
  · exact g
end

/-! ### Sites -/

/-- A site replaced by one with the same times, which is retired if it was. -/
theorem keeps_setSite (s : State) (i : TileId) {x : Site} (h0 : x.live.segt0 = (s.site i).live.segt0)
    (h1 : x.live.segt1 = (s.site i).live.segt1) (hr : (s.site i).live.state = .retired → x.live.state = .retired) :
    s.Keeps (s.setSite i x) where
  focus := rfl
  segt j := by
    by_cases hj : j = i
    · rw [hj, site_setSite]; exact ⟨h0, h1⟩
    · rw [site_setSite_ne s x hj]; exact ⟨rfl, rfl⟩
  retired j := by
    by_cases hj : j = i
    · rw [hj, site_setSite]; exact hr
    · rw [site_setSite_ne s x hj]; exact id

theorem keeps_writeSiteNow (s : State) (i : TileId) : s.Keeps (s.writeSiteNow i) := keeps_setSite s i rfl rfl id

theorem keeps_writeSiteDue (s : State) (i : TileId) : s.Keeps (s.writeSiteDue i) := by
  unfold State.writeSiteDue
  split
  · exact keeps_ite (keeps_setSite s i rfl rfl id) (keeps_writeSiteNow s i)
  · exact keeps_writeSiteNow s i

theorem keeps_setVerify (s : State) (i : TileId) (on : Bool) : s.Keeps (s.setVerify i on) := keeps_setSite s i rfl rfl id

/-- A site that is not retired changes its state. -/
theorem keeps_setState (s : State) (i : TileId) {g : SiteRec → SiteRec} (h0 : ∀ r, (g r).segt0 = r.segt0) (h1 : ∀ r, (g r).segt1 = r.segt1)
    (hr : (s.site i).live.state ≠ .retired) : s.Keeps (s.mapSite i g) := keeps_setSite s i (h0 _) (h1 _) fun h => absurd h hr

/-! ### Operations that change no site -/

theorem keeps_setTile (s : State) (i : TileId) (y : Tile) : s.Keeps (s.setTile i y) := keeps_of_sites rfl rfl
theorem keeps_noteAbove (s : State) (i : TileId) : s.Keeps (s.noteAbove i) := by rw [noteAbove_eq]; exact keeps_of_sites rfl rfl
theorem keeps_setFstat (s : State) (n : Nat) : s.Keeps (s.setFstat n) := (memFrame_setFstat s n).keeps

theorem keeps_captureRecord (s : State) (h : BitVec 16) (d : Fin 8) (cls : Nat) (rec : List Byte) : s.Keeps (s.captureRecord h d cls rec) := by
  have hl : s.Keeps (s.logError cls 0 d.val rec) := by
    unfold State.logError
    exact keeps_of_sites rfl rfl
  unfold State.captureRecord
  generalize s.logError cls 0 d.val rec = u at hl
  dsimp only
  split
  · exact hl
  · exact hl.trans (keeps_of_sites rfl rfl)

theorem keeps_tellFence (s : State) (i : TileId) : s.Keeps (s.tellFence i) := by
  unfold State.tellFence
  dsimp only
  split
  · exact keeps_ite (keeps_of_sites rfl rfl) (keeps_setFstat s 3)
  · exact keeps_setFstat s 3

theorem keeps_sameCycle (s : State) (i : TileId) : s.Keeps (s.sameCycle i) := by
  unfold State.sameCycle
  dsimp only
  split
  · split
    · split
      · split
        · exact .trans (t := { s with draws := s.draws + 1 }) (keeps_of_sites rfl rfl) (keeps_captureRecord _ _ _ _ _)
        · exact keeps_of_sites rfl rfl
      · exact .refl s
    · exact .refl s
  · exact .refl s

theorem keeps_notify (s : State) (q : Fin 16) (cmd : List Byte) : s.Keeps (s.notify q cmd) := by
  unfold State.notify
  have hs := keeps_ite (c := bit (field cmd 1 1) 0 = true)
    (memFrame_feStore s (field cmd 2 1) (s.queue q).ctx (field cmd 0x20 8) (bytesOfNat 8 (field cmd 0x28 8))).keeps (.refl s)
  exact hs.trans (keeps_ite (memFrame_raiseVector _ q.val).keeps (.refl _))

theorem keeps_completeRunning (s : State) (q : Fin 16) (n : Nat) : s.Keeps (s.completeRunning q n) := by
  unfold State.completeRunning
  dsimp only
  split
  · exact .refl s
  · exact .trans (t := s.setQueue q _) (keeps_of_sites rfl rfl) (keeps_notify _ q _)

theorem keeps_endPreempts (s : State) (l : Launch) (code : Nat) : s.Keeps (s.endPreempts l code) :=
  keeps_foldl (fun s _ => (memFrame_feWrite s ..).keeps.trans (keeps_completeRunning ..)) _ s

theorem keeps_leaveDies (s : State) (h : BitVec 16) : s.Keeps (s.leaveDies h) :=
  keeps_foldl (g := fun s d => s.setDie d _) (fun _ _ => keeps_of_sites rfl rfl) _ s

theorem keeps_writeRecords (s : State) (l : Launch) : s.Keeps (s.writeRecords l) :=
  keeps_ite (.refl s) ((keeps_foldl (fun s _ => (memFrame_feWrite s ..).keeps) _ s).trans (memFrame_feWrite ..).keeps)

theorem keeps_storeCword (s : State) (l : Launch) (n : Nat) : s.Keeps (s.storeCword l n) :=
  keeps_ite (.refl s) (.trans (t := s.raiseCovered l.handle (cwordScope l.record)) (keeps_of_sites rfl rfl) (memFrame_feWord ..).keeps)

theorem keeps_tellEnd (s : State) (l : Launch) : s.Keeps (s.tellEnd l) := by
  have h2 := keeps_ite (c := l.phase = .faulted) (keeps_setFstat s 2) (.refl s)
  exact (h2.trans (keeps_ite (c := l.tfence = true) (keeps_setFstat _ 3) (.refl _))).trans
    (keeps_foldl (fun s (k : Fin 16 × Nat) => keeps_completeRunning s k.1 k.2) _ _)

/-! ### The fence of a die, and the end of a launch -/

theorem keeps_fenceSites (s : State) (d : Fin 8) : s.Keeps (s.fenceSites d) := by
  refine .trans (t := { s with draws := s.draws + 1 }) (keeps_of_sites rfl rfl) (keeps_foldl (fun s i => ?_) _ _)
  dsimp only
  split
  · rename_i hi
    have hr : (s.site i).live.state ≠ .retired := fun h => by simp [h] at hi
    exact .trans (keeps_setState s i (g := fun r => { r.setState .fenced with fcause := Config.hangCause s.draws }) (fun _ => rfl)
      (fun _ => rfl) hr) ((keeps_setVerify _ i false).trans ((keeps_writeSiteNow _ i).trans (keeps_setFstat _ 3)))
  · exact keeps_setVerify s i false

theorem keeps_settleFences (s : State) : s.Keeps s.settleFences :=
  keeps_foldl (fun s d => keeps_ite (.trans (t := s.setDie d _) (keeps_of_sites rfl rfl) ((keeps_setFstat _ 1).trans (keeps_fenceSites _ d)))
    (.refl s)) _ s

theorem keeps_stopTile (s : State) (i : TileId) : s.Keeps (s.stopTile i) := keeps_of_sites rfl rfl

theorem keeps_stopLaunchTiles (s : State) (h : BitVec 16) : s.Keeps (s.stopLaunchTiles h) :=
  keeps_foldl (fun s i => keeps_ite (keeps_ite ((keeps_sameCycle s i).trans (keeps_stopTile _ i)) (keeps_setTile s i _)) (.refl s)) _ s

theorem keeps_dropLaunch (s : State) (h : BitVec 16) : s.Keeps (s.dropLaunch h) := keeps_of_sites rfl rfl

theorem keeps_reap (s : State) (h : BitVec 16) : s.Keeps (s.reap h) := by
  unfold State.reap
  split
  · rename_i l _
    refine keeps_ite ?_ (.refl s)
    refine .trans ((keeps_writeRecords s l).trans (keeps_storeCword _ l _)) (.trans
      (keeps_foldl (fun s i => keeps_ite (keeps_setTile s i (s.tile i).freed) (.refl s)) allTiles _)
      ((keeps_dropLaunch _ h).trans ((keeps_tellEnd _ l).trans (keeps_settleFences _))))
  · exact .refl s

theorem keeps_settleStopped (s : State) (i : TileId) : s.Keeps (s.settleStopped i) := by
  refine keeps_ite ?_ (.refl s)
  split
  · exact keeps_ite (keeps_reap s _) (keeps_setTile s i _)
  · exact keeps_setTile s i _

theorem keeps_faultOne (s : State) (l : Launch) : s.Keeps (s.faultOne l) :=
  .trans (t := s.setLaunch { l with phase := .faulted }) (keeps_of_sites rfl rfl) ((keeps_stopLaunchTiles _ _).trans
    ((keeps_endPreempts _ l 3).trans ((keeps_leaveDies _ _).trans (keeps_reap _ _))))

theorem keeps_faultChain : ∀ (fuel : Nat) (s : State) (h : BitVec 16), s.Keeps (s.faultChain fuel h)
  | 0, s, _ => .refl s
  | fuel + 1, s, h => by
    unfold State.faultChain
    split
    · exact .refl s
    · exact keeps_ite ((keeps_faultOne s _).trans (keeps_foldl (fun s (d : Launch) => keeps_faultChain fuel s d.handle) _ _)) (.refl s)

theorem keeps_faultLaunch (s : State) (h : BitVec 16) : s.Keeps (s.faultLaunch h) := keeps_faultChain _ s h

theorem keeps_faultShapeless (s : State) (d : Fin 8) : s.Keeps (s.faultShapeless d) :=
  keeps_foldl (fun s (l : Launch) => keeps_ite (c := s.hasRect d l.shape = true) (.refl s) (keeps_faultLaunch s l.handle)) _ s

/-! ### Retirement -/

theorem spare_of_nextSpare {s : State} {d : Fin 8} {j : TileId} (h : s.nextSpare d = some j) : (s.site j).live.state = .spare := by
  have := List.find?_some h
  simp only [Bool.and_eq_true, beq_iff_eq] at this
  exact this.1

/-- A site that is retired stays so and ends so, whatever spare takes its place (R345). -/
theorem retireSite_retires (s : State) (i : TileId) : s.Keeps (s.retireSite i) ∧ ((s.retireSite i).site i).live.state = .retired := by
  have hn : s.Keeps ((s.noteAbove i).setTile i { s.tile i with retiring := false }) := (keeps_noteAbove s i).trans (keeps_setTile _ i _)
  unfold State.retireSite
  generalize (s.noteAbove i).setTile i { s.tile i with retiring := false } = u at hn
  dsimp only
  split
  · exact ⟨hn, ‹_›⟩
  · rename_i hr
    have hw := (keeps_setVerify _ i false).trans (keeps_writeSiteNow ((u.mapSite i fun r => r.setState .retired).setVerify i false) i)
    have hv : u.Keeps (((u.mapSite i fun r => r.setState .retired).setVerify i false).writeSiteNow i) :=
      (keeps_setState u i (g := fun r => r.setState .retired) (fun _ => rfl) (fun _ => rfl) hr).trans hw
    have hretired := hw.retired i (by simp [State.mapSite])
    generalize ((u.mapSite i fun r => r.setState .retired).setVerify i false).writeSiteNow i = v at hv hretired
    have hend : ∀ w, v.Keeps w → s.Keeps ((w.tellFence i).faultShapeless i.die) ∧
        (((w.tellFence i).faultShapeless i.die).site i).live.state = .retired := fun w h => by
      have hk := h.trans ((keeps_tellFence w i).trans (keeps_faultShapeless _ i.die))
      exact ⟨hn.trans (hv.trans hk), hk.retired i hretired⟩
    split
    · rename_i j hj
      have hj := spare_of_nextSpare hj
      exact hend _ ((keeps_setState v j (g := fun r => r.setState .enabled) (fun _ => rfl) (fun _ => rfl) (by simp [hj])).trans
        (keeps_writeSiteDue _ j))
    · exact hend v (.refl v)

/-! ### Stopping with a record -/

/-- A tile's stop before its site is fenced or retired. -/
theorem keeps_stop (s : State) (i : TileId) (h : BitVec 16) (cls : Nat) (rec : List Byte) :
    s.Keeps ((((s.captureRecord h i.die cls rec).stopTile i).faultLaunch h).settleStopped i) :=
  (keeps_captureRecord s h i.die cls rec).trans ((keeps_stopTile _ i).trans ((keeps_faultLaunch _ h).trans (keeps_settleStopped _ i)))

/-- A trap of no Tile class stops its tile, and retires its site where it is to. -/
theorem stopWith_keeps (s : State) (i : TileId) (kind dfpc dfcause : Nat) (retire injected : Bool) {cause : Nat}
    (hc : classTile cause = false) : s.Keeps (s.stopWith i kind cause dfpc dfcause retire injected) ∧
      (retire = true → ((s.stopWith i kind cause dfpc dfcause retire injected).site i).live.state = .retired) := by
  simp only [State.stopWith, hc, Bool.false_eq_true, if_false]
  generalize trapRecord _ _ _ _ _ _ _ = rec
  generalize (if (false || retire) = true then 2 else 1) = cls
  have hk := keeps_stop s i (s.tile i).pt.handle cls rec
  split
  · obtain ⟨hr, hs⟩ := retireSite_retires (State.settleStopped _ i) i
    exact ⟨hk.trans hr, fun _ => hs⟩
  · exact ⟨hk, fun h => absurd h ‹_›⟩

/-- A trap other than a SEGCHK mismatch and of no Tile class keeps the turn. -/
theorem keeps_takeTrap (s : State) (i : TileId) {c : Nat} (d : Nat) (m : Byte) (pc : BitVec 16) (n : Nat) (hc : c ≠ 0x0A)
    (ht : classTile c = false) : s.Keeps (s.takeTrap i c d m pc n) := by
  simp only [State.takeTrap, if_neg hc, ht, Bool.false_eq_true, if_false]
  split
  · exact (stopWith_keeps s i 2 pc.toNat (0x15 + 256 * c) _ false rfl).1
  · refine (keeps_setTile s i ((s.tile i).enterTrap c d m pc n)).trans ?_
    split
    · exact keeps_ite (keeps_setTile _ i _) (stopWith_keeps _ i 1 0 0 _ false ht).1
    · exact (stopWith_keeps _ i 1 0 0 _ false ht).1

section
variable {s : State} {i : TileId} {b : Inflight} {c d : Nat}

/-- A slot of any tile that faults with a trap that no handler takes stops the tile (R311). -/
theorem slotTrap_stops (ht : (s.tile i).k.trapped = false) (hr : routeH c = false) (hc : c ≠ 0x0A) (hn : classTile c = false) :
    (s.slotTrap i b c d).focus = s.focus ∧ TrapStopped (s.tile i) ((s.slotTrap i b c d).tile i) b.first b.next c d 0 := by
  unfold State.slotTrap
  dsimp only
  generalize hu : s.setTile i ((s.tile i).atCycle (commitCycle (s.tile i) b)) = u
  have htile : u.tile i = (s.tile i).atCycle (commitCycle (s.tile i) b) := by rw [← hu, tile_setTile]
  have hout : (u.tile i).k.trapped = false := by rw [htile]; exact ht
  have hrest := takeTrap_rests (d := d) (m := 0) (pc := b.first) (n := b.next) (inj := false) hc hr hout
  have hfocus : u.focus = s.focus := by rw [← hu]; rfl
  rw [hrest.boundary]
  have hstop := hrest.trapStopped hout
  rw [htile] at hstop
  exact ⟨(keeps_takeTrap u i d 0 b.first b.next hc hn).focus.trans hfocus, hstop⟩

theorem runSlot_stops {i : Instr} {mn : String} {f : SlotFn} (h : s.At i b) (hx : exec i s = s.runSlot mn i f)
    (hf : f s s.focus s.here b = .trap c d) (ht : s.here.k.trapped = false) (hr : routeH c = false) (hc : c ≠ 0x0A)
    (hn : classTile c = false) : StopsWith i s b c d := by
  obtain ⟨hfocus, hstop⟩ := slotTrap_stops (b := b) (d := d) ht hr hc hn
  refine ⟨s.slotTrap s.focus b c d, by rw [hx, runSlot_eq h, hf]; rfl, hfocus, ?_⟩
  rw [State.here, State.here, hfocus]
  exact hstop
end

end Sys2Proof.Machine
end

section
namespace Sys2Proof.Machine

/-! ## A last slot after which the sequencer goes on (R127, R133) -/

/-- A last slot that changes its tile, special registers and all, ends its bundle with what the changed tile holds. -/
theorem runSlot_endsAs {s : State} {i : Instr} {b : Inflight} {mn : String} {f : SlotFn} {y : Tile} (h : s.At i b) (hb : b.atLast)
    (hx : exec i s = s.runSlot mn i f) (hf : f s s.focus s.here b = .keep y) (hl : y.leafTrap = none) (hg : y.stopReq = false)
    (ht : y.k.trapped = s.here.k.trapped) (ho : y.loops = s.here.loops) :
    ∃ t pc loops back, exec i s = .next t ∧ OnlyTile s.focus s t ∧ t.here.data = y.data ∧
      BundleEnded b y t.here pc loops (if back then [pc.setWidth 32] else []) ∧
      (if s.here.k.trapped then pc = b.after ∧ loops = s.here.loops ∧ back = false
       else LoopsEnd (b.first + BitVec.ofNat 16 b.start) (b.words.length - b.start) b.after s.here.loops loops pc back) := by
  refine ⟨_, (y.seqEnd b .seq).pc, (y.seqEnd b .seq).loops, (y.seqEnd b .seq).back, ?_,
    onlyTile_setTile _ _ { s.openWindow s.focus (y.endBundle b .seq y.k.trapped) with movedAt := s.time }, ?_, ?_, ?_⟩
  · rw [hx, runSlot_eq h, hf, SlotOut.keep, finishSlot_last s b _ y .seq hb hl hg (by simp), ht]
  · rw [here_setTile, data_movedAt, data_openWindow, data_endBundle _ _ _ _ (by simp)]
  · rw [here_setTile]
    refine bundleEnded_endBundle s b y y .seq _ rfl rfl ?_
    simp only [fedPc]; split <;> simp_all
  · split
    · rename_i h1; simp [Tile.seqEnd, ht, h1, ho]
    · rename_i h1
      simp only [Tile.seqEnd, ht, h1, ho]
      exact loopEndTest_spec _ _ _ _ _

end Sys2Proof.Machine
end

section
namespace Sys2Proof.Machine

/-! ## SEGCHK (R134, R325) -/

theorem here_of_focus {s t : State} (h : t.focus = s.focus) : t.here = t.tile s.focus := by rw [State.here, h]

/-- A mismatch is the third within 24 hours at its site. -/
def State.thirdMismatch (s : State) (i : TileId) : Bool :=
  (s.site i).live.segt0 != 0 && (s.site i).live.segt1 != 0 && decide (s.ltime ≤ (s.site i).live.segt1 + oneDay)

theorem thirdMismatch_iff (s : State) (i : TileId) : s.thirdMismatch i = true ↔
    (s.site i).live.segt0 ≠ 0 ∧ (s.site i).live.segt1 ≠ 0 ∧ s.ltime ≤ (s.site i).live.segt1 + 24 * 3600 * 1000000000 := by
  simp only [State.thirdMismatch, Bool.and_eq_true, bne_iff_ne, decide_eq_true_eq, and_assoc]
  rfl

/-- The state after a mismatch was put into its site's record. -/
def State.mismatched (s : State) (i : TileId) : State :=
  (s.mapSite i fun r => { r with segt0 := s.ltime, segt1 := r.segt0 }).writeSiteDue i

theorem writeSiteDue_eq (s : State) (i : TileId) : s.writeSiteDue i = { s with sites := (s.writeSiteDue i).sites } := by
  unfold State.writeSiteDue
  split
  · split <;> rfl
  · rfl

theorem mismatched_eq (s : State) (i : TileId) : s.mismatched i = { s with sites := (s.mismatched i).sites } := by
  unfold State.mismatched
  rw [writeSiteDue_eq]
  rfl

theorem mismatched_tile (s : State) (i j : TileId) : (s.mismatched i).tile j = s.tile j := by rw [mismatched_eq]; rfl
theorem mismatched_focus (s : State) (i : TileId) : (s.mismatched i).focus = s.focus := by rw [mismatched_eq]
theorem mismatched_launch? (s : State) (i : TileId) (h : BitVec 16) : (s.mismatched i).launch? h = s.launch? h := by rw [mismatched_eq]; rfl

theorem mismatched_segt (s : State) (i : TileId) : ((s.mismatched i).site i).live.segt0 = s.ltime ∧
    ((s.mismatched i).site i).live.segt1 = (s.site i).live.segt0 := by
  obtain ⟨h0, h1⟩ := (keeps_writeSiteDue (s.mapSite i fun r => { r with segt0 := s.ltime, segt1 := r.segt0 }) i).segt i
  exact ⟨h0.trans (by simp [State.mapSite]), h1.trans (by simp [State.mapSite])⟩

/-- A mismatch is recorded, and the third makes its tile retiring (R325). -/
theorem countSegchk_eq (s : State) (i : TileId) : s.countSegchk i =
    if s.thirdMismatch i then (s.mismatched i).setTile i { s.tile i with retiring := true } else s.mismatched i := by
  have ht := mismatched_tile s i i
  unfold State.mismatched at *
  simp only [State.countSegchk, ht]
  rfl

section
variable {s : State} {i : TileId} {d n : Nat} {m : Byte} {pc : BitVec 16}

/-- A mismatch that is not the third enters the handler. -/
theorem takeTrap_mismatch {l : Launch} (ht : (s.tile i).k.trapped = false) (hl : s.launch? (s.tile i).pt.handle = some l)
    (hh : l.hnd = true) (hs : (s.tile i).retiring = false) (h3 : s.thirdMismatch i = false) :
    s.takeTrap i 0x0A d m pc n = (s.mismatched i).setTile i (((s.tile i).enterTrap 0x0A d m pc n).toHandler l.handler) := by
  have hc : s.countSegchk i = s.mismatched i := by rw [countSegchk_eq, h3]; rfl
  simp [State.takeTrap, hc, mismatched_tile, mismatched_launch?, ht, hl, hh, hs, show routeH 0x0A = true from rfl]

/-- A slot of a tile whose SEGCHK mismatches for another time. -/
theorem slotTrap_mismatch {b : Inflight} {l : Launch} (ht : (s.tile i).k.trapped = false)
    (hl : s.launch? (s.tile i).pt.handle = some l) (hh : l.hnd = true) (hs : (s.tile i).retiring = false)
    (h3 : s.thirdMismatch i = false) (hf : (s.tile i).leafTrap = none) (hg : (s.tile i).stopReq = false) : s.slotTrap i b 0x0A d =
      ((s.setTile i ((s.tile i).atCycle (commitCycle (s.tile i) b))).mismatched i).setTile i ((s.tile i).handled b l 0x0A d) := by
  unfold State.slotTrap
  dsimp only
  generalize hu : s.setTile i ((s.tile i).atCycle (commitCycle (s.tile i) b)) = u
  have htile : u.tile i = (s.tile i).atCycle (commitCycle (s.tile i) b) := by rw [← hu, tile_setTile]
  rw [takeTrap_mismatch (l := l) (by rw [htile]; exact ht) (by rw [htile, ← hu]; exact hl) hh (by rw [htile]; exact hs)
    (by rw [← hu]; exact h3), htile]
  exact boundary_id _ _ (by rw [tile_setTile]; exact hf) (by rw [tile_setTile]; exact hg)

/-- The third mismatch stops its tile, and retires its site. -/
theorem takeTrap_thirdMismatch (ht : (s.tile i).k.trapped = false) (h3 : s.thirdMismatch i = true) : s.takeTrap i 0x0A d m pc n =
    ((s.mismatched i).setTile i (({ s.tile i with retiring := true } : Tile).enterTrap 0x0A d m pc n)).stopWith i 1 0x0A 0 0 true false := by
  have hc : s.countSegchk i = (s.mismatched i).setTile i { s.tile i with retiring := true } := by rw [countSegchk_eq, h3]; rfl
  simp only [State.takeTrap, hc, ht, if_true, tile_setTile, setTile_setTile, enterTrap_retiring, Bool.not_true, Bool.and_false,
    Bool.false_eq_true, if_false]
  split <;> rfl

/-- Of the tile that stopped only the copies count. -/
theorem TrapStopped.of_copyq {x x' y : Tile} {c : Nat} (h : TrapStopped x y pc n c d m) (hq : x.copyq = x'.copyq) :
    TrapStopped x' y pc n c d m := by
  obtain ⟨⟨hact, hinflight, hsb, hcopies⟩, hk⟩ := h
  exact ⟨⟨hact, hinflight, hsb, hq ▸ hcopies⟩, hk⟩

/-- A slot of a tile whose SEGCHK mismatches for the third time. -/
theorem slotTrap_thirdMismatch {b : Inflight} (ht : (s.tile i).k.trapped = false) (h3 : s.thirdMismatch i = true) :
    (s.slotTrap i b 0x0A d).focus = s.focus ∧ TrapStopped (s.tile i) ((s.slotTrap i b 0x0A d).tile i) b.first b.next 0x0A d 0 ∧
    ((s.slotTrap i b 0x0A d).site i).live.state = .retired ∧ ((s.slotTrap i b 0x0A d).site i).live.segt0 = s.ltime ∧
    ((s.slotTrap i b 0x0A d).site i).live.segt1 = (s.site i).live.segt0 := by
  unfold State.slotTrap
  dsimp only
  generalize hu : s.setTile i ((s.tile i).atCycle (commitCycle (s.tile i) b)) = u
  have htile : u.tile i = (s.tile i).atCycle (commitCycle (s.tile i) b) := by rw [← hu, tile_setTile]
  rw [takeTrap_thirdMismatch (by rw [htile]; exact ht) (by rw [← hu]; exact h3), htile]
  obtain ⟨hsegt0, hsegt1⟩ := mismatched_segt u i
  have hfocus : (u.mismatched i).focus = s.focus := by rw [mismatched_focus, ← hu]; rfl
  generalize u.mismatched i = v at hsegt0 hsegt1 hfocus ⊢
  generalize hx : ({ (s.tile i).atCycle (commitCycle (s.tile i) b) with retiring := true } : Tile) = x
  have hrest := atRest_stopWith (v.setTile i (x.enterTrap 0x0A d 0 b.first b.next)) i 1 0x0A 0 0 true false
  obtain ⟨hkeeps, hretired⟩ := stopWith_keeps (v.setTile i (x.enterTrap 0x0A d 0 b.first b.next)) i 1 0 0 true false (cause := 0x0A) rfl
  obtain ⟨h0, h1⟩ := hkeeps.segt i
  rw [tile_setTile] at hrest
  rw [hrest.boundary]
  have hstop := (hrest.trapStopped (by rw [← hx]; exact ht)).of_copyq (x' := s.tile i) (by rw [← hx]; rfl)
  exact ⟨hkeeps.focus.trans hfocus, hstop, hretired rfl, h0.trans (hsegt0.trans (by rw [← hu]; rfl)),
    h1.trans (hsegt1.trans (by rw [← hu]; rfl))⟩
end

end Sys2Proof.Machine
end

section
namespace Sys2Proof.Machine

/-- What SEGCHK finds to differ: 1 for the count, 2 for the signature (R134). -/
def Tile.segchkDetail (t : Tile) (sa sb : SReg) : Nat := (if t.sreg sa = t.k.segcnt then 0 else 1) + (if t.sreg sb = t.k.segsig then 0 else 2)

/-- A tile whose segment starts anew. -/
def Tile.segmentStarted (t : Tile) : Tile := { t with k := { t.k with segcnt := 0, segsig := 0 } }

/-- The slot function of SEGCHK. -/
def segchkSlot (sa sb : SReg) : SlotFn := fun _ _ t _ =>
  if t.sreg sa = t.k.segcnt ∧ t.sreg sb = t.k.segsig then .keep t.segmentStarted else .trap 0x0A (t.segchkDetail sa sb)

theorem exec_segchk (sa sb : SReg) (s : State) : exec (.segchk sa sb) s = s.runSlot "SEGCHK" (.segchk sa sb) (segchkSlot sa sb) := by
  show execSegchk sa sb s = _
  unfold execSegchk segchkSlot
  congr 1
  funext _ _ t _
  by_cases h1 : t.sreg sa = t.k.segcnt <;> by_cases h2 : t.sreg sb = t.k.segsig <;>
    simp [h1, h2, Tile.segchkDetail, Tile.segmentStarted]

section
variable {s : State} {b : Inflight} {sa sb : SReg}

/-- A SEGCHK that matches starts a segment, which its own bundle is the first of. -/
theorem segchk_matches (h : s.At (.segchk sa sb) b) (hb : b.atLast) (hc : s.here.sreg sa = s.here.k.segcnt)
    (hs : s.here.sreg sb = s.here.k.segsig) :
    ∃ t pc loops back, exec (.segchk sa sb) s = .next t ∧ OnlyTile s.focus s t ∧ t.here.data = s.here.data ∧ t.here.inflight = none ∧
      t.here.pc = pc ∧ t.here.loops = loops ∧
      (if s.here.k.trapped then pc = b.after ∧ loops = s.here.loops ∧ t.here.k.segcnt = 0 ∧ t.here.k.segsig = 0
       else LoopsEnd (b.first + BitVec.ofNat 16 b.start) (b.words.length - b.start) b.after s.here.loops loops pc back ∧
         t.here.k.segcnt = 1 ∧ t.here.k.segsig = sigFeed 0 (b.words ++ if back then [pc.setWidth 32] else [])) := by
  obtain ⟨t, pc, loops, back, hx, ho, hd, ⟨hi, hpc, hl, hfed, hkept⟩, hend⟩ := runSlot_endsAs (y := s.here.segmentStarted) h hb
    (exec_segchk sa sb s) (if_pos ⟨hc, hs⟩) h.leaf h.goes rfl rfl
  refine ⟨t, pc, loops, back, hx, ho, hd, hi, hpc, hl, ?_⟩
  by_cases ht : s.here.k.trapped = true
  · rw [if_pos ht] at hend ⊢
    obtain ⟨h1, h2, -⟩ := hend
    exact ⟨h1, h2, hkept ht⟩
  · rw [if_neg ht] at hend ⊢
    exact ⟨hend, hfed (Bool.eq_false_iff.mpr ht)⟩

theorem segchk_traps (h : s.At (.segchk sa sb) b) (hm : s.here.sreg sa ≠ s.here.k.segcnt ∨ s.here.sreg sb ≠ s.here.k.segsig) :
    exec (.segchk sa sb) s = .next (s.slotTrap s.focus b 0x0A (s.here.segchkDetail sa sb)) := by
  have hn : ¬ (s.here.sreg sa = s.here.k.segcnt ∧ s.here.sreg sb = s.here.k.segsig) := fun ⟨h1, h2⟩ => hm.elim (· h1) (· h2)
  rw [exec_segchk, runSlot_eq h, segchkSlot, if_neg hn]
  rfl

theorem segchkDetail_le (t : Tile) (sa sb : SReg) : t.segchkDetail sa sb ≤ 3 := by
  unfold Tile.segchkDetail; split <;> split <;> decide

/-- A mismatch that is not the third enters the handler of its launch. -/
theorem segchk_mismatch {l : Launch} (h : s.At (.segchk sa sb) b) (hl : s.Handles l) (h3 : s.thirdMismatch s.focus = false)
    (hm : s.here.sreg sa ≠ s.here.k.segcnt ∨ s.here.sreg sb ≠ s.here.k.segsig) :
    ∃ t, exec (.segchk sa sb) s = .next t ∧ t.here.pc = l.handler ∧ t.here.k.trapped = true ∧ t.here.k.tpc = b.first ∧
      t.here.k.sr = BitVec.ofNat 3 b.next ∧ t.here.k.segcnt = s.here.k.segcnt ∧ t.here.k.segsig = s.here.k.segsig ∧
      t.here.k.tcause.toNat = 0x0A + 256 * s.here.segchkDetail sa sb ∧
      (t.site s.focus).live.segt0 = s.ltime ∧ (t.site s.focus).live.segt1 = (s.site s.focus).live.segt0 ∧
      ∀ j, j ≠ s.focus → t.tile j = s.tile j := by
  have hx := segchk_traps h hm
  have hd := segchkDetail_le s.here sa sb
  rw [slotTrap_mismatch (l := l) hl.outside hl.launch hl.handler hl.stays h3 h.leaf h.goes] at hx
  obtain ⟨hsegt0, hsegt1⟩ := mismatched_segt (s.setTile s.focus (s.here.atCycle (commitCycle s.here b))) s.focus
  refine ⟨_, hx, ?_⟩
  rw [here_of_focus (s := s) (by rw [setTile_focus, mismatched_focus, setTile_focus]), tile_setTile]
  refine ⟨rfl, rfl, rfl, rfl, rfl, rfl, ?_, hsegt0, hsegt1, fun j hj => ?_⟩
  · show (BitVec.ofNat 32 (0x0A + 256 * s.here.segchkDetail sa sb)).toNat = _
    rw [BitVec.toNat_ofNat, Nat.mod_eq_of_lt (by omega)]
  · rw [tile_setTile_ne _ _ hj, mismatched_tile, tile_setTile_ne _ _ hj]
end

/-- Settles O19: a match ends its bundle as the tile whose segment starts anew, a mismatch is recorded and enters the handler, and the third
of them stops the tile and retires its site (`slotTrap_thirdMismatch`). -/
theorem segchkStartsASegmentOrTraps : Obligations.SegchkStartsASegmentOrTraps := by
  intro s b sa sb hb h r third
  have h3 := thirdMismatch_iff s s.focus
  refine ⟨segchk_matches h hb, fun l hl hn hm => segchk_mismatch h hl (Bool.eq_false_iff.mpr fun e => hn (h3.mp e)) hm, fun ht ho hm => ?_⟩
  obtain ⟨hfocus, hstop, hsite⟩ := slotTrap_thirdMismatch (b := b) (d := s.here.segchkDetail sa sb) ho (h3.mpr ht)
  refine ⟨_, segchk_traps h hm, ?_, hsite⟩
  rw [here_of_focus hfocus]
  exact hstop

end Sys2Proof.Machine
end

section
namespace Sys2Proof.Machine

/-! ## TRAP and BKPT (R136, R308) -/

/-- What entering the handler writes besides the PC (R308). -/
def Tile.trapped (t : Tile) (c d : Nat) (pc : BitVec 16) (n : Nat) : Tile :=
  { t with resume := 0, asleep := false, woken := false,
           k := { t.k with tpc := pc, tcause := tcauseWord c d, tmask := 0, sr := BitVec.ofNat 3 n, tsb := t.pendingMask, trapped := true } }

/-- At a boundary the handler is entered with no bundle left to enter again. -/
theorem data_toHandler {t : Tile} (h : t.inflight = none) (c d : Nat) (pc : BitVec 16) (n : Nat) (hdl : BitVec 16) :
    ((t.enterTrap c d 0 pc n).toHandler hdl).data = t.data.trapped c d pc n := by
  simp only [Tile.toHandler, Tile.enterTrap, h, Option.isSome_none, Bool.false_or]
  rfl

section
variable {s : State} {i : Instr} {b : Inflight} {mn : String} {f : SlotFn} {c d : Nat}

/-- The state after the last slot of a bundle, before what is taken at the boundary. -/
theorem finishSlot_atLast (s : State) (b : Inflight) (w : Bool) (y : Tile) (fl : Flow) (hb : b.atLast) :
    s.finishSlot s.focus b w (.done y [] {} fl) =
      (s.setTile s.focus { s.openWindow s.focus (y.endBundle b fl w) with movedAt := s.time }).afterBundle s.focus fl := by
  have hn : ¬ (b.next + 1 < b.words.length) := by unfold Inflight.atLast at hb; omega
  simp only [State.finishSlot, State.commitSlot, share_nil, shared_nil, List.isEmpty_nil, if_true, hn, if_false, List.append_nil]

theorem afterBundle_traps {i : TileId} (hl : (s.tile i).leafTrap = none) :
    s.afterBundle i (.trapAfter c d) = (s.takeTrap i c d 0 (s.tile i).pc 0).boundary i := by
  simp only [State.afterBundle, hl]

/-- A trap taken with a handler at a boundary at which nothing else is due. -/
theorem takeTrap_boundary_handler {i : TileId} {l : Launch} {pc : BitVec 16} {n : Nat} (hl : s.launch? (s.tile i).pt.handle = some l)
    (hh : l.hnd = true) (ht : (s.tile i).k.trapped = false) (hs : (s.tile i).retiring = false) (hf : (s.tile i).leafTrap = none)
    (hg : (s.tile i).stopReq = false) (hr : routeH c = true) (hc : c ≠ 0x0A) :
    (s.takeTrap i c d 0 pc n).boundary i = s.setTile i (((s.tile i).enterTrap c d 0 pc n).toHandler l.handler) := by
  rw [takeTrap_handler ht hl hh hs hr hc]
  exact boundary_id _ _ (by rw [tile_setTile]; exact hf) (by rw [tile_setTile]; exact hg)

/-- What a trap at a boundary asks of a tile is among its data. -/
theorem dues_of_data {x z : Tile} (h : z.data = x.data) :
    z.pt = x.pt ∧ z.k.trapped = x.k.trapped ∧ z.retiring = x.retiring ∧ z.leafTrap = x.leafTrap ∧ z.stopReq = x.stopReq := by
  have hd : z.data.pt = x.data.pt ∧ z.data.k.trapped = x.data.k.trapped ∧ z.data.retiring = x.data.retiring ∧
      z.data.leafTrap = x.data.leafTrap ∧ z.data.stopReq = x.data.stopReq := by rw [h]; exact ⟨rfl, rfl, rfl, rfl, rfl⟩
  exact hd

/-- A last slot after which a trap is taken commits with its bundle, and the handler is entered at the boundary after it. -/
theorem runSlot_trapsAfter {l : Launch} (h : s.At i b) (hb : b.atLast) (hl : s.Handles l) (hx : exec i s = s.runSlot mn i f)
    (hf : f s s.focus s.here b = .done s.here [] {} (.trapAfter c d)) (hr : routeH c = true) (hc : c ≠ 0x0A) :
    ∃ t, exec i s = .next t ∧ OnlyTile s.focus s t ∧ t.here.pc = l.handler ∧ t.here.inflight = none ∧
      t.here.k.segcnt = satAdd32 s.here.k.segcnt 1 ∧ t.here.k.segsig = sigFeed s.here.k.segsig b.words ∧
      t.here.data = (s.here.trapped c d b.after 0).data := by
  obtain ⟨hi, hpc, -, hfed, -⟩ : BundleEnded b s.here _ b.after s.here.loops [] :=
    bundleEnded_endBundle s b s.here s.here (.trapAfter c d) [] rfl rfl rfl
  have hdata : ({ s.openWindow s.focus (s.here.endBundle b (.trapAfter c d) s.here.k.trapped) with movedAt := s.time } : Tile).data =
      s.here.data := by rw [data_movedAt, data_openWindow, data_endBundle _ _ _ _ (by simp)]
  have hs := finishSlot_atLast s b s.here.k.trapped s.here (.trapAfter c d) hb
  generalize ({ s.openWindow s.focus (s.here.endBundle b (.trapAfter c d) s.here.k.trapped) with movedAt := s.time } : Tile) = z at *
  obtain ⟨hpt, hout, hstays, hleaf, hgoes⟩ := dues_of_data hdata
  have htile : (s.setTile s.focus z).tile s.focus = z := tile_setTile ..
  rw [afterBundle_traps (by rw [htile, hleaf]; exact h.leaf), takeTrap_boundary_handler (l := l) (by rw [htile, hpt]; exact hl.launch)
    hl.handler (by rw [htile, hout]; exact hl.outside) (by rw [htile, hstays]; exact hl.stays) (by rw [htile, hleaf]; exact h.leaf)
    (by rw [htile, hgoes]; exact h.goes) hr hc, htile, setTile_setTile] at hs
  obtain ⟨hcnt, hsig⟩ := hfed hl.outside
  refine ⟨_, by rw [hx, runSlot_eq h, hf, hs], onlyTile_setTile _ _ _, ?_⟩
  rw [here_setTile]
  refine ⟨rfl, rfl, hcnt, hsig.trans (by rw [List.append_nil]), ?_⟩
  rw [data_toHandler hi, hdata, hpc]
  rfl

end

end Sys2Proof.Machine
end

section
namespace Sys2Proof.Machine

/-! ## RTE (R137, R75, R274) -/

/-- Whether an access is one of a load that an RTE discards. -/
def Tile.drops (t : Tile) (i : TileId) (a : CrewAccess) : Bool :=
  a.src == i && (t.sb.any fun e => e.isLdc && !t.k.tsb.getLsbD e.num.toNat && e.seqNo == a.seqNo)

theorem drops_eq (t : Tile) (i : TileId) (a : CrewAccess) : t.drops i a = (a.src == i && t.discards.contains a.seqNo) := by
  rw [Tile.drops, Tile.discards]
  congr 1
  rw [Bool.eq_iff_iff, List.contains_iff_mem]
  simp [and_assoc]

theorem crew_withoutDrops (t : Tile) (i : TileId) (xs : List CrewAccess) :
    (if t.discards.isEmpty then xs else xs.filter fun a => !(a.src == i && t.discards.contains a.seqNo)) = xs.filter fun a => !t.drops i a := by
  simp only [drops_eq]
  by_cases h : t.discards = [] <;> simp [h]

section
variable {s : State} {b : Inflight}

/-- The state in which a returning tile leaves its crew path. -/
def State.dropped (s : State) : State := { s with crew := s.crew.filter fun a => !s.here.drops s.focus a }

/-- An RTE as the last slot of a handler's bundle. -/
theorem finishSlot_rte (w : Bool) {y : Tile} (hb : b.atLast) (hl : y.leafTrap = none) (hg : y.stopReq = false) :
    s.finishSlot s.focus b w (.done y [] { drops := s.here.discards } .rte) =
      s.dropped.setTile s.focus { s.openWindow s.focus (y.endBundle b .rte w) with movedAt := s.time } := by
  have hn : ¬ (b.next + 1 < b.words.length) := by unfold Inflight.atLast at hb; omega
  simp only [State.finishSlot, State.commitSlot, share_nil, shared_nil, hn, if_false, List.append_nil, crew_withoutDrops]
  exact afterBundle_setTile s.dropped s.focus _ .rte ((openWindow_leafTrap ..).trans hl) ((openWindow_stopReq ..).trans hg) (by simp)

/-- RTE in the handler returns from it. -/
theorem rte_returns (h : s.At .rte b) (hb : b.atLast) (ht : s.here.k.trapped = true) :
    ∃ t, exec .rte s = .next t ∧ OnlyTile s.focus s.dropped t ∧ t.here.data = (s.here.returnFromTrap false).data ∧
      BundleEnded b s.here t.here s.here.k.tpc s.here.loops [] := by
  have hx : exec .rte s = .next (s.finishSlot s.focus b s.here.k.trapped
      (.done (s.here.returnFromTrap (s.deadlineDue s.here)) [] { drops := s.here.discards } .rte)) := by
    show execRte s = _
    rw [execRte, runSlot_eq h, if_pos ht]
  rw [finishSlot_rte (y := s.here.returnFromTrap (s.deadlineDue s.here)) _ hb h.leaf h.goes] at hx
  have hhere : ∀ x, (s.dropped.setTile s.focus x).here = x := here_setTile s.dropped
  refine ⟨_, hx, onlyTile_setTile s.focus s.dropped _, ?_, ?_⟩
  · rw [hhere, data_movedAt, data_openWindow, data_endBundle _ _ _ _ (by simp)]
    rfl
  · rw [hhere]
    exact bundleEnded_endBundle s b s.here _ .rte [] rfl rfl rfl
end

/-- Settles O20: TRAP and BKPT by `runSlot_trapsAfter`, RTE in a handler by the tile it returns to, and outside one by the stop that
trap 0x16 ends in. -/
theorem trapsEnterTheHandlerAndRteReturns : Obligations.TrapsEnterTheHandlerAndRteReturns := by
  intro s b imm hb enters
  refine ⟨fun l h hl => ?_, fun l h hl => ?_, fun h ht => rte_returns h hb ht, fun h ht => ?_⟩
  · exact runSlot_trapsAfter h hb hl (show execTrap imm s = _ from rfl) rfl rfl (by decide)
  · exact runSlot_trapsAfter h hb hl (show execBkpt imm s = _ from rfl) rfl rfl (by decide)
  · exact runSlot_stops h (show execRte s = _ from rfl) (by simp [ht]) ht rfl (by decide) rfl

end Sys2Proof.Machine
end

section
namespace Sys2Proof.Machine

/-! ## KMOV (R140, R334) -/

theorem diagLaunch_iff (s : State) (t : Tile) : s.diagLaunch t = true ↔ ∃ l, s.launch? t.pt.handle = some l ∧ l.diag = true := by
  unfold State.diagLaunch
  split <;> simp_all

/-- Ones written to a half of a sticky register clear its bits there. -/
theorem clearHalf_low (r : Dword) (v : Word) : clearHalf r v false = r &&& ~~~(v.setWidth 64) := by
  have h : (0#32 ++ v : BitVec (32 + 32)) = v.setWidth 64 := (BitVec.setWidth_eq_append (by decide)).symm
  simp only [clearHalf, h]
  rfl

theorem clearHalf_high (r : Dword) (v : Word) : clearHalf r v true = r &&& ~~~(v.setWidth 64 <<< 32) := by
  have h : (v ++ 0#32 : BitVec (32 + 32)) = v.setWidth 64 <<< 32 := by
    rw [BitVec.shiftLeft_eq_concat_of_lt (by decide)]
    simp [BitVec.extractLsb'_setWidth_of_le]
  simp only [clearHalf, h]
  rfl

/-- The fields of FLAGINJ after a write (R334). -/
theorem flagInjWrite_fields (v : Word) : (flagInjWrite v).extractLsb' 0 24 = v.extractLsb' 0 24 ∧ (flagInjWrite v).extractLsb' 24 4 = 0 ∧
    (flagInjWrite v).extractLsb' 28 2 = (if v.extractLsb' 28 2 = 3 then 0 else v.extractLsb' 28 2) ∧
    (flagInjWrite v).extractLsb' 30 2 = (if v.extractLsb' 30 2 = 3 then 0 else v.extractLsb' 30 2) := by
  unfold flagInjWrite
  dsimp only
  generalize (if v.extractLsb' 30 2 = 3 then 0#2 else v.extractLsb' 30 2) = m
  generalize (if v.extractLsb' 28 2 = 3 then 0#2 else v.extractLsb' 28 2) = p
  generalize v.extractLsb' 0 24 = c
  exact ⟨slice_low _ c, (slice_high (m ++ p ++ 0#4) c 0 4).trans (slice_low (m ++ p) 0#4),
    (slice_high (m ++ p ++ 0#4) c 4 2).trans ((slice_high (m ++ p) 0#4 0 2).trans (slice_low m p)),
    (slice_high (m ++ p ++ 0#4) c 6 2).trans ((slice_high (m ++ p) 0#4 2 2).trans ((slice_high m p 0 2).trans (by simp)))⟩

section
variable {s : State} {b : Inflight} {k : KReg} {sa : SReg} {y : Tile}

/-- A KMOV of a register that may be written commits. -/
theorem kmov_commits (h : s.At (.kmov k sa) b) (hw : kmovWrite s.here (s.diagLaunch s.here) k (s.here.sreg sa) = some y)
    (hl : y.leafTrap = s.here.leafTrap) (hg : y.stopReq = s.here.stopReq) : Commits (.kmov k sa) s y :=
  runSlot_commits (accs := []) (fl := .seq) h (show execKmov k sa s = _ from rfl) (by simp only [hw]; rfl) (hl.trans h.leaf) (hg.trans h.goes) (by simp) (by simp)

/-- A number that is not writable, or whose condition fails. -/
theorem kmovWrite_eq_none {t : Tile} {diag : Bool} {v : Word} (ht : t.k.trapped = false)
    (hk : k.toNat ∉ [7, 10, 11, 12, 13, 14, 15, 28, 30, 31, 48]) (hd : ¬ (k = 27 ∧ diag = true)) : kmovWrite t diag k v = none := by
  unfold kmovWrite
  dsimp only
  split
  case h_1 => exact if_neg (by simp [ht])
  case h_9 h =>
    have h27 : k = 27 := BitVec.eq_of_toNat_eq h
    exact if_neg fun hg => hd ⟨h27, hg⟩
  case h_14 => rfl
  all_goals rename_i h; exact absurd (by simp [h]) hk
/-- SEGCNT is written before its bundle is counted (R140, R133). -/
theorem kmov_segcnt (h : s.At (.kmov 14 sa) b) (hb : b.atLast) :
    ∃ t, exec (.kmov 14 sa) s = .next t ∧ OnlyTile s.focus s t ∧ t.here.data = s.here.data ∧
      t.here.k.segcnt = if s.here.k.trapped then s.here.sreg sa else satAdd32 (s.here.sreg sa) 1 := by
  obtain ⟨t, pc, loops, back, hx, ho, hd, ⟨-, -, -, hfed, hkept⟩, -⟩ := runSlot_endsAs h hb (show execKmov 14 sa s = _ from rfl)
    (y := { s.here with k := { s.here.k with segcnt := s.here.sreg sa } }) rfl h.leaf h.goes rfl rfl
  refine ⟨t, hx, ho, hd, ?_⟩
  split
  case isTrue ht => exact (hkept ht).1
  case isFalse ht => exact (hfed (Bool.eq_false_iff.mpr ht)).1

/-- SEGSIG is written before its bundle's words are fed. -/
theorem kmov_segsig (h : s.At (.kmov 15 sa) b) (hb : b.atLast) :
    ∃ t loops back, exec (.kmov 15 sa) s = .next t ∧ OnlyTile s.focus s t ∧ t.here.data = s.here.data ∧
      if s.here.k.trapped then t.here.k.segsig = s.here.sreg sa
      else LoopsEnd (b.first + BitVec.ofNat 16 b.start) (b.words.length - b.start) b.after s.here.loops loops t.here.pc back ∧
        t.here.k.segsig = sigFeed (s.here.sreg sa) (b.words ++ if back then [t.here.pc.setWidth 32] else []) := by
  obtain ⟨t, pc, loops, back, hx, ho, hd, ⟨-, rfl, -, hfed, hkept⟩, hend⟩ := runSlot_endsAs h hb (show execKmov 15 sa s = _ from rfl)
    (y := { s.here with k := { s.here.k with segsig := s.here.sreg sa } }) rfl h.leaf h.goes rfl rfl
  refine ⟨t, loops, back, hx, ho, hd, ?_⟩
  split at hend
  case isTrue ht => rw [if_pos ht]; exact (hkept ht).2
  case isFalse ht => rw [if_neg ht]; exact ⟨hend, (hfed (Bool.eq_false_iff.mpr ht)).2⟩
end

/-- Settles O22: each writable register by its row of `kmovWrite`, SEGCNT and SEGSIG before the end of their bundle (`runSlot_endsAs`), and
every other number by the stop that trap 0x03 ends in. -/
theorem kmovWritesOrTraps : Obligations.KmovWritesOrTraps := by
  intro s b k sa hb h x v wr diag
  refine ⟨?_, ?_, ?_, ?_, ?_, ?_, ?_, ?_, ?_, ?_, ?_, ?_, ?_, fun ht hk hd => ?_⟩
  case refine_1 | refine_2 | refine_3 | refine_4 | refine_5 => rintro rfl; exact kmov_commits h rfl rfl rfl
  · rintro rfl; exact kmov_segcnt h hb
  · rintro rfl; exact kmov_segsig h hb
  · rintro rfl ht
    exact kmov_commits h (if_pos ht) rfl rfl
  · rintro rfl hd
    exact ⟨flagInjWrite v, kmov_commits h (if_pos ((diagLaunch_iff s x).mpr hd)) rfl rfl, flagInjWrite_fields v⟩
  · rintro rfl; rw [← clearHalf_low]; exact kmov_commits h rfl rfl rfl
  · rintro rfl; rw [← clearHalf_high]; exact kmov_commits h rfl rfl rfl
  · rintro rfl; rw [← clearHalf_low]; exact kmov_commits h rfl rfl rfl
  · rintro rfl; rw [← clearHalf_high]; exact kmov_commits h rfl rfl rfl
  · have hw : kmovWrite s.here (s.diagLaunch s.here) k (s.here.sreg sa) = none :=
      kmovWrite_eq_none ht hk fun ⟨h27, hg⟩ => hd ⟨h27, (diagLaunch_iff s x).mp hg⟩
    exact runSlot_stops h (show execKmov k sa s = _ from rfl) (by simp only [hw]) ht rfl (by decide) rfl

end Sys2Proof.Machine
end
section
namespace Sys2Proof.Machine

/-! ## VCFG (R144) -/

theorem vcfgOk_iff (imm : BitVec 16) : vcfgOk imm = true ↔ (imm.extractLsb' 0 4).toNat < 12 ∧ imm.extractLsb' 11 5 = 0 := by
  simp [vcfgOk]

/-- Settles O31: the slot commits or traps as `vcfgOk` says of its immediate. -/
theorem vcfgTakesDefinedConfigurations : Obligations.VcfgTakesDefinedConfigurations := by
  intro imm s b h ok
  have hx : exec (.vcfg imm) s = execVcfg imm s := rfl
  refine ⟨fun hok => ?_, fun hok ht => ?_⟩
  · exact runSlot_commits (accs := []) (fl := .seq) h hx (if_pos ((vcfgOk_iff imm).mpr hok)) h.leaf h.goes (by simp) (by simp)
  · exact runSlot_stops h hx (if_neg (mt (vcfgOk_iff imm).mp hok)) ht rfl (by decide) rfl

end Sys2Proof.Machine
end

section
namespace Sys2Proof.Machine

/-! ## The arithmetic forms (R151-R153) -/

/-- Settles O23: each form is one computation of the active elements (`vecSlot_writes`). -/
theorem vectorArithmeticWritesActiveElements : Obligations.VectorArithmeticWritesActiveElements := by
  intro pd pa pb on two fused one
  refine ⟨?_, ?_, ?_, ?_, ?_, ?_, ?_, ?_, ?_, ?_⟩
  all_goals exact vecSlot_writes (fun _ => rfl) fun _ _ _ => rfl

end Sys2Proof.Machine
end

section
namespace Sys2Proof.Machine

/-! ## Integer elements (R93, R149) -/

theorem elemBits_pos (t : ElemType) : 0 < elemBits t := by cases t <;> decide

theorem bit_top {v n : Nat} (hn : 0 < n) (hv : v < 2 ^ n) : bit v (n - 1) = decide (2 ^ (n - 1) ≤ v) := by
  have h2 : v / 2 ^ (n - 1) < 2 := by
    rw [Nat.div_lt_iff_lt_mul (Nat.two_pow_pos _), ← Nat.pow_succ']
    rwa [Nat.succ_eq_add_one, Nat.sub_add_cancel hn]
  have h1 : 1 ≤ v / 2 ^ (n - 1) ↔ 2 ^ (n - 1) ≤ v := by rw [Nat.le_div_iff_mul_le (Nat.two_pow_pos _), Nat.one_mul]
  rw [bit, Nat.mod_eq_of_lt h2, Bool.eq_iff_iff, beq_iff_eq, decide_eq_true_iff, ← h1]
  omega

theorem bits_of_lt {v n : Nat} (hv : v < 2 ^ n) : bits v 0 n = v := by
  rw [bits, Nat.pow_zero, Nat.div_one, Nat.mod_eq_of_lt hv]

theorem sext_of_lt {v n : Nat} (hn : 0 < n) (hv : v < 2 ^ n) :
    sext v n = if 2 ^ (n - 1) ≤ v then (v : Int) - 2 ^ n else v := by
  simp only [sext, bit_top hn hv, bits_of_lt hv, decide_eq_true_iff]

/-- The integer of an element: its two's complement in a signed type. -/
theorem intOf_of_lt {t : ElemType} {v : Nat} (hv : v < 2 ^ elemBits t) :
    intOf t v = if elemSigned t ∧ 2 ^ (elemBits t - 1) ≤ v then (v : Int) - 2 ^ elemBits t else v := by
  cases h : elemSigned t <;> simp [intOf, h, sext_of_lt (elemBits_pos t) hv]

theorem wrap_intOf {t : ElemType} {v : Nat} (hv : v < 2 ^ elemBits t) : wrap (intOf t v) (elemBits t) = v := by
  have hm : ((v : Int) % 2 ^ elemBits t).toNat = v := by
    rw [Int.emod_eq_of_lt (Int.natCast_nonneg v) (by exact_mod_cast hv), Int.toNat_natCast]
  rw [wrap, intOf_of_lt hv]
  split
  · rw [Int.sub_emod_right, hm]
  · exact hm

/-- Different elements stand for different integers. -/
theorem intOf_inj {t : ElemType} {a b : Nat} (ha : a < 2 ^ elemBits t) (hb : b < 2 ^ elemBits t) (h : intOf t a = intOf t b) : a = b := by
  rw [← wrap_intOf ha, h, wrap_intOf hb]

theorem sat_eq_max_min {lo hi : Int} (h : lo ≤ hi) (x : Int) : sat x lo hi = max lo (min hi x) := by
  unfold sat
  split
  · omega
  · split <;> omega

theorem intMin_le_intMax (t : ElemType) : intMin t ≤ intMax t := by
  have h1 : (0 : Int) < 2 ^ (elemBits t - 1) := by positivity
  have h2 : (0 : Int) < 2 ^ elemBits t := by positivity
  unfold intMin intMax
  split <;> omega

/-- An integer written in a type: wrapped, or first held between the bounds. -/
theorem intResult_eq (t : ElemType) (clamp : Bool) (z : Int) :
    intResult t clamp z = ((if clamp then max (intMin t) (min (intMax t) z) else z) % 2 ^ elemBits t).toNat := by
  rw [intResult, wrap, sat_eq_max_min (intMin_le_intMax t)]

section
variable {c : VMode} (h : elemFloat c.ty = none) (a b d : Nat)
include h

theorem opAdd_int : opAdd c a b = ⟨intResult c.ty c.sat (intOf c.ty a + intOf c.ty b), {}⟩ := by simp only [opAdd, h]
theorem opSub_int : opSub c a b = ⟨intResult c.ty c.sat (intOf c.ty a - intOf c.ty b), {}⟩ := by simp only [opSub, h]
theorem opMul_int : opMul c a b = ⟨intResult c.ty c.sat (intOf c.ty a * intOf c.ty b), {}⟩ := by simp only [opMul, h]
theorem opFused_int (negD negP : Bool) : opFused c negD negP d a b =
    ⟨intResult c.ty c.sat ((if negD then -intOf c.ty d else intOf c.ty d) +
      if negP then -(intOf c.ty a * intOf c.ty b) else intOf c.ty a * intOf c.ty b), {}⟩ := by simp only [opFused, h]
theorem opAbs_int : opAbs c a = ⟨intResult c.ty c.sat (intOf c.ty a).natAbs, {}⟩ := by simp only [opAbs, h]
theorem opNeg_int : opNeg c a = ⟨intResult c.ty c.sat (-intOf c.ty a), {}⟩ := by simp only [opNeg, h]
theorem opPick_int (wantMax : Bool) : opPick c wantMax a b =
    ⟨if decide (intOf c.ty a < intOf c.ty b) == wantMax then b else a, {}⟩ := by simp only [opPick, h]
end

/-- Settles O26: each operation has its exact result in an integer type, written by `intResult`; of two elements with one
value VMIN takes either, as they are equal. -/
theorem integerElementsWrapOrSaturate : Obligations.IntegerElementsWrapOrSaturate := by
  intro c a b d h ha hb hd w val lo hi ires
  have hi : ∀ z, intResult c.ty c.sat z = ires z := intResult_eq c.ty c.sat
  have hv : ∀ v, v < 2 ^ w → intOf c.ty v = val v := fun v => intOf_of_lt
  rw [opAdd_int h, opSub_int h, opMul_int h, opFused_int h, opFused_int h, opFused_int h, opAbs_int h, opNeg_int h, opPick_int h,
    opPick_int h, hv a ha, hv b hb, hv d hd]
  refine ⟨by rw [hi], by rw [hi], by rw [hi], by simp [hi], by simp [hi, Int.sub_eq_add_neg], by simp [hi], by rw [hi], by rw [hi], ?_, ?_⟩
  · rcases lt_trichotomy (val a) (val b) with hlt | heq | hgt
    · simp [hlt, hlt.le]
    · have hab : a = b := intOf_inj ha hb (by rw [hv a ha, hv b hb, heq])
      simp [hab]
    · simp [hgt.not_gt, hgt.not_ge]
  · by_cases hlt : val a < val b <;> simp [hlt]

end Sys2Proof.Machine
end

section
namespace Sys2Proof.Machine

/-! ## Elements of any width on a line -/

/-- Whether some new element lies in a lane. -/
def laneTouched (w : Nat) (new : List (Option Nat)) (i : Nat) : Bool :=
  if w = 64 then (new[i / 2]?).join.isSome else ((new.drop (i * 32 / w)).take (32 / w)).any Option.isSome

/-- The lanes of a line that new elements change, as 32-bit elements. -/
def newLanes (w : Nat) (ws : List Word) (new : List (Option Nat)) : List (Option Nat) :=
  (List.range 64).map fun i => if laneTouched w new i then some ((mergedLine w ws new).getD i 0).toNat else none

@[simp] theorem newLanes_length (w : Nat) (ws : List Word) (new : List (Option Nat)) : (newLanes w ws new).length = 64 := by simp [newLanes]

theorem newLanes_getElem? (w : Nat) (ws : List Word) (new : List (Option Nat)) {i : Nat} (hi : i < 64) :
    (newLanes w ws new)[i]? = some (if laneTouched w new i then some ((mergedLine w ws new).getD i 0).toNat else none) := by
  simp [newLanes, List.getElem?_range hi]

theorem laneTouched_newLanes (w : Nat) (ws : List Word) (new : List (Option Nat)) {i : Nat} (hi : i < 64) :
    laneTouched 32 (newLanes w ws new) i = laneTouched w new i := by
  have hd : ((newLanes w ws new).drop i).take 1 = [if laneTouched w new i then some ((mergedLine w ws new).getD i 0).toNat else none] := by
    rw [List.take_one, List.head?_drop, newLanes_getElem? w ws new hi, Option.toList_some]
  have h32 : laneTouched 32 (newLanes w ws new) i = (((newLanes w ws new).drop i).take 1).any Option.isSome := by
    simp [laneTouched]
  rw [h32, hd]
  cases laneTouched w new i <;> rfl

/-- A word is its line's 32-bit element. -/
theorem elemAt_words (ws : List Word) {i : Nat} (hi : i < 64) : elemAt (elements 32 ws) i = (ws.getD i 0).toNat := by
  apply Nat.eq_of_testBit_eq
  intro b
  rw [testBit_element 32 ws i b (by omega)]
  by_cases hb : b < 32
  · have h1 : (32 * i + b) / 32 = i := by omega
    have h2 : (32 * i + b) % 32 = b := by omega
    rw [h1, h2, decide_eq_true hb, Bool.true_and, BitVec.getLsbD]
  · rw [decide_eq_false hb, Bool.false_and]
    exact (BitVec.getLsbD_of_ge _ b (by omega)).symm

/-- The writes of a line's changed lanes. -/
theorem hits_eq (l : Line) (ws : List Word) (hws : ws.length = 64) (touched : Nat → Bool) :
    ((((lineCells l).zip ws).zip (List.range 64)).filter fun p => touched p.2).map (fun p => p.1) =
      ((List.range 64).filter touched).map fun i => (lineCell l i, ws.getD i 0) := by
  have hz : ((lineCells l).zip ws).zip (List.range 64) = (List.range 64).map fun i => ((lineCell l i, ws.getD i 0), i) := by
    refine List.ext_getElem (by simp [hws]) fun i h1 h2 => ?_
    have hi : i < ws.length := by simp at h2; omega
    simp [lineCells_getElem, hi]
  rw [hz, List.filter_map, List.map_map]
  rfl

@[simp] theorem mergedLine_length (w : Nat) (ws : List Word) (new : List (Option Nat)) : (mergedLine w ws new).length = 64 := lanesOf_length ..

/-- A lane of 32-bit elements merged into a line. -/
theorem mergedLine_words (ws : List Word) (new : List (Option Nat)) {i : Nat} (hi : i < 64) (hn : new.length = 64) :
    (mergedLine 32 ws new).getD i 0 = (new[i]?.join.map (BitVec.ofNat 32)).getD (ws.getD i 0) := by
  have hm : i < (mergeElements (elements 32 ws) new).length := by
    rw [mergeElements_length _ _ (by simp [hn])]; simpa using hi
  apply BitVec.eq_of_toNat_eq
  rw [← elemAt_words _ hi, mergedLine, elemAt_lanesOf 32 (by decide) _ i hi, List.getD_eq_getElem _ _ hm, mergeElements_getElem]
  cases new[i]?.join with
  | some v => rfl
  | none =>
    have ho := elemAt_words ws hi
    rw [elemAt] at ho
    simp only [Option.getD_none, Option.map_none, ho, BitVec.toNat_mod_cancel]

/-- Writing elements of any width is writing the lanes that they change. -/
theorem setElements_eq_newLanes (t : Tile) (l : Line) (w : Nat) (new : List (Option Nat)) :
    t.setElements l w new = t.setElements l 32 (newLanes w (t.line l) new) := by
  have hhit : ((List.range 64).filter (laneTouched w new)).map (fun i => (lineCell l i, (mergedLine w (t.line l) new).getD i 0)) =
      ((List.range 64).filter (laneTouched 32 (newLanes w (t.line l) new))).map fun i =>
        (lineCell l i, (mergedLine 32 (t.line l) (newLanes w (t.line l) new)).getD i 0) := by
    have hf : (List.range 64).filter (laneTouched w new) = (List.range 64).filter (laneTouched 32 (newLanes w (t.line l) new)) :=
      List.filter_congr fun i hi => (laneTouched_newLanes w _ new (List.mem_range.mp hi)).symm
    rw [← hf]
    refine List.map_congr_left fun i hi => ?_
    obtain ⟨hr, ht⟩ := List.mem_filter.mp hi
    rw [mergedLine_words _ _ (List.mem_range.mp hr) (by simp), newLanes_getElem? w _ new (List.mem_range.mp hr), if_pos ht]
    simp
  have hw := hits_eq l _ (mergedLine_length w (t.line l) new) (laneTouched w new)
  have h32 := hits_eq l _ (mergedLine_length 32 (t.line l) (newLanes w (t.line l) new)) (laneTouched 32 (newLanes w (t.line l) new))
  have hh := hw.trans (hhit.trans h32.symm)
  exact congrArg (fun hit : List (Nat × Word) => { t with
    plane := Cells.setAll 0 t.plane hit, planeBad := t.planeBad.filter fun c => !((hit.map Prod.fst).contains c) }) hh

/-- A lane after elements were written. -/
theorem lane_setElements (t : Tile) (l : Line) (w : Nat) (new : List (Option Nat)) {i : Nat} (hi : i < 64) :
    ((t.setElements l w new).line l).getD i 0 =
      if laneTouched w new i then (mergedLine w (t.line l) new).getD i 0 else (t.line l).getD i 0 := by
  rw [setElements_eq_newLanes, line_setElements _ _ _ (by decide) _ (by simp), mergedLine_words _ _ hi (by simp),
    newLanes_getElem? w _ new hi]
  split <;> simp

theorem getLsbD_mergedLine {w : Nat} (hw : 0 < w) (ws : List Word) (new : List (Option Nat)) {i b : Nat} (hi : i < 64) (hb : b < 32) :
    ((mergedLine w ws new).getD i 0).getLsbD b = ((mergeElements (elements w ws) new).getD ((32 * i + b) / w) 0).testBit ((32 * i + b) % w) := by
  have hl : i < (lanesOf w (mergeElements (elements w ws) new)).length := by simpa using hi
  rw [mergedLine, List.getD_eq_getElem _ _ hl, lanesOf_getElem, BitVec.getLsbD_ofNat, Nat.testBit_div_two_pow,
    testBit_packElements w hw, Nat.add_comm b, decide_eq_true hb, Bool.true_and]

/-- In a lane with no new element, each 4-bit element is old. -/
theorem nibble_of_untouched {new : List (Option Nat)} {e : Nat} (h : laneTouched 4 new (e / 8) = false) : new[e]?.join = none := by
  by_cases he : e < new.length
  · have hm : new[e] ∈ (new.drop (e / 8 * 8)).take 8 := by
      rw [List.mem_iff_getElem]
      refine ⟨e % 8, by simp; omega, ?_⟩
      simp only [List.getElem_take, List.getElem_drop, Nat.div_add_mod']
    have hs : ((new.drop (e / 8 * 8)).take 8).any Option.isSome = false := by
      rw [← h, laneTouched, if_neg (by decide)]
      congr 3
      omega
    rw [List.any_eq_false] at hs
    rw [List.getElem?_eq_getElem he]
    simpa using hs _ hm
  · rw [List.getElem?_eq_none (Nat.le_of_not_lt he)]; rfl

/-- Each 4-bit element of a line reads its new value, or the old one. -/
theorem nibble_setElements (t : Tile) (l : Line) (new : List (Option Nat)) (hn : new.length ≤ 512) {e : Nat} (he : e < 512) :
    elemAt (elements 4 ((t.setElements l 4 new).line l)) e = (new[e]?.join.map (· % 2 ^ 4)).getD (elemAt (elements 4 (t.line l)) e) := by
  have hm : e < (mergeElements (elements 4 (t.line l)) new).length := by
    rw [mergeElements_length _ _ (by simpa using hn)]; simpa using he
  apply Nat.eq_of_testBit_eq
  intro j
  rw [testBit_element 4 _ e j he]
  by_cases hj : j < 4
  swap
  · rw [decide_eq_false hj, Bool.false_and]
    cases new[e]?.join with
    | some v => simp only [Option.map_some, Option.getD_some, Nat.testBit_mod_two_pow, decide_eq_false hj, Bool.false_and]
    | none => simp only [Option.map_none, Option.getD_none, testBit_element 4 _ e j he, decide_eq_false hj, Bool.false_and]
  have hi : (4 * e + j) / 32 = e / 8 := by omega
  rw [decide_eq_true hj, Bool.true_and, lane_setElements _ _ _ _ (by omega)]
  split
  case isTrue ht =>
    have h1 : 32 * ((4 * e + j) / 32) + (4 * e + j) % 32 = 4 * e + j := Nat.div_add_mod ..
    have h2 : (4 * e + j) / 4 = e := by omega
    have h3 : (4 * e + j) % 4 = j := by omega
    rw [getLsbD_mergedLine (by decide) _ _ (by omega) (Nat.mod_lt _ (by decide)), h1, h2, h3, List.getD_eq_getElem _ _ hm,
      mergeElements_getElem]
    cases new[e]?.join with
    | some v => simp only [Option.getD_some, Option.map_some, Nat.testBit_mod_two_pow, decide_eq_true hj, Bool.true_and]
    | none => rfl
  case isFalse ht =>
    rw [nibble_of_untouched (by rw [← hi]; simpa using ht)]
    simp [testBit_element 4 _ e j he, hj]

/-- Each element of a line reads its new value, or the old one, at every width that VCVT has. -/
theorem elemAt_setElements_anyWidth (t : Tile) (l : Line) {w : Nat} (hw : w ∈ [4, 8, 16, 32, 64]) (new : List (Option Nat))
    (hn : new.length ≤ 2048 / w) {e : Nat} (he : e < 2048 / w) :
    elemAt (elements w ((t.setElements l w new).line l)) e = (new[e]?.join.map (· % 2 ^ w)).getD (elemAt (elements w (t.line l)) e) := by
  rcases List.mem_cons.mp hw with rfl | hw
  · exact nibble_setElements t l new hn he
  · exact elemAt_setElements t l w hw new hn e he

/-- Elements written into a line, with flags. -/
theorem lineWritten_setElements (t : Tile) (pd : Line) {w : Nat} (hw : w ∈ [4, 8, 16, 32, 64]) (new : List (Option Nat))
    (hn : new.length ≤ 2048 / w) (fl : FpFlags) :
    LineWritten t ((t.setElements pd w new).raise fl) pd w (fun e => new[e]?.join) fl.toBits :=
  ⟨fun _ he => elemAt_setElements_anyWidth t pd hw new hn he, fun c hc => setElements_off t pd w new c hc, rfl, rfl⟩

/-- Only the elements of the line matter, and these as w-bit patterns. -/
theorem LineWritten.congr {x y : Tile} {pd : Line} {w : Nat} {f g : Nat → Option Nat} {raised : BitVec 5} (h : LineWritten x y pd w f raised)
    (hfg : ∀ e, e < 2048 / w → (f e).map (· % 2 ^ w) = (g e).map (· % 2 ^ w)) : LineWritten x y pd w g raised := by
  obtain ⟨hin, hoff, hflags, hrest⟩ := h
  exact ⟨fun e he => by rw [hin e he, hfg e he], hoff, hflags, hrest⟩

section
variable {s : State} {i : Instr} {b : Inflight} {mn : String} {g : SlotFn} {ls : List Line}

/-- A slot that reads lines with no bad cell commits. -/
theorem readingLines_commits {y : Tile} (h : s.At i b) (hx : exec i s = s.runSlot mn i g) (hl : ∀ l ∈ ls, s.here.badCell l = none)
    (hg : g s s.focus s.here b = readingLines s.here ls (.keep y)) (hleaf : y.leafTrap = s.here.leafTrap)
    (hstop : y.stopReq = s.here.stopReq) : Commits i s y := by
  refine runSlot_commits (accs := []) (fl := .seq) h hx ?_ (hleaf.trans h.leaf) (hstop.trans h.goes) (by simp) (by simp)
  rw [hg, readingLines, findSome_badCell _ _ hl]
  rfl

end

end Sys2Proof.Machine
end

section
namespace Sys2Proof.Machine

/-! ## Bit patterns (R150, R157-R161) -/

/-- A form that writes its elements with one function writes them with any other that agrees with it as w-bit patterns and in its flags. -/
theorem WritesElements.congr {i : Instr} {pd : Line} {ls : List Line} {f g : VMode → Tile → Nat → Res} (hw : WritesElements i pd ls f)
    (hv : ∀ t e, (f t.vmode t e).v % 2 ^ elemBits t.vmode.ty = (g t.vmode t e).v % 2 ^ elemBits t.vmode.ty)
    (hf : ∀ t e, (f t.vmode t e).fl = (g t.vmode t e).fl) : WritesElements i pd ls g := by
  intro s b h hl
  obtain ⟨y, raised, hc, hy, hr⟩ := hw s b h hl
  refine ⟨y, raised, hc, hy.congr fun e _ => ?_, fun j => by simp only [hr j, hf]⟩
  split
  · exact congrArg some (hv s.here e)
  · rfl

theorem elemAt_lt (w : Nat) (ws : List Word) (e : Nat) : elemAt (elements w ws) e < 2 ^ w := by
  by_cases h : e < (elements w ws).length
  · rw [elemAt, List.getD_eq_getElem _ _ h, elements_getElem]
    exact Nat.mod_lt _ (Nat.two_pow_pos w)
  · rw [elemAt, List.getD_eq_default _ _ (Nat.le_of_not_lt h)]
    exact Nat.two_pow_pos w

/-- A shift amount is the operand modulo the width (R158). -/
theorem shiftAmount_eq {w : Nat} (hw : w ∈ [8, 16, 32, 64]) (b : Nat) : bits b 0 (shiftBits w) = b % w := by
  have hp : 2 ^ shiftBits w = w := by
    rcases (by simpa using hw : w = 8 ∨ w = 16 ∨ w = 32 ∨ w = 64) with rfl | rfl | rfl | rfl <;> decide
  rw [bits, hp, Nat.pow_zero, Nat.div_one]

theorem opShl_mod {w : Nat} (hw : w ∈ [8, 16, 32, 64]) (a b : Nat) : opShl w a b % 2 ^ w = (a <<< (b % w)) % 2 ^ w := by
  rw [opShl, shiftAmount_eq hw, Nat.mod_mod, Nat.shiftLeft_eq]

theorem opShr_eq {w : Nat} (hw : w ∈ [8, 16, 32, 64]) (a b : Nat) : opShr w a b = a >>> (b % w) := by
  rw [opShr, shiftAmount_eq hw, Nat.shiftRight_eq_div_pow]

theorem opSra_eq {w a : Nat} (hw : w ∈ [8, 16, 32, 64]) (ha : a < 2 ^ w) (b : Nat) : opSra w a b =
    ((if a < 2 ^ (w - 1) then (a : Int) else a - 2 ^ w) / 2 ^ (b % w) % 2 ^ w).toNat := by
  have hw0 : 0 < w := Nat.pos_of_ne_zero (by rintro rfl; simp at hw)
  rw [opSra, wrap, shiftAmount_eq hw, sext_of_lt hw0 ha]
  by_cases h : a < 2 ^ (w - 1)
  · rw [if_neg (by omega), if_pos h]
  · rw [if_pos (by omega), if_neg h]

theorem flagsOf_plain (f : Nat → Nat) : ∀ es : List Nat, flagsOf (es.map fun e => some (plain (f e))) = {}
  | [] => rfl
  | _ :: es => flagsOf_plain f es

/-- VSEL writes every element, active or not. -/
theorem vsel_commits {s : State} {b : Inflight} {pd pa pb : Line} (h : s.At (.vsel pd pa pb) b) (ha : s.here.badCell pa = none)
    (hb : s.here.badCell pb = none) : ∃ y, Commits (.vsel pd pa pb) s y ∧
      LineWritten s.here y pd (elemBits s.here.vmode.ty)
        (fun e => some (if s.here.vmode.mask.getLsbD e then elemAt (s.here.elems s.here.vmode pa) e
          else elemAt (s.here.elems s.here.vmode pb) e)) 0 := by
  have hl : ∀ l ∈ [pa, pb], s.here.badCell l = none := by simp [ha, hb]
  refine ⟨_, readingLines_commits h (show _ = execVsel pd pa pb s from rfl) hl rfl rfl rfl, ?_⟩
  have hy := lineWritten_setElements s.here pd (List.mem_cons_of_mem 4 (vmode_bits s.here))
    (((List.range (elemCount s.here.vmode)).map fun e => some (plain (elemAt
      (if s.here.vmode.mask.getLsbD e then s.here.elems s.here.vmode pa else s.here.elems s.here.vmode pb) e))).map fun r => r.map Res.v)
    (by simp [elemCount]) {}
  rw [Tile.putElems, flagsOf_plain]
  refine hy.congr fun e he => ?_
  have he' : e < elemCount s.here.vmode := he
  simp only [List.map_map, List.getElem?_map, List.getElem?_range he', Option.map_some, Function.comp, plain, Option.join_some]
  split <;> rfl

theorem vec2_writes {i : Instr} {mn : String} {pd pa pb : Line} {f : VMode → Nat → Nat → Res}
    (hx : ∀ s, exec i s = s.runSlot mn i (vec2 pd pa pb f)) :
    WritesElements i pd [pa, pb] fun c x e => f c (elemAt (x.elems c pa) e) (elemAt (x.elems c pb) e) :=
  vecSlot_writes hx fun _ _ _ => rfl

/-- A form of two lines writes any pattern that agrees with its own as a w-bit pattern. -/
theorem vec2_writes_pattern {i : Instr} {mn : String} {pd pa pb : Line} {f op : VMode → Nat → Nat → Nat}
    (hx : ∀ s, exec i s = s.runSlot mn i (vec2 pd pa pb fun c a b => plain (f c a b)))
    (hf : ∀ c a b, elemBits c.ty ∈ [8, 16, 32, 64] → a < 2 ^ elemBits c.ty → f c a b % 2 ^ elemBits c.ty = op c a b % 2 ^ elemBits c.ty) :
    WritesElements i pd [pa, pb] fun c x e => ⟨op c (elemAt (x.elems c pa) e) (elemAt (x.elems c pb) e), {}⟩ :=
  (vec2_writes hx).congr (fun t _ => hf t.vmode _ _ (vmode_bits t) (elemAt_lt ..)) fun _ _ => rfl

theorem exec_vshuf (pd pa pb : Line) (s : State) : exec (.vshuf pd pa pb) s = s.runSlot "VSHUF" (.vshuf pd pa pb) fun s i t b =>
    vecSlot pd [pa, pb] (fun c _ e => plain (elemAt (t.elems t.vmode pa) (elemAt (t.elems t.vmode pb) e % elemCount c))) s i t b := rfl

/-- Settles O24: each form is one computation of the active elements (`vecSlot_writes`), the shifts with their amounts modulo the width
(`vec2_writes_pattern`); VSEL by `vsel_commits`. -/
theorem vectorBitPatternsMoveUnchanged : Obligations.VectorBitPatternsMoveUnchanged := by
  intro pd pa pb sa on amt two
  refine ⟨?_, ?_, ?_, ?_, ?_, ?_, vecSlot_writes (exec_vshuf pd pa pb) fun _ _ _ => rfl, ?_, fun s b h ha hb => vsel_commits h ha hb⟩
  case refine_4 =>
    exact vec2_writes_pattern (i := .vshl pd pa pb) (f := fun c => opShl (elemBits c.ty)) (op := fun c a b => a <<< amt c b)
      (fun _ => rfl) fun _ _ _ hw _ => opShl_mod hw ..
  case refine_5 =>
    exact vec2_writes_pattern (i := .vshr pd pa pb) (f := fun c => opShr (elemBits c.ty)) (op := fun c a b => a >>> amt c b)
      (fun _ => rfl) fun _ _ _ hw _ => by rw [opShr_eq hw]
  case refine_6 =>
    exact vec2_writes_pattern (i := .vsra pd pa pb) (f := fun c => opSra (elemBits c.ty)) (op := fun c a b =>
        ((if a < 2 ^ (elemBits c.ty - 1) then (a : Int) else a - 2 ^ elemBits c.ty) / 2 ^ amt c b % 2 ^ elemBits c.ty).toNat)
      (fun _ => rfl) fun _ _ _ hw ha => by rw [opSra_eq hw ha]
  all_goals exact vecSlot_writes (fun _ => rfl) fun _ _ _ => rfl

end Sys2Proof.Machine
end

section
namespace Sys2Proof.Machine

/-! ## Functions (R154) -/

section
variable {i : Instr} {mn : String} {pd pa : Line} {g : VFun}

/-- What a function does, by the type of the elements. -/
theorem vecFun_runs (hx : ∀ s, exec i s = s.runSlot mn i (vecFun pd pa g)) : ∀ s b, s.At i b →
    let c := s.here.vmode
    let w := elemBits c.ty
    (∀ f, elemFloat c.ty = some f → s.here.badCell pa = none →
      let r (e : Nat) : Res := opFun c f g (elemAt (elements w (s.here.line pa)) e)
      ∃ y raised, Commits i s y ∧ LineWritten s.here y pd w (fun e => if c.mask.getLsbD e then some (r e).v else none) raised ∧
        ∀ j, raised.getLsbD j = (List.range (2048 / w)).any fun e => c.mask.getLsbD e && (r e).fl.toBits.getLsbD j) ∧
    (elemFloat c.ty = none → s.here.k.trapped = false → StopsWith i s b 0x16 0x11) := by
  intro s b h c w
  refine ⟨fun f hf ha => ?_, fun hf ht => ?_⟩
  · intro r
    have hl : ∀ l ∈ [pa], s.here.badCell l = none := by simp [ha]
    have hg : vecFun pd pa g s s.focus s.here b = readingLines s.here [pa] (.keep (s.here.putElems pd w (activeRes c.mask (2048 / w) r))) := by
      simp only [vecFun, hf, c]
      rfl
    exact ⟨_, _, readingLines_commits h (hx s) hl hg rfl rfl, lineWritten_putElems s.here pd w (vmode_bits _) c.mask r,
      flagsOf_activeRes c.mask (2048 / w) r⟩
  · exact runSlot_stops h (hx s) (by simp only [vecFun, hf, c]) ht rfl (by decide) rfl
end

theorem exec_vrcp (pd pa : Line) (s : State) : exec (.vrcp pd pa) s = s.runSlot "VRCP" (.vrcp pd pa) (vecFun pd pa .rcp) := rfl
theorem exec_vrsq (pd pa : Line) (s : State) : exec (.vrsq pd pa) s = s.runSlot "VRSQ" (.vrsq pd pa) (vecFun pd pa .rsq) := rfl
theorem exec_vexp2 (pd pa : Line) (s : State) : exec (.vexp2 pd pa) s = s.runSlot "VEXP2" (.vexp2 pd pa) (vecFun pd pa .exp2) := rfl
theorem exec_vlog2 (pd pa : Line) (s : State) : exec (.vlog2 pd pa) s = s.runSlot "VLOG2" (.vlog2 pd pa) (vecFun pd pa .log2) := rfl

/-- Settles O27: the four functions are slots of `vecFun`. -/
theorem functionsRunOnFloatingTypesOnly : Obligations.FunctionsRunOnFloatingTypesOnly := by
  intro pd pa fn
  exact ⟨vecFun_runs (exec_vrcp pd pa), vecFun_runs (exec_vrsq pd pa), vecFun_runs (exec_vexp2 pd pa), vecFun_runs (exec_vlog2 pd pa)⟩

end Sys2Proof.Machine
end

section
namespace Sys2Proof.Machine

/-! ## Encodings taken apart (R88, R89) -/

theorem bits_field {n k E m : Nat} (hE : E < 2 ^ k) (hm : m < 2 ^ n) : bits (E * 2 ^ n + m) n k = E := by
  rw [bits, Nat.add_comm, Nat.add_mul_div_right _ _ (Nat.two_pow_pos n), Nat.div_eq_of_lt hm, Nat.zero_add, Nat.mod_eq_of_lt hE]

theorem bits_fraction {n E m : Nat} (hm : m < 2 ^ n) : bits (E * 2 ^ n + m) 0 n = m := by
  rw [bits, Nat.pow_zero, Nat.div_one, Nat.mul_add_mod_self_right, Nat.mod_eq_of_lt hm]

theorem bit_above {n k E m : Nat} (hE : E < 2 ^ k) (hm : m < 2 ^ n) : bit (E * 2 ^ n + m) (k + n) = false := by
  have hlt : E * 2 ^ n + m < 2 ^ (k + n) := by
    calc E * 2 ^ n + m < (E + 1) * 2 ^ n := by rw [Nat.add_mul, Nat.one_mul]; omega
      _ ≤ 2 ^ k * 2 ^ n := Nat.mul_le_mul_right _ hE
      _ = 2 ^ (k + n) := (Nat.pow_add ..).symm
  rw [bit, Nat.div_eq_of_lt hlt]
  rfl

/-- A normal encoding of sign 0 has its implied leading bit. -/
theorem decode_normal {f : FloatFmt} {E m : Nat} (h0 : 0 < E) (hE : E < 2 ^ f.ebits - 1) (hm : m < 2 ^ f.fbits) :
    f.decode (E * 2 ^ f.fbits + m) = .fin false (2 ^ f.fbits + m) ((E : Int) - 1 + f.qmin) := by
  have hE' : E < 2 ^ f.ebits := by omega
  have hne : (E == 2 ^ f.ebits - 1) = false := by simpa using hE.ne
  rw [FloatFmt.decode, bits_field hE' hm, bits_fraction hm, bit_above hE' hm, hne]
  simp [h0.ne']

theorem decode_zero {f : FloatFmt} (he : 1 < 2 ^ f.ebits) : f.decode 0 = .fin false 0 f.qmin := by
  have hne : ((0 : Nat) == 2 ^ f.ebits - 1) = false := by rw [beq_eq_false_iff_ne]; omega
  simp [FloatFmt.decode, bits, bit, hne]

/-- Rule set 1 flushes no result whose exponent field is not 0. -/
theorem flushResult_normal {numv1 : Bool} {f : FloatFmt} {r : Res} (h : bits r.v f.fbits f.ebits ≠ 0) : flushResult numv1 f r = r := by
  simp [flushResult, h]

/-! ## Integers that a format holds (R99, R160) -/

/-- A format with a bias, whose significands all are integers within its range, and no wider than F64's. -/
structure FloatFmt.HoldsIntegers (f : FloatFmt) : Prop where
  biased : 1 ≤ f.bias
  range : f.fbits + f.bias < f.maxE
  narrow : f.fbits ≤ 52

theorem elemFloat_holdsIntegers {t : ElemType} {g : FloatFmt} (h : elemFloat t = some g) : g.HoldsIntegers := by
  cases t <;> simp only [elemFloat, Option.some.injEq, reduceCtorEq] at h <;> subst h <;> exact ⟨by decide, by decide, by decide⟩

theorem FloatFmt.maxE_le (f : FloatFmt) : f.maxE ≤ 2 ^ f.ebits - 1 := by
  unfold FloatFmt.maxE
  split <;> omega

section
variable {f : FloatFmt} (hf : f.HoldsIntegers) {n : Nat} (h0 : n ≠ 0) (hn : n < 2 ^ (f.fbits + 1))
include hf h0 hn

/-- An integer of no more bits than the significand rounds to itself. -/
theorem roundFin_integer (mode : RMode) (nov : Bool) : roundFin f mode nov false n 0 false =
    ⟨(Nat.log2 n + f.bias - 1) * 2 ^ f.fbits + n * 2 ^ (f.fbits - Nat.log2 n), {}⟩ := by
  obtain ⟨hb, hr, -⟩ := hf
  have hl : Nat.log2 n ≤ f.fbits := Nat.lt_succ_iff.mp ((Nat.log2_lt h0).mpr hn)
  have hround : ∀ q : Int, q = Nat.log2 n - f.fbits → roundTo mode false n 0 false q = (n * 2 ^ (f.fbits - Nat.log2 n), true) := by
    rintro q rfl
    have hq : ((0 : Int) - (Nat.log2 n - f.fbits)).toNat = f.fbits - Nat.log2 n := by omega
    rw [roundTo, if_pos (by omega), hq]
    rfl
  have hmax : ((Nat.log2 n : Int) + 0) - f.fbits < f.maxQ := by unfold FloatFmt.maxQ FloatFmt.qmin; omega
  have hmin : f.qmin ≤ ((Nat.log2 n : Int) + 0) - f.fbits := by unfold FloatFmt.qmin; omega
  have hexp : (((Nat.log2 n : Int) + 0) - f.fbits - f.qmin).toNat = Nat.log2 n + f.bias - 1 := by unfold FloatFmt.qmin; omega
  have hfits : ¬ (f.maxQ < ((Nat.log2 n : Int) + 0) - f.fbits ∨
      ((Nat.log2 n : Int) + 0) - f.fbits = f.maxQ ∧ f.maxM < n * 2 ^ (f.fbits - Nat.log2 n)) := by omega
  rw [roundFin, if_neg h0]
  simp only [max_eq_left hmin, hround _ (by omega : ((Nat.log2 n : Int) + 0) - f.fbits = _), hexp, if_neg hfits, FloatFmt.signBit]
  simp

omit hf in
/-- The significand of such an integer, shifted up to its leading bit. -/
theorem significand_integer : 2 ^ f.fbits ≤ n * 2 ^ (f.fbits - Nat.log2 n) ∧ n * 2 ^ (f.fbits - Nat.log2 n) < 2 ^ (f.fbits + 1) := by
  have hl : Nat.log2 n ≤ f.fbits := Nat.lt_succ_iff.mp ((Nat.log2_lt h0).mpr hn)
  constructor
  · calc 2 ^ f.fbits = 2 ^ Nat.log2 n * 2 ^ (f.fbits - Nat.log2 n) := by rw [← Nat.pow_add, Nat.add_sub_cancel' hl]
      _ ≤ n * 2 ^ (f.fbits - Nat.log2 n) := Nat.mul_le_mul_right _ (Nat.log2_self_le h0)
  · calc n * 2 ^ (f.fbits - Nat.log2 n) < 2 ^ (Nat.log2 n + 1) * 2 ^ (f.fbits - Nat.log2 n) :=
          Nat.mul_lt_mul_of_pos_right Nat.lt_log2_self (Nat.two_pow_pos _)
      _ = 2 ^ (f.fbits + 1) := by rw [← Nat.pow_add]; congr 1; omega

/-- Such an integer is written as a normal encoding, and reads back. -/
theorem floatRes_integer (c : VMode) : (floatRes c f false (.fin false n 0)).fl = {} ∧
    f.decode (floatRes c f false (.fin false n 0)).v = .fin false (n * 2 ^ (f.fbits - Nat.log2 n)) (Nat.log2 n - f.fbits) := by
  obtain ⟨hlo, hhi⟩ := significand_integer h0 hn
  have hround := roundFin_integer hf h0 hn c.rnd c.nov
  obtain ⟨hb, hr, -⟩ := hf
  have hl : Nat.log2 n ≤ f.fbits := Nat.lt_succ_iff.mp ((Nat.log2_lt h0).mpr hn)
  obtain ⟨m, hm⟩ := Nat.exists_eq_add_of_le hlo
  have hm' : m < 2 ^ f.fbits := by rw [hm, Nat.pow_succ] at hhi; omega
  have hE : Nat.log2 n + f.bias < 2 ^ f.ebits - 1 := by have := f.maxE_le; omega
  have henc : (Nat.log2 n + f.bias - 1) * 2 ^ f.fbits + (2 ^ f.fbits + m) = (Nat.log2 n + f.bias) * 2 ^ f.fbits + m := by
    rw [← Nat.add_assoc, ← Nat.succ_mul]; congr 2; omega
  have hres : floatRes c f false (.fin false n 0) = ⟨(Nat.log2 n + f.bias) * 2 ^ f.fbits + m, {}⟩ := by
    have hexp : bits ((Nat.log2 n + f.bias) * 2 ^ f.fbits + m) f.fbits f.ebits ≠ 0 := by rw [bits_field (by omega) hm']; omega
    rw [floatRes, roundVal, hround, hm, henc, flushResult_normal hexp]
    rfl
  rw [hres, decode_normal (by omega) hE hm', hm]
  refine ⟨rfl, ?_⟩
  congr 1
  unfold FloatFmt.qmin
  omega
end

theorem floatRes_zero {f : FloatFmt} (c : VMode) : floatRes c f false (.fin false 0 0) = ⟨0, {}⟩ := by
  simp [floatRes, roundVal, roundFin, flushResult, FloatFmt.signBit, bits]

/-! ## VIOTA and the forms with a scalar (R155, R160) -/

/-- An element's number is held by its type, or at the bound of it. -/
theorem opIota_int {c : VMode} (h : elemFloat c.ty = none) (e : Nat) : opIota c e =
    ⟨if c.sat then min e (if elemSigned c.ty then 2 ^ (elemBits c.ty - 1) - 1 else 2 ^ elemBits c.ty - 1) else e % 2 ^ elemBits c.ty, {}⟩ := by
  have hi : intMax c.ty = (if elemSigned c.ty then 2 ^ (elemBits c.ty - 1) - 1 else 2 ^ elemBits c.ty - 1 : Nat) := by
    unfold intMax
    split <;> simp [Nat.one_le_two_pow]
  have hlo : intMin c.ty ≤ 0 := by unfold intMin; split <;> simp
  have hlt : (if elemSigned c.ty then 2 ^ (elemBits c.ty - 1) - 1 else 2 ^ elemBits c.ty - 1) < 2 ^ elemBits c.ty := by
    have h1 : 2 ^ (elemBits c.ty - 1) ≤ 2 ^ elemBits c.ty := Nat.pow_le_pow_right (by decide) (Nat.sub_le ..)
    have h2 := Nat.two_pow_pos (elemBits c.ty)
    split <;> omega
  simp only [opIota, h, intResult_eq, hi]
  generalize (if elemSigned c.ty then 2 ^ (elemBits c.ty - 1) - 1 else 2 ^ elemBits c.ty - 1) = top at *
  congr 1
  have hwrap : ∀ n : Nat, ((n : Int) % 2 ^ elemBits c.ty).toNat = n % 2 ^ elemBits c.ty := fun n => by norm_cast
  by_cases hs : c.sat
  · rw [if_pos hs, if_pos hs, max_eq_right (by omega), min_comm, ← Nat.cast_min, hwrap, Nat.mod_eq_of_lt (by omega)]
  · rw [if_neg hs, if_neg hs, hwrap]

theorem opIota_float {c : VMode} {g : FloatFmt} (h : elemFloat c.ty = some g) (e : Nat) :
    opIota c e = floatRes c g false (.fin false e 0) := by simp only [opIota, h]

/-- An element's number of no more bits than the format's significand is exact. -/
theorem floatRes_exact {g : FloatFmt} (hg : g.HoldsIntegers) (c : VMode) {e : Nat} (he : e < 2 ^ (g.fbits + 1)) :
    (floatRes c g false (.fin false e 0)).fl = {} ∧
    ∃ m q, g.decode (floatRes c g false (.fin false e 0)).v = .fin false m q ∧ m * 2 ^ (q + 52).toNat = e * 2 ^ 52 := by
  rcases Nat.eq_zero_or_pos e with rfl | h0
  · have h1 : 1 < 2 ^ g.ebits := by have := g.maxE_le; have := hg.biased; have := hg.range; omega
    rw [floatRes_zero]
    exact ⟨rfl, 0, g.qmin, decode_zero h1, by rw [Nat.zero_mul, Nat.zero_mul]⟩
  · obtain ⟨hfl, hdec⟩ := floatRes_integer hg h0.ne' he c
    refine ⟨hfl, _, _, hdec, ?_⟩
    have hl : Nat.log2 e ≤ g.fbits := Nat.lt_succ_iff.mp ((Nat.log2_lt h0.ne').mpr he)
    have hn := hg.narrow
    rw [Nat.mul_assoc, ← Nat.pow_add]
    congr 2
    omega

theorem exec_vfmas (pd pa : Line) (sb : SReg) (s : State) : exec (.vfmas pd pa sb) s =
    s.runSlot "VFMAS" (.vfmas pd pa sb) fun s i t b =>
      vecSlot pd [pd, pa] (fun c t' e => opFused c false false (elemAt (t.elems t.vmode pd) e) (elemAt (t.elems t.vmode pa) e)
        (t'.scalarElem c sb)) s i t b := rfl

/-- Settles O25: the forms with a scalar are computations of the active elements (`vecSlot_writes`), VIOTA's with `opIota`. -/
theorem vectorScalarForms : Obligations.VectorScalarForms := by
  intro pd pa sb on scalar
  refine ⟨?_, ?_, vecSlot_writes (exec_vfmas pd pa sb) fun _ _ _ => rfl, opIota, ?_, fun c e h => opIota_int h e,
    fun c g e h => ⟨opIota_float h e, fun he => ?_⟩⟩
  case refine_4 =>
    rw [opIota_float h]
    exact floatRes_exact (elemFloat_holdsIntegers h) c he
  all_goals exact vecSlot_writes (fun _ => rfl) fun _ _ _ => rfl

end Sys2Proof.Machine
end

section
namespace Sys2Proof.Machine

/-! ## VCMP (R156) -/

/-- A number built from bits, the first one lowest. -/
theorem testBit_foldr_bits (p : Nat → Bool) : ∀ (es : List Nat) (j : Nat),
    (es.foldr (fun e v => 2 * v + (p e).toNat) 0).testBit j = (es[j]?.map p).getD false
  | [], j => by simp
  | e :: es, 0 => by cases h : p e <;> simp [h]
  | e :: es, j + 1 => by
    have hd : ∀ v : Nat, (2 * v + (p e).toNat) / 2 = v := fun v => by cases p e <;> simp; omega
    rw [List.foldr_cons, Nat.testBit_succ, hd, testBit_foldr_bits p es j, List.getElem?_cons_succ]

theorem cmpMask_getLsbD (old active : BitVec 256) {n : Nat} (hn : n ≤ 256) (f : Nat → Bool) (e : Nat) :
    (cmpMask old active n f).getLsbD e = (decide (e < n) && if active.getLsbD e then f e else old.getLsbD e) := by
  rw [cmpMask, BitVec.getLsbD_ofNat, testBit_foldr_bits (fun e => if active.getLsbD e then f e else old.getLsbD e)]
  by_cases he : e < n
  · simp [he, Nat.lt_of_lt_of_le he hn]
  · simp [he]

theorem mask_setMask (t : Tile) {md : MaskReg} (hm : md ≠ 0) (v : BitVec 256) (m : MaskReg) :
    (t.setMask md v).mask m = if m = md then v else t.mask m := by
  simp only [Tile.setMask, if_neg hm, Tile.mask]
  by_cases h : m = md
  · subst h
    rw [if_neg hm, if_pos rfl, Vector.getElem_set_self]
  · have hn : md.toNat ≠ m.toNat := fun e => h (BitVec.eq_of_toNat_eq e).symm
    rw [if_neg h, Vector.getElem_set_ne _ _ hn]

theorem setMask_leafTrap (t : Tile) (m : MaskReg) (v : BitVec 256) : (t.setMask m v).leafTrap = t.leafTrap := by
  unfold Tile.setMask; split <;> rfl
theorem setMask_stopReq (t : Tile) (m : MaskReg) (v : BitVec 256) : (t.setMask m v).stopReq = t.stopReq := by
  unfold Tile.setMask; split <;> rfl
theorem setMask_k (t : Tile) (m : MaskReg) (v : BitVec 256) : (t.setMask m v).k = t.k := by
  unfold Tile.setMask; split <;> rfl
/-- Nothing but the masks moves. -/
theorem setMask_masks (t : Tile) (m : MaskReg) (v : BitVec 256) : { t.setMask m v with masks := t.masks } = t := by
  unfold Tile.setMask; split <;> rfl

theorem flagsOred_raise {t u : Tile} (h : u.k = t.k) (fl : FpFlags) : FlagsOred t (u.raise fl) fl.toBits := by
  rw [FlagsOred, Tile.raise, h]

theorem elemCount_le (t : Tile) : elemCount t.vmode ≤ 256 := by
  have hw := vmode_bits t
  unfold elemCount
  rcases (by simpa using hw : elemBits t.vmode.ty = 8 ∨ elemBits t.vmode.ty = 16 ∨ elemBits t.vmode.ty = 32 ∨ elemBits t.vmode.ty = 64)
    with h | h | h | h <;> rw [h] <;> decide

/-- VCMP compares into a mask and touches no other. -/
theorem vcmp_commits {s : State} {b : Inflight} {cond : VCond} {md : MaskReg} {pa pb : Line} (hm : md ≠ 0)
    (h : s.At (.vcmp cond md pa pb) b) (ha : s.here.badCell pa = none) (hb : s.here.badCell pb = none) :
    let c := s.here.vmode
    let cmp (e : Nat) : Bool × Bool := opCmp c cond (elemAt (s.here.elems c pa) e) (elemAt (s.here.elems c pb) e)
    ∃ z, Commits (.vcmp cond md pa pb) s z ∧
      (∀ e, (z.mask md).getLsbD e = (decide (e < elemCount c) && if c.mask.getLsbD e then (cmp e).1 else (s.here.mask md).getLsbD e)) ∧
      (∀ m, m ≠ md → z.mask m = s.here.mask m) ∧
      FlagsOred s.here z (({ inv := (List.range (elemCount c)).any fun e => c.mask.getLsbD e && (cmp e).2 } : FpFlags).toBits) ∧
      { z with masks := s.here.masks, k := s.here.k } = s.here := by
  intro c cmp
  have hl : ∀ l ∈ [pa, pb], s.here.badCell l = none := by simp [ha, hb]
  have hmask := mask_setMask s.here hm (cmpMask (s.here.mask md) c.mask (elemCount c) fun e => (cmp e).1)
  refine ⟨(s.here.setMask md (cmpMask (s.here.mask md) c.mask (elemCount c) fun e => (cmp e).1)).raise
    { inv := (List.range (elemCount c)).any fun e => c.mask.getLsbD e && (cmp e).2 }, readingLines_commits h
    (show _ = execVcmp cond md pa pb s from rfl) hl rfl (setMask_leafTrap ..) (setMask_stopReq ..), fun e => ?_, fun m hne => ?_, ?_, ?_⟩
  · refine Eq.trans ?_ (cmpMask_getLsbD (s.here.mask md) c.mask (elemCount_le s.here) (fun e => (cmp e).1) e)
    exact congrArg (BitVec.getLsbD · e) ((hmask md).trans (if_pos rfl))
  · exact (hmask m).trans (if_neg hne)
  · exact flagsOred_raise (setMask_k ..) _
  · exact congrArg (fun u : Tile => { u with k := s.here.k }) (setMask_masks s.here md _)

/-! ## VCVT (R162) -/

theorem elemBits_mem (t : ElemType) : elemBits t ∈ [4, 8, 16, 32, 64] := by cases t <;> decide

/-- VCVT writes the active ones of as many elements as the wider type has. -/
theorem vcvt_commits {s : State} {b : Inflight} {pd pa : Line} {x y : ElemType} (h : s.At (.vcvt pd pa x y) b)
    (ha : s.here.badCell pa = none) :
    let c := s.here.vmode
    let n := 2048 / max (elemBits x) (elemBits y)
    let r (e : Nat) : Res := cvtElem c x y (elemAt (elements (elemBits x) (s.here.line pa)) e)
    ∃ z raised, Commits (.vcvt pd pa x y) s z ∧
      LineWritten s.here z pd (elemBits y) (fun e => if e < n ∧ c.mask.getLsbD e then some (r e).v else none) raised ∧
      ∀ j, raised.getLsbD j = (List.range n).any fun e => c.mask.getLsbD e && (r e).fl.toBits.getLsbD j := by
  intro c n r
  have hl : ∀ l ∈ [pa], s.here.badCell l = none := by simp [ha]
  have hn : n ≤ 2048 / elemBits y := Nat.div_le_div_left (le_max_right ..) (elemBits_pos y)
  have hw := lineWritten_setElements s.here pd (elemBits_mem y) ((activeRes c.mask n r).map fun r => r.map Res.v)
    (by simpa [activeRes] using hn) (flagsOf (activeRes c.mask n r))
  refine ⟨s.here.putElems pd (elemBits y) (activeRes c.mask n r), _,
    readingLines_commits h (show _ = execVcvt pd pa x y s from rfl) hl rfl rfl rfl, hw.congr fun e _ => ?_, flagsOf_activeRes c.mask n r⟩
  by_cases he : e < n
  · rw [activeRes_getElem? c.mask n r e he]
    simp only [he, true_and]
  · have hlen : ((activeRes c.mask n r).map fun r => r.map Res.v).length ≤ e := by simpa [activeRes] using he
    rw [List.getElem?_eq_none hlen, if_neg fun hx => he hx.1]
    rfl

/-- Settles O28, by the commit of each. -/
theorem comparesAndConversions : Obligations.ComparesAndConversions := by
  intro pd pa pb cond md x y hm _
  exact ⟨fun s b h ha hb => vcmp_commits hm h ha hb, fun s b h ha => vcvt_commits h ha⟩

end Sys2Proof.Machine
end

section
namespace Sys2Proof.Machine

/-! ## VSCAN (R163) -/

/-- A scan's combination with an element: the first one as it is read. -/
def scanCombine (c : VMode) (op : ScanOp) (acc : Option Nat) (v : Nat) : Res :=
  match acc with
  | none => ⟨(readElem c v).v, {}⟩
  | some r => scanStep c op r (readElem c v).v

/-- A scan's running value after one more element. -/
def scanNext (c : VMode) (op : ScanOp) (acc : Option Nat) (p : Bool × Nat) : Option Nat :=
  if p.1 then some (scanCombine c op acc p.2).v else acc

/-- A scan's running value before element e. -/
def scanAcc (c : VMode) (op : ScanOp) (acc : Option Nat) (xs : List (Bool × Nat)) (e : Nat) : Option Nat :=
  (xs.take e).foldl (scanNext c op) acc

/-- What a scan gives out at an active element. -/
def scanOut (c : VMode) (op : ScanOp) (xs : List (Bool × Nat)) (e : Nat) : Nat := (scanAcc c op none xs (e + 1)).getD 0

/-- Of n elements, d and e are active and none between them is. -/
def NextActive (n : Nat) (on : Nat → Bool) (d e : Nat) : Prop :=
  d < e ∧ e < n ∧ on d = true ∧ on e = true ∧ ∀ j, d < j → j < e → on j = false

section
variable (c : VMode) (op : ScanOp)

theorem scanGo_inactive (acc : Option Nat) (v : Nat) (xs : List (Bool × Nat)) :
    scanGo c op acc ((false, v) :: xs) = (none :: (scanGo c op acc xs).1, (scanGo c op acc xs).2) := rfl

theorem scanGo_active (acc : Option Nat) (v : Nat) (xs : List (Bool × Nat)) :
    scanGo c op acc ((true, v) :: xs) =
      (some (scanCombine c op acc v).v :: (scanGo c op (some (scanCombine c op acc v).v) xs).1,
        ((readElem c v).fl.or (scanCombine c op acc v).fl).or (scanGo c op (some (scanCombine c op acc v).v) xs).2) := by
  cases acc <;> rfl

/-- The running value runs on from each element. -/
theorem scanAcc_cons (acc : Option Nat) (p : Bool × Nat) (xs : List (Bool × Nat)) (e : Nat) :
    scanAcc c op acc (p :: xs) (e + 1) = scanAcc c op (scanNext c op acc p) xs e := rfl

theorem scanAcc_succ {acc : Option Nat} {xs : List (Bool × Nat)} {e : Nat} {p : Bool × Nat} (h : xs[e]? = some p) :
    scanAcc c op acc xs (e + 1) = scanNext c op (scanAcc c op acc xs e) p := by
  rw [scanAcc, List.take_add_one, List.foldl_append, h]
  rfl

/-- The elements that a scan gives out: the running values after the active ones. -/
theorem scanGo_values : ∀ (xs : List (Bool × Nat)) (acc : Option Nat) (e : Nat), (scanGo c op acc xs).1[e]? =
    xs[e]?.map fun p => if p.1 then scanAcc c op acc xs (e + 1) else none
  | [], acc, e => by simp [scanGo]
  | (false, v) :: xs, acc, 0 => rfl
  | (true, v) :: xs, acc, 0 => by rw [scanGo_active]; rfl
  | (false, v) :: xs, acc, e + 1 => by
    rw [scanGo_inactive, List.getElem?_cons_succ, scanGo_values xs acc e]
    rfl
  | (true, v) :: xs, acc, e + 1 => by
    rw [scanGo_active, List.getElem?_cons_succ, scanGo_values xs _ e]
    rfl

/-- The flags that a scan gives out: those of the readings and of the combinations. -/
theorem scanGo_flags (j : Nat) : ∀ (xs : List (Bool × Nat)) (acc : Option Nat), (scanGo c op acc xs).2.toBits.getLsbD j = true ↔
    ∃ e v, xs[e]? = some (true, v) ∧ ((readElem c v).fl.toBits.getLsbD j = true ∨
      (scanCombine c op (scanAcc c op acc xs e) v).fl.toBits.getLsbD j = true)
  | [], acc => by
    have h0 : ({} : FpFlags).toBits = 0 := by decide
    simp [scanGo, h0]
  | (false, v) :: xs, acc => by
    rw [scanGo_inactive, scanGo_flags j xs acc]
    constructor
    · rintro ⟨e, u, he, hf⟩
      exact ⟨e + 1, u, he, hf⟩
    · rintro ⟨e, u, he, hf⟩
      cases e with
      | zero => simp at he
      | succ e => exact ⟨e, u, he, hf⟩
  | (true, v) :: xs, acc => by
    rw [scanGo_active, toBits_or, toBits_or, BitVec.getLsbD_or, BitVec.getLsbD_or, Bool.or_eq_true, Bool.or_eq_true, scanGo_flags j xs]
    constructor
    · rintro (hf | ⟨e, u, he, hf⟩)
      · exact ⟨0, v, rfl, hf⟩
      · exact ⟨e + 1, u, he, hf⟩
    · rintro ⟨e, u, he, hf⟩
      cases e with
      | zero =>
        obtain rfl : v = u := by simpa using he
        exact .inl hf
      | succ e => exact .inr ⟨e, u, he, hf⟩
end

section
variable {c : VMode} {op : ScanOp} {n : Nat} {xs : List (Bool × Nat)} {on : Nat → Bool} {val : Nat → Nat}
  (hxs : ∀ e, e < n → xs[e]? = some (on e, val e))
include hxs

/-- Inactive elements leave the running value. -/
theorem scanAcc_inactive {acc : Option Nat} {d e : Nat} (hde : d ≤ e) (he : e ≤ n) (h : ∀ j, d ≤ j → j < e → on j = false) :
    scanAcc c op acc xs e = scanAcc c op acc xs d := by
  induction e, hde using Nat.le_induction with
  | base => rfl
  | succ e hde ih =>
    rw [scanAcc_succ c op (hxs e he), scanNext, h e hde (Nat.lt_succ_self e)]
    exact ih (Nat.le_of_lt he) fun j h1 h2 => h j h1 (Nat.lt_succ_of_lt h2)

theorem scanAcc_active {acc : Option Nat} {e : Nat} (he : e < n) (h : on e = true) :
    scanAcc c op acc xs (e + 1) = some (scanCombine c op (scanAcc c op acc xs e) (val e)).v := by
  rw [scanAcc_succ c op (hxs e he), scanNext, if_pos h]

theorem scanOut_active {e : Nat} (he : e < n) (h : on e = true) :
    scanOut c op xs e = (scanCombine c op (scanAcc c op none xs e) (val e)).v := by
  rw [scanOut, scanAcc_active hxs he h, Option.getD_some]

/-- The first active element is given out as it is read. -/
theorem scanOut_first {e : Nat} (he : e < n) (h : on e = true) (hfirst : ∀ j < e, on j = false) :
    scanOut c op xs e = (readElem c (val e)).v := by
  rw [scanOut_active hxs he h, scanAcc_inactive hxs (Nat.zero_le e) he.le fun j _ hj => hfirst j hj]
  rfl

/-- The running value before an active element is what was given out at the last one. -/
theorem scanAcc_next {d e : Nat} (h : NextActive n on d e) : scanAcc c op none xs e = some (scanOut c op xs d) := by
  obtain ⟨hde, he, hd, -, hoff⟩ := h
  rw [scanOut, scanAcc_inactive hxs hde he.le hoff, scanAcc_active hxs (hde.trans he) hd, Option.getD_some]

theorem scanOut_next {d e : Nat} (h : NextActive n on d e) : scanOut c op xs e = (scanStep c op (scanOut c op xs d) (readElem c (val e)).v).v := by
  have hacc := scanAcc_next (c := c) (op := op) hxs h
  obtain ⟨-, he, -, hon, -⟩ := h
  rw [scanOut_active hxs he hon, hacc]
  rfl

/-- Where a running value is, an active element was last. -/
theorem exists_last_active {e : Nat} (he : e ≤ n) {r : Nat} (h : scanAcc c op none xs e = some r) :
    ∃ d, d < e ∧ on d = true ∧ ∀ j, d < j → j < e → on j = false := by
  induction e with
  | zero => simp [scanAcc] at h
  | succ e ih =>
    by_cases ho : on e = true
    · exact ⟨e, Nat.lt_succ_self e, ho, fun j h1 h2 => by omega⟩
    · rw [scanAcc_succ c op (hxs e he), scanNext, if_neg ho] at h
      obtain ⟨d, hd, hod, hbetween⟩ := ih (Nat.le_of_lt he) h
      refine ⟨d, Nat.lt_succ_of_lt hd, hod, fun j h1 h2 => ?_⟩
      rcases Nat.lt_succ_iff_lt_or_eq.mp h2 with h2 | rfl
      · exact hbetween j h1 h2
      · exact Bool.eq_false_iff.mpr ho

/-- The flags of a combination: none at the first active element. -/
theorem scanCombine_flags {e : Nat} (he : e < n) (hon : on e = true) (j : Nat) :
    (scanCombine c op (scanAcc c op none xs e) (val e)).fl.toBits.getLsbD j = true ↔
      ∃ d, NextActive n on d e ∧ (scanStep c op (scanOut c op xs d) (readElem c (val e)).v).fl.toBits.getLsbD j = true := by
  constructor
  · intro hf
    cases hacc : scanAcc c op none xs e with
    | none =>
      rw [hacc] at hf
      exact absurd hf (by simp [scanCombine, (by decide : ({} : FpFlags).toBits = 0)])
    | some r =>
      obtain ⟨d, hd, hod, hoff⟩ := exists_last_active hxs he.le hacc
      have hde : NextActive n on d e := ⟨hd, he, hod, hon, hoff⟩
      rw [scanAcc_next hxs hde] at hf
      exact ⟨d, hde, hf⟩
  · rintro ⟨d, hde, hf⟩
    rw [scanAcc_next hxs hde]
    exact hf

/-- The flags of a scan: those of the readings and of the combinations after the first. -/
theorem scanGo_flags_iff (hn : xs.length = n) (j : Nat) : (scanGo c op none xs).2.toBits.getLsbD j = true ↔
    (∃ e, e < n ∧ on e = true ∧ (readElem c (val e)).fl.toBits.getLsbD j = true) ∨
    ∃ d e, NextActive n on d e ∧ (scanStep c op (scanOut c op xs d) (readElem c (val e)).v).fl.toBits.getLsbD j = true := by
  rw [scanGo_flags]
  constructor
  · rintro ⟨e, v, hev, hf⟩
    have he : e < n := hn ▸ (List.getElem?_eq_some_iff.mp hev).1
    rw [hxs e he, Option.some.injEq, Prod.mk.injEq] at hev
    obtain ⟨hon, rfl⟩ := hev
    exact hf.imp (fun hf => ⟨e, he, hon, hf⟩) fun hf => (((scanCombine_flags hxs he hon j).mp hf).imp fun d hd => ⟨e, hd⟩)
  · rintro (⟨e, he, hon, hf⟩ | ⟨d, e, hde, hf⟩)
    · exact ⟨e, _, by rw [hxs e he, hon], .inl hf⟩
    · have h := hde
      obtain ⟨-, he, -, hon, -⟩ := h
      exact ⟨e, _, by rw [hxs e he, hon], .inr ((scanCombine_flags hxs he hon j).mpr ⟨d, hde, hf⟩)⟩
end

theorem activeElems_getElem? (c : VMode) (w : Nat) (ws : List Word) {e : Nat} (he : e < 2048 / w) :
    (activeElems c (elements w ws))[e]? = some (c.mask.getLsbD e, elemAt (elements w ws) e) := by
  simp [activeElems, elemAt, he]

theorem activeElems_length (c : VMode) (es : List Nat) : (activeElems c es).length = es.length := by simp [activeElems]

theorem exec_vscan (pd pa : Line) (op : ScanOp) (s : State) : exec (.vscan pd pa op) s = s.runSlot "VSCAN" (.vscan pd pa op)
    fun _ _ t _ => readingLines t [pa] (.keep ((t.setElements pd (elemBits t.vmode.ty)
      (scanGo t.vmode op none (activeElems t.vmode (t.elems t.vmode pa))).1).raise
        (scanGo t.vmode op none (activeElems t.vmode (t.elems t.vmode pa))).2)) := rfl

theorem scanGo_length (c : VMode) (op : ScanOp) (acc : Option Nat) (xs : List (Bool × Nat)) : (scanGo c op acc xs).1.length = xs.length := by
  refine Nat.le_antisymm (List.getElem?_eq_none_iff.mp ?_) (List.getElem?_eq_none_iff.mp ?_)
  · rw [scanGo_values, List.getElem?_eq_none (Nat.le_refl _), Option.map_none]
  · have h := scanGo_values c op xs acc (scanGo c op acc xs).1.length
    rw [List.getElem?_eq_none (Nat.le_refl _)] at h
    exact Option.map_eq_none_iff.mp h.symm

/-- Settles O29: at its active elements a scan gives out `scanOut`, and the running value before an element is the one after the last
active element before it (`scanAcc_next`). -/
theorem scanCombinesInElementOrder : Obligations.ScanCombinesInElementOrder := by
  intro pd pa op s b h hbad c w rd a next
  have hw : w ∈ [8, 16, 32, 64] := vmode_bits s.here
  let xs := activeElems c (elements w (s.here.line pa))
  have hxs : ∀ e, e < 2048 / w → xs[e]? = some (c.mask.getLsbD e, elemAt (elements w (s.here.line pa)) e) :=
    fun e he => activeElems_getElem? c w _ he
  have hlen : xs.length = 2048 / w := (activeElems_length ..).trans (elements_length ..)
  have hy := lineWritten_setElements s.here pd (List.mem_cons_of_mem 4 hw) (scanGo c op none xs).1
    (by rw [scanGo_length, hlen]) (scanGo c op none xs).2
  refine ⟨_, _, scanOut c op xs, readingLines_commits h (exec_vscan pd pa op s) (by simp [hbad]) rfl rfl rfl, hy.congr fun e he => ?_,
    fun e he hon hoff => scanOut_first hxs he hon hoff, fun d e hde => scanOut_next hxs hde, scanGo_flags_iff hxs hlen⟩
  simp only [scanGo_values, hxs e he, Option.map_some, Option.join_some]
  by_cases hon : c.mask.getLsbD e = true
  · rw [if_pos hon, if_pos hon, scanOut, scanAcc_active hxs he hon]
    rfl
  · rw [if_neg hon, if_neg hon]

end Sys2Proof.Machine
end

section
namespace Sys2Proof.Machine

/-! ## The pairwise tree (R164) -/

/-- A place of the tree holds what `P` says of the values under it, or nothing where none is. -/
def Covers {α : Type} (P : List α → α → Prop) (vs : List α) : Option α → Prop
  | none => vs = []
  | some x => P vs x

section
variable {α : Type} {P : List α → α → Prop} {pair : α → α → α × FpFlags}

theorem pairLevel_cons (a b : Option α) (xs : List (Option α)) :
    (pairLevel pair (a :: b :: xs)).1 = Option.merge (fun x y => (pair x y).1) a b :: (pairLevel pair xs).1 := by
  cases a <;> cases b <;> rfl

theorem pairLevel_length : ∀ xs : List (Option α), (pairLevel pair xs).1.length = (xs.length + 1) / 2
  | [] => by simp [pairLevel]
  | [_] => by simp [pairLevel]
  | a :: b :: xs => by rw [pairLevel_cons, List.length_cons, pairLevel_length xs]; simp only [List.length_cons]; omega

variable (hp : ∀ vs us x y, P vs x → P us y → P (vs ++ us) (pair x y).1)
include hp

theorem covers_merge {vs us : List α} {a b : Option α} (ha : Covers P vs a) (hb : Covers P us b) :
    Covers P (vs ++ us) (Option.merge (fun x y => (pair x y).1) a b) := by
  cases a with
  | none =>
    obtain rfl : vs = [] := ha
    cases b <;> exact hb
  | some x =>
    cases b with
    | none =>
      obtain rfl : us = [] := hb
      rw [List.append_nil]
      exact ha
    | some y => exact hp _ _ _ _ ha hb

theorem pairLevel_covers : ∀ (xs : List (Option α)) (gs : List (List α)), List.Forall₂ (Covers P) gs xs →
    ∃ gs', gs'.flatten = gs.flatten ∧ List.Forall₂ (Covers P) gs' (pairLevel pair xs).1
  | [], _, h => ⟨_, rfl, h⟩
  | [_], _, h => ⟨_, rfl, h⟩
  | a :: b :: xs, _, .cons (a := vs) ha (.cons (a := us) (l₁ := gs) hb h) => by
    obtain ⟨gs', hflat, hcov⟩ := pairLevel_covers xs gs h
    rw [pairLevel_cons]
    exact ⟨(vs ++ us) :: gs', by simp [hflat], .cons (covers_merge hp ha hb) hcov⟩

theorem pairTree_covers_groups : ∀ (n : Nat) (xs : List (Option α)) (gs : List (List α)), List.Forall₂ (Covers P) gs xs →
    xs.length ≤ 2 ^ n → Covers P gs.flatten (pairTree pair n xs).1
  | 0, [], _, .nil, _ => rfl
  | 0, [a], _, .cons (a := vs) ha .nil, _ => by rw [List.flatten_singleton]; exact ha
  | 0, _ :: _ :: _, _, _, hn => by simp at hn
  | n + 1, xs, gs, h, hn => by
    obtain ⟨gs', hflat, hcov⟩ := pairLevel_covers hp xs gs h
    rw [← hflat]
    exact pairTree_covers_groups n _ gs' hcov (by rw [pairLevel_length]; rw [Nat.pow_succ] at hn; omega)

/-- What holds of each value alone, and of two groups' results together, holds of the tree's result and all values. -/
theorem pairTree_covers (n : Nat) (xs : List (Option α)) (h1 : ∀ x, some x ∈ xs → P [x] x) (hn : xs.length ≤ 2 ^ n) :
    Covers P xs.reduceOption (pairTree pair n xs).1 := by
  have hgroups : ∀ xs : List (Option α), (∀ x, some x ∈ xs → P [x] x) →
      (xs.map Option.toList).flatten = xs.reduceOption ∧ List.Forall₂ (Covers P) (xs.map Option.toList) xs := by
    intro xs
    induction xs with
    | nil => exact fun _ => ⟨rfl, .nil⟩
    | cons a xs ih =>
      intro h
      obtain ⟨hflat, hcov⟩ := ih fun x hx => h x (List.mem_cons_of_mem _ hx)
      cases a with
      | none => exact ⟨by simpa using hflat, .cons rfl hcov⟩
      | some x => exact ⟨by simpa using hflat, .cons (h x List.mem_cons_self) hcov⟩
  obtain ⟨hflat, hcov⟩ := hgroups xs h1
  rw [← hflat]
  exact pairTree_covers_groups hp n xs _ hcov hn
end

/-- A tree whose pairs select by a preorder `R` on the values that `B` admits selects a value that `R` puts before every one. -/
theorem pairTree_selects {α : Type} {pair : α → α → α × FpFlags} {R : α → α → Prop} {B : α → Prop} (hrefl : ∀ x, R x x)
    (htrans : ∀ x y z, R x y → R y z → R x z)
    (hpick : ∀ x y, B x → B y → (pair x y).1 = x ∧ R x y ∨ (pair x y).1 = y ∧ R y x) {n : Nat} {xs : List (Option α)}
    (hB : ∀ x, some x ∈ xs → B x) (hn : xs.length ≤ 2 ^ n) :
    Covers (fun vs r => B r ∧ r ∈ vs ∧ ∀ u ∈ vs, R r u) xs.reduceOption (pairTree pair n xs).1 := by
  refine pairTree_covers (fun vs us x y hx hy => ?_) n xs (fun x hx => ⟨hB x hx, by simp, by simpa using hrefl x⟩) hn
  obtain ⟨hBx, hxm, hxR⟩ := hx
  obtain ⟨hBy, hym, hyR⟩ := hy
  rcases hpick x y hBx hBy with ⟨he, hR⟩ | ⟨he, hR⟩ <;> rw [he]
  · refine ⟨hBx, List.mem_append_left _ hxm, fun u hu => ?_⟩
    exact (List.mem_append.mp hu).elim (hxR u) fun hu => htrans _ _ _ hR (hyR u hu)
  · refine ⟨hBy, List.mem_append_right _ hym, fun u hu => ?_⟩
    exact (List.mem_append.mp hu).elim (fun hu => htrans _ _ _ hR (hxR u hu)) (hyR u)

/-- A tree whose pairs are an associative operation, with a unit for the values that `B` admits, folds the values. -/
theorem pairTree_folds {pair : Nat → Nat → Nat × FpFlags} {f : Nat → Nat → Nat} {B : Nat → Prop} {e : Nat}
    (hpair : ∀ x y, (pair x y).1 = f x y) (hassoc : ∀ x y z, f (f x y) z = f x (f y z)) (hunit : ∀ x, B x → f x e = x ∧ f e x = x)
    (hclosed : ∀ x y, B x → B y → B (f x y)) {n : Nat} {xs : List (Option Nat)}
    (hB : ∀ x, some x ∈ xs → B x) (hn : xs.length ≤ 2 ^ n) :
    Covers (fun vs r => B r ∧ r = vs.foldl f e) xs.reduceOption (pairTree pair n xs).1 := by
  refine pairTree_covers (fun vs us x y hx hy => ?_) n xs (fun x hx => ⟨hB x hx, (hunit x (hB x hx)).2.symm⟩) hn
  obtain ⟨hBx, hxf⟩ := hx
  obtain ⟨hBy, hyf⟩ := hy
  have : Std.Associative f := ⟨hassoc⟩
  refine ⟨hpair x y ▸ hclosed x y hBx hBy, ?_⟩
  rw [hpair, List.foldl_append, ← hxf, hyf, ← List.foldl_assoc (op := f), (hunit x hBx).1]

end Sys2Proof.Machine
end

section
namespace Sys2Proof.Machine

/-! ## The order of floating values (R103) -/

/-- The place of a value in the order of maximumNumber: NaNs below all numbers, then by value, -0 below +0. -/
def FVal.rank : FVal → ℤ ×ₗ ℚ ×ₗ ℤ
  | .nan _ => toLex (-2, toLex (0, 0))
  | .inf n => toLex (if n then -1 else 1, toLex (0, 0))
  | .fin n m e => toLex (0, toLex ((signed n m : ℚ) * 2 ^ e, if m = 0 ∧ n = false then 1 else 0))

theorem signed_mul (n : Bool) (m k : Nat) : signed n (m * k) = signed n m * k := by cases n <;> simp [signed]

/-- Two finite values compare as the rationals that they are. -/
theorem compare_fin (a b : Bool) (m n : Nat) (e f : ℤ) : (FVal.fin a m e).compare (.fin b n f) =
    Ord.compare ((signed a m : ℚ) * 2 ^ e) ((signed b n : ℚ) * 2 ^ f) := by
  have hscale : ∀ (z : Bool) (k : Nat) (g : ℤ), min e f ≤ g →
      ((signed z (k * 2 ^ (g - min e f).toNat) : ℤ) : ℚ) * 2 ^ min e f = (signed z k : ℚ) * 2 ^ g := by
    intro z k g hg
    have hpow : (2 : ℚ) ^ g = 2 ^ (g - min e f).toNat * 2 ^ min e f := by
      rw [← zpow_natCast, Int.toNat_of_nonneg (by omega), ← zpow_add₀ (by norm_num)]
      congr 1
      omega
    rw [signed_mul, hpow]
    push_cast
    ring
  have hpos : (0 : ℚ) < 2 ^ min e f := by positivity
  rw [← hscale a m e (min_le_left ..), ← hscale b n f (min_le_right ..)]
  simp only [FVal.compare]
  generalize signed a (m * 2 ^ (e - min e f).toNat) = x
  generalize signed b (n * 2 ^ (f - min e f).toNat) = y
  rcases lt_trichotomy x y with h | rfl | h
  · rw [compare_lt_iff_lt.mpr h, compare_lt_iff_lt.mpr (mul_lt_mul_of_pos_right (by exact_mod_cast h) hpos)]
  · simp
  · rw [compare_gt_iff_gt.mpr h, compare_gt_iff_gt.mpr (mul_lt_mul_of_pos_right (by exact_mod_cast h) hpos)]

theorem signed_eq_zero {n : Bool} {m : Nat} {e : ℤ} : (signed n m : ℚ) * 2 ^ e = 0 ↔ m = 0 := by
  cases n <;> simp [signed, zpow_ne_zero]

/-- The order of two numbers is that of their ranks. -/
theorem lessNum_iff {x y : FVal} (hx : x.isNaN = false) (hy : y.isNaN = false) : x.lessNum y = true ↔ x.rank < y.rank := by
  cases x with
  | nan s => cases hx
  | inf a =>
    cases y with
    | nan s => cases hy
    | inf b => revert a b; decide
    | fin b n f => cases a <;> simp [FVal.lessNum, FVal.compare, FVal.rank, Prod.Lex.toLex_lt_toLex]
  | fin a m e =>
    cases y with
    | nan s => cases hy
    | inf b => cases b <;> simp [FVal.lessNum, FVal.compare, FVal.rank, Prod.Lex.toLex_lt_toLex]
    | fin b n f =>
      have hm := signed_eq_zero (n := a) (m := m) (e := e)
      have hn := signed_eq_zero (n := b) (m := n) (e := f)
      simp only [FVal.lessNum, compare_fin, FVal.rank, Prod.Lex.toLex_lt_toLex, lt_self_iff_false, false_or, true_and, FVal.isZero, FVal.neg]
      generalize (signed a m : ℚ) * 2 ^ e = p at *
      generalize (signed b n : ℚ) * 2 ^ f = q at *
      rcases lt_trichotomy p q with h | rfl | h
      · simp [compare_lt_iff_lt.mpr h, h]
      · by_cases h0 : p = 0
        · cases a <;> cases b <;> simp_all
        · simp_all
      · simp [compare_gt_iff_gt.mpr h, h.not_gt, h.ne']

/-- A NaN ranks below every number. -/
theorem rank_nan_lt {x y : FVal} (hx : x.isNaN = true) (hy : y.isNaN = false) : x.rank < y.rank := by
  cases x with
  | nan s =>
    cases y with
    | nan s => cases hy
    | inf b => cases b <;> simp [FVal.rank, Prod.Lex.toLex_lt_toLex]
    | fin b n f => simp [FVal.rank, Prod.Lex.toLex_lt_toLex]
  | inf a => cases hx
  | fin a m e => cases hx

theorem rank_nan_eq {x y : FVal} (hx : x.isNaN = true) (hy : y.isNaN = true) : x.rank = y.rank := by
  cases x with
  | nan s =>
    cases y with
    | nan s => rfl
    | inf b => cases hy
    | fin b n f => cases hy
  | inf a => cases hx
  | fin a m e => cases hx

end Sys2Proof.Machine
end

section
namespace Sys2Proof.Machine

/-! ## Selection of elements (R163-R165) -/

/-- MAX and MIN select an integer element that no other one exceeds, or falls below. -/
theorem selectElem_int {c : VMode} (h : elemFloat c.ty = none) (wantMax : Bool) (a b : Nat) :
    selectElem c wantMax a b = if decide (intOf c.ty a < intOf c.ty b) == wantMax then b else a := by simp only [selectElem, h]

theorem selectElem_float {c : VMode} {g : FloatFmt} (h : elemFloat c.ty = some g) (a b : Nat) : selectElem c true a b =
    if (g.decode a).isNaN then b else if (g.decode b).isNaN then a else if (g.decode a).lessNum (g.decode b) then b else a := by
  simp only [selectElem, h, if_true]

/-- What ARGMAX's pairs do with a key of the values: the greater key wins, and of equal keys the lower index. -/
def argBest {K : Type} [LinearOrder K] (key : Nat → K) (p q : Nat × Nat) : Nat × Nat :=
  if key p.1 = key q.1 then (if p.2 ≤ q.2 then p else q) else if key p.1 < key q.1 then q else p

/-- One (value, index) pair goes before another. -/
def ArgBefore {K : Type} [LinearOrder K] (key : Nat → K) (p q : Nat × Nat) : Prop :=
  key q.1 < key p.1 ∨ key q.1 = key p.1 ∧ p.2 ≤ q.2

section
variable {K : Type} [LinearOrder K] (key : Nat → K)

theorem argBefore_refl (p : Nat × Nat) : ArgBefore key p p := .inr ⟨rfl, Nat.le_refl _⟩

theorem argBefore_trans (p q r : Nat × Nat) (hpq : ArgBefore key p q) (hqr : ArgBefore key q r) : ArgBefore key p r := by
  rcases hpq with hpq | ⟨hpq, hi⟩
  · rcases hqr with hqr | ⟨hqr, -⟩
    · exact .inl (hqr.trans hpq)
    · exact .inl (hqr.trans_lt hpq)
  · rcases hqr with hqr | ⟨hqr, hj⟩
    · exact .inl (hqr.trans_eq hpq)
    · exact .inr ⟨hqr.trans hpq, hi.trans hj⟩

theorem argBest_picks (p q : Nat × Nat) :
    argBest key p q = p ∧ ArgBefore key p q ∨ argBest key p q = q ∧ ArgBefore key q p := by
  unfold argBest ArgBefore
  rcases lt_trichotomy (key p.1) (key q.1) with h | h | h
  · rw [if_neg h.ne, if_pos h]
    exact .inr ⟨rfl, .inl h⟩
  · rw [if_pos h]
    split
    case isTrue hi => exact .inl ⟨rfl, .inr ⟨h.symm, hi⟩⟩
    case isFalse hi => exact .inr ⟨rfl, .inr ⟨h, Nat.le_of_not_le hi⟩⟩
  · rw [if_neg h.ne', if_neg h.not_gt]
    exact .inl ⟨rfl, .inl h⟩
end

/-- In an integer type the key is the value. -/
theorem argPair_int {c : VMode} (h : elemFloat c.ty = none) {p q : Nat × Nat} (hp : p.1 < 2 ^ elemBits c.ty) (hq : q.1 < 2 ^ elemBits c.ty) :
    (argPair c p q).1 = argBest (intOf c.ty) p q := by
  have htie : (p.1 == q.1) = decide (intOf c.ty p.1 = intOf c.ty q.1) := by
    rw [Bool.eq_iff_iff, beq_iff_eq, decide_eq_true_iff]
    exact ⟨fun e => by rw [e], intOf_inj hp hq⟩
  simp only [argPair, h, selectElem_int h, htie, argBest, decide_eq_true_eq, beq_true, Bool.false_eq_true, if_false]
  by_cases he : intOf c.ty p.1 = intOf c.ty q.1
  · rw [if_pos he, if_pos he]
  · have hne : (q.1 == p.1) = false := beq_eq_false_iff_ne.mpr fun e => he (by rw [e])
    by_cases hlt : intOf c.ty p.1 < intOf c.ty q.1
    · simp [he, hlt, hne]
    · simp [he, hlt]

/-- In a floating type the key is the rank. -/
theorem argPair_float {c : VMode} {g : FloatFmt} (h : elemFloat c.ty = some g) (p q : Nat × Nat) :
    (argPair c p q).1 = argBest (fun v => (g.decode v).rank) p q := by
  simp only [argPair, h, selectElem_float h, argBest]
  cases hp : (g.decode p.1).isNaN <;> cases hq : (g.decode q.1).isNaN
  · rcases lt_trichotomy (g.decode p.1).rank (g.decode q.1).rank with hlt | heq | hgt
    · have hne : (q.1 == p.1) = false := beq_eq_false_iff_ne.mpr fun e => hlt.ne (by rw [e])
      have h1 := (lessNum_iff hp hq).mpr hlt
      simp [h1, hne, hlt, hlt.ne]
    · have h1 : (g.decode p.1).lessNum (g.decode q.1) = false := Bool.eq_false_iff.mpr fun e => ((lessNum_iff hp hq).mp e).ne heq
      have h2 : (g.decode q.1).lessNum (g.decode p.1) = false := Bool.eq_false_iff.mpr fun e => ((lessNum_iff hq hp).mp e).ne' heq
      simp [h1, h2, heq]
    · have h1 : (g.decode p.1).lessNum (g.decode q.1) = false := Bool.eq_false_iff.mpr fun e => ((lessNum_iff hp hq).mp e).not_gt hgt
      have h2 := (lessNum_iff hq hp).mpr hgt
      simp [h1, h2, hgt.ne', hgt.not_gt]
  · have hlt := rank_nan_lt hq hp
    simp [hlt.ne', hlt.not_gt]
  · have hlt := rank_nan_lt hp hq
    simp [hlt, hlt.ne]
  · simp [rank_nan_eq hp hq]

/-! ## What VRED makes of its elements (R164, R165) -/

/-- The places of the tree over the active elements, as `f` reads them. -/
def treeOf (f : Nat → Nat) (act : List (Bool × Nat)) : List (Option Nat) := act.map fun p => if p.1 then some (f p.2) else none

/-- The places of ARGMAX's tree: values and indexes. -/
def argTreeOf (c : VMode) (act : List (Bool × Nat)) : List (Option (Nat × Nat)) :=
  (act.zip (List.range act.length)).map fun p => if p.1.1 then some ((readElem c p.1.2).v, p.2) else none

section
variable (c : VMode) (act : List (Bool × Nat))

theorem reduce_bitwise {op : RedOp} (ho : op = .and ∨ op = .or ∨ op = .xor) : (reduce c op act).1 =
    (pairTree (redPair c op) 8 (treeOf id act)).1.elim (if op = .and then extendRes c.ty (2 ^ elemBits c.ty - 1) else 0) (extendRes c.ty) := by
  have hmatch : ∀ (o : Option Nat) (d : Nat), (match o with | some v => (extendRes c.ty v, ({} : FpFlags)) | none => (d, {})).1 =
      o.elim d (extendRes c.ty) := fun o _ => by cases o <;> rfl
  rcases ho with rfl | rfl | rfl
  all_goals exact hmatch ..

theorem reduce_argmax : (reduce c .argmax act).1 = (pairTree (argPair c) 8 (argTreeOf c act)).1.elim 0xFFFFFFFF fun r =>
    if (elemFloat c.ty).any fun g => (g.decode r.1).isNaN then 0xFFFFFFFF else r.2 := by
  simp only [reduce, argTreeOf]
  split <;> rename_i h <;> rw [h] <;> cases elemFloat c.ty <;> rfl

theorem reduce_intSum (h : elemFloat c.ty = none) : (reduce c .sum act).1 =
    intSum c (act.filterMap fun p => if p.1 then some p.2 else none) := by simp only [reduce, h]

theorem reduce_intSelect (h : elemFloat c.ty = none) {op : RedOp} (ho : op = .max ∨ op = .min) : (reduce c op act).1 =
    (pairTree (redPair c op) 8 (treeOf id act)).1.elim
      (extendRes c.ty (wrap (if op = .max then intMin c.ty else intMax c.ty) (elemBits c.ty))) (extendRes c.ty) := by
  rcases ho with rfl | rfl <;> simp only [reduce, treeOf, readElem, h, id] <;> split <;> rename_i hr <;> simp [hr]

theorem reduce_float {g : FloatFmt} (h : elemFloat c.ty = some g) {op : RedOp} (ho : op = .sum ∨ op = .max ∨ op = .min) :
    (reduce c op act).1 = (pairTree (redPair c op) 8 (treeOf (fun v => (readElem c v).v) act)).1.elim
      (if op = .sum then 0 else g.canonNaN) (extendRes c.ty) := by
  rcases ho with rfl | rfl | rfl <;> simp only [reduce, treeOf, h] <;> split <;> rename_i hr <;> simp [hr, FloatFmt.signBit]
end

end Sys2Proof.Machine
end

section
namespace Sys2Proof.Machine

/-! ## The values of VRED's trees -/

theorem mem_treeOf {f : Nat → Nat} {act : List (Bool × Nat)} {v : Nat} :
    v ∈ (treeOf f act).reduceOption ↔ ∃ u, (true, u) ∈ act ∧ f u = v := by
  simp [treeOf, List.reduceOption_mem_iff]

theorem reduceOption_treeOf_id (act : List (Bool × Nat)) :
    (treeOf id act).reduceOption = (act.filter fun p => p.1).map fun p => p.2 := by
  induction act with
  | nil => rfl
  | cons p act ih =>
    obtain ⟨on, v⟩ := p
    cases on
    · simpa [treeOf] using ih
    · simpa [treeOf] using ih

theorem mem_argTreeOf {c : VMode} {act : List (Bool × Nat)} {r : Nat × Nat} :
    r ∈ (argTreeOf c act).reduceOption ↔ ∃ u, act[r.2]? = some (true, u) ∧ (readElem c u).v = r.1 := by
  obtain ⟨v, i⟩ := r
  rw [argTreeOf, List.reduceOption_mem_iff, List.mem_map]
  constructor
  · rintro ⟨⟨⟨on, u⟩, j⟩, hm, he⟩
    obtain ⟨k, hk⟩ := List.mem_iff_getElem?.mp hm
    obtain ⟨hu, hj⟩ := List.getElem?_zip_eq_some.mp hk
    obtain ⟨hlt, hj⟩ := List.getElem?_eq_some_iff.mp hj
    obtain rfl : k = j := (List.getElem_range hlt).symm.trans hj
    cases on
    · simp at he
    · obtain ⟨rfl, rfl⟩ : (readElem c u).v = v ∧ k = i := by simpa using he
      exact ⟨u, hu, rfl⟩
  · rintro ⟨u, hu, rfl⟩
    have hi : i < act.length := (List.getElem?_eq_some_iff.mp hu).1
    exact ⟨((true, u), i), List.mem_iff_getElem?.mpr ⟨i, List.getElem?_zip_eq_some.mpr ⟨hu, List.getElem?_range hi⟩⟩, rfl⟩

theorem Covers.exists_some {α : Type} {P : List α → α → Prop} {vs : List α} {o : Option α} (h : Covers P vs o) {x : α} (hx : x ∈ vs) :
    ∃ r, o = some r ∧ P vs r := by
  cases o with
  | none =>
    obtain rfl : vs = [] := h
    cases hx
  | some r => exact ⟨r, rfl, h⟩

/-- A tree with no value under it holds none. -/
theorem pairTree_eq_none {α : Type} {pair : α → α → α × FpFlags} {n : Nat} {xs : List (Option α)} (hn : xs.length ≤ 2 ^ n)
    (hx : xs.reduceOption = []) : (pairTree pair n xs).1 = none := by
  have h := pairTree_covers (P := fun vs _ => vs ≠ []) (pair := pair) (fun _ _ _ _ h _ => by simp [h]) n xs (fun _ _ => by simp) hn
  cases ht : (pairTree pair n xs).1 with
  | none => rfl
  | some r =>
    rw [ht] at h
    exact absurd hx h

/-! ## The forms of a result (R164, R165) -/

theorem elemSigned_of_float {t : ElemType} {g : FloatFmt} (h : elemFloat t = some g) : elemSigned t = false := by
  cases t <;> simp_all [elemFloat, elemSigned]

theorem elemBits_of_signed {t : ElemType} (h : elemSigned t = true) : elemBits t ≤ 32 := by
  revert h
  cases t <;> decide

theorem extendRes_unsigned {t : ElemType} (h : elemSigned t = false) (v : Nat) : extendRes t v = v := by simp [extendRes, h]

theorem extendRes_of_lt {t : ElemType} {v : Nat} (hv : v < 2 ^ elemBits t) :
    extendRes t v = if elemSigned t ∧ 2 ^ (elemBits t - 1) ≤ v then v + 2 ^ 32 - 2 ^ elemBits t else v := by
  cases hs : elemSigned t with
  | false => simp [extendRes_unsigned hs]
  | true =>
    have hw : 2 ^ elemBits t ≤ 2 ^ 32 := Nat.pow_le_pow_right (by decide) (elemBits_of_signed hs)
    rw [extendRes, hs, if_pos rfl, wrap, sext_of_lt (elemBits_pos t) hv]
    simp only [true_and]
    split
    · have hcast : ((v + 2 ^ 32 - 2 ^ elemBits t : Nat) : Int) = (v : Int) - 2 ^ elemBits t + 2 ^ 32 := by
        rw [Nat.cast_sub (by omega)]
        push_cast
        ring
      have hlt : v + 2 ^ 32 - 2 ^ elemBits t < 2 ^ 32 := by omega
      rw [← Int.add_emod_right, ← hcast, Int.emod_eq_of_lt (Int.natCast_nonneg _) (by exact_mod_cast hlt), Int.toNat_natCast]
    · have hz : (v : Int) % 2 ^ 32 = v := Int.emod_eq_of_lt (Int.natCast_nonneg v) (by exact_mod_cast hv.trans_le hw)
      rw [hz, Int.toNat_natCast]

/-- The bounds of an integer type, as results. -/
theorem extendRes_intMin {t : ElemType} (h : elemFloat t = none) :
    extendRes t (wrap (intMin t) (elemBits t)) = if elemSigned t then 2 ^ 32 - 2 ^ (elemBits t - 1) else 0 := by
  revert h
  cases t <;> decide

theorem extendRes_intMax {t : ElemType} (h : elemFloat t = none) :
    extendRes t (wrap (intMax t) (elemBits t)) = if elemSigned t then 2 ^ (elemBits t - 1) - 1 else 2 ^ elemBits t - 1 := by
  revert h
  cases t <;> decide

/-- An integer sum is exact until its one reduction. -/
theorem intSum_eq (c : VMode) (act : List (Bool × Nat)) :
    intSum c (act.filterMap fun p => if p.1 then some p.2 else none) =
      ((if c.sat then max (if elemSigned c.ty then -(2 ^ 31) else 0) (min (if elemSigned c.ty then 2 ^ 31 - 1 else 2 ^ 32 - 1)
          (act.foldl (fun z p => if p.1 then z + intOf c.ty p.2 else z) 0))
        else act.foldl (fun z p => if p.1 then z + intOf c.ty p.2 else z) 0) % 2 ^ 32 : Int).toNat := by
  have hsum : (act.filterMap fun p => if p.1 then some p.2 else none).foldl (fun s v => s + intOf c.ty v) (0 : Int) =
      act.foldl (fun z p => if p.1 then z + intOf c.ty p.2 else z) 0 := by
    rw [List.foldl_filterMap]
    congr 1
    funext z p
    cases p.1 <;> rfl
  have hle : (if elemSigned c.ty then -(2 ^ 31) else 0 : Int) ≤ if elemSigned c.ty then 2 ^ 31 - 1 else 2 ^ 32 - 1 := by split <;> decide
  rw [intSum, hsum, sat_eq_max_min hle, wrap]

/-! ## VRED's results -/

/-- What MAX and MIN put first of two integer elements. -/
def IntBefore (c : VMode) (op : RedOp) (v u : Nat) : Prop :=
  if op = .max then intOf c.ty u ≤ intOf c.ty v else intOf c.ty v ≤ intOf c.ty u

theorem intBefore_refl (c : VMode) (op : RedOp) (v : Nat) : IntBefore c op v v := by simp [IntBefore]

theorem intBefore_trans (c : VMode) (op : RedOp) (x y z : Nat) (hxy : IntBefore c op x y) (hyz : IntBefore c op y z) : IntBefore c op x z := by
  unfold IntBefore at *
  split at hxy
  case isTrue ho => rw [if_pos ho] at hyz ⊢; exact hyz.trans hxy
  case isFalse ho => rw [if_neg ho] at hyz ⊢; exact hxy.trans hyz

theorem redPair_picks {c : VMode} (h : elemFloat c.ty = none) {op : RedOp} (ho : op = .max ∨ op = .min) (x y : Nat) :
    (redPair c op x y).1 = x ∧ IntBefore c op x y ∨ (redPair c op x y).1 = y ∧ IntBefore c op y x := by
  rcases ho with rfl | rfl <;> simp only [redPair, selectElem_int h, IntBefore] <;> rcases lt_or_ge (intOf c.ty x) (intOf c.ty y) with hlt | hge
  · simp [hlt, hlt.le]
  · simp [hge, hge.not_gt]
  · simp [hlt, hlt.le]
  · simp [hge, hge.not_gt]

section
variable {c : VMode} {act : List (Bool × Nat)} (hlen : act.length ≤ 256)
include hlen

theorem treeOf_length_le (f : Nat → Nat) : (treeOf f act).length ≤ 2 ^ 8 := by simpa [treeOf] using hlen

theorem argTreeOf_length_le : (argTreeOf c act).length ≤ 2 ^ 8 := by simpa [argTreeOf] using hlen

theorem tree_none (hoff : ∀ v, (true, v) ∉ act) (f : Nat → Nat) (op : RedOp) : (pairTree (redPair c op) 8 (treeOf f act)).1 = none := by
  refine pairTree_eq_none (treeOf_length_le hlen f) (List.eq_nil_iff_forall_not_mem.mpr fun x hx => ?_)
  obtain ⟨v, hv, -⟩ := mem_treeOf.mp hx
  exact hoff v hv

theorem argTree_none (hoff : ∀ v, (true, v) ∉ act) : (pairTree (argPair c) 8 (argTreeOf c act)).1 = none := by
  refine pairTree_eq_none (argTreeOf_length_le hlen) (List.eq_nil_iff_forall_not_mem.mpr fun x hx => ?_)
  obtain ⟨v, hv, -⟩ := mem_argTreeOf.mp hx
  exact hoff v (List.mem_of_getElem? hv)

/-- An integer MAX or MIN is the bound of the active elements. -/
theorem reduce_intSelect_bound (h : elemFloat c.ty = none) {op : RedOp} (ho : op = .max ∨ op = .min) {u : Nat} (hu : (true, u) ∈ act) :
    ∃ v, (true, v) ∈ act ∧ (reduce c op act).1 = extendRes c.ty v ∧ ∀ u, (true, u) ∈ act → IntBefore c op v u := by
  have hsel := pairTree_selects (n := 8) (xs := treeOf id act) (B := fun _ => True) (intBefore_refl c op) (intBefore_trans c op)
    (fun x y _ _ => redPair_picks h ho x y) (fun _ _ => trivial) (treeOf_length_le hlen id)
  obtain ⟨v, hv, -, hmem, hbest⟩ := hsel.exists_some (mem_treeOf.mpr ⟨u, hu, rfl⟩)
  obtain ⟨v, hvm, rfl⟩ := mem_treeOf.mp hmem
  refine ⟨v, hvm, ?_, fun u hu => hbest u (mem_treeOf.mpr ⟨u, hu, rfl⟩)⟩
  rw [reduce_intSelect c act h ho, hv, Option.elim_some, id]

/-- A bitwise reduction folds the active elements' patterns. -/
theorem reduce_bitwise_fold {op : RedOp} (ho : op = .and ∨ op = .or ∨ op = .xor) {f : Nat → Nat → Nat} {e : Nat}
    (hpair : ∀ x y, (redPair c op x y).1 = f x y) (hassoc : ∀ x y z, f (f x y) z = f x (f y z))
    (hunit : ∀ x, x < 2 ^ elemBits c.ty → f x e = x ∧ f e x = x)
    (hclosed : ∀ x y, x < 2 ^ elemBits c.ty → y < 2 ^ elemBits c.ty → f x y < 2 ^ elemBits c.ty)
    (hlt : ∀ p ∈ act, p.2 < 2 ^ elemBits c.ty) {u : Nat} (hu : (true, u) ∈ act) :
    ((act.filter fun p => p.1).map fun p => p.2).foldl f e < 2 ^ elemBits c.ty ∧
      (reduce c op act).1 = extendRes c.ty (((act.filter fun p => p.1).map fun p => p.2).foldl f e) := by
  have hB : ∀ x, some x ∈ treeOf id act → x < 2 ^ elemBits c.ty := fun x hx => by
    obtain ⟨v, hv, rfl⟩ := mem_treeOf.mp (List.reduceOption_mem_iff.mpr hx)
    exact hlt _ hv
  have hfold := pairTree_folds (n := 8) hpair hassoc hunit hclosed hB (treeOf_length_le hlen id)
  obtain ⟨r, hr, hrlt, hrf⟩ := hfold.exists_some (mem_treeOf.mpr ⟨u, hu, rfl⟩)
  rw [reduceOption_treeOf_id] at hrf
  subst hrf
  exact ⟨hrlt, by rw [reduce_bitwise c act ho, hr, Option.elim_some]⟩

/-- The pattern that a bitwise operation makes of some others. -/
def bitwiseOf (op : RedOp) (w : Nat) (on : List Nat) : Nat :=
  if op = .and then on.foldl (· &&& ·) (2 ^ w - 1) else if op = .or then on.foldl (· ||| ·) 0 else on.foldl (· ^^^ ·) 0

theorem reduce_bitwise_eq {op : RedOp} (ho : op = .and ∨ op = .or ∨ op = .xor) (hlt : ∀ p ∈ act, p.2 < 2 ^ elemBits c.ty) {u : Nat}
    (hu : (true, u) ∈ act) : bitwiseOf op (elemBits c.ty) ((act.filter fun p => p.1).map fun p => p.2) < 2 ^ elemBits c.ty ∧
      (reduce c op act).1 = extendRes c.ty (bitwiseOf op (elemBits c.ty) ((act.filter fun p => p.1).map fun p => p.2)) := by
  rcases ho with rfl | rfl | rfl
  · exact reduce_bitwise_fold (f := (· &&& ·)) hlen (.inl rfl) (fun _ _ => rfl) Nat.and_assoc
      (fun x hx => by rw [Nat.and_comm (2 ^ elemBits c.ty - 1), Nat.and_two_pow_sub_one_of_lt_two_pow hx]; exact ⟨rfl, rfl⟩)
      (fun x y _ hy => Nat.and_lt_two_pow x hy) hlt hu
  · exact reduce_bitwise_fold (f := (· ||| ·)) hlen (.inr (.inl rfl)) (fun _ _ => rfl) Nat.or_assoc
      (fun x _ => ⟨Nat.or_zero x, Nat.zero_or x⟩) (fun _ _ hx hy => Nat.or_lt_two_pow hx hy) hlt hu
  · exact reduce_bitwise_fold (f := (· ^^^ ·)) hlen (.inr (.inr rfl)) (fun _ _ => rfl) Nat.xor_assoc
      (fun x _ => ⟨Nat.xor_zero x, Nat.zero_xor x⟩) (fun _ _ hx hy => Nat.xor_lt_two_pow hx hy) hlt hu

/-- A floating SUM, MAX or MIN is what the tree holds. -/
theorem reduce_float_tree {g : FloatFmt} (h : elemFloat c.ty = some g) {op : RedOp} (ho : op = .sum ∨ op = .max ∨ op = .min) {u : Nat}
    (hu : (true, u) ∈ act) : some (reduce c op act).1 = (pairTree (redPair c op) 8 (treeOf (fun v => (readElem c v).v) act)).1 := by
  have hcov := pairTree_covers (P := fun _ _ => True) (pair := redPair c op) (fun _ _ _ _ _ _ => trivial) 8
    (treeOf (fun v => (readElem c v).v) act) (fun _ _ => trivial) (treeOf_length_le hlen _)
  obtain ⟨r, hr, -⟩ := hcov.exists_some (mem_treeOf.mpr ⟨u, hu, rfl⟩)
  rw [reduce_float c act h ho, hr, Option.elim_some, extendRes_unsigned (elemSigned_of_float h)]

/-- With active elements ARGMAX's tree holds a pair that goes before every other. -/
theorem argTree_best {K : Type} [LinearOrder K] {key : Nat → K} {B : Nat → Prop}
    (hpair : ∀ p q, B p.1 → B q.1 → (argPair c p q).1 = argBest key p q) (hB : ∀ p ∈ act, B (readElem c p.2).v) {u : Nat}
    (hu : (true, u) ∈ act) : ∃ v i, (pairTree (argPair c) 8 (argTreeOf c act)).1 = some ((readElem c v).v, i) ∧ act[i]? = some (true, v) ∧
      ∀ j u, act[j]? = some (true, u) → ArgBefore key ((readElem c v).v, i) ((readElem c u).v, j) := by
  have hmem : ∀ r, some r ∈ argTreeOf c act → B r.1 := fun r hr => by
    obtain ⟨v, hv, he⟩ := mem_argTreeOf.mp (List.reduceOption_mem_iff.mpr hr)
    rw [← he]
    exact hB _ (List.mem_of_getElem? hv)
  have hsel := pairTree_selects (n := 8) (B := fun r => B r.1) (argBefore_refl key) (argBefore_trans key)
    (fun p q hp hq => by rw [hpair p q hp hq]; exact argBest_picks key p q) hmem (argTreeOf_length_le hlen)
  obtain ⟨j, hj⟩ := List.mem_iff_getElem?.mp hu
  obtain ⟨⟨v, i⟩, hr, -, hrm, hbest⟩ := hsel.exists_some (x := ((readElem c u).v, j)) (mem_argTreeOf.mpr ⟨u, hj, rfl⟩)
  obtain ⟨v, hv, rfl⟩ := mem_argTreeOf.mp hrm
  exact ⟨v, i, hr, hv, fun j u hj => hbest _ (mem_argTreeOf.mpr ⟨u, hj, rfl⟩)⟩

/-- An integer ARGMAX is the lowest index of the greatest element. -/
theorem reduce_argmax_int (h : elemFloat c.ty = none) (hlt : ∀ p ∈ act, p.2 < 2 ^ elemBits c.ty) {u : Nat} (hu : (true, u) ∈ act) :
    ∃ v, act[(reduce c .argmax act).1]? = some (true, v) ∧ ∀ j u, act[j]? = some (true, u) →
      intOf c.ty u < intOf c.ty v ∨ intOf c.ty u = intOf c.ty v ∧ (reduce c .argmax act).1 ≤ j := by
  have hread : ∀ v, (readElem c v).v = v := fun v => by simp only [readElem, h]
  have hB : ∀ p ∈ act, (readElem c p.2).v < 2 ^ elemBits c.ty := fun p hp => by rw [hread]; exact hlt p hp
  obtain ⟨v, i, hr, hv, hbest⟩ := argTree_best (B := (· < 2 ^ elemBits c.ty)) hlen (fun p q hp hq => argPair_int h hp hq) hB hu
  have hi : (reduce c .argmax act).1 = i := by
    rw [reduce_argmax, hr, h]
    rfl
  rw [hi]
  exact ⟨v, hv, fun j u hj => by simpa [ArgBefore, hread] using hbest j u hj⟩

section
variable {g : FloatFmt} (h : elemFloat c.ty = some g)
include h

/-- ARGMAX of floating elements of which none is a number. -/
theorem reduce_argmax_allNaN (hnan : ∀ u, (true, u) ∈ act → (g.decode (readElem c u).v).isNaN = true) :
    (reduce c .argmax act).1 = 0xFFFFFFFF := by
  rw [reduce_argmax]
  by_cases hact : ∃ u, (true, u) ∈ act
  · obtain ⟨u, hu⟩ := hact
    obtain ⟨v, i, hr, hv, -⟩ := argTree_best (B := fun _ => True) hlen (fun p q _ _ => argPair_float h p q) (fun _ _ => trivial) hu
    rw [hr, h, Option.elim_some, Option.any_some, hnan v (List.mem_of_getElem? hv), if_pos rfl]
  · rw [argTree_none hlen fun v hv => hact ⟨v, hv⟩]
    rfl

/-- A floating ARGMAX is the lowest index of the greatest number. -/
theorem reduce_argmax_float {u : Nat} (hu : (true, u) ∈ act) (hn : (g.decode (readElem c u).v).isNaN = false) :
    ∃ v, act[(reduce c .argmax act).1]? = some (true, v) ∧ (g.decode (readElem c v).v).isNaN = false ∧
      ∀ j u, act[j]? = some (true, u) → (g.decode (readElem c u).v).isNaN = false →
        (g.decode (readElem c v).v).lessNum (g.decode (readElem c u).v) = false ∧
        ((g.decode (readElem c u).v).lessNum (g.decode (readElem c v).v) = false → (reduce c .argmax act).1 ≤ j) := by
  obtain ⟨v, i, hr, hv, hbest⟩ := argTree_best (B := fun _ => True) hlen (fun p q _ _ => argPair_float h p q) (fun _ _ => trivial) hu
  have hvn : (g.decode (readElem c v).v).isNaN = false := by
    obtain ⟨j, hj⟩ := List.mem_iff_getElem?.mp hu
    by_contra hv
    have hlt := rank_nan_lt (by simpa using hv) hn
    rcases hbest j u hj with hb | ⟨hb, -⟩
    · exact hlt.not_gt hb
    · exact hlt.ne' hb
  have hi : (reduce c .argmax act).1 = i := by
    rw [reduce_argmax, hr, h, Option.elim_some, Option.any_some, hvn]
    rfl
  rw [hi]
  refine ⟨v, hv, hvn, fun j u hj hun => ?_⟩
  have hb := hbest j u hj
  constructor
  · refine Bool.eq_false_iff.mpr fun hless => ?_
    have hlt := (lessNum_iff hvn hun).mp hless
    rcases hb with hb | ⟨hb, -⟩
    · exact hlt.not_gt hb
    · exact hlt.ne' hb
  · intro hless
    rcases hb with hb | ⟨-, hb⟩
    · exact absurd ((lessNum_iff hun hvn).mpr hb) (by simp [hless])
    · exact hb
end

/-! The results with no active element (R165). -/

section
variable (hoff : ∀ v, (true, v) ∉ act)
include hoff

theorem reduce_argmax_none : (reduce c .argmax act).1 = 0xFFFFFFFF := by rw [reduce_argmax, argTree_none hlen hoff, Option.elim_none]

theorem reduce_bitwise_none {op : RedOp} (ho : op = .and ∨ op = .or ∨ op = .xor) :
    (reduce c op act).1 = if op = .and then extendRes c.ty (2 ^ elemBits c.ty - 1) else 0 := by
  rw [reduce_bitwise c act ho, tree_none hlen hoff, Option.elim_none]

theorem reduce_float_none {g : FloatFmt} (h : elemFloat c.ty = some g) {op : RedOp} (ho : op = .sum ∨ op = .max ∨ op = .min) :
    (reduce c op act).1 = if op = .sum then 0 else g.canonNaN := by
  rw [reduce_float c act h ho, tree_none hlen hoff, Option.elim_none]

theorem reduce_intSelect_none (h : elemFloat c.ty = none) {op : RedOp} (ho : op = .max ∨ op = .min) :
    (reduce c op act).1 = extendRes c.ty (wrap (if op = .max then intMin c.ty else intMax c.ty) (elemBits c.ty)) := by
  rw [reduce_intSelect c act h ho, tree_none hlen hoff, Option.elim_none]

omit hlen in
theorem reduce_intSum_none (h : elemFloat c.ty = none) : (reduce c .sum act).1 = 0 := by
  have hnil : (act.filterMap fun p => if p.1 then some p.2 else none) = [] := by
    refine List.filterMap_eq_nil_iff.mpr fun ⟨on, v⟩ hp => ?_
    cases on
    · rfl
    · exact absurd hp (hoff v)
  rw [reduce_intSum c act h, hnil, intSum]
  cases elemSigned c.ty <;> cases c.sat <;> rfl

theorem reduce_sum_none : (reduce c .sum act).1 = 0 := by
  cases h : elemFloat c.ty with
  | none => exact reduce_intSum_none hoff h
  | some g => rw [reduce_float_none hlen hoff h (.inl rfl), if_pos rfl]
end

end

/-! ## VRED -/

theorem activeElems_lt (c : VMode) (w : Nat) (ws : List Word) : ∀ p ∈ activeElems c (elements w ws), p.2 < 2 ^ w := by
  intro p hp
  obtain ⟨e, he⟩ := List.mem_iff_getElem?.mp hp
  have hlt : e < 2048 / w := by
    have := (List.getElem?_eq_some_iff.mp he).1
    rwa [activeElems_length, elements_length] at this
  rw [activeElems_getElem? c w ws hlt, Option.some.injEq] at he
  rw [← he]
  exact elemAt_lt w ws e

theorem exec_vred (sd : SReg) (pa : Line) (op : RedOp) (s : State) : exec (.vred sd pa op) s = s.runSlot "VRED" (.vred sd pa op)
    fun _ _ t _ => readingLines t [pa] (.keep ((if t.vmode.ty = .f64 ∧ op ≠ .argmax
      then t.setPair (pairOf sd) (reduce t.vmode op (activeElems t.vmode (t.elems t.vmode pa))).1
      else t.setS sd (BitVec.ofNat 32 (reduce t.vmode op (activeElems t.vmode (t.elems t.vmode pa))).1)).raise
        (reduce t.vmode op (activeElems t.vmode (t.elems t.vmode pa))).2)) := rfl

/-- VRED writes its result to a register, or to a pair in F64. -/
theorem vred_commits {s : State} {b : Inflight} {sd : SReg} {pa : Line} {op : RedOp} (h : s.At (.vred sd pa op) b)
    (ha : s.here.badCell pa = none) :
    let c := s.here.vmode
    let r := reduce c op (activeElems c (elements (elemBits c.ty) (s.here.line pa)))
    let y := if c.ty = .f64 ∧ op ≠ .argmax then s.here.setPair (pairOf sd) r.1 else s.here.setS sd (BitVec.ofNat 32 r.1)
    Commits (.vred sd pa op) s { y with k := { y.k with vflags := y.k.vflags ||| r.2.toBits } } := by
  intro c r y
  have hleaf : y.leafTrap = s.here.leafTrap := by
    by_cases hp : c.ty = .f64 ∧ op ≠ .argmax
    · exact (congrArg Tile.leafTrap (if_pos hp)).trans (setPair_leafTrap ..)
    · exact (congrArg Tile.leafTrap (if_neg hp)).trans (setS_leafTrap ..)
  have hstop : y.stopReq = s.here.stopReq := by
    by_cases hp : c.ty = .f64 ∧ op ≠ .argmax
    · exact (congrArg Tile.stopReq (if_pos hp)).trans (setPair_stopReq ..)
    · exact (congrArg Tile.stopReq (if_neg hp)).trans (setS_stopReq ..)
  exact readingLines_commits (y := y.raise r.2) h (exec_vred sd pa op s) (by simp [ha]) rfl hleaf hstop

/-- Settles O30: the slot commits (`vred_commits`), and each of its operations has its result, with active elements and without. -/
theorem reductionWritesItsScalar : Obligations.ReductionWritesItsScalar := by
  intro sd pa op s b hat hbad c w act r
  have hlen : act.length ≤ 256 := by
    rw [activeElems_length, elements_length]
    exact elemCount_le s.here
  have hlt : ∀ p ∈ act, p.2 < 2 ^ elemBits c.ty := activeElems_lt c w _
  have hact : (∃ p ∈ act, p.1 = true) → ∃ u, (true, u) ∈ act := fun ⟨⟨_, u⟩, hu, hp⟩ => ⟨u, by rw [← hp]; exact hu⟩
  have hones : 2 ^ w - 1 < 2 ^ w := Nat.sub_lt (Nat.two_pow_pos w) Nat.one_pos
  refine ⟨vred_commits hat hbad, ?_, ?_⟩
  · rintro rfl h
    exact (reduce_intSum c act h).trans (intSum_eq c act)
  intro ext
  have hext : ∀ v, v < 2 ^ w → extendRes c.ty v = ext v := fun v hv => extendRes_of_lt hv
  refine ⟨fun h ho hp => ?_, ?_, fun g h ho hp => ?_, ?_, fun hp => ?_⟩
  · obtain ⟨u, hu⟩ := hact hp
    obtain ⟨v, hv, hr, hbest⟩ := reduce_intSelect_bound hlen h ho hu
    exact ⟨v, hv, hr.trans (hext v (hlt _ hv)), hbest⟩
  · intro ho hp on
    obtain ⟨u, hu⟩ := hact hp
    obtain ⟨hb, hr⟩ := reduce_bitwise_eq hlen ho hlt hu
    exact hr.trans (hext _ hb)
  · obtain ⟨u, hu⟩ := hact hp
    exact reduce_float_tree hlen h ho hu
  · rintro rfl
    exact ⟨fun h ⟨u, hu⟩ => reduce_argmax_int hlen h hlt hu, fun g h => ⟨fun hnan => reduce_argmax_allNaN hlen h hnan,
      fun ⟨u, hu, hn⟩ => reduce_argmax_float hlen h hu hn⟩⟩
  · have hoff : ∀ v, (true, v) ∉ act := fun v hv => Bool.noConfusion (hp _ hv)
    refine ⟨?_, ?_, ?_, ?_, fun g h ho => ?_, fun h => ⟨?_, ?_⟩⟩
    · rintro rfl
      exact reduce_argmax_none hlen hoff
    · rintro (rfl | rfl)
      · exact reduce_bitwise_none hlen hoff (.inr (.inl rfl))
      · exact reduce_bitwise_none hlen hoff (.inr (.inr rfl))
    · rintro rfl
      exact reduce_sum_none hlen hoff
    · rintro rfl
      exact (reduce_bitwise_none hlen hoff (.inl rfl)).trans (hext _ hones)
    · refine (reduce_float_none hlen hoff h (.inr ho)).trans (if_neg ?_)
      rcases ho with rfl | rfl <;> decide
    · rintro rfl
      exact (reduce_intSelect_none hlen hoff h (.inl rfl)).trans (extendRes_intMin h)
    · rintro rfl
      exact (reduce_intSelect_none hlen hoff h (.inr rfl)).trans (extendRes_intMax h)

end Sys2Proof.Machine
end

section
namespace Sys2Proof.Machine

/-! ## Bytes and words (R5) -/

theorem natOfBytes_testBit : ∀ (bs : List Byte) (k : Nat), (natOfBytes bs).testBit k = (bs.getD (k / 8) 0).getLsbD (k % 8)
  | [], k => by simp [natOfBytes]
  | b :: bs, k => by
    rw [natOfBytes, Nat.add_comm, show (256 : Nat) = 2 ^ 8 from rfl, Nat.testBit_two_pow_mul_add _ b.isLt]
    split
    next h => simp [Nat.div_eq_of_lt h, Nat.mod_eq_of_lt h, BitVec.getLsbD]
    next h =>
      have hk : 8 ≤ k := Nat.le_of_not_lt h
      rw [natOfBytes_testBit bs (k - 8), Nat.div_eq_sub_div (by decide) hk, Nat.mod_eq_sub_mod hk]
      simp

/-- A byte of a word that bytes make. -/
theorem byte_of_bytes {n : Nat} (bs : List Byte) {j : Nat} (hj : 8 * j + 8 ≤ n) :
    (BitVec.ofNat n (natOfBytes bs)).extractLsb' (8 * j) 8 = bs.getD j 0 := by
  apply BitVec.eq_of_getLsbD_eq
  intro i hi
  have hd : (8 * j + i) / 8 = j := by omega
  have hm : (8 * j + i) % 8 = i := by omega
  rw [BitVec.getLsbD_extractLsb', decide_eq_true hi, Bool.true_and, BitVec.getLsbD_ofNat, decide_eq_true (by omega), Bool.true_and,
    natOfBytes_testBit, hd, hm]

/-- A bit of a word that bytes make. -/
theorem bit_of_bytes {n : Nat} (bs : List Byte) {j : Nat} (hj : j < n) :
    (BitVec.ofNat n (natOfBytes bs)).getLsbD j = (bs.getD (j / 8) 0).getLsbD (j % 8) := by
  rw [BitVec.getLsbD_ofNat, decide_eq_true hj, Bool.true_and, natOfBytes_testBit]

theorem getD_bytesOfNat : ∀ (n v j : Nat), j < n → (bytesOfNat n v).getD j 0 = BitVec.ofNat 8 (v / 2 ^ (8 * j))
  | 0, _, _, h => absurd h (Nat.not_lt_zero _)
  | n + 1, v, 0, _ => by simp [bytesOfNat]
  | n + 1, v, j + 1, h => by
    rw [bytesOfNat, List.getD_cons_succ, getD_bytesOfNat n (v / 256) j (by omega), show (256 : Nat) = 2 ^ 8 from rfl,
      Nat.div_div_eq_div_mul, ← Nat.pow_add, Nat.mul_succ, Nat.add_comm]

/-- A byte of a word. -/
theorem getD_bytesOfNat_word {w : Nat} (v : BitVec w) {n j : Nat} (hj : j < n) :
    (bytesOfNat n v.toNat).getD j 0 = v.extractLsb' (8 * j) 8 := by
  rw [getD_bytesOfNat n _ j hj, ← Nat.shiftRight_eq_div_pow]
  rfl

theorem bytesOfWords_cons (w : Word) (ws : List Word) : bytesOfWords (w :: ws) = bytesOfNat 4 w.toNat ++ bytesOfWords ws := rfl

theorem bytesOfWords_length : ∀ ws : List Word, (bytesOfWords ws).length = 4 * ws.length
  | [] => rfl
  | w :: ws => by rw [bytesOfWords_cons, List.length_append, Laws.length_bytesOfNat, bytesOfWords_length ws, List.length_cons]; omega

theorem getD_bytesOfWords : ∀ (ws : List Word) (j : Nat), (bytesOfWords ws).getD j 0 = (ws.getD (j / 4) 0).extractLsb' (8 * (j % 4)) 8
  | [], j => by simp [bytesOfWords]
  | w :: ws, j => by
    rw [bytesOfWords_cons]
    by_cases h : j < 4
    · rw [List.getD_append _ _ _ _ (by rw [Laws.length_bytesOfNat]; exact h), getD_bytesOfNat_word w h, Nat.div_eq_of_lt h, Nat.mod_eq_of_lt h,
        List.getD_cons_zero]
    · have hk : 4 ≤ j := Nat.le_of_not_lt h
      rw [List.getD_append_right _ _ _ _ (by rw [Laws.length_bytesOfNat]; exact hk), Laws.length_bytesOfNat, getD_bytesOfWords ws (j - 4),
        Nat.div_eq_sub_div (by decide) hk, Nat.mod_eq_sub_mod hk, List.getD_cons_succ]

theorem wordsOfBytes_four (a b c d : Byte) (bs : List Byte) :
    wordsOfBytes (a :: b :: c :: d :: bs) = BitVec.ofNat 32 (natOfBytes [a, b, c, d]) :: wordsOfBytes bs := by rw [wordsOfBytes]

/-- The words of four times n bytes: n words, byte for byte those bytes. -/
theorem wordsOfBytes_spec : ∀ (n : Nat) (bs : List Byte), bs.length = 4 * n → (wordsOfBytes bs).length = n ∧
    ∀ j, j < 4 * n → ((wordsOfBytes bs).getD (j / 4) 0).extractLsb' (8 * (j % 4)) 8 = bs.getD j 0
  | 0, bs, h => by
    obtain rfl : bs = [] := List.length_eq_zero_iff.mp h
    exact ⟨rfl, fun _ hj => absurd hj (Nat.not_lt_zero _)⟩
  | n + 1, bs, h => by
    obtain ⟨a, b, c, d, bs, rfl⟩ : ∃ a b c d cs, bs = a :: b :: c :: d :: cs := by
      match bs, h with
      | a :: b :: c :: d :: cs, _ => exact ⟨a, b, c, d, cs, rfl⟩
    obtain ⟨hl, hb⟩ := wordsOfBytes_spec n bs (by simp only [List.length_cons] at h; omega)
    rw [wordsOfBytes_four]
    refine ⟨by rw [List.length_cons, hl], fun j hj => ?_⟩
    by_cases h4 : j < 4
    · rw [Nat.div_eq_of_lt h4, Nat.mod_eq_of_lt h4, List.getD_cons_zero, byte_of_bytes _ (by omega)]
      exact (List.getD_append [a, b, c, d] bs 0 j h4).symm
    · have hk : 4 ≤ j := Nat.le_of_not_lt h4
      rw [Nat.div_eq_sub_div (by decide) hk, Nat.mod_eq_sub_mod hk, List.getD_cons_succ, hb (j - 4) (by omega)]
      exact (List.getD_append_right [a, b, c, d] bs 0 j hk).symm

/-! ### Ranges of a file -/

theorem getRange_length {α : Type} (d : α) (c : Cells α) (i n : Nat) : (Cells.getRange d c i n).length = n := by simp [Cells.getRange]

theorem getD_getRange {α : Type} (d e : α) (c : Cells α) (i : Nat) {n j : Nat} (hj : j < n) :
    (Cells.getRange d c i n).getD j e = Cells.get d c (i + j) := by
  rw [List.getD_eq_getElem _ _ (by rw [getRange_length]; exact hj)]
  simp [Cells.getRange]

/-- A word read from a file. -/
theorem byte_of_getRange (c : Cells Byte) (a : Nat) {n k j : Nat} (hj : j < k) (hn : 8 * k ≤ n) :
    (BitVec.ofNat n (natOfBytes (Cells.getRange 0 c a k))).extractLsb' (8 * j) 8 = Cells.get 0 c (a + j) := by
  rw [byte_of_bytes _ (by omega), getD_getRange 0 0 c a hj]

/-- 64 words read from a file. -/
theorem words_of_getRange (c : Cells Byte) (a : Nat) : (wordsOfBytes (Cells.getRange 0 c a 256)).length = 64 ∧
    ∀ j, j < 256 → ((wordsOfBytes (Cells.getRange 0 c a 256)).getD (j / 4) 0).extractLsb' (8 * (j % 4)) 8 = Cells.get 0 c (a + j) := by
  obtain ⟨hl, hb⟩ := wordsOfBytes_spec 64 (Cells.getRange 0 c a 256) (getRange_length ..)
  exact ⟨hl, fun j hj => (hb j hj).trans (getD_getRange 0 0 c a hj)⟩

/-- Bytes written and read back. -/
theorem get_setRange_getD (c : Cells Byte) (a : Nat) (bs : List Byte) (j : Nat) : Cells.get 0 (Cells.setRange 0 c a bs) j =
    if a ≤ j ∧ j < a + bs.length then bs.getD (j - a) 0 else Cells.get 0 c j := by
  rw [get_setRange]
  split
  next h => exact (List.getD_eq_getElem _ _ _).symm
  next h => rfl

/-! ### Bytes of a line -/

/-- A byte of a line is a byte of its lane. -/
theorem elemAt_bytes (ws : List Word) {e : Nat} (he : e < 256) :
    elemAt (elements 8 ws) e = ((ws.getD (e / 4) 0).extractLsb' (8 * (e % 4)) 8).toNat := by
  apply Nat.eq_of_testBit_eq
  intro b
  rw [testBit_element 8 ws e b he]
  by_cases hb : b < 8
  · have h1 : (8 * e + b) / 32 = e / 4 := by omega
    have h2 : (8 * e + b) % 32 = 8 * (e % 4) + b := by omega
    rw [decide_eq_true hb, Bool.true_and, h1, h2, ← BitVec.getLsbD, BitVec.getLsbD_extractLsb', decide_eq_true hb, Bool.true_and]
  · rw [decide_eq_false hb, Bool.false_and]
    exact (BitVec.getLsbD_of_ge _ b (by omega)).symm

/-- A line written whole, as the bytes it then holds. -/
theorem lineWritten_setLine_bytes (t : Tile) (pd : Line) {ws : List Word} (hw : ws.length = 64) {f : Nat → Byte}
    (hf : ∀ j, j < 256 → (ws.getD (j / 4) 0).extractLsb' (8 * (j % 4)) 8 = f j) :
    LineWritten t (t.setLine pd ws) pd 8 (fun e => some (f e).toNat) 0 := by
  refine ⟨fun e he => ?_, fun c hc => setLine_off t pd ws c hc, ?_, rfl⟩
  · rw [line_setLine t pd ws hw, elemAt_bytes ws he, hf e he]
    exact (Nat.mod_eq_of_lt (f e).isLt).symm
  · simp [FlagsOred, Tile.setLine]

/-- A line written whole, as the words it then holds. -/
theorem lineWritten_setLine_words (t : Tile) (pd : Line) {ws : List Word} (hw : ws.length = 64) :
    LineWritten t (t.setLine pd ws) pd 32 (fun e => some (ws.getD e 0).toNat) 0 := by
  refine ⟨fun e he => ?_, fun c hc => setLine_off t pd ws c hc, ?_, rfl⟩
  · rw [line_setLine t pd ws hw, elemAt_words ws he]
    exact (Nat.mod_eq_of_lt (ws.getD e 0).isLt).symm
  · simp [FlagsOred, Tile.setLine]

end Sys2Proof.Machine
end

section
namespace Sys2Proof.Machine

/-! ## Stores to a scratchpad (R62, R170, R173) -/

/-- Words laid over a file leave a byte that none of them covers. -/
theorem get_overlay_off {c : Nat} : ∀ (ps : List (Nat × Word)) (m : Cells Byte), (∀ p ∈ ps, ¬ (p.1 ≤ c ∧ c < p.1 + 4)) →
    Cells.get 0 (overlay m ps) c = Cells.get 0 m c
  | [], _, _ => rfl
  | (a, w) :: ps, m, h => by
    have ha : ¬ (a ≤ c ∧ c < a + 4) := h (a, w) (List.mem_cons_self ..)
    rw [overlay, get_overlay_off ps _ fun p hp => h p (List.mem_cons_of_mem _ hp)]
    exact get_setRange_outside 0 (by rw [Laws.length_bytesOfNat]; omega)

/-- The tile's own view of a byte that no STG before an access is still to write. -/
theorem get_viewAt_off {t : Tile} {n c : Nat} (h : ∀ e ∈ t.sb, ∀ ws as, e.work = .stg ws as → e.seqNo < n →
    ∀ p ∈ lanesLeft as ws, ¬ (p.1 ≤ c ∧ c < p.1 + 4)) : Cells.get 0 (t.viewAt n) c = t.byteAt c := by
  unfold Tile.viewAt Tile.byteAt
  generalize t.spad = m
  revert h
  generalize t.sb = es
  intro h
  induction es generalizing m with
  | nil => rfl
  | cons e es ih =>
    rw [List.foldl_cons, ih _ fun e' he' => h e' (List.mem_cons_of_mem _ he')]
    split
    next ws as hw =>
      split
      next hn => exact get_overlay_off _ _ (h e (List.mem_cons_self ..) ws as hw hn)
      next => rfl
    next => rfl

theorem mem_lanesLeft {as : List Nat} {ws : List (Option Word)} {p : Nat × Word} :
    p ∈ lanesLeft as ws ↔ (p.1, some p.2) ∈ as.zip ws := by
  obtain ⟨a, w⟩ := p
  simp only [lanesLeft, List.mem_filterMap, Option.map_eq_some_iff, Prod.mk.injEq]
  constructor
  · rintro ⟨⟨a', w'⟩, hm, v, hv, rfl, rfl⟩
    exact hv ▸ hm
  · exact fun hm => ⟨(a, some w), hm, w, rfl, rfl, rfl⟩

/-- The words that a store takes from an STG share no byte with those that it leaves. -/
theorem lanesLeft_kept {as : List Nat} {ws : List (Option Word)} {a n : Nat} {p : Nat × Word}
    (h : p ∈ lanesLeft as ((as.zip ws).map fun q => if wordMeets q.1 a n then none else q.2)) : wordMeets p.1 a n = false := by
  rw [mem_lanesLeft, List.zip_map_right] at h
  obtain ⟨⟨x, y⟩, hm, he⟩ := List.mem_map.mp h
  have hxy : x = y.1 := by
    obtain ⟨j, hj, hv⟩ := List.mem_iff_getElem.mp hm
    simp only [List.getElem_zip, Prod.mk.injEq] at hv
    rw [← hv.1, ← hv.2]
  simp only [Prod.map_apply, id_eq, Prod.mk.injEq] at he
  obtain ⟨rfl, he⟩ := he
  by_contra hw
  rw [Bool.not_eq_false, hxy] at hw
  rw [if_pos hw] at he
  exact absurd he (Option.some_ne_none _).symm

theorem meetStore_seqNo (t : Tile) (place a n : Nat) (e : SbEntry) : (SbEntry.meetStore t place a n e).seqNo = e.seqNo := by
  unfold SbEntry.meetStore
  split
  · rfl
  · split <;> rfl

/-- An entry that neither gathers nor scatters takes no notice of a store. -/
theorem meetStore_other (t : Tile) (place a n : Nat) {e : SbEntry} (h : ¬ (e.isLdg = true ∨ e.isStg = true)) :
    SbEntry.meetStore t place a n e = e := by
  unfold SbEntry.meetStore
  split
  · rfl
  · split
    next hw => exact absurd (.inl (by simp [SbEntry.isLdg, hw])) h
    next hw => exact absurd (.inr (by simp [SbEntry.isStg, hw])) h
    next => rfl

/-- The words that a pending STG is still to write after a store share no byte with it. -/
theorem meetStore_stg {t : Tile} {place a n : Nat} {e : SbEntry} {ws : List (Option Word)} {as : List Nat} (hn : e.seqNo < place)
    (hw : (SbEntry.meetStore t place a n e).work = .stg ws as) {p : Nat × Word} (hp : p ∈ lanesLeft as ws) : wordMeets p.1 a n = false := by
  rw [SbEntry.meetStore, if_neg (Nat.not_le_of_gt hn)] at hw
  split at hw
  next => exact absurd hw (by simp)
  next ws' as' _ =>
    simp only [SbWork.stg.injEq] at hw
    obtain ⟨rfl, rfl⟩ := hw
    exact lanesLeft_kept hp
  next hne => exact absurd hw (hne ws as)

theorem spadStored_of_spad {x y : Tile} {a n : Nat} {bs : List Byte} {f : Nat → Byte} (hs : y.spad = Cells.setRange 0 x.spad a bs)
    (hn : bs.length = n) (hf : ∀ j, j < n → bs.getD j 0 = f j) (hy : { y with spad := x.spad, raced := x.raced, sb := x.sb } = x)
    (hsb : ¬ x.lanesPend → y.sb = x.sb) : SpadStored x y a n f := by
  refine ⟨fun j hj => ?_, fun c hc => ?_, hy, hsb⟩
  · rw [Tile.byteAt, hs, get_setRange_getD, if_pos (by omega), Nat.add_sub_cancel_left, hf j hj]
  · rw [Tile.byteAt, hs]
    exact get_setRange_outside 0 (by omega)

/-- A store by another agent. -/
theorem spadStored_setSpad (x : Tile) (a : Nat) {n : Nat} {bs : List Byte} {f : Nat → Byte} (hn : bs.length = n)
    (hf : ∀ j, j < n → bs.getD j 0 = f j) : SpadStored x (x.setSpad a bs) a n f :=
  spadStored_of_spad rfl hn hf rfl fun _ => rfl

/-- A store by the tile itself at a place in its issue order. -/
theorem spadStored_ownStoreAt (x : Tile) (place a : Nat) {n : Nat} {bs : List Byte} {f : Nat → Byte} (hn : bs.length = n)
    (hf : ∀ j, j < n → bs.getD j 0 = f j) : SpadStored x (x.ownStoreAt place a bs) a n f :=
  spadStored_of_spad rfl hn hf rfl fun h => by
    show x.sb.map (SbEntry.meetStore x place a bs.length) = x.sb
    have hid : ∀ e ∈ x.sb, SbEntry.meetStore x place a bs.length e = e := fun e he => meetStore_other _ _ _ _ fun hl => h ⟨e, he, hl⟩
    rw [List.map_congr_left hid, List.map_id']

/-- What a tile stores its next access finds. -/
theorem ownByte_ownStore (x : Tile) (a : Nat) (bs : List Byte) {j : Nat} (hj : j < bs.length) :
    (x.ownStore a bs).ownByte (a + j) = (x.ownStore a bs).byteAt (a + j) := by
  refine get_viewAt_off fun e he ws as hw hn p hp hc => ?_
  obtain ⟨e', -, rfl⟩ := List.mem_map.mp he
  rw [meetStore_seqNo] at hn
  have hm : wordMeets p.1 a bs.length = false := meetStore_stg hn hw hp
  simp only [wordMeets, Bool.and_eq_false_iff, decide_eq_false_iff_not] at hm
  omega

theorem ownStored_ownStore (x : Tile) (a : Nat) {n : Nat} {bs : List Byte} {f : Nat → Byte} (hn : bs.length = n)
    (hf : ∀ j, j < n → bs.getD j 0 = f j) : OwnStored x (x.ownStore a bs) a n f := by
  have h : SpadStored x (x.ownStore a bs) a n f := spadStored_ownStoreAt x x.issueNo a hn hf
  exact ⟨h, fun j hj => (ownByte_ownStore x a bs (hn ▸ hj)).trans (h.1 j hj)⟩

end Sys2Proof.Machine
end

section
namespace Sys2Proof.Machine

/-! ## What performed crew-space accesses move (R35, R170) -/

/-- Accesses have been performed at a tile, or answered to it: its scratchpad, its scoreboard, the bundle in flight, its cycles and BCONF
may have moved, and nothing else has. -/
def Tile.Served (x y : Tile) : Prop :=
  { y with spad := x.spad, raced := x.raced, sb := x.sb, inflight := x.inflight, meets := x.meets, pipe := x.pipe,
           k := { y.k with bconf := x.k.bconf } } = x

theorem Tile.Served.refl (x : Tile) : x.Served x := rfl

theorem Tile.Served.trans {x y z : Tile} (h : x.Served y) (g : y.Served z) : x.Served z := by
  unfold Tile.Served at *
  rw [← g] at h
  exact h

section
variable {x y : Tile} (h : x.Served y)
include h
theorem Tile.Served.scal : y.scal = x.scal := (congrArg Tile.scal h :)
theorem Tile.Served.act : y.act = x.act := (congrArg Tile.act h :)
theorem Tile.Served.pt : y.pt = x.pt := (congrArg Tile.pt h :)
theorem Tile.Served.copyq : y.copyq = x.copyq := (congrArg Tile.copyq h :)
theorem Tile.Served.issueNo : y.issueNo = x.issueNo := (congrArg Tile.issueNo h :)
theorem Tile.Served.retiring : y.retiring = x.retiring := (congrArg Tile.retiring h :)
theorem Tile.Served.trapped : y.k.trapped = x.k.trapped := (congrArg (fun t : Tile => t.k.trapped) h :)
theorem Tile.Served.sreg (r : SReg) : y.sreg r = x.sreg r := by simp only [Tile.sreg, h.scal]
theorem Tile.Served.crewN : y.crewN = x.crewN := by simp only [Tile.crewN, h.act, h.pt]
end

theorem meet_served (x : Tile) (i : TileId) (c own others : Nat) : x.Served (x.meet i c own others) := by
  obtain ⟨p, q, r, h⟩ := meet_eq x i c own others
  rw [h]
  rfl

theorem lose_served (x : Tile) (n : Nat) : x.Served (x.lose n) := by
  unfold Tile.lose
  split <;> rfl

theorem meetCrew_served (x : Tile) (i : TileId) (own crew : Nat) : x.Served (x.meetCrew i own crew) := by
  unfold Tile.meetCrew
  dsimp only
  split
  · exact meet_served ..
  · exact (meet_served ..).trans (lose_served ..)

theorem storeAt_served (a : CrewAccess) (x : Tile) (ad : Nat) (bs : List Byte) : x.Served (a.storeAt x ad bs) := by
  unfold CrewAccess.storeAt
  split <;> rfl

/-- Accesses have been performed at some tiles, and no more has happened. -/
structure State.Served (s t : State) : Prop where
  rest : { t with tiles := s.tiles } = s
  tile : ∀ j, (s.tile j).Served (t.tile j)

theorem State.Served.refl (s : State) : s.Served s := ⟨rfl, fun _ => rfl⟩

theorem State.Served.trans {s t u : State} (h : s.Served t) (g : t.Served u) : s.Served u where
  rest := by
    have hr := h.rest
    rw [← g.rest] at hr
    exact hr
  tile j := (h.tile j).trans (g.tile j)

theorem served_setTile {s : State} {i : TileId} {y : Tile} (h : (s.tile i).Served y) : s.Served (s.setTile i y) where
  rest := rfl
  tile j := by
    by_cases hj : j = i
    · subst hj; rw [tile_setTile]; exact h
    · rw [tile_setTile_ne s y hj]; exact .refl _

section
variable {s t : State} (h : s.Served t)
include h
theorem State.Served.focus : t.focus = s.focus := (congrArg State.focus h.rest :)
theorem State.Served.launches : t.launches = s.launches := (congrArg State.launches h.rest :)
theorem State.Served.crew : t.crew = s.crew := (congrArg State.crew h.rest :)
theorem State.Served.launch? (n : BitVec 16) : t.launch? n = s.launch? n := by simp only [State.launch?, h.launches]
end

/-! ### One access performed -/

/-- An entry whose LDC has had its line read. -/
def SbEntry.answered (place : Nat) (ws : List Word) (q : SbEntry) : SbEntry :=
  match q.work with
  | .ldc pd none => if q.seqNo = place then { q with work := .ldc pd (some ws) } else q
  | _ => q

/-- A tile whose CREW ATOM has had its old word read. -/
def Tile.atomAnswered (y : Tile) (m : Word) : Tile :=
  match y.inflight with
  | some b => if b.atomSent then { y with inflight := some { b with atomBack := some m } } else y
  | none => y

theorem atomAnswered_served (y : Tile) (m : Word) : y.Served (y.atomAnswered m) := by
  unfold Tile.atomAnswered
  split
  · split <;> rfl
  · rfl

/-- What an access leaves at its target, its conflicts counted. -/
def State.met (s : State) (a : CrewAccess) (y : Tile) (own : Nat) : State := s.setTile a.dst (y.meetCrew a.dst own (s.crewDepth a.dst))

/-- The extra cycles of a line's own accesses. -/
def Tile.lineConflicts (x : Tile) (ad : Nat) : Nat := conflictCycles (accessesOf x.k ad 256)

section
variable {s : State} {a : CrewAccess}

theorem performCrew_lost (h : (s.tile a.dst).serves a.handle = false) : s.performCrew a = s := by
  simp [State.performCrew, h]

variable (h : (s.tile a.dst).serves a.handle = true)
include h

theorem performCrew_store {ad : Nat} {ws : List Word} (ho : a.op = .store ad ws) :
    s.performCrew a = s.met a (a.storeAt (s.tile a.dst) ad (bytesOfWords ws)) ((s.tile a.dst).lineConflicts ad) := by
  simp only [State.performCrew, h, ho]
  rfl

theorem performCrew_load {ad : Nat} {n : BitVec 4} (ho : a.op = .load ad n) :
    s.performCrew a = (s.met a (s.tile a.dst) ((s.tile a.dst).lineConflicts ad)).setTile a.src
      { (s.met a (s.tile a.dst) ((s.tile a.dst).lineConflicts ad)).tile a.src with
        sb := ((s.met a (s.tile a.dst) ((s.tile a.dst).lineConflicts ad)).tile a.src).sb.map
          (SbEntry.answered a.seqNo (wordsOfBytes (a.bytesAt (s.tile a.dst) ad 256))) } := by
  simp only [State.performCrew, h, ho]
  have hf : (fun q : SbEntry => if (q.seqNo == a.seqNo && q.isLdc) = true then { q with work := match q.work with
        | .ldc pd none => .ldc pd (some (wordsOfBytes (a.bytesAt (s.tile a.dst) ad 256)))
        | w => w } else q) = SbEntry.answered a.seqNo (wordsOfBytes (a.bytesAt (s.tile a.dst) ad 256)) := by
    funext q
    obtain ⟨num, no, cycle, work, settling, paid, late⟩ := q
    unfold SbEntry.answered SbEntry.isLdc
    by_cases hn : no = a.seqNo
    · cases work with
      | ldc pd data => cases data <;> simp [hn]
      | _ => simp
    · cases work with
      | ldc pd data => cases data <;> simp [hn]
      | _ => simp
  rw [← hf]
  rfl

theorem performCrew_atom {ad : Nat} {op : AtomOp} {v c m : Word} (ho : a.op = .atom ad op v c)
    (hm : m = BitVec.ofNat 32 (natOfBytes (a.bytesAt (s.tile a.dst) ad 4))) :
    s.performCrew a =
      (s.met a (a.storeAt (s.tile a.dst) ad (bytesOfNat 4 (atomNew 32 op m.toNat v.toNat c.toNat))) 0).setTile a.src
        (((s.met a (a.storeAt (s.tile a.dst) ad (bytesOfNat 4 (atomNew 32 op m.toNat v.toNat c.toNat))) 0).tile a.src).atomAnswered m) := by
  subst hm
  simp only [State.performCrew, h, ho, Bool.not_true, Bool.false_eq_true, if_false, Tile.atomAnswered]
  split
  next b hb =>
    rw [State.met, hb]
    dsimp only
    split
    · rfl
    · exact (setTile_self ..).symm
  next hb =>
    rw [State.met, hb]
    exact (setTile_self ..).symm

end

theorem met_served {s : State} {a : CrewAccess} {y : Tile} (own : Nat) (h : (s.tile a.dst).Served y) : s.Served (s.met a y own) :=
  served_setTile (h.trans (meetCrew_served ..))

theorem performCrew_served (s : State) (a : CrewAccess) : s.Served (s.performCrew a) := by
  cases h : (s.tile a.dst).serves a.handle with
  | false => rw [performCrew_lost h]; exact .refl s
  | true =>
    cases ho : a.op with
    | store ad ws => rw [performCrew_store h ho]; exact met_served _ (storeAt_served ..)
    | load ad n => rw [performCrew_load h ho]; exact (met_served _ (.refl _)).trans (served_setTile rfl)
    | atom ad op v c =>
      rw [performCrew_atom h ho rfl]
      exact (met_served _ (storeAt_served ..)).trans (served_setTile (atomAnswered_served ..))

theorem performCrew_foldl_served : ∀ (as : List CrewAccess) (s : State), s.Served (as.foldl State.performCrew s)
  | [], s => .refl s
  | a :: as, s => (performCrew_served s a).trans (performCrew_foldl_served as _)

/-! ## The tile's own accesses on the crew path (R257) -/

/-- The state without a tile's accesses to its own scratchpad that are still on their way. -/
def State.withoutOwn (s : State) (i : TileId) : State := { s with crew := s.crew.filter fun a => !(a.src == i && a.dst == i) }

theorem flushOwn_served (s : State) (i : TileId) : (s.withoutOwn i).Served (s.flushOwn i) := performCrew_foldl_served _ _

theorem flushOwn_tile (s : State) (i j : TileId) : (s.tile j).Served ((s.flushOwn i).tile j) := (flushOwn_served s i).tile j

/-- Once performed, nothing of the tile's own accesses is left to perform. -/
theorem flushOwn_flushOwn (s : State) (i : TileId) : (s.flushOwn i).flushOwn i = s.flushOwn i := by
  have hc : (s.flushOwn i).crew = s.crew.filter fun a => !(a.src == i && a.dst == i) := (flushOwn_served s i).crew
  have hmine : ((s.flushOwn i).crew.filter fun a => a.src == i && a.dst == i) = [] := by
    rw [hc, List.filter_filter, List.filter_eq_nil_iff]
    intro a _
    simp
  have hrest : ((s.flushOwn i).crew.filter fun a => !(a.src == i && a.dst == i)) = (s.flushOwn i).crew := by
    rw [hc, List.filter_filter]
    simp
  show List.foldl _ _ _ = _
  rw [hmine, List.foldl_nil, hrest]

theorem own_focus (s : State) : s.own.focus = s.focus := (flushOwn_served s s.focus).focus
theorem own_launch? (s : State) (n : BitVec 16) : s.own.launch? n = s.launch? n := (flushOwn_served s s.focus).launch? n

theorem here_own (s : State) : s.here.Served s.own.here := by
  rw [State.here, State.here, own_focus]
  exact flushOwn_tile s s.focus s.focus

theorem own_own (s : State) : s.own.own = s.own := by
  unfold State.own
  rw [show (s.flushOwn s.focus).focus = s.focus from own_focus s, flushOwn_flushOwn]

/-- A launch that handles a tile's traps handles them after the tile's own accesses. -/
theorem State.Handles.own {s : State} {l : Launch} (h : s.Handles l) : s.own.Handles l where
  launch := by rw [own_launch?, (here_own s).pt]; exact h.launch
  handler := h.handler
  outside := (here_own s).trapped.trans h.outside
  stays := (here_own s).retiring.trans h.stays

/-! ## Slots that use the tile's own scratchpad -/

section
variable {s : State} {i : Instr} {b : Inflight} {mn : String} {f : SlotFn} (hx : ∀ s, exec i s = s.runOwn mn i f)
include hx

/-- Such a slot runs as it does once the tile's own accesses are performed. -/
theorem exec_own (s : State) : exec i s.own = s.own.runSlot mn i f := by
  rw [hx]
  show s.own.own.runSlot mn i f = _
  rw [own_own]

theorem exec_eq_own (s : State) : exec i s = exec i s.own := (hx s).trans (exec_own hx s).symm

theorem commitsOwn_of_commits {y : Tile} (h : Commits i s.own y) : CommitsOwn i s y := by
  obtain ⟨t, ht, ho, hd⟩ := h
  rw [own_focus] at ho hd
  exact ⟨t, (exec_eq_own hx s).trans ht, ho, hd⟩

/-- It commits with what it does, its accesses counted. -/
theorem runOwn_commits {y : Tile} {a n : Nat} (h : s.own.At i b)
    (hf : f s.own s.own.focus s.own.here b = .done y (accessesOf s.own.here.k a n) {} .seq)
    (hl : y.leafTrap = s.own.here.leafTrap) (hg : y.stopReq = s.own.here.stopReq) : CommitsOwn i s (y.banked s.own b a n) :=
  commitsOwn_of_commits hx (runSlot_commits h (exec_own hx s) hf (hl.trans h.leaf) (hg.trans h.goes) (by simp) (by simp))

/-- It traps in a launch with a handler. -/
theorem runOwn_traps {l : Launch} {c d : Nat} (h : s.own.At i b) (hh : s.own.Handles l)
    (hf : f s.own s.own.focus s.own.here b = .trap c d) (hr : routeH c = true) (hc : c ≠ 0x0A) : TrapsFrom s.own i s b l c d := by
  obtain ⟨t, ht, ho, hrest⟩ := runSlot_traps h hh (exec_own hx s) hf hr hc
  rw [own_focus] at ho
  exact ⟨t, (exec_eq_own hx s).trans ht, ho, hrest⟩

end

/-! ## Addresses (R169) -/

theorem addrFault_none {ea : Int} {size align : Nat} (h : AddrOk ea size align) : addrFault ea size align = none := by
  obtain ⟨h0, h1, h2, h3⟩ := h
  unfold addrFault regionOf
  rw [if_neg (by simp only [spadSize]; omega), if_neg (not_not_intro h2), if_neg (not_not_intro h3)]

/-- The cause of a bad address. -/
def badAddr (ea : Int) (size : Nat) : Nat := if ea < 0 ∨ 0x200000 < ea + size then 0x04 else 0x05

theorem addrFault_bad {ea : Int} {size align : Nat} (h : ¬ AddrOk ea size align) : addrFault ea size align = some (badAddr ea size) := by
  have hs : (spadSize : Int) = 0x200000 := rfl
  unfold addrFault badAddr regionOf
  rw [hs]
  by_cases h0 : ea < 0 ∨ 0x200000 < ea + size
  · rw [if_pos h0, if_pos h0]
  · rw [if_neg h0, if_neg h0]
    split
    next => rfl
    next h2 => exact if_pos fun h3 => h ⟨by omega, by omega, not_not.mp h2, h3⟩

theorem badAddr_route (ea : Int) (size : Nat) : routeH (badAddr ea size) = true ∧ badAddr ea size ≠ 0x0A := by
  unfold badAddr
  split <;> decide

theorem atAddr_ok {ea : Int} {size align : Nat} (h : AddrOk ea size align) (k : Nat → SlotOut) : atAddr ea size align k = k ea.toNat := by
  rw [atAddr, addrFault_none h]

theorem atAddr_bad {ea : Int} {size align : Nat} (h : ¬ AddrOk ea size align) (k : Nat → SlotOut) :
    atAddr ea size align k = .trap (badAddr ea size) (ea % 2 ^ 24).toNat := by
  rw [atAddr, addrFault_bad h]
  rfl

end Sys2Proof.Machine
end

section
namespace Sys2Proof.Machine

/-! ## Loads (R169-R171) -/

theorem exec_ldl (pd : Line) (sa : SReg) (imm : BitVec 8) (s : State) :
    exec (.ldl pd sa imm) s = s.runOwn "LDL" (.ldl pd sa imm) (loadLine pd fun t => immAddr t sa imm 256) := rfl
theorem exec_ldlx (pd : Line) (sa sb : SReg) (s : State) :
    exec (.ldlx pd sa sb) s = s.runOwn "LDLX" (.ldlx pd sa sb) (loadLine pd fun t => sumAddr t sa sb) := rfl
theorem exec_stl (ps : Line) (sa : SReg) (imm : BitVec 8) (s : State) :
    exec (.stl ps sa imm) s = s.runOwn "STL" (.stl ps sa imm) (storeLine ps fun t => immAddr t sa imm 256) := rfl
theorem exec_stlx (ps : Line) (sa sb : SReg) (s : State) :
    exec (.stlx ps sa sb) s = s.runOwn "STLX" (.stlx ps sa sb) (storeLine ps fun t => sumAddr t sa sb) := rfl
theorem exec_ldw (sd sa : SReg) (imm : BitVec 8) (s : State) : exec (.ldw sd sa imm) s = s.runOwn "LDW" (.ldw sd sa imm) fun _ _ t _ =>
    atAddr (immAddr t sa imm 4) 4 4 fun a => .done (t.setS sd (t.ownWord a)) (accessesOf t.k a 4) {} .seq := rfl
theorem exec_stw (ss sa : SReg) (imm : BitVec 8) (s : State) : exec (.stw ss sa imm) s = s.runOwn "STW" (.stw ss sa imm) fun _ _ t _ =>
    atAddr (immAddr t sa imm 4) 4 4 fun a => .done (t.ownStore a (bytesOfNat 4 (t.sreg ss).toNat)) (accessesOf t.k a 4) {} .seq := rfl
theorem exec_ldm (m : MaskReg) (sa : SReg) (imm : BitVec 8) (s : State) : exec (.ldm m sa imm) s = s.runOwn "LDM" (.ldm m sa imm) fun _ _ t _ =>
    atAddr (immAddr t sa imm 32) 32 32 fun a =>
      .done (t.setMask m (BitVec.ofNat 256 (natOfBytes (t.ownBytes a 32)))) (accessesOf t.k a 32) {} .seq := rfl
theorem exec_stm (m : MaskReg) (sa : SReg) (imm : BitVec 8) (s : State) : exec (.stm m sa imm) s = s.runOwn "STM" (.stm m sa imm) fun _ _ t _ =>
    atAddr (immAddr t sa imm 32) 32 32 fun a =>
      .done (t.ownStore a (bytesOfNat 32 (t.mask m).toNat)) (accessesOf t.k a 32) {} .seq := rfl
theorem exec_atom (op : AtomOp) (sd sa : SReg) (space : AtomSpace) (sb : SReg) (s : State) :
    exec (.atom op sd sa space sb) s = s.runOwn "ATOM" (.atom op sd sa space sb) (atomSlot op sd sa space sb) := rfl

section
variable {s : State} {i : Instr} {b : Inflight} {mn : String}

/-- A slot that accesses the tile's own scratchpad at a good address commits. -/
theorem runOwn_commits_at {ea : Int} {a size align : Nat} {f : SlotFn} {k : Nat → SlotOut} {y : Tile} (h : s.own.At i b)
    (hx : ∀ s, exec i s = s.runOwn mn i f) (hf : f s.own s.own.focus s.own.here b = atAddr ea size align k) (ha : ea = a)
    (hok : AddrOk ea size align) (hk : k a = .done y (accessesOf s.own.here.k a size) {} .seq)
    (hl : y.leafTrap = s.own.here.leafTrap) (hg : y.stopReq = s.own.here.stopReq) : CommitsOwn i s (y.banked s.own b a size) := by
  subst ha
  exact runOwn_commits hx h (by rw [hf, atAddr_ok hok, Int.toNat_natCast, hk]) hl hg

/-- A line load fills its line with the bytes at its address. -/
theorem loadLine_commits {pd : Line} {ea : Tile → Int} {a : Nat} (hx : ∀ s, exec i s = s.runOwn mn i (loadLine pd ea)) (h : s.own.At i b)
    (ha : ea s.own.here = a) (hok : AddrOk (ea s.own.here) 256 16) :
    ∃ y, CommitsOwn i s (y.banked s.own b a 256) ∧
      LineWritten s.own.here y pd 8 (fun e => some (s.own.here.ownByte (a + e)).toNat) 0 := by
  obtain ⟨hl, hb⟩ := words_of_getRange (s.own.here.viewAt s.own.here.issueNo) a
  exact ⟨_, runOwn_commits_at h hx rfl ha hok rfl rfl rfl, lineWritten_setLine_bytes _ pd hl hb⟩

/-- A line store writes the bytes of its line at its address. -/
theorem storeLine_commits {ps : Line} {ea : Tile → Int} {a : Nat} (hx : ∀ s, exec i s = s.runOwn mn i (storeLine ps ea))
    (h : s.own.At i b) (hbad : s.own.here.badCell ps = none) (ha : ea s.own.here = a) (hok : AddrOk (ea s.own.here) 256 16) :
    ∃ y, CommitsOwn i s (y.banked s.own b a 256) ∧
      OwnStored s.own.here y a 256 fun j => BitVec.ofNat 8 (elemAt (elements 8 (s.own.here.line ps)) j) := by
  refine ⟨s.own.here.ownStore a (bytesOfWords (s.own.here.line ps)), runOwn_commits_at h hx rfl ha hok ?_ rfl rfl,
    ownStored_ownStore _ a (by rw [bytesOfWords_length, line_length]) fun j hj => ?_⟩
  · simp [readingLines, hbad]
  · rw [getD_bytesOfWords, elemAt_bytes _ hj, BitVec.ofNat_toNat, BitVec.setWidth_eq]

end

/-- LDW (R171). -/
theorem ldw_commits {s : State} {b : Inflight} {sd sa : SReg} {imm : BitVec 8} {a : Nat} (h : s.own.At (.ldw sd sa imm) b)
    (ha : immAddr s.own.here sa imm 4 = a) (hok : AddrOk a 4 4) :
    CommitsOwn (.ldw sd sa imm) s ((s.own.here.setS sd (s.own.here.ownWord a)).banked s.own b a 4) :=
  runOwn_commits_at h (exec_ldw sd sa imm) rfl ha (ha ▸ hok) rfl (setS_leafTrap ..) (setS_stopReq ..)

theorem byte_ownWord (t : Tile) (a : Nat) {j : Nat} (hj : j < 4) : (t.ownWord a).extractLsb' (8 * j) 8 = t.ownByte (a + j) :=
  byte_of_getRange _ a hj (by decide)

/-- LDM (R171). -/
theorem ldm_commits {s : State} {b : Inflight} {m : MaskReg} {sa : SReg} {imm : BitVec 8} {a : Nat} (h : s.own.At (.ldm m sa imm) b)
    (ha : immAddr s.own.here sa imm 32 = a) (hok : AddrOk a 32 32) : CommitsOwn (.ldm m sa imm) s
      ((s.own.here.setMask m (BitVec.ofNat 256 (natOfBytes (s.own.here.ownBytes a 32)))).banked s.own b a 32) :=
  runOwn_commits_at h (exec_ldm m sa imm) rfl ha (ha ▸ hok) rfl (setMask_leafTrap ..) (setMask_stopReq ..)

theorem bit_ownBytes (t : Tile) (a : Nat) {j : Nat} (hj : j < 256) :
    (BitVec.ofNat 256 (natOfBytes (t.ownBytes a 32))).getLsbD j = (t.ownByte (a + j / 8)).getLsbD (j % 8) := by
  rw [bit_of_bytes _ hj, Tile.ownBytes, getD_getRange 0 0 _ a (by omega)]
  rfl

/-- Settles O32: each load commits at its address, with the bytes of the tile's own view there. -/
theorem loadsReadTheScratchpad : Obligations.LoadsReadTheScratchpad := by
  intro s b pd sd sa sb imm m a u x disp line
  refine ⟨fun h ha hok => loadLine_commits (exec_ldl pd sa imm) h ha hok, fun h ha hok => loadLine_commits (exec_ldlx pd sa sb) h ha hok,
    fun h ha hok => ⟨_, ldw_commits h ha hok, fun j hj => byte_ownWord x a hj⟩, fun h hm ha hok => ⟨_, ldm_commits h ha hok, ?_, ?_, ?_⟩⟩
  · intro j hj
    rw [mask_setMask _ hm, if_pos rfl]
    exact bit_ownBytes x a hj
  · intro q hq
    rw [mask_setMask _ hm, if_neg hq]
  · exact setMask_masks ..

end Sys2Proof.Machine
end

section
namespace Sys2Proof.Machine

/-! ## Stores and local atomics (R171, R177, R178) -/

/-- STW (R171). -/
theorem stw_commits {s : State} {b : Inflight} {ss sa : SReg} {imm : BitVec 8} {a : Nat} (h : s.own.At (.stw ss sa imm) b)
    (ha : immAddr s.own.here sa imm 4 = a) (hok : AddrOk a 4 4) : CommitsOwn (.stw ss sa imm) s
      ((s.own.here.ownStore a (bytesOfNat 4 (s.own.here.sreg ss).toNat)).banked s.own b a 4) :=
  runOwn_commits_at h (exec_stw ss sa imm) rfl ha (ha ▸ hok) rfl rfl rfl

/-- STM (R171). -/
theorem stm_commits {s : State} {b : Inflight} {m : MaskReg} {sa : SReg} {imm : BitVec 8} {a : Nat} (h : s.own.At (.stm m sa imm) b)
    (ha : immAddr s.own.here sa imm 32 = a) (hok : AddrOk a 32 32) : CommitsOwn (.stm m sa imm) s
      ((s.own.here.ownStore a (bytesOfNat 32 (s.own.here.mask m).toNat)).banked s.own b a 32) :=
  runOwn_commits_at h (exec_stm m sa imm) rfl ha (ha ▸ hok) rfl rfl rfl

/-- A byte of a mask as it is stored: m0 reads as ones (R22). -/
theorem byte_mask (t : Tile) (m : MaskReg) {j : Nat} (hj : j < 32) :
    (bytesOfNat 32 (t.mask m).toNat).getD j 0 = if m = 0 then 0xFF else (t.mask m).extractLsb' (8 * j) 8 := by
  rw [getD_bytesOfNat_word _ hj]
  split
  next h =>
    apply BitVec.eq_of_getLsbD_eq
    intro i hi
    rw [h, BitVec.getLsbD_extractLsb', decide_eq_true hi, Bool.true_and, Tile.mask, if_pos rfl, fullMask, BitVec.getLsbD_allOnes,
      decide_eq_true (by omega)]
    rw [show (0xFF : Byte) = BitVec.allOnes 8 from rfl, BitVec.getLsbD_allOnes, decide_eq_true hi]
  next => rfl

/-- A tile after its LOCAL ATOM at an address: the combination is stored, and s[D] has the old word. -/
def Tile.atomic (t : Tile) (op : AtomOp) (sd sb : SReg) (a : Nat) : Tile :=
  (t.ownStore a (bytesOfNat 4 (BitVec.ofNat 32 (atomNew 32 op (t.ownWord a).toNat (t.sreg sb).toNat (t.sreg sd).toNat)).toNat)).setS sd
    (t.ownWord a)

theorem atomSlot_loc (op : AtomOp) (sd sa sb : SReg) (s : State) (i : TileId) (t : Tile) (b : Inflight) :
    atomSlot op sd sa .loc sb s i t b =
      atAddr ((t.sreg sa).toNat : Int) 4 4 fun a => .done (t.atomic op sd sb a) (accessesOf t.k a 4) {} .seq := rfl

/-- ATOM LOCAL (R177). -/
theorem atom_local_commits {s : State} {b : Inflight} {op : AtomOp} {ss sa sb : SReg} {a : Nat} (h : s.own.At (.atom op ss sa .loc sb) b)
    (ha : (s.own.here.sreg sa).toNat = a) (hok : AddrOk a 4 4) :
    CommitsOwn (.atom op ss sa .loc sb) s ((s.own.here.atomic op ss sb a).banked s.own b a 4) := by
  subst ha
  exact runOwn_commits_at h (exec_atom op ss sa .loc sb) (atomSlot_loc ..) rfl hok rfl (setS_leafTrap ..) (setS_stopReq ..)

theorem sext_word (p : Word) : sext p.toNat 32 = p.toInt := by
  rw [sext_of_lt (by decide) p.isLt, BitVec.toInt_eq_toNat_cond]
  have := p.isLt
  split <;> split <;> omega

/-- The operations of an atomic on words, but for the floating ones. -/
theorem atomNew_word (p v c : Word) :
    let new (op : AtomOp) : Nat := atomNew 32 op p.toNat v.toNat c.toNat
    new .add = (p + v).toNat ∧ new .sub = (p - v).toNat ∧ new .and = (p &&& v).toNat ∧ new .or = (p ||| v).toNat ∧
    new .xor = (p ^^^ v).toNat ∧ new .xch = v.toNat ∧ new .cas = (if p = c then v else p).toNat ∧
    new .umin = min p.toNat v.toNat ∧ new .umax = max p.toNat v.toNat ∧
    new .smin = (if p.toInt ≤ v.toInt then p else v).toNat ∧ new .smax = (if p.toInt ≤ v.toInt then v else p).toNat := by
  have hsub : p.toNat + 2 ^ 32 - v.toNat = 2 ^ 32 - v.toNat + p.toNat := by have := v.isLt; omega
  refine ⟨(BitVec.toNat_add p v).symm, ?_, (BitVec.toNat_and p v).symm, (BitVec.toNat_or p v).symm, (BitVec.toNat_xor p v).symm, rfl, ?_,
    rfl, rfl, ?_, ?_⟩
  · rw [BitVec.toNat_sub, ← hsub]
    rfl
  · simp only [atomNew, ← BitVec.toNat_eq, apply_ite BitVec.toNat]
  · simp only [atomNew, sext_word, apply_ite BitVec.toNat]
  · simp only [atomNew, sext_word, apply_ite BitVec.toNat]

/-- Settles O33: each store commits with its bytes stored through `Tile.ownStore`, and the atomics' table is `atomNew_word`. -/
theorem storesChangeOnlyTheirBytes : Obligations.StoresChangeOnlyTheirBytes := by
  intro s b ps ss sa sb imm m op a u x disp line
  refine ⟨fun h hb ha hok => storeLine_commits (exec_stl ps sa imm) h hb ha hok,
    fun h hb ha hok => storeLine_commits (exec_stlx ps sa sb) h hb ha hok, fun h ha hok => ⟨_, stw_commits h ha hok, ?_⟩,
    fun h ha hok => ⟨_, stm_commits h ha hok, ?_⟩, fun h ha hok => ⟨x.ownWord a, _, fun j hj => byte_ownWord x a hj, ?_,
      atom_local_commits h ha hok⟩, fun p v c => atomNew_word p v c⟩
  · exact ownStored_ownStore x a (Laws.length_bytesOfNat ..) fun j hj => getD_bytesOfNat_word _ hj
  · exact ownStored_ownStore x a (Laws.length_bytesOfNat ..) fun j hj => byte_mask x m hj
  · exact ownStored_ownStore x a (Laws.length_bytesOfNat ..) fun j hj => getD_bytesOfNat_word _ hj

end Sys2Proof.Machine
end

section
namespace Sys2Proof.Machine

/-! ## Bad accesses (R169, R172, R174) -/

theorem bits_word {w : Nat} (v : BitVec w) (lo n : Nat) : bits v.toNat lo n = (v.extractLsb' lo n).toNat := by
  rw [bits, BitVec.extractLsb'_toNat, Nat.shiftRight_eq_div_pow]

/-! ### Crew-space addresses -/

section
variable (i : TileId) (t : Tile) (v : Word) (size align : Nat) (k : TileId → Nat → SlotOut)

theorem atCrew_rank (h : t.crewN ≤ (v.extractLsb' 24 8).toNat) : atCrew i t v size align k = .trap 0x06 0x01 := by
  rw [atCrew, bits_word, if_pos h]

variable (hr : (v.extractLsb' 24 8).toNat < t.crewN)
include hr

theorem atCrew_middle (h : v.extractLsb' 21 3 ≠ 0) : atCrew i t v size align k = .trap 0x04 (v.extractLsb' 0 21).toNat := by
  have hm : (v.extractLsb' 21 3).toNat ≠ 0 := fun e => h (BitVec.eq_of_toNat_eq e)
  simp only [atCrew, bits_word]
  rw [if_neg (Nat.not_le_of_gt hr), if_pos hm]

variable (hz : v.extractLsb' 21 3 = 0)
include hz

theorem atCrew_ok (h : AddrOk (v.extractLsb' 0 21).toNat size align) :
    atCrew i t v size align k = k (crewTile i t (v.extractLsb' 24 8).toNat) (v.extractLsb' 0 21).toNat := by
  simp only [atCrew, bits_word]
  rw [if_neg (Nat.not_le_of_gt hr), hz, if_neg (by simp), addrFault_none h]

theorem atCrew_bad (h : ¬ AddrOk (v.extractLsb' 0 21).toNat size align) :
    atCrew i t v size align k = .trap (badAddr (v.extractLsb' 0 21).toNat size) (v.extractLsb' 0 21).toNat := by
  simp only [atCrew, bits_word]
  rw [if_neg (Nat.not_le_of_gt hr), hz, if_neg (by simp), addrFault_bad h]

end

/-- A slot that checks a crew-space address traps on its rank, on its middle bits and on its offset. -/
theorem crew_traps {u s : State} {i : Instr} {b : Inflight} {l : Launch} {j : TileId} {t : Tile} {v : Word} {size align : Nat}
    {k : TileId → Nat → SlotOut}
    (h : ∀ c d, atCrew j t v size align k = .trap c d → routeH c = true → c ≠ 0x0A → TrapsFrom u i s b l c d) :
    let rank := (v.extractLsb' 24 8).toNat
    let off := (v.extractLsb' 0 21).toNat
    (t.crewN ≤ rank → TrapsFrom u i s b l 0x06 0x01) ∧
    (rank < t.crewN → v.extractLsb' 21 3 ≠ 0 → TrapsFrom u i s b l 0x04 off) ∧
    (rank < t.crewN → v.extractLsb' 21 3 = 0 → ¬ AddrOk off size align → TrapsFrom u i s b l (badAddr off size) off) :=
  ⟨fun hr => h _ _ (atCrew_rank _ _ _ _ _ _ hr) rfl (by decide),
    fun hr hm => h _ _ (atCrew_middle _ _ _ _ _ _ hr hm) rfl (by decide),
    fun hr hz hb => h _ _ (atCrew_bad _ _ _ _ _ _ hr hz hb) (badAddr_route ..).1 (badAddr_route ..).2⟩

theorem exec_ldc (pd : Line) (sa : SReg) (s : State) : exec (.ldc pd sa) s = s.runSlot "LDC" (.ldc pd sa) fun _ i t b =>
    atCrew i t (t.sreg sa) 256 16 fun j a =>
      .done (t.addEntry b (.ldc pd none)) [] { crew := [crewSend i j t (.load a t.freeEntry)] } .seq := rfl
theorem exec_stc (ps : Line) (sa : SReg) (s : State) : exec (.stc ps sa) s = s.runSlot "STC" (.stc ps sa) fun _ i t _ =>
    atCrew i t (t.sreg sa) 256 16 fun j a => readingLines t [ps]
      (.done { t with issueNo := t.issueNo + 1 } [] { crew := [crewSend i j t (.store a (t.line ps))] } .seq) := rfl

/-! ### Gathered addresses -/

/-- Lane by lane, the addresses of a gather. -/
theorem gatherAddrs_eq (t : Tile) (sa : SReg) (pb : Line) :
    gatherAddrs t sa pb = (List.range 64).map fun e => (t.sreg sa).toNat + 4 * t.lane pb e := by
  apply List.ext_getElem
  · simp [gatherAddrs]
  · intro e h _
    have he : e < 64 := by simpa [gatherAddrs] using h
    simp only [gatherAddrs, List.getElem_map, List.getElem_range, Tile.lane]
    rw [elemAt_words _ he, List.getD_eq_getElem _ _ (by simpa using he)]

theorem addrDetail_nat (a : Nat) : addrDetail a = a % 2 ^ 24 := by unfold addrDetail wrap; omega

/-- Good addresses raise no trap. -/
theorem gatherFault_none {base : Nat} {as : List Nat} (hb : base % 4 = 0) (h : ∀ a ∈ as, AddrOk (a : Nat) 4 4) : gatherFault base as = none := by
  rw [gatherFault, if_neg (not_not_intro hb), List.findSome?_eq_none_iff]
  intro a ha
  rw [addrFault_none (h a ha)]
  rfl

/-- A gather traps on a base that is no multiple of 4, else on its first bad address. -/
theorem gatherFault_first {base e : Nat} {as : List Nat} (he : e < as.length)
    (hlow : base % 4 ≠ 0 ∧ e = 0 ∨ base % 4 = 0 ∧ ∀ a ∈ as.take e, AddrOk (a : Nat) 4 4) (hbad : ¬ AddrOk (as[e] : Nat) 4 4) :
    gatherFault base as = some (.trap (if base % 4 ≠ 0 then 0x05 else badAddr as[e] 4) (as[e] % 2 ^ 24)) := by
  obtain ⟨hb, rfl⟩ | ⟨hb, hlow⟩ := hlow
  · rw [gatherFault, if_pos hb, if_pos hb, addrDetail_nat, List.headD_eq_head?_getD, List.head?_eq_getElem?, List.getElem?_eq_getElem he]
    rfl
  · rw [gatherFault, if_neg (not_not_intro hb), if_neg (not_not_intro hb), List.findSome?_eq_some_iff]
    refine ⟨as.take e, as[e], as.drop (e + 1), by simp, ?_, fun a ha => ?_⟩
    · rw [addrFault_bad hbad, Option.map_some, addrDetail_nat]
    · rw [addrFault_none (hlow a ha)]
      rfl

theorem exec_ldg (pd : Line) (sa : SReg) (pb : Line) (s : State) : exec (.ldg pd sa pb) s =
    s.runOwn "LDG" (.ldg pd sa pb) (gatherSlot sa pb [pb] fun _ as => .ldg pd as (List.replicate 64 none)) := rfl
theorem exec_stg (ps : Line) (sa : SReg) (pb : Line) (s : State) : exec (.stg ps sa pb) s =
    s.runOwn "STG" (.stg ps sa pb) (gatherSlot sa pb [ps, pb] fun t as => .stg ((t.line ps).map some) as) := rfl

/-- A slot that gathers or scatters traps on its first bad lane. -/
theorem gather_traps {s : State} {i : Instr} {b : Inflight} {l : Launch} {mn : String} {sa : SReg} {pb : Line} {ls : List Line}
    {w : Tile → List Nat → SbWork} {e : Nat} (hx : ∀ s, exec i s = s.runOwn mn i (gatherSlot sa pb ls w)) (h : s.own.At i b)
    (hh : s.own.Handles l) (hl : ∀ p ∈ ls, s.own.here.badCell p = none) (he : e < 64) :
    let base := (s.own.here.sreg sa).toNat
    let ea := base + 4 * s.own.here.lane pb e
    (base % 4 ≠ 0 ∧ e = 0 ∨ base % 4 = 0 ∧ ∀ j < e, AddrOk (base + 4 * s.own.here.lane pb j : Nat) 4 4) → ¬ AddrOk ea 4 4 →
      TrapsFrom s.own i s b l (if base % 4 ≠ 0 then 0x05 else badAddr ea 4) (ea % 2 ^ 24) := by
  intro base ea hlow hbad
  have hlen : e < (gatherAddrs s.own.here sa pb).length := by rw [gatherAddrs_eq]; simpa using he
  have hea : (gatherAddrs s.own.here sa pb)[e] = ea := by simp only [gatherAddrs_eq, List.getElem_map, List.getElem_range]; rfl
  have hfault : gatherFault base (gatherAddrs s.own.here sa pb) =
      some (.trap (if base % 4 ≠ 0 then 0x05 else badAddr ea 4) (ea % 2 ^ 24)) := by
    rw [gatherFault_first hlen ?_ (by rwa [hea]), hea]
    refine hlow.imp_right fun ⟨hb, hj⟩ => ⟨hb, fun a ha => ?_⟩
    rw [gatherAddrs_eq, ← List.map_take, List.take_range] at ha
    obtain ⟨j, hm, rfl⟩ := List.mem_map.mp ha
    exact hj j (Nat.lt_of_lt_of_le (List.mem_range.mp hm) (Nat.min_le_left _ _))
  refine runOwn_traps hx h hh ?_ ?_ ?_
  · simp only [gatherSlot, readingLines, findSome_badCell _ _ hl]
    rw [hfault]
  · split
    · rfl
    · exact (badAddr_route ..).1
  · split
    · decide
    · exact (badAddr_route ..).2

/-! ### A line with a bad cell -/

theorem keeps_fenceSite (s : State) (i : TileId) (cause : Nat) : s.Keeps (s.fenceSite i cause) := by
  unfold State.fenceSite
  split
  · exact .refl s
  next hr =>
    have hstate : ((s.noteAbove i).site i).live.state ≠ .retired := by
      rw [noteAbove_eq]
      exact hr
    exact (keeps_noteAbove s i).trans ((keeps_setState _ i (g := fun r => { r.setState .fenced with fcause := BitVec.ofNat 8 cause })
      (fun _ => rfl) (fun _ => rfl) hstate).trans ((keeps_setVerify _ i false).trans ((keeps_writeSiteNow _ i).trans
        ((keeps_tellFence _ i).trans (keeps_faultShapeless _ i.die)))))

theorem keeps_stopWith_parity (s : State) (i : TileId) : s.Keeps (s.stopWith i 1 0x0F 0 0 false false) := by
  simp only [State.stopWith, show classTile 0x0F = true from rfl, Bool.true_or, if_true, Bool.false_eq_true, if_false,
    show ¬ ((0x0F : Nat) = 0x0E) by decide]
  exact (keeps_stop s i _ _ _).trans (keeps_fenceSite _ i 0x0F)

/-- A trap of parity on the register plane keeps the turn. -/
theorem keeps_takeTrap_parity (s : State) (i : TileId) (d : Nat) (m : Byte) (pc : BitVec 16) (n : Nat) (ht : (s.tile i).k.trapped = false) :
    s.Keeps (s.takeTrap i 0x0F d m pc n) := by
  refine (keeps_setTile s i ((s.tile i).enterTrap 0x0F d m pc n)).trans ?_
  simp only [State.takeTrap, ht, show ¬ ((0x0F : Nat) = 0x0A) by decide, show routeH 0x0F = false from rfl, if_false, Bool.false_eq_true,
    Bool.false_and]
  split <;> exact keeps_stopWith_parity _ i

/-- A slot of the tile's own scratchpad that reads a bad cell stops its tile. -/
theorem runOwn_parity {s : State} {i : Instr} {b : Inflight} {mn : String} {f : SlotFn} {d : Nat} (hx : ∀ s, exec i s = s.runOwn mn i f)
    (h : s.own.At i b) (hf : f s.own s.own.focus s.own.here b = .trap 0x0F d) (ht : s.own.here.k.trapped = false) :
    StopsWith i s b 0x0F d := by
  generalize hu : s.own.setTile s.own.focus (s.own.here.atCycle (commitCycle s.own.here b)) = u
  have htile : u.tile s.own.focus = s.own.here.atCycle (commitCycle s.own.here b) := by rw [← hu, tile_setTile]
  have hout : (u.tile s.own.focus).k.trapped = false := by rw [htile]; exact ht
  have hrest := takeTrap_rests (d := d) (m := 0) (pc := b.first) (n := b.next) (inj := false) (c := 0x0F) (by decide) rfl hout
  have hfocus : (u.takeTrap s.own.focus 0x0F d 0 b.first b.next).focus = s.own.focus :=
    (keeps_takeTrap_parity u s.own.focus d 0 b.first b.next hout).focus.trans (by rw [← hu]; rfl)
  have hstop := hrest.trapStopped hout
  rw [htile] at hstop
  refine ⟨u.takeTrap s.own.focus 0x0F d 0 b.first b.next, ?_, hfocus.trans (own_focus s), ?_⟩
  · rw [exec_eq_own hx, exec_own hx, runSlot_eq h, hf, ← hrest.boundary, ← hu]
    rfl
  · show TrapStopped s.here (State.tile _ (State.focus _)) _ _ _ _ _
    rw [hfocus]
    exact hstop.of_copyq (here_own s).copyq

/-- Settles O34: a local access traps by `atAddr_bad`, a crew-space one by `crew_traps`, a gather by `gather_traps`, and a line with a bad
cell stops its tile. -/
theorem badAccessesTrap : Obligations.BadAccessesTrap := by
  intro s b l p r sa sb imm m op hh u x v disp sum cause bad crew
  have local_traps {i : Instr} {mn : String} {f : SlotFn} {ea : Int} {size align : Nat} {k : Nat → SlotOut}
      (hx : ∀ s, exec i s = s.runOwn mn i f) (hf : f u u.focus x b = atAddr ea size align k) : bad i ea size align := fun h hbad =>
    runOwn_traps hx h hh.own (hf.trans (atAddr_bad hbad k)) (badAddr_route ..).1 (badAddr_route ..).2
  refine ⟨local_traps (exec_ldl p sa imm) rfl, local_traps (exec_stl p sa imm) rfl, local_traps (exec_ldlx p sa sb) rfl,
    local_traps (exec_stlx p sa sb) rfl, local_traps (exec_ldw r sa imm) rfl, local_traps (exec_stw r sa imm) rfl,
    local_traps (exec_ldm m sa imm) rfl, local_traps (exec_stm m sa imm) rfl,
    local_traps (exec_atom op r sa .loc sb) (atomSlot_loc ..), ?_⟩
  have hv : v = s.here.sreg sa := (here_own s).sreg sa
  have hn : x.crewN = s.here.crewN := (here_own s).crewN
  refine ⟨fun h _ => ?_, fun h _ => ?_, fun h hb => ?_, fun q e i hi h hp hq he => ?_, fun c hc h hok => ?_⟩
  · rw [hv, hn]
    exact crew_traps fun c d hf hr hc => runSlot_traps h hh (exec_ldc p sa s) hf hr hc
  · rw [hv, hn]
    exact crew_traps fun c d hf hr hc => runSlot_traps h hh (exec_stc p sa s) hf hr hc
  · refine crew_traps (j := u.focus) (t := x) (v := v)
      (k := fun j a => .send (crewSend u.focus j x (.atom a op (x.sreg sb) (x.sreg r)))) fun c d hf hr hc =>
        runOwn_traps (exec_atom op r sa .crew sb) h hh.own ?_ hr hc
    simp only [atomSlot, hb]
    exact hf
  · obtain rfl | rfl := hi
    · exact gather_traps (exec_ldg p sa q) h hh.own (by simpa using hq) he
    · exact gather_traps (exec_stg p sa q) h hh.own (by simpa using ⟨hp, hq⟩) he
  · refine runOwn_parity (exec_stl p sa imm) h ?_ hh.own.outside
    refine (atAddr_ok hok _).trans ?_
    have hfound : [p].findSome? s.own.here.badCell = some c := by rw [List.findSome?_cons, show s.own.here.badCell p = some c from hc]
    simp only [readingLines, hfound, parityTrap]

end Sys2Proof.Machine
end

section
namespace Sys2Proof.Machine

/-! ## Entries of the scoreboard (R73) -/

/-- While an entry is free, the number given is one that no entry has. -/
theorem freeEntry_free {t : Tile} (h : t.sb.length < 16) : ∀ e ∈ t.sb, e.num ≠ t.freeEntry := by
  unfold Tile.freeEntry
  split
  next n hn =>
    have hlt : n < 16 := List.mem_range.mp (List.mem_of_find?_eq_some hn)
    have hno := List.find?_some hn
    simp only [Bool.not_eq_true', List.any_eq_false, beq_iff_eq] at hno
    rintro e he rfl'
    exact hno e he (by rw [rfl', BitVec.toNat_ofNat]; exact Nat.mod_eq_of_lt hlt)
  next hn =>
    have hsub : List.range 16 ⊆ t.sb.map fun e => e.num.toNat := fun n hm => by
      have hall := List.find?_eq_none.mp hn n hm
      simpa using hall
    have hle := (List.nodup_range.subperm hsub).length_le
    simp only [List.length_range, List.length_map] at hle
    omega

/-- A slot that adds an entry to the scoreboard takes it under a free number. -/
theorem takesEntry_of_commits {u s : State} {i : Instr} {b : Inflight} {w : SbWork} (h : CommitsFrom u i s (u.here.addEntry b w)) :
    TakesEntry u i s w := ⟨u.here.freeEntry, commitCycle u.here b, freeEntry_free, h⟩

/-- An entry that may write back is the one found. -/
theorem entry?_of_pends {t : Tile} {n : BitVec 4} {ent : SbEntry} (h : t.Pends n ent) : t.entry? n = some ent := by
  have hturn : (t.sb.any fun y => y.before ent) = false := List.any_eq_false.mpr fun q hq => by rw [h.turn q hq]; decide
  simp only [Tile.entry?, h.outside, h.found, hturn, h.reached]
  rfl

theorem commitsOn_backDone {s : State} {f : TileId} {i : Instr} {y z : Tile} (h : exec i s = .next (s.backDone f z)) (hd : z.data = y.data) :
    CommitsOn f i s y := by
  refine ⟨_, h, onlyTile_setTile .., ?_⟩
  rw [State.backDone, tile_setTile]
  exact hd

theorem extraCycles_length : ∀ (xs : List Nat) (c : Nat), (extraCycles c xs).length = xs.sum
  | [], _ => rfl
  | x :: xs, c => by simp [extraCycles, extraCycles_length xs]

/-- What an LDG or STG that has written back leaves, the conflicts of its groups counted. -/
theorem data_countRest (t : Tile) {e : SbEntry} {as : List Nat} (c : Nat)
    (hw : (∃ pd tk, e.work = .ldg pd as tk) ∨ ∃ ws, e.work = .stg ws as) :
    ((t.countRest e c).entryDone e c).data = ({ t.addBconf (groupConflicts t.k as - e.paid) with sb := t.sb.erase e } : Tile).data := by
  have hslow : t.slowCycles e c = extraCycles (e.cycle + 1) ((laneGroups t.k as).map conflictCycles) := by
    obtain ⟨pd, tk, hw⟩ | ⟨ws, hw⟩ := hw <;> rw [Tile.slowCycles, hw]
  have hmatrix : e.isMatrix = false := by
    obtain ⟨pd, tk, hw⟩ | ⟨ws, hw⟩ := hw <;> rw [SbEntry.isMatrix, hw]
  have hlen : ((t.slowCycles e c).drop e.paid).length = groupConflicts t.k as - e.paid := by
    rw [List.length_drop, hslow, extraCycles_length]
    rfl
  simp only [Tile.countRest, hmatrix, hlen]
  rfl

/-! ## LDG and STG at the slot (R172) -/

/-- A gather with good lines and addresses takes its entry. -/
theorem gather_takes {s : State} {i : Instr} {b : Inflight} {mn : String} {sa : SReg} {pb : Line} {ls : List Line}
    {w : Tile → List Nat → SbWork} (hx : ∀ s, exec i s = s.runOwn mn i (gatherSlot sa pb ls w)) (h : s.own.At i b)
    (hl : ∀ p ∈ ls, s.own.here.badCell p = none) (hbase : (s.own.here.sreg sa).toNat % 4 = 0)
    (has : ∀ a ∈ gatherAddrs s.own.here sa pb, AddrOk (a : Nat) 4 4) :
    TakesEntry s.own i s (w s.own.here (gatherAddrs s.own.here sa pb)) := by
  refine takesEntry_of_commits (b := b) (commitsOwn_of_commits hx (readingLines_commits h (exec_own hx s) hl ?_ rfl rfl))
  simp only [gatherSlot, gatherFault_none hbase has]

/-! ## Their write-backs (R172, R431) -/

/-- A byte that a gather brings: of the word that the lane has, else of the scratchpad. -/
def Tile.gathered (x : Tile) (as : List Nat) (tk : List (Option Word)) (e : Nat) : Byte :=
  match tk.getD (e / 4) none with
  | some w => w.extractLsb' (8 * (e % 4)) 8
  | none => x.byteAt (as.getD (e / 4) 0 + e % 4)

/-- The words of a gather, byte for byte. -/
theorem gathered_words (x : Tile) {as : List Nat} {tk : List (Option Word)} (ha : as.length = 64) (ht : tk.length = 64) :
    let ws := (as.zip tk).map fun p => p.2.getD (x.spadWord p.1)
    ws.length = 64 ∧ ∀ e, e < 256 → (ws.getD (e / 4) 0).extractLsb' (8 * (e % 4)) 8 = x.gathered as tk e := by
  intro ws
  have hlen : ws.length = 64 := by simp [ws, ha, ht]
  refine ⟨hlen, fun e he => ?_⟩
  have hj : e / 4 < 64 := by omega
  have hword : ws.getD (e / 4) 0 = (tk.getD (e / 4) none).getD (x.spadWord (as.getD (e / 4) 0)) := by
    rw [List.getD_eq_getElem ws _ (by omega), List.getD_eq_getElem tk _ (by omega), List.getD_eq_getElem as _ (by omega), List.getElem_map,
      List.getElem_zip]
  rw [hword, Tile.gathered]
  cases tk.getD (e / 4) none with
  | some w => rfl
  | none => exact byte_of_getRange _ _ (by omega) (by decide)

theorem ldgWriteback_commits {s : State} {f : TileId} {n : BitVec 4} {ent : SbEntry} {pd : Line} {as : List Nat} {tk : List (Option Word)}
    (h : (s.tile f).Pends n ent) (hw : ent.work = .ldg pd as tk) (ha : as.length = 64) (ht : tk.length = 64) :
    ∃ y, CommitsOn f (.ldgWriteback f n) s
        { y.addBconf (groupConflicts (s.tile f).k as - ent.paid) with sb := (s.tile f).sb.erase ent } ∧
      LineWritten (s.tile f) y pd 8 (fun e => some ((s.tile f).gathered as tk e).toNat) 0 := by
  obtain ⟨hl, hb⟩ := gathered_words (s.tile f) ha ht
  generalize hws : (as.zip tk).map (fun p => p.2.getD ((s.tile f).spadWord p.1)) = ws at hl hb
  have hdata := data_countRest ((s.tile f).setLine pd ws) ((s.tile f).backCycle f ent) (.inl ⟨pd, tk, hw⟩)
  refine ⟨(s.tile f).setLine pd ws, commitsOn_backDone ?_ hdata, lineWritten_setLine_bytes _ pd hl hb⟩
  show execLdgWriteback f n s = _
  simp only [execLdgWriteback, entry?_of_pends h, hw, hws]

theorem scatter_eq (n : Nat) : ∀ (ps : List (Nat × Word)) (t : Tile), (t.scatter n ps).spad = overlay t.spad ps ∧
    { t.scatter n ps with spad := t.spad, raced := t.raced } = t
  | [], _ => ⟨rfl, rfl⟩
  | (a, w) :: ps, t => by
    obtain ⟨hs, hr⟩ := scatter_eq n ps (t.setSpadBy (some n) a (bytesOfNat 4 w.toNat))
    exact ⟨hs, congrArg (fun y : Tile => { y with spad := t.spad, raced := t.raced }) hr⟩

theorem overlay_append : ∀ (ps qs : List (Nat × Word)) (m : Cells Byte), overlay m (ps ++ qs) = overlay (overlay m ps) qs
  | [], _, _ => rfl
  | (_, _) :: ps, qs, _ => overlay_append ps qs _

/-- A word reads back where no later one covers it. -/
theorem get_overlay_last {a k : Nat} {w : Word} {ps qs : List (Nat × Word)} (m : Cells Byte) (hk : k < 4)
    (h : ∀ p ∈ qs, ¬ (p.1 ≤ a + k ∧ a + k < p.1 + 4)) : Cells.get 0 (overlay m (ps ++ (a, w) :: qs)) (a + k) = w.extractLsb' (8 * k) 8 := by
  rw [overlay_append, overlay, get_overlay_off _ _ h, get_setRange_getD, Laws.length_bytesOfNat, if_pos (by omega), Nat.add_sub_cancel_left,
    getD_bytesOfNat_word w hk]

theorem mem_lanesLeft_index {as : List Nat} {ws : List (Option Word)} {p : Nat × Word} (h : p ∈ lanesLeft as ws) :
    ∃ j, j < as.length ∧ as.getD j 0 = p.1 ∧ ws.getD j none = some p.2 := by
  obtain ⟨j, hj, hp⟩ := List.mem_iff_getElem.mp (mem_lanesLeft.mp h)
  have hlen : j < as.length ∧ j < ws.length := by simpa using hj
  obtain ⟨h1, h2⟩ := Prod.mk.inj ((List.getElem_zip ..).symm.trans hp)
  exact ⟨j, hlen.1, by rw [List.getD_eq_getElem _ _ hlen.1, h1], by rw [List.getD_eq_getElem _ _ hlen.2, h2]⟩

theorem lanesLeft_append (as bs : List Nat) (ws vs : List (Option Word)) (h : as.length = ws.length) :
    lanesLeft (as ++ bs) (ws ++ vs) = lanesLeft as ws ++ lanesLeft bs vs := by
  rw [lanesLeft, List.zip_append h, List.filterMap_append]
  rfl

/-- The words that are left, split at a lane. -/
theorem lanesLeft_split {as : List Nat} {ws : List (Option Word)} {j : Nat} {w : Word} (hl : ws.length = as.length) (hj : j < as.length)
    (hw : ws.getD j none = some w) : lanesLeft as ws =
      lanesLeft (as.take j) (ws.take j) ++ (as.getD j 0, w) :: lanesLeft (as.drop (j + 1)) (ws.drop (j + 1)) := by
  have hj' : j < ws.length := hl ▸ hj
  rw [List.getD_eq_getElem _ _ hj'] at hw
  conv_lhs => rw [← List.take_append_drop j as, ← List.take_append_drop j ws, List.drop_eq_getElem_cons hj, List.drop_eq_getElem_cons hj', hw]
  rw [lanesLeft_append _ _ _ _ (by simp [hl]), List.getD_eq_getElem _ _ hj]
  rfl

theorem stgWriteback_commits {s : State} {f : TileId} {n : BitVec 4} {ent : SbEntry} {as : List Nat} {ws : List (Option Word)}
    (h : (s.tile f).Pends n ent) (hw : ent.work = .stg ws as) : CommitsOn f (.stgWriteback f n) s
      { ((s.tile f).scatter ent.seqNo (lanesLeft as ws)).addBconf (groupConflicts (s.tile f).k as - ent.paid) with
        sb := (s.tile f).sb.erase ent } := by
  have hframe := (scatter_eq ent.seqNo (lanesLeft as ws) (s.tile f)).2
  have hk : ((s.tile f).scatter ent.seqNo (lanesLeft as ws)).k = (s.tile f).k := (congrArg Tile.k hframe :)
  have hsb : ((s.tile f).scatter ent.seqNo (lanesLeft as ws)).sb = (s.tile f).sb := (congrArg Tile.sb hframe :)
  have hdata := data_countRest ((s.tile f).scatter ent.seqNo (lanesLeft as ws)) ((s.tile f).backCycle f ent) (.inr ⟨ws, hw⟩)
  rw [hk, hsb] at hdata
  refine commitsOn_backDone ?_ hdata
  show execStgWriteback f n s = _
  simp only [execStgWriteback, entry?_of_pends h, hw]

/-- Settles O35: the slots by `gather_takes`, the gather's line by `gathered_words`, and the scattered words by `overlay`, where the last
word over a byte wins. -/
theorem gathersAndScattersThroughTheScoreboard : Obligations.GathersAndScattersThroughTheScoreboard := by
  refine ⟨fun s b p sa pb => ?_, fun s f n ent as h => ?_⟩
  · intro u x as hbase has hpb
    rw [show as = gatherAddrs x sa pb from (gatherAddrs_eq x sa pb).symm] at has ⊢
    exact ⟨fun h => gather_takes (exec_ldg p sa pb) h (by simpa using hpb) hbase has,
      fun h hp => gather_takes (exec_stg p sa pb) h (by simpa using ⟨hp, hpb⟩) hbase has⟩
  · intro x done
    refine ⟨fun pd tk hw ha ht => ldgWriteback_commits h hw ha ht, fun ws hl hw => ?_⟩
    obtain ⟨hspad, hframe⟩ := scatter_eq ent.seqNo (lanesLeft as ws) x
    refine ⟨x.scatter ent.seqNo (lanesLeft as ws), stgWriteback_commits h hw, hframe, fun c hno => ?_, fun j k w hj hk hw' hlast => ?_⟩
    · rw [Tile.byteAt, hspad]
      refine get_overlay_off _ _ fun p hp hc => ?_
      obtain ⟨j, hj, ha, hv⟩ := mem_lanesLeft_index hp
      exact hno j hj ⟨by rw [hv]; rfl, ha ▸ hc⟩
    · rw [Tile.byteAt, hspad, lanesLeft_split hl hj hw']
      refine get_overlay_last _ hk fun p hp hc => ?_
      obtain ⟨g, hg, ha, hv⟩ := mem_lanesLeft_index hp
      rw [List.length_drop] at hg
      rw [List.getD_eq_getElem?_getD, List.getElem?_drop, ← List.getD_eq_getElem?_getD] at ha hv
      exact hlast (j + 1 + g) (by omega) (by omega) ⟨by rw [hv]; rfl, ha ▸ hc⟩

end Sys2Proof.Machine
end

section
namespace Sys2Proof.Machine

/-! ## Crew-space accesses sent (R174, R175, R179) -/

/-- The access that a slot of a tile sends to a rank of its crew. -/
def State.crewAccess (s : State) (v : Word) (c : CrewOp) : CrewAccess :=
  crewSend s.focus (crewTile s.focus s.here (v.extractLsb' 24 8).toNat) s.here c

section
variable {s : State} {b : Inflight} {p : Line} {sa : SReg} {v : Word} (hv : s.here.sreg sa = v)
  (hr : (v.extractLsb' 24 8).toNat < s.here.crewN) (hz : v.extractLsb' 21 3 = 0) (hok : AddrOk (v.extractLsb' 0 21).toNat 256 16)
include hv hr hz hok

theorem stc_sends (h : s.At (.stc p sa) b) (hp : s.here.badCell p = none) : Sends (.stc p sa) s { s.here with issueNo := s.here.issueNo + 1 } []
    [s.crewAccess v (.store (v.extractLsb' 0 21).toNat (s.here.line p))] := by
  obtain ⟨t, hnext, hothers, hfocus, hdata⟩ := runSlot_sends h "STC" (y := { s.here with issueNo := s.here.issueNo + 1 })
    (e := { crew := [s.crewAccess v (.store (v.extractLsb' 0 21).toNat (s.here.line p))] }) (fl := .seq)
    (f := fun _ i t _ => atCrew i t (t.sreg sa) 256 16 fun j a => readingLines t [p]
      (.done { t with issueNo := t.issueNo + 1 } [] { crew := [crewSend i j t (.store a (t.line p))] } .seq))
    (by simp only [hv, atCrew_ok _ _ _ _ _ _ hr hz hok, readingLines, findSome_badCell _ [p] (by simpa using hp)]; rfl)
    h.leaf h.goes (by simp) (by simp) rfl rfl
  exact ⟨t, hnext, hothers, by rw [State.here, hfocus]; exact hdata⟩

theorem ldc_sends (h : s.At (.ldc p sa) b) : Sends (.ldc p sa) s (s.here.addEntry b (.ldc p none)) []
    [s.crewAccess v (.load (v.extractLsb' 0 21).toNat s.here.freeEntry)] := by
  obtain ⟨t, hnext, hothers, hfocus, hdata⟩ := runSlot_sends h "LDC" (y := s.here.addEntry b (.ldc p none))
    (e := { crew := [s.crewAccess v (.load (v.extractLsb' 0 21).toNat s.here.freeEntry)] }) (fl := .seq)
    (f := fun _ i t b => atCrew i t (t.sreg sa) 256 16 fun j a =>
      .done (t.addEntry b (.ldc p none)) [] { crew := [crewSend i j t (.load a t.freeEntry)] } .seq)
    (by simp only [hv, atCrew_ok _ _ _ _ _ _ hr hz hok]; rfl)
    h.leaf h.goes (by simp) (by simp) rfl rfl
  exact ⟨t, hnext, hothers, by rw [State.here, hfocus]; exact hdata⟩

end

/-- Performing its own accesses does not change what a tile sends. -/
theorem crewAccess_own (s : State) (v : Word) (c : CrewOp) : s.own.crewAccess v c = s.crewAccess v c := by
  have h := here_own s
  simp only [State.crewAccess, crewSend, crewTile, own_focus, h.act, h.pt, h.issueNo]

/-- A CREW ATOM is sent, and its slot waits (R179). -/
theorem crewAtom_sent {s : State} {b : Inflight} {op : AtomOp} {sd sa sb : SReg} {v : Word} (h : s.own.At (.atom op sd sa .crew sb) b)
    (hv : s.own.here.sreg sa = v) (hr : (v.extractLsb' 24 8).toNat < s.own.here.crewN) (hz : v.extractLsb' 21 3 = 0)
    (hok : AddrOk (v.extractLsb' 0 21).toNat 4 4) (hb : b.atomBack = none) : exec (.atom op sd sa .crew sb) s =
      .next { s.own.setTile s.own.focus { s.own.here with
          inflight := some { b with atomSent := true }, cutHere := s.own.here.cutHere || s.own.here.cutReq.isSome } with
        crew := s.own.crew ++
          [s.own.crewAccess v (.atom (v.extractLsb' 0 21).toNat op (s.own.here.sreg sb) (s.own.here.sreg sd))] } := by
  have hslot : atomSlot op sd sa .crew sb s.own s.own.focus s.own.here b =
      .send (s.own.crewAccess v (.atom (v.extractLsb' 0 21).toNat op (s.own.here.sreg sb) (s.own.here.sreg sd))) := by
    simp only [atomSlot, hb, hv, atCrew_ok _ _ _ _ _ _ hr hz hok]
    rfl
  rw [exec_eq_own (exec_atom op sd sa .crew sb), exec_own (exec_atom op sd sa .crew sb), runSlot_eq h, hslot]
  refine congrArg Host.Outcome.next (boundary_id _ _ ?_ ?_)
  · exact (congrArg Tile.leafTrap (tile_setTile ..)).trans h.leaf
  · exact (congrArg Tile.stopReq (tile_setTile ..)).trans h.goes

end Sys2Proof.Machine
end

section
namespace Sys2Proof.Machine

/-! ## Crew-space accesses performed (R170, R175, R180) -/

theorem getD_bytesOfNat_ofNat (n : Nat) {j : Nat} (hj : j < 4) : (bytesOfNat 4 n).getD j 0 = (BitVec.ofNat 32 n).extractLsb' (8 * j) 8 := by
  apply BitVec.eq_of_getLsbD_eq
  intro i hi
  rw [getD_bytesOfNat 4 n j hj, BitVec.getLsbD_extractLsb', decide_eq_true hi, Bool.true_and, BitVec.getLsbD_ofNat, BitVec.getLsbD_ofNat,
    decide_eq_true hi, decide_eq_true (by omega : 8 * j + i < 32), Nat.testBit_div_two_pow, Nat.add_comm]

/-- A tile that waits for its CREW ATOM accesses nothing besides. -/
theorem slotDepth_sent {x : Tile} {b : Inflight} (hb : x.inflight = some b) (hs : b.atomSent = true) : x.slotDepth = 0 := by
  have hh : x.horizon = none := by rw [Tile.horizon, hb]; simp [hs]
  rw [Tile.slotDepth, hh]
  rfl

theorem meetCrew_inflight {x : Tile} (h : x.slotDepth = 0) (i : TileId) (own crew : Nat) : (x.meetCrew i own crew).inflight = x.inflight := by
  obtain ⟨p, q, r, hm⟩ := meet_eq x i x.stands own ((x.rivals x.stands).sum + x.slotDepth + crew)
  simp only [Tile.meetCrew, if_pos h, hm]

theorem atomAnswered_eq {y : Tile} {b : Inflight} (hb : y.inflight = some b) (hs : b.atomSent = true) (m : Word) :
    y.atomAnswered m = { y with inflight := some { b with atomBack := some m } } := by
  rw [Tile.atomAnswered, hb]
  exact if_pos hs

section
variable {a : CrewAccess}

theorem storeAt_stored (x : Tile) (ad : Nat) {n : Nat} {bs : List Byte} {f : Nat → Byte} (hn : bs.length = n)
    (hf : ∀ j, j < n → bs.getD j 0 = f j) : SpadStored x (a.storeAt x ad bs) ad n f := by
  unfold CrewAccess.storeAt
  split
  · exact spadStored_ownStoreAt x a.seqNo ad hn hf
  · exact spadStored_setSpad x ad hn hf

theorem storeAt_inflight (x : Tile) (ad : Nat) (bs : List Byte) : (a.storeAt x ad bs).inflight = x.inflight := by
  unfold CrewAccess.storeAt; split <;> rfl

theorem storeAt_sb (h : a.src ≠ a.dst) (x : Tile) (ad : Nat) (bs : List Byte) : (a.storeAt x ad bs).sb = x.sb := by
  rw [CrewAccess.storeAt, if_neg h]
  rfl

/-- The scratchpad as an access finds it: its own tile's after that tile's earlier accesses (R257). -/
def CrewAccess.finds (a : CrewAccess) (x : Tile) : Cells Byte := if a.src = a.dst then x.viewAt a.seqNo else x.spad

theorem bytesAt_eq (x : Tile) (ad n : Nat) : a.bytesAt x ad n = Cells.getRange 0 (a.finds x) ad n := by
  unfold CrewAccess.bytesAt CrewAccess.finds
  split <;> rfl

/-- The word that an atomic finds. -/
def CrewAccess.wordAt (a : CrewAccess) (x : Tile) (ad : Nat) : Word := BitVec.ofNat 32 (natOfBytes (a.bytesAt x ad 4))

theorem byte_wordAt (x : Tile) (ad : Nat) {j : Nat} (hj : j < 4) :
    (a.wordAt x ad).extractLsb' (8 * j) 8 = Cells.get 0 (a.finds x) (ad + j) := by
  rw [CrewAccess.wordAt, bytesAt_eq]
  exact byte_of_getRange _ _ hj (by decide)

theorem words_bytesAt (x : Tile) (ad : Nat) : (wordsOfBytes (a.bytesAt x ad 256)).length = 64 ∧ ∀ j, j < 256 →
    ((wordsOfBytes (a.bytesAt x ad 256)).getD (j / 4) 0).extractLsb' (8 * (j % 4)) 8 = Cells.get 0 (a.finds x) (ad + j) := by
  rw [bytesAt_eq]
  exact words_of_getRange _ _

/-- A stored line is the bytes of its words. -/
theorem storeAt_line (x : Tile) (ad : Nat) {ws : List Word} (hw : ws.length = 64) :
    SpadStored x (a.storeAt x ad (bytesOfWords ws)) ad 256 fun j => (ws.getD (j / 4) 0).extractLsb' (8 * (j % 4)) 8 :=
  storeAt_stored x ad (by rw [bytesOfWords_length, hw]) fun j _ => getD_bytesOfWords ws j

/-- A stored word, low byte first. -/
theorem storeAt_word (x : Tile) (ad n : Nat) :
    SpadStored x (a.storeAt x ad (bytesOfNat 4 n)) ad 4 fun j => (BitVec.ofNat 32 n).extractLsb' (8 * j) 8 :=
  storeAt_stored x ad (Laws.length_bytesOfNat ..) fun _ hj => getD_bytesOfNat_ofNat n hj

variable {s : State}

theorem tile_met (y : Tile) (own : Nat) : (s.met a y own).tile a.dst = y.meetCrew a.dst own (s.crewDepth a.dst) := tile_setTile ..

theorem tile_met_ne {j : TileId} (h : j ≠ a.dst) (y : Tile) (own : Nat) : (s.met a y own).tile j = s.tile j := tile_setTile_ne s _ h

/-- An access moves its sender and its target alone. -/
theorem performCrew_others {j : TileId} (hs : j ≠ a.src) (hd : j ≠ a.dst) : (s.performCrew a).tile j = s.tile j := by
  cases h : (s.tile a.dst).serves a.handle with
  | false => rw [performCrew_lost h]
  | true =>
    cases ho : a.op with
    | store ad ws => rw [performCrew_store h ho, tile_met_ne hd]
    | load ad n => rw [performCrew_load h ho, tile_setTile_ne _ _ hs, tile_met_ne hd]
    | atom ad op v c => rw [performCrew_atom h ho rfl, tile_setTile_ne _ _ hs, tile_met_ne hd]

/-- The arrival of the first access on its way between two tiles. -/
theorem exec_crewAccessArrival {i : Nat} (ha : s.crew[i]? = some a) (hfirst : ∀ e ∈ s.crew.take i, ¬ (e.src = a.src ∧ e.dst = a.dst)) :
    exec (.crewAccessArrival i) s = .next ((State.performCrew { s with crew := s.crew.eraseIdx i } a).freed a.src [.fence]) := by
  have hnone : ((s.crew.take i).any fun x => x.src == a.src && x.dst == a.dst) = false :=
    List.any_eq_false.mpr fun e he => by simpa using hfirst e he
  show execCrewAccessArrival i s = _
  simp only [execCrewAccessArrival, ha, hnone]
  rfl

end

/-! ## Answers (R175, R179) -/

theorem ldcWriteback_commits {s : State} {f : TileId} {n : BitVec 4} {ent : SbEntry} {pd : Line} {ws : List Word} (h : (s.tile f).Pends n ent)
    (hw : ent.work = .ldc pd (some ws)) :
    CommitsOn f (.ldcWriteback f n) s { (s.tile f).setLine pd ws with sb := (s.tile f).sb.erase ent } := by
  refine commitsOn_backDone (z := ((s.tile f).setLine pd ws).entryDone ent ((s.tile f).backCycle f ent)) ?_ rfl
  show execLdcWriteback f n s = _
  simp only [execLdcWriteback, entry?_of_pends h, hw]

theorem crewAtomReturn_commits {s : State} {f : TileId} {b : Inflight} {m : Word} {op : AtomOp} {sd sa sb : SReg}
    (hb : (s.tile f).inflight = some b) (hsent : b.atomSent = true) (hback : b.atomBack = some m) (hflags : b.flagsDue = 0)
    (hhold : b.hold = none) (hword : b.words[b.next]?.map decodeSlot = some (.ok (.atom op sd sa .crew sb)))
    (hleaf : (s.tile f).leafTrap = none) (hstop : (s.tile f).stopReq = false)
    (hruns : (s.tile f).k.trapped = true → handlerFault (s.tile f) (.atom op sd sa .crew sb) = none)
    (hcut : s.cutDue (s.tile f).pt.handle = false) : CommitsOn f (.crewAtomReturn f) s ((s.tile f).setS sd m) := by
  generalize hx : ({ s.tile f with inflight := some { b with atomSent := false }, movedAt := s.time } : Tile) = x
  obtain ⟨w, hw, -⟩ := Option.map_eq_some_iff.mp hword
  have hnext : b.next < b.words.length := (List.getElem?_eq_some_iff.mp hw).1
  have hready : ({ b with atomSent := false } : Inflight).ready = true := by simp [Inflight.ready, hflags, hhold, hnext]
  have hrun := runSlotOn_eq (s := s.setTile f x) (i := f) (b := { b with atomSent := false }) (ins := .atom op sd sa .crew sb)
    (by rw [tile_setTile, ← hx]) hready (by rw [tile_setTile, ← hx]; exact hruns) "CREW_ATOM_RETURN" (atomSlot op sd sa .crew sb)
  obtain ⟨z, hz, hdata⟩ := finishSlot_keep (s.setTile f x) f { b with atomSent := false } x.k.trapped (x.setS sd m)
    (by rw [setS_leafTrap, ← hx]; exact hleaf) (by rw [setS_stopReq, ← hx]; exact hstop)
  refine ⟨s.setTile f z, ?_, onlyTile_setTile .., ?_⟩
  · show execCrewAtomReturn f s = _
    simp only [execCrewAtomReturn, hb, hback, hword, hsent, hcut, Bool.not_false, Bool.and_self, if_true]
    rw [← hback, hx]
    rw [tile_setTile] at hrun
    refine hrun.trans (congrArg Host.Outcome.next ?_)
    rw [show atomSlot op sd sa .crew sb (s.setTile f x) f x { b with atomSent := false } = .keep (x.setS sd m) by
      simp only [atomSlot, hback]; rfl, hz, setTile_setTile]
  · rw [tile_setTile, hdata, ← hx]
    unfold Tile.setS
    split <;> rfl

/-- Settles O36: sending by `stc_sends`, `ldc_sends` and `crewAtom_sent`, arrivals by the equations of `State.performCrew`, answers by the
two lemmas before. -/
theorem crewAccessesArePerformedAtTheirTarget : Obligations.CrewAccessesArePerformedAtTheirTarget := by
  refine ⟨fun s b p sd sa sb op => ?_, fun s i a ha hfirst => ?_, fun s f => ?_⟩
  · intro x v rank off target access hr hz
    have hu := here_own s
    refine ⟨fun h hok hp => stc_sends rfl hr hz hok h hp,
      fun h hok => ⟨x.freeEntry, commitCycle x b, freeEntry_free, ldc_sends rfl hr hz hok h⟩, fun h hok hb => ?_⟩
    rw [crewAtom_sent h (hu.sreg sa) (by rwa [hu.crewN]) hz hok hb, crewAccess_own, own_focus, hu.sreg sb, hu.sreg sd]
    rfl
  · intro x rest freed meets line filled
    have hserved := performCrew_served rest a
    rw [exec_crewAccessArrival ha hfirst]
    refine ⟨fun h => ?_, fun h hsame => ?_, fun h hne => ⟨_, rfl, hserved.rest, fun j hs hd => performCrew_others hs hd, ?_, ?_, ?_⟩⟩
    · exact congrArg (fun t => Host.Outcome.next (freed t)) (performCrew_lost (s := rest) h)
    · have hfinds : a.finds x = x.viewAt a.seqNo := if_pos hsame
      refine ⟨_, rfl, hserved.rest, fun j hd => performCrew_others (hsame ▸ hd) hd, fun ad ws ho hw => ?_, fun ad n ho => ?_,
        fun ad op v c b ho hb hsent => ?_⟩
      · exact ⟨_, by rw [performCrew_store (s := rest) h ho, tile_met]; rfl, storeAt_line x ad hw⟩
      · obtain ⟨hl, hbytes⟩ := words_bytesAt (a := a) x ad
        rw [hfinds] at hbytes
        refine ⟨_, hl, hbytes, ?_⟩
        rw [performCrew_load (s := rest) h ho, hsame, tile_setTile, tile_met]
        rfl
      · refine ⟨a.wordAt x ad, _, fun j hj => by rw [byte_wordAt x ad hj, hfinds], storeAt_word (a := a) x ad _, ?_⟩
        rw [performCrew_atom (s := rest) (m := a.wordAt x ad) h ho rfl, hsame, tile_setTile, tile_met]
        refine atomAnswered_eq ?_ hsent _
        have hy : (a.storeAt x ad (bytesOfNat 4 (atomNew 32 op (a.wordAt x ad).toNat v.toNat c.toNat))).inflight = some b :=
          (storeAt_inflight ..).trans hb
        exact (meetCrew_inflight (slotDepth_sent hy hsent) ..).trans hy
    · intro ad ws ho hw
      rw [performCrew_store (s := rest) h ho]
      exact ⟨tile_met_ne hne .., _, tile_met .., storeAt_sb hne .., storeAt_line x ad hw⟩
    · intro ad n ho
      obtain ⟨hl, hbytes⟩ := words_bytesAt (a := a) x ad
      rw [show a.finds x = x.spad from if_neg hne] at hbytes
      rw [performCrew_load (s := rest) h ho]
      refine ⟨by rw [tile_setTile_ne _ _ hne.symm, tile_met]; rfl, _, hl, hbytes, ?_⟩
      rw [tile_setTile, tile_met_ne hne]
      rfl
    · intro ad op v c b ho hb hsent
      refine ⟨a.wordAt x ad, fun j hj => ?_, ?_, _, ?_, storeAt_sb hne .., storeAt_word (a := a) x ad _⟩
      · rw [byte_wordAt x ad hj, show a.finds x = x.spad from if_neg hne]
        rfl
      · rw [performCrew_atom (s := rest) (m := a.wordAt x ad) h ho rfl, tile_setTile, tile_met_ne hne]
        exact atomAnswered_eq hb hsent _
      · rw [performCrew_atom (s := rest) (m := a.wordAt x ad) h ho rfl, tile_setTile_ne _ _ hne.symm, tile_met]
        rfl
  · intro x
    refine ⟨fun n ent pd ws h hw hl => ⟨x.setLine pd ws, ldcWriteback_commits h hw, lineWritten_setLine_words x pd hl⟩, ?_⟩
    intro b m op sd sa sb hb hsent hback hflags hhold hword hleaf hstop hruns hcut
    exact crewAtomReturn_commits hb hsent hback hflags hhold hword hleaf hstop hruns hcut

end Sys2Proof.Machine
end

section
namespace Sys2Proof.Machine

/-! ## Slots that raise copy writes (R264) -/

/-- The state in which a slot has performed a tile's copy writes at a scope, if it does. -/
def State.raised (s : State) (i : TileId) (crew : List TileId) : Option Nat → State
  | some n => s.raiseCopies i crew n
  | none => s

/-- A slot that commits leaves its bundle in flight or ends it; neither shows in the tile's data. -/
theorem commit_data (s : State) (i : TileId) (c : Inflight) (w : Bool) {x : Tile} (hl : x.leafTrap = none) (hg : x.stopReq = false) :
    ∃ z, (if c.next + 1 < c.words.length then s.setTile i { x with inflight := some { c with next := c.next + 1, atomBack := none } }
        else (s.setTile i { s.openWindow i (x.endBundle c .seq w) with movedAt := s.time }).afterBundle i .seq) = s.setTile i z ∧
      z.data = x.data := by
  split
  · exact ⟨_, rfl, rfl⟩
  · refine ⟨_, afterBundle_setTile _ _ _ _ ?_ ?_ (by simp), ?_⟩
    · exact (openWindow_leafTrap ..).trans hl
    · exact (openWindow_stopReq ..).trans hg
    · rw [data_movedAt, data_openWindow, data_endBundle _ _ _ _ (by simp)]

/-- A slot of any tile that commits and goes on, its accesses counted and its copy writes raised. -/
theorem finishSlot_goes (s : State) (i : TileId) (b : Inflight) (w : Bool) (y : Tile) (accs : List (Nat × Nat)) (r : Option Nat)
    (hl : y.leafTrap = none) (hg : y.stopReq = false) :
    ∃ z, s.finishSlot i b w (.done y accs { raise := r } .seq) = (s.raised i ((s.share i b y accs).crewTiles i) r).setTile i z ∧
      z.data = (s.share i b y accs).data := by
  have hdata (u : State) := commit_data u i (s.shared i b y accs) w ((share_leafTrap s i b y accs).trans hl)
    ((share_stopReq s i b y accs).trans hg)
  cases r with
  | none => simpa only [State.finishSlot, State.commitSlot, State.raised, List.isEmpty_nil, if_true, List.append_nil] using hdata s
  | some n =>
    simpa only [State.finishSlot, State.commitSlot, State.raised, List.isEmpty_nil, if_true, List.append_nil] using
      hdata (s.raiseCopies i ((s.share i b y accs).crewTiles i) n)

/-! ## FENCE (R186) -/

/-- What a FENCE of a kind waits for is done. -/
def State.FenceDone (s : State) (f : TileId) (kind : FenceKind) : Prop :=
  (kind ≠ .cp → (∀ c ∈ s.crew, c.src ≠ f) ∧ ∀ e ∈ (s.tile f).sb, e.isLdc = false ∧ e.isLdg = false ∧ e.isStg = false) ∧
  (kind ≠ .sp → (s.tile f).copyq = [])

theorem fenceReady_iff (s : State) (f : TileId) (kind : FenceKind) : fenceReady s f (s.tile f) kind = true ↔ s.FenceDone f kind := by
  cases kind <;> simp [fenceReady, State.FenceDone, and_assoc]

/-- The state that a FENCE of a kind and scope leaves around its tile. -/
def State.fenced (s : State) (f : TileId) (kind : FenceKind) (scope : MemScope) : State :=
  if kind = .sp then s else s.raiseCopies f ((s.tile f).crewTiles f) (scopeNo scope)

theorem raised_fence (s : State) (f : TileId) (kind : FenceKind) (scope : MemScope) :
    s.raised f ((s.tile f).crewTiles f) (if kind = .sp then none else some (scopeNo scope)) = s.fenced f kind scope := by
  unfold State.fenced
  split <;> rfl

theorem exec_fence (kind : FenceKind) (scope : MemScope) (s : State) :
    exec (.fence kind scope) s = s.runSlot "FENCE" (.fence kind scope) (fenceSlot kind scope) := rfl

theorem fenceSlot_done {s : State} {f : TileId} {t : Tile} {b : Inflight} {kind : FenceKind} (scope : MemScope)
    (h : fenceReady s f t kind = true) : fenceSlot kind scope s f t b =
      .done t [] { raise := if kind = .sp then none else some (scopeNo scope) } .seq := if_pos h

theorem fenceSlot_holds {s : State} {f : TileId} {t : Tile} {b : Inflight} {kind : FenceKind} (scope : MemScope)
    (h : ¬ fenceReady s f t kind = true) : fenceSlot kind scope s f t b = .hold .fence := if_neg h

theorem fence_commits {s : State} {b : Inflight} {kind : FenceKind} {scope : MemScope} (h : s.At (.fence kind scope) b)
    (hd : s.FenceDone s.focus kind) : CommitsFrom (s.fenced s.focus kind scope) (.fence kind scope) s s.here := by
  have hready : fenceReady s s.focus s.here kind = true := (fenceReady_iff ..).mpr hd
  obtain ⟨z, hz, hdata⟩ := finishSlot_goes s s.focus b s.here.k.trapped s.here []
    (if kind = .sp then none else some (scopeNo scope)) h.leaf h.goes
  refine ⟨(s.fenced s.focus kind scope).setTile s.focus z, ?_, onlyTile_setTile .., by rw [tile_setTile, hdata, share_nil]⟩
  rw [exec_fence, runSlot_eq h, fenceSlot_done scope hready, hz, share_nil]
  exact congrArg (fun u : State => Host.Outcome.next (u.setTile s.focus z)) (raised_fence s s.focus kind scope)

/-- FENCE_COMMIT ends the hold of a FENCE that has all it waits for. -/
theorem fenceCommit_releases {s : State} {f : TileId} {b : Inflight} {kind : FenceKind} {scope : MemScope}
    (h : s.WaitsAtK f (.fence kind scope) .fence b) (hd : s.FenceDone f kind) :
    ReleasesFrom (s.fenced f kind scope) f (.fenceCommit f) s (s.tile f) := by
  have hready : fenceReady s f (s.tile f) kind = true := (fenceReady_iff ..).mpr hd
  have hk : heldFor (s.tile f) .fence = true := by simp [heldFor, h.bundle, h.held]
  have hi : heldSlot (s.tile f) isFence = some (.fence kind scope) := heldSlot_next h.bundle h.slot rfl
  have hexec : exec (.fenceCommit f) s = s.holdEnds f "FENCE_COMMIT" (.fence kind scope) (fenceSlot kind scope) := by
    show execFenceCommit f s = _
    simp only [execFenceCommit, hi, hk, hready, Bool.and_self, if_true]
  obtain ⟨z, hz, hdata⟩ := finishSlot_goes (s.setTile f (s.letGo f b)) f (b.afterHold (s.tile f)) (s.tile f).k.trapped (s.letGo f b) []
    (if kind = .sp then none else some (scopeNo scope)) h.leaf h.goes
  have hstate : (s.setTile f (s.letGo f b)).raised f ((s.letGo f b).crewTiles f) (if kind = .sp then none else some (scopeNo scope)) =
      (s.fenced f kind scope).setTile f (s.letGo f b) := by
    rw [← raised_fence]
    cases kind <;> rfl
  refine ⟨(s.fenced f kind scope).setTile f z, ?_, onlyTile_setTile .., by rw [tile_setTile, hdata, share_nil]; rfl⟩
  rw [hexec, holdEnds_eq h rfl, fenceSlot_done (s := s.setTile f (s.letGo f b)) (t := s.letGo f b) scope hready, hz, share_nil, hstate,
    setTile_setTile]

end Sys2Proof.Machine
end

section
namespace Sys2Proof.Machine

/-! ## CPY and MSTREAM (R187, R222) -/

theorem exec_cpy (sa : SReg) (s : State) : exec (.cpy sa) s = s.runOwn "CPY" (.cpy sa) (queueSlot sa none copyCheck) := rfl

section
variable {s : State} {f : TileId} {t : Tile} {b : Inflight} {sa : SReg} {stream : Option (BitVec 3 × BitVec 6)}
  {check : State → TileId → Tile → List Byte → Option Nat}

theorem queueSlot_holds (h : 32 ≤ t.copyq.length) : queueSlot sa stream check s f t b = .hold .queueFull := if_pos h

variable (h : t.copyq.length < 32) (hok : AddrOk (t.sreg sa).toNat 64 64)
include h hok

theorem queueSlot_queues (hc : check s f t (t.ownBytes (t.sreg sa).toNat 64) = none) : queueSlot sa stream check s f t b =
    .done (t.enqueue (commitCycle t b) (t.ownBytes (t.sreg sa).toNat 64) stream) (accessesOf t.k (t.sreg sa).toNat 64) {} .seq := by
  rw [queueSlot, if_neg (Nat.not_le_of_gt h), atAddr_ok hok, Int.toNat_natCast]
  simp only [hc]

theorem queueSlot_traps {d : Nat} (hc : check s f t (t.ownBytes (t.sreg sa).toNat 64) = some d) :
    queueSlot sa stream check s f t b = .trap 0x12 d := by
  rw [queueSlot, if_neg (Nat.not_le_of_gt h), atAddr_ok hok, Int.toNat_natCast]
  simp only [hc]

end

/-- A slot that uses the tile's own scratchpad and finds that it must wait holds its bundle. -/
theorem runOwn_holds {s : State} {i : Instr} {b : Inflight} {mn : String} {f : SlotFn} {k : HoldKind} (hx : ∀ s, exec i s = s.runOwn mn i f)
    (h : s.own.At i b) (hf : f s.own s.own.focus s.own.here b = .hold k) : HoldsFrom s.own i s b k :=
  (exec_eq_own hx s).trans (runSlot_holds h (exec_own hx s) hf)

/-- The accesses of a slot after a hold count as those of its bundle in the cycle in which it was let go. -/
theorem data_share_letGo (u : State) (f : TileId) (b : Inflight) (y : Tile) (o : Option Inflight) (n : Nat) (accs : List (Nat × Nat)) :
    ((u.setTile f (u.letGo f b)).share f (b.afterHold (u.tile f)) { y with inflight := o, movedAt := n } accs).data =
      (u.share f (b.released (u.tile f)) y accs).data := by
  have hcycle : commitCycle ((u.setTile f (u.letGo f b)).tile f) (b.afterHold (u.tile f)) = commitCycle (u.tile f) (b.released (u.tile f)) := by
    rw [tile_setTile]
    exact afterHold_cycle b (u.tile f)
  have haccs : (b.afterHold (u.tile f)).accs = (b.released (u.tile f)).accs := by unfold Inflight.afterHold; split <;> rfl
  have hothers (c : Nat) : (u.setTile f (u.letGo f b)).others f c = u.others f c := by
    rw [State.others, State.crewDepth, tile_setTile]
    rfl
  simp only [State.share, hcycle, haccs, hothers]
  split
  · rfl
  · unfold Tile.meet
    split <;> rfl

/-- A slot let go of a full queue takes its place there. -/
theorem queueSlot_released {u : State} {f : TileId} {i : Instr} {b : Inflight} {sa : SReg} {stream : Option (BitVec 3 × BitVec 6)}
    {check : State → TileId → Tile → List Byte → Option Nat} (h : u.WaitsAtK f i .queueFull b) (hm : mayHold i = true) (mn : String)
    (hq : (u.tile f).copyq.length < 32) (hok : AddrOk ((u.tile f).sreg sa).toNat 64 64)
    (hc : check (u.setTile f (u.letGo f b)) f (u.letGo f b) ((u.tile f).ownBytes ((u.tile f).sreg sa).toNat 64) = none) :
    ∃ t, u.holdEnds f mn i (queueSlot sa stream check) = .next t ∧ OnlyTile f u t ∧ (t.tile f).data =
      (u.share f (b.released (u.tile f)) ((u.tile f).enqueue (commitCycle (u.tile f) (b.released (u.tile f)))
        ((u.tile f).ownBytes ((u.tile f).sreg sa).toNat 64) stream) (accessesOf (u.tile f).k ((u.tile f).sreg sa).toNat 64)).data := by
  have hslot : queueSlot sa stream check (u.setTile f (u.letGo f b)) f (u.letGo f b) (b.afterHold (u.tile f)) =
      .done ((u.letGo f b).enqueue (commitCycle (u.letGo f b) (b.afterHold (u.tile f)))
        ((u.tile f).ownBytes ((u.tile f).sreg sa).toNat 64) stream) (accessesOf (u.tile f).k ((u.tile f).sreg sa).toNat 64) {} .seq :=
    queueSlot_queues (t := u.letGo f b) hq hok hc
  obtain ⟨z, hz, hdata⟩ := finishSlot_goes (u.setTile f (u.letGo f b)) f (b.afterHold (u.tile f)) (u.tile f).k.trapped
    ((u.letGo f b).enqueue (commitCycle (u.letGo f b) (b.afterHold (u.tile f))) ((u.tile f).ownBytes ((u.tile f).sreg sa).toNat 64) stream)
    (accessesOf (u.tile f).k ((u.tile f).sreg sa).toNat 64) none h.leaf h.goes
  refine ⟨u.setTile f z, ?_, onlyTile_setTile .., ?_⟩
  · rw [holdEnds_eq h hm, hslot, hz]
    exact congrArg Host.Outcome.next (setTile_setTile ..)
  · have hcycle : commitCycle (u.letGo f b) (b.afterHold (u.tile f)) = commitCycle (u.tile f) (b.released (u.tile f)) :=
      afterHold_cycle b (u.tile f)
    rw [tile_setTile, hdata, hcycle]
    exact data_share_letGo u f b ((u.tile f).enqueue (commitCycle (u.tile f) (b.released (u.tile f)))
      ((u.tile f).ownBytes ((u.tile f).sreg sa).toNat 64) stream) (some (b.afterHold (u.tile f))) u.time _

/-- The event that lets a bundle go on when its tile's copy queue has a free slot. -/
theorem exec_cpyQueueSlotFree {s : State} {f : TileId} {i : Instr} {b : Inflight} (h : s.WaitsAtK f i .queueFull b)
    (hq : (s.tile f).copyq.length < 32) :
    (∀ sa, i = .cpy sa → exec (.cpyQueueSlotFree f) s =
      (s.flushOwn f).holdEnds f "CPY_QUEUE_SLOT_FREE" i (queueSlot sa none copyCheck)) ∧
    ∀ m sa e, i = .mstream m sa e → exec (.cpyQueueSlotFree f) s =
      (s.flushOwn f).holdEnds f "CPY_QUEUE_SLOT_FREE" i (queueSlot sa (some (m, e)) fun _ _ _ d => streamCheck d) := by
  have hk : heldFor (s.tile f) .queueFull = true := by simp [heldFor, h.bundle, h.held]
  have hi (hp : isQueued i = true) : heldSlot (s.tile f) isQueued = some i := heldSlot_next h.bundle h.slot hp
  constructor
  · rintro sa rfl
    show execCpyQueueSlotFree f s = _
    simp only [execCpyQueueSlotFree, hi rfl, hk, hq, decide_true, Bool.and_self, if_true]
  · rintro m sa e rfl
    show execCpyQueueSlotFree f s = _
    simp only [execCpyQueueSlotFree, hi rfl, hk, hq, decide_true, Bool.and_self, if_true]

/-! ## Sprint hints (R201, R414) -/

/-- A zone that is settled changes its die's record alone. -/
theorem settleZone_dies (s : State) (d : Fin 8) (z : Fin 4) : ∃ ds, s.settleZone d z = { s with dies := ds } := by
  have hm : ∃ ds, s.markMidpoint d z = { s with dies := ds } := by
    unfold State.markMidpoint
    split
    · split
      · exact ⟨_, rfl⟩
      · exact ⟨s.dies, rfl⟩
    · exact ⟨s.dies, rfl⟩
  obtain ⟨ds, hm⟩ := hm
  unfold State.settleZone
  rw [hm]
  dsimp only
  split
  · exact ⟨_, rfl⟩
  · exact ⟨ds, rfl⟩

/-- A tile's launch has SPR set in its record. -/
def State.maySprint (s : State) (t : Tile) : Bool :=
  match s.launch? t.pt.handle with
  | some l => l.spr
  | none => false

/-- The tile after a sprint hint: only with SPR in its launch's record does it take it. -/
def State.hinted (s : State) (on : Bool) : Tile := if s.maySprint s.here then { s.here with claim := on } else s.here

theorem sprintSlot_eq (on : Bool) (s : State) (b : Inflight) : sprintSlot on s s.focus s.here b = .keep (s.hinted on) := rfl

/-- The hint is taken in a launch with SPR, and does nothing in one without. -/
theorem hinted_data (s : State) (on : Bool) :
    (∀ l, s.launch? s.here.pt.handle = some l → l.spr = true → s.hinted on = { s.here with claim := on }) ∧
    ((∀ l, s.launch? s.here.pt.handle = some l → l.spr = false) → s.hinted on = s.here) := by
  refine ⟨fun l hl hs => if_pos (by rw [State.maySprint, hl]; exact hs), fun h => if_neg ?_⟩
  cases hl : s.launch? s.here.pt.handle with
  | none => simp [State.maySprint, hl]
  | some l => simp [State.maySprint, hl, h l hl]

/-- A sprint hint at its turn moves its tile and at most the records of the dies. -/
theorem sprint_hints {s : State} {b : Inflight} (on : Bool) (h : s.At (if on then .sprintClaim else .sprintRelease) b) :
    ∃ t, exec (if on then .sprintClaim else .sprintRelease) s = .next t ∧ OnlyTile s.focus { s with dies := t.dies } t ∧
      t.here.data = (s.hinted on).data := by
  have hleaf : (s.hinted on).leafTrap = none := by unfold State.hinted; split <;> exact h.leaf
  have hstop : (s.hinted on).stopReq = false := by unfold State.hinted; split <;> exact h.goes
  cases on with
  | true =>
    obtain ⟨ds, hds⟩ := settleZone_dies s s.focus.die (zoneOf s.focus.site.val)
    have hat : ({ s with dies := ds } : State).At .sprintClaim b := ⟨h.bundle, h.ready, h.runs, h.leaf, h.goes⟩
    obtain ⟨z, hz, hdata⟩ := finishSlot_keep { s with dies := ds } s.focus b s.here.k.trapped (s.hinted true) hleaf hstop
    refine ⟨({ s with dies := ds } : State).setTile s.focus z, ?_, onlyTile_setTile .., (congrArg Tile.data (here_setTile ..)).trans hdata⟩
    show (s.settleZone s.focus.die (zoneOf s.focus.site.val)).runSlot "SPRINT" .sprintClaim (sprintSlot true) = _
    rw [hds, runSlot_eq hat]
    exact congrArg Host.Outcome.next hz
  | false =>
    obtain ⟨z, hz, hdata⟩ := finishSlot_keep s s.focus b s.here.k.trapped (s.hinted false) hleaf hstop
    obtain ⟨ds, hds⟩ := settleZone_dies (s.setTile s.focus z) s.focus.die (zoneOf s.focus.site.val)
    refine ⟨{ s.setTile s.focus z with dies := ds }, ?_, ?_, ?_⟩
    · show settled s.focus (s.runSlot "SPRINT" .sprintRelease (sprintSlot false)) = _
      rw [runSlot_eq (i := .sprintRelease) h, sprintSlot_eq, hz]
      exact congrArg Host.Outcome.next hds
    · exact ⟨rfl, fun j hj => tile_setTile_ne s z hj⟩
    · exact (congrArg Tile.data (here_setTile s z)).trans hdata

/-- Settles O44: a FENCE by `fence_commits` and `fenceCommit_releases`, the copy queue by `queueSlot_queues` and `queueSlot_released`, the
hints by `sprint_hints`. -/
theorem fencesCopiesAndSprintHints : Obligations.FencesCopiesAndSprintHints := by
  unfold Obligations.FencesCopiesAndSprintHints
  intro fenced done queued
  refine ⟨fun s b kind scope sa sd => ?_, fun s f b kind scope sa mac e => ?_⟩
  · intro x u z a desc
    refine ⟨fun h => ⟨fun hd => fence_commits h hd, fun hd => ?_⟩, fun h => ⟨fun hq hok hc => ?_, fun hq => ?_, fun l d hq hok hc hl => ?_⟩,
      fun _ _ h => writes_scalar h (g := fun t => t.setS sd (BitVec.ofNat 32 (32 - t.copyq.length))) rfl rfl, fun on h => ?_⟩
    · exact runSlot_holds h (exec_fence kind scope s) (fenceSlot_holds scope fun hr => hd ((fenceReady_iff ..).mp hr))
    · rw [← own_focus s] at hc
      exact runOwn_commits (exec_cpy sa) h (queueSlot_queues hq hok hc) rfl rfl
    · exact runOwn_holds (exec_cpy sa) h (queueSlot_holds hq)
    · rw [← own_focus s] at hc
      exact runOwn_traps (exec_cpy sa) h hl (queueSlot_traps hq hok hc) rfl (by decide)
    · obtain ⟨t, hnext, hothers, hdata⟩ := sprint_hints on h
      obtain ⟨htake, hleave⟩ := hinted_data s on
      exact ⟨t, hnext, hothers, fun l hl hs => by rw [hdata, htake l hl hs], fun hn => by rw [hdata, hleave hn]⟩
  · intro u z a desc
    have hlen : z.copyq = (s.tile f).copyq := (flushOwn_tile s f f).copyq
    refine ⟨fun h hd => fenceCommit_releases h hd, fun h hu hq hok hc => ?_, fun h hu hq hok hc => ?_⟩
    · obtain ⟨t, ht, hothers, hdata⟩ := queueSlot_released (stream := none) (check := copyCheck) hu rfl "CPY_QUEUE_SLOT_FREE" hq hok hc
      exact ⟨t, ((exec_cpyQueueSlotFree h (hlen ▸ hq)).1 sa rfl).trans ht, hothers, hdata⟩
    · obtain ⟨t, ht, hothers, hdata⟩ := queueSlot_released (stream := some (mac, e)) (check := fun _ _ _ d => streamCheck d) hu rfl
        "CPY_QUEUE_SLOT_FREE" hq hok hc
      exact ⟨t, ((exec_cpyQueueSlotFree h (hlen ▸ hq)).2 mac sa e rfl).trans ht, hothers, hdata⟩

end Sys2Proof.Machine
end

section
namespace Sys2Proof.Machine

/-! ## Copies start (R193, R197) -/

/-- No copy of a number still waits for its turn. -/
def Tile.Begun (t : Tile) (id : Nat) : Prop := ∀ q ∈ t.copyq, q.id = id → q.stage ≠ .queued

theorem mapCopy_begun (t : Tile) (id : Nat) {g : CopyCmd → CopyCmd} (hg : ∀ c, (g c).stage ≠ .queued) : (t.mapCopy id g).Begun id := by
  intro q hq hid
  obtain ⟨c, -, rfl⟩ := List.mem_map.mp hq
  by_cases h : (c.id == id) = true
  · rw [if_pos h]
    exact hg c
  · rw [if_neg h] at hid
    exact absurd (beq_iff_eq.mpr hid) h

theorem copyFails_begun (s : State) (i : TileId) (id : Nat) (e : CopyFailCause) : ((s.copyFails i id e).tile i).Begun id := by
  rw [State.copyFails, tile_setTile]
  exact mapCopy_begun _ id fun _ => by simp

section
variable {s : State} {i : TileId}

theorem putStarted_begun {id : Nat} {ws : List ElemWrite} {image : List Byte} {gaps : List (Nat × Nat)} {stop : Option StartStop} :
    ((s.putStarted i id ws image gaps stop).tile i).Begun id := by
  have hstarted {g : CopyCmd → CopyCmd} (hg : ∀ c, (g c).stage ≠ .queued) : ((s.setTile i ((s.tile i).mapCopy id g)).tile i).Begun id := by
    rw [tile_setTile]
    exact mapCopy_begun _ id hg
  unfold State.putStarted
  match stop with
  | none => exact hstarted fun _ => by simp
  | some (.wait n) => exact hstarted fun _ => by simp
  | some (.fail e) => exact copyFails_begun _ i id e

variable {c : CopyCmd}

theorem startRead_begun {k : CopyKind} : ((s.startRead i c k).tile i).Begun c.id := putStarted_begun

theorem startStore_begun : ((s.startStore i c).tile i).Begun c.id := by
  unfold State.startStore
  dsimp only
  split
  · exact putStarted_begun
  · split
    · exact putStarted_begun
    · exact putStarted_begun

theorem startAmog_begun : ((s.startAmog i c).tile i).Begun c.id := by
  unfold State.startAmog
  dsimp only
  split
  · exact putStarted_begun
  · split
    · split
      · exact putStarted_begun
      · exact putStarted_begun
      · split
        · exact putStarted_begun
        · exact putStarted_begun
    · exact putStarted_begun

theorem startCrew_begun : ((s.startCrew i c).tile i).Begun c.id := by
  unfold State.startCrew
  dsimp only
  split
  · exact putStarted_begun
  · exact putStarted_begun

/-- A copy of any kind that its turn has come to no longer waits for it. -/
theorem startCopy_begun (hs : c.stream = none) (hk : dKind c.desc ≠ none) : ((s.startCopy i c).tile i).Begun c.id := by
  obtain ⟨k, hk⟩ := Option.ne_none_iff_exists'.mp hk
  unfold State.startCopy
  rw [hs, hk]
  cases k with
  | load => exact startRead_begun
  | store => exact startStore_begun
  | spconv => exact putStarted_begun
  | crew => exact startCrew_begun
  | amog => exact startAmog_begun
  | dtab => exact startRead_begun

variable (s i c)

/-- A copy's accesses meet those of its tile, and at a peer's, and move no more than the accounts of these. -/
theorem copyMeets_tile : ∃ p q r v,
    ({ s.tile i with sb := p, meets := q, k := { (s.tile i).k with bconf := r, aconf := v } } : Tile).Served ((s.copyMeets i c).tile i) := by
  obtain ⟨p, q, r, v, h⟩ := beside_eq (s.tile i) i (s.tile i).stands
  refine ⟨p, q, r, v, ?_⟩
  rw [← h, State.copyMeets]
  dsimp only
  split
  · generalize crewPeer i _ c.desc = j
    by_cases hj : i = j
    · subst hj
      rw [tile_setTile, tile_setTile]
      exact meetCrew_served ..
    · rw [tile_setTile_ne _ _ hj, tile_setTile]
      exact .refl _
  · rw [tile_setTile]
    exact .refl _

theorem copyMeets_copyq : ((s.copyMeets i c).tile i).copyq = (s.tile i).copyq := by
  obtain ⟨p, q, r, v, hserved⟩ := copyMeets_tile s i c
  exact hserved.copyq

/-- A copy without a peer meets its own tile's accesses alone. -/
theorem copyMeets_own (hk : dKind c.desc ≠ some .crew) : s.copyMeets i c = s.setTile i ((s.tile i).beside i (s.tile i).stands) :=
  if_neg fun h => hk h.1

end

/-- A copy found under a number has it. -/
theorem copy?_id {t : Tile} {id : Nat} {c : CopyCmd} (h : t.copy? id = some c) : c.id = id := beq_iff_eq.mp (List.find?_some h :)

/-- What a tile committed before a copy is done. -/
def State.Settled (s : State) (f : TileId) (c : CopyCmd) : Prop :=
  (∀ q ∈ s.crew, q.src = f → c.id ≤ q.seqNo) ∧ ∀ e ∈ (s.tile f).sb, e.isLdg = true ∨ e.isStg = true → c.id ≤ e.seqNo

theorem sourcesSettled_of_settled {s : State} {f : TileId} {c : CopyCmd} (h : s.Settled f c) : s.sourcesSettled f c = true := by
  obtain ⟨hcrew, hsb⟩ := h
  have h1 : (s.crew.any fun a => a.src == f && decide (a.seqNo < c.id)) = false := List.any_eq_false.mpr fun a ha hb => by
    simp only [Bool.and_eq_true, beq_iff_eq, decide_eq_true_eq] at hb
    exact Nat.not_le_of_gt hb.2 (hcrew a ha hb.1)
  have h2 : ((s.tile f).sb.any fun e => decide (e.seqNo < c.id) && (e.isLdg || e.isStg)) = false := List.any_eq_false.mpr fun e he hb => by
    simp only [Bool.and_eq_true, Bool.or_eq_true, decide_eq_true_eq] at hb
    exact Nat.not_le_of_gt hb.1 (hsb e he hb.2)
  rw [State.sourcesSettled, h1, h2]
  rfl

section
variable {s : State} {f : TileId} {id : Nat} {c : CopyCmd}

/-- The writes of a raw SPCONV: the rows of its source (R193). -/
def rawRows (x : Tile) (f : TileId) (d : List Byte) : List ElemWrite :=
  (List.range (dRows d)).map fun r =>
    ⟨.spad f (dSp d + r * dPitch d * 16), (List.range (dExt d 0)).map fun j => x.byteAt (dSrc d + r * dSrcPitch d * 16 + j), 1, 0⟩

theorem startSpconv_raw (hfs : fmtAt (s.tile f).k (dSrc c.desc) = 0)
    (hfd : fmtAt (s.tile f).k (dSp c.desc) = 0) :
    s.startSpconv f c = s.putStarted f c.id (rawRows (s.tile f) f c.desc) [] [] none := by
  have hlen : rowBytes (dExt c.desc 0) 8 = dExt c.desc 0 := by unfold rowBytes; omega
  have hbits : spconvBits 0 0 = (8, 8) := rfl
  simp only [State.startSpconv, hfs, hfd, hbits, hlen, true_or, if_true]
  congr 1
  apply List.ext_getElem
  · simp [spadWrites, rowRanges, rawRows]
  · intro r _ _
    simp [spadWrites, rowRanges, rawRows, Tile.spadBytes, Cells.getRange, Tile.byteAt]

variable (hc : (s.tile f).copy? id = some c) (hs : c.stream = none) (hq : c.stage = .queued) (ht : (s.tile f).startsCopies = true)
  (hm : mayStart (s.tile f).copyq c = true) (hset : s.Settled f c)
include hc hs hq ht hm hset

/-- A queued copy whose turn has come starts. -/
theorem exec_copyStart :
    exec (.copyStart f id) s = .next ((s.startCopy f c).copyMeets f c) := by
  show s.startQueued "COPY_START" f id false = _
  simp [State.startQueued, hc, hs, hq, ht, hm, sourcesSettled_of_settled hset]

/-- A raw SPCONV starts by reading its rows. -/
theorem copyStart_raw (hk : dKind c.desc = some .spconv) (hfs : fmtAt (s.tile f).k (dSrc c.desc) = 0) (hfd : fmtAt (s.tile f).k (dSp c.desc) = 0) :
    let y := (s.tile f).mapCopy id fun q =>
      { q with stage := .started, image := [], gaps := [], writes := rawRows (s.tile f) f c.desc }
    exec (.copyStart f id) s = .next (s.setTile f (y.beside f y.stands)) := by
  intro y
  have hstart : s.startCopy f c = s.setTile f y := by
    have hid := copy?_id hc
    subst hid
    simp only [State.startCopy, hs, hk, startSpconv_raw hfs hfd]
    rfl
  rw [exec_copyStart hc hs hq ht hm hset, hstart, copyMeets_own _ _ _ (by simp [hk]), tile_setTile, setTile_setTile]

end

end Sys2Proof.Machine
end

section
namespace Sys2Proof.Machine

/-! ## Copies end and post (R188, R197, R198) -/

/-- An event that may end a hold moves at most the bundle of its tile, and takes a free value. -/
theorem freed_eq (s : State) (i : TileId) (ks : List HoldKind) :
    ∃ n o, s.freed i ks = ({ s with draws := n } : State).setTile i { s.tile i with inflight := o } := by
  have hself : s = ({ s with draws := s.draws } : State).setTile i { s.tile i with inflight := (s.tile i).inflight } :=
    (setTile_self s i).symm
  unfold State.freed
  dsimp only
  split
  · split
    · exact ⟨_, _, rfl⟩
    · exact ⟨_, _, hself⟩
  · exact ⟨_, _, hself⟩

/-- A post's target depends on the launches and on the place of its tile in its crew. -/
theorem postTarget_congr {s u : State} {t y : Tile} (hl : u.launches = s.launches) (hp : y.pt = t.pt) (ha : y.act = t.act) (i : TileId)
    (v : Word) : postTarget u i y v = postTarget s i t v := by
  have hlaunch : u.launch? y.pt.handle = s.launch? t.pt.handle := by rw [State.launch?, State.launch?, hl, hp]
  have hcrew : y.crewN = t.crewN := by rw [Tile.crewN, Tile.crewN, hp, ha]
  have htile (n : Nat) : crewTile i y n = crewTile i t n := by rw [crewTile, crewTile, hp, ha]
  simp only [postTarget, hlaunch, hcrew, htile]

/-- The post of a copy that has ended. -/
def copyEnd (f dst : TileId) (x : Tile) (c : CopyCmd) (cerr wide : Bool) : Post :=
  ⟨f, dst, dSem c.desc, 1, cerr, x.pt.handle, x.pt.serial, x.act == .prologue, wide, 0, none⟩

/-- A copy of a tile that has not stopped leaves the queue and posts. -/
theorem copyPost_eq {s : State} {f dst : TileId} {c : CopyCmd} {wide : Bool} (cerr : Bool) (hs : c.stream = none) (ha : (s.tile f).act ≠ .stopped)
    (hp : postTarget s f (s.tile f) (dStgt c.desc) = .ok (dst, wide)) : ∃ n o, s.copyPost f c cerr =
      ({ s with draws := n, posts := s.posts ++ [copyEnd f dst (s.tile f) c cerr wide] } : State).setTile f
        { s.tile f with inflight := o, copyq := (s.tile f).copyq.filter fun q => q.id != c.id } := by
  obtain ⟨n, o, hfreed⟩ := freed_eq s f [.fence, .pend, .queueFull]
  have hp' : postTarget (({ s with draws := n } : State).setTile f { s.tile f with inflight := o }) f { s.tile f with inflight := o }
      (dStgt c.desc) = .ok (dst, wide) := (postTarget_congr rfl rfl rfl f _).trans hp
  refine ⟨n, o, ?_⟩
  simp only [State.copyPost, hfreed, hs, tile_setTile, hp', setTile_setTile]
  refine if_neg fun hended => ?_
  have hact := (Bool.and_eq_true_iff.mp hended).1
  rw [State.tile, State.setTile] at hact
  exact ha (by simpa [State.tile] using hact)

section
variable {s : State} {f dst : TileId} {c : CopyCmd} {wide : Bool} (hs : c.stream = none) (ha : (s.tile f).act ≠ .stopped)
  (hp : postTarget s f (s.tile f) (dStgt c.desc) = .ok (dst, wide))
include hs ha hp

/-- A copy without a peer that has left its tile as `y` ends: the queue is without it, and the post is sent. -/
theorem copyMeets_copyPost (cerr : Bool) (hk : dKind c.desc ≠ some .crew) {y : Tile} (hy : y.act = (s.tile f).act ∧ y.pt = (s.tile f).pt)
    (hq : y.copyq = (s.tile f).copyq) :
    let t := ((s.setTile f y).copyMeets f c).copyPost f c cerr
    OnlyTile f { s with posts := s.posts ++ [copyEnd f dst (s.tile f) c cerr wide], draws := t.draws } t ∧
    (t.tile f).data = ({ y.beside f y.stands with copyq := (s.tile f).copyq.filter fun q => q.id != c.id } : Tile).data := by
  obtain ⟨hact, hpt⟩ := hy
  obtain ⟨p, q, r, v, hbeside⟩ := beside_eq y f y.stands
  have hzact : (y.beside f y.stands).act = (s.tile f).act := by rw [hbeside]; exact hact
  have hzpt : (y.beside f y.stands).pt = (s.tile f).pt := by rw [hbeside]; exact hpt
  have hzq : (y.beside f y.stands).copyq = (s.tile f).copyq := by rw [hbeside]; exact hq
  rw [copyMeets_own _ _ _ hk, tile_setTile, setTile_setTile]
  generalize y.beside f y.stands = z at hzact hzpt hzq
  obtain ⟨n, o, hpost⟩ := copyPost_eq (s := s.setTile f z) (f := f) cerr hs (by rw [tile_setTile, hzact]; exact ha)
    ((postTarget_congr rfl (by rw [tile_setTile, hzpt]) (by rw [tile_setTile, hzact]) f _).trans hp)
  have hend : copyEnd f dst z c cerr wide = copyEnd f dst (s.tile f) c cerr wide := by rw [copyEnd, hzact, hzpt]; rfl
  rw [hpost, tile_setTile, hend, hzq]
  refine ⟨⟨?_, fun j hj => ?_⟩, ?_⟩
  · rfl
  · exact (tile_setTile_ne _ _ hj).trans (tile_setTile_ne s z hj)
  · exact (congrArg Tile.data (tile_setTile ..)).trans rfl

end

/-! ## Completion (R197, R220) -/

/-- Writes to scratchpads, in order. -/
theorem performElem_spads (by' : Writer) (f : TileId) : ∀ (ws : List (Nat × List Byte)) (s : State),
    (ws.map fun w => (⟨.spad f w.1, w.2, 1, 0⟩ : ElemWrite)).foldl (fun s e => s.performElem by' e) s =
      s.setTile f (ws.foldl (fun (y : Tile) w => y.setSpad w.1 w.2) (s.tile f))
  | [], s => (setTile_self s f).symm
  | w :: ws, s => by
    rw [List.map_cons, List.foldl_cons, performElem_spads by' f ws, List.foldl_cons]
    show (s.setTile f ((s.tile f).setSpad w.1 w.2)).setTile f _ = _
    rw [setTile_setTile, State.performElem, tile_setTile]

/-- Nothing made, nothing logged. -/
theorem logMade_nil (s : State) (w : WatchSrc) : s.logMade w [] = s := by
  have hwrites : s.logWrites w [] = s := by
    refine List.foldl_fixed' (fun n => ?_) _
    split
    · exact List.foldl_fixed' (fun _ => rfl) _
    · rfl
  show (s.logWrites w []).logOutside w [] = s
  rw [hwrites]
  rfl

theorem performAll_spads (s : State) (src : WatchSrc) (by' : Writer) (f : TileId) (ws : List (Nat × List Byte)) :
    s.performAll src by' (ws.map fun w => ⟨.spad f w.1, w.2, 1, 0⟩) =
      s.setTile f (ws.foldl (fun (y : Tile) w => y.setSpad w.1 w.2) (s.tile f)) := by
  have hnone : ((ws.map fun w => (⟨.spad f w.1, w.2, 1, 0⟩ : ElemWrite)).filterMap fun e => match e.dest with
      | .dev pa pg _ => some (⟨pa, e.data.length, pg, true⟩ : MadeWrite)
      | .hostMem a pg _ => some ⟨a, e.data.length, pg, false⟩
      | .spad _ _ => none) = [] := by
    rw [List.filterMap_map, List.filterMap_eq_nil_iff]
    exact fun _ _ => rfl
  rw [State.performAll, performElem_spads]
  exact (congrArg (State.logMade _ src) hnone).trans (logMade_nil ..)

/-- Writes to scratchpads can always be made. -/
theorem canPerform_spads (s : State) {es : List ElemWrite} (h : ∀ w ∈ es, ∃ j a, w.dest = .spad j a) : s.canPerform es = true := by
  refine List.all_eq_true.mpr fun w hw => ?_
  obtain ⟨j, a, hd⟩ := h w hw
  rw [hd]

theorem spadFold_frame : ∀ (ws : List (Nat × List Byte)) (x : Tile),
    { ws.foldl (fun (y : Tile) w => y.setSpad w.1 w.2) x with spad := x.spad, raced := x.raced } = x
  | [], _ => rfl
  | w :: ws, x => congrArg (fun y : Tile => { y with spad := x.spad, raced := x.raced }) (spadFold_frame ws (x.setSpad w.1 w.2))

section
variable {s u : State} {f : TileId} {id : Nat} {c : CopyCmd}

/-- A started copy that has made its writes ends. -/
theorem exec_copyComplete (hc : (s.tile f).copy? id = some c) (hs : c.stream = none) (hst : c.stage = .started) (hg : c.gaps = [])
    (hb : s.copyBusy f id = false) (ht : s.cutTimeUp f = false) (hfin : s.finishCopy f c = some u) :
    exec (.copyComplete f id) s = .next ((u.copyMeets f c).copyPost f c false) := by
  show execCopyComplete f id s = _
  simp [execCopyComplete, hc, hs, hst, hg, hb, ht, hfin]

/-- A raw copy: a LOAD or SPCONV. -/
theorem finishCopy_raw {ws : List (Nat × List Byte)} (hk : dKind c.desc = some .load ∨ dKind c.desc = some .spconv)
    (hw : c.writes = ws.map fun w => ⟨.spad f w.1, w.2, 1, 0⟩) :
    s.finishCopy f c = some (s.setTile f (ws.foldl (fun (y : Tile) w => y.setSpad w.1 w.2) (s.tile f))) := by
  have hcan : s.canPerform c.writes = true := canPerform_spads s fun w hm => by
    rw [hw] at hm
    obtain ⟨v, -, rfl⟩ := List.mem_map.mp hm
    exact ⟨_, _, rfl⟩
  rw [← performAll_spads s (copyWatch f c.id) (s.copyWriter f c), ← hw]
  obtain hk | hk := hk <;> simp only [State.finishCopy, hk, hcan, if_true]

theorem finishCopy_dtab {tb : DTable} (h : dSlot c.desc < 2) (hk : dKind c.desc = some .dtab) (htb : tableOf c.image = some tb) :
    s.finishCopy f c = some (s.setTile f { s.tile f with dts := (s.tile f).dts.set (dSlot c.desc) (some tb) h }) := by
  simp only [State.finishCopy, hk, htb, h, dite_true]
end

/-! ## Failure (R198) -/

/-- What stands at a tile from which a copy posts: the posts, the launches, and the tile's part of one. -/
structure State.PostsAs (f : TileId) (s t : State) : Prop where
  posts : t.posts = s.posts
  launches : t.launches = s.launches
  pt : (t.tile f).pt = (s.tile f).pt
  act : (t.tile f).act = (s.tile f).act

section
variable {f : TileId}

theorem State.PostsAs.refl (s : State) : s.PostsAs f s := ⟨rfl, rfl, rfl, rfl⟩

theorem State.PostsAs.trans {s t u : State} (h : s.PostsAs f t) (g : t.PostsAs f u) : s.PostsAs f u :=
  ⟨g.posts.trans h.posts, g.launches.trans h.launches, g.pt.trans h.pt, g.act.trans h.act⟩

theorem MemFrame.postsAs {s t : State} (h : MemFrame s t) : s.PostsAs f t :=
  ⟨h.posts, h.launches, by rw [h.tile], by rw [h.tile]⟩

theorem postsAs_setTile {s : State} {i : TileId} {y : Tile} (hp : y.pt = (s.tile i).pt) (ha : y.act = (s.tile i).act) :
    s.PostsAs f (s.setTile i y) := by
  by_cases h : f = i
  · subst h
    exact ⟨rfl, rfl, by rw [tile_setTile, hp], by rw [tile_setTile, ha]⟩
  · exact ⟨rfl, rfl, by rw [tile_setTile_ne _ _ h], by rw [tile_setTile_ne _ _ h]⟩

theorem postsAs_ite {s t u : State} {p : Prop} [Decidable p] (h : s.PostsAs f t) (g : s.PostsAs f u) :
    s.PostsAs f (if p then t else u) := by
  split
  · exact h
  · exact g

theorem postsAs_foldl {α : Type} {g : State → α → State} (h : ∀ s x, State.PostsAs f s (g s x)) :
    ∀ (xs : List α) (s : State), s.PostsAs f (xs.foldl g s)
  | [], s => .refl s
  | x :: xs, s => (h s x).trans (postsAs_foldl h xs _)

theorem postsAs_performAll (s : State) (src : WatchSrc) (w : Writer) (es : List ElemWrite) : s.PostsAs f (s.performAll src w es) := by
  refine .trans (postsAs_foldl (fun s e => ?_) es s) (memFrame_logMade ..).postsAs
  unfold State.performElem
  split
  · exact postsAs_setTile rfl rfl
  · exact (memFrame_writeDevAs ..).postsAs
  · exact (memFrame_hostStoreAs ..).postsAs

theorem memFrame_meets (s : State) (r : Agent) (host : Bool) (runs : List (Nat × Nat)) : MemFrame s (s.meets r host runs) :=
  memFrame_narrow s _ _ (Nat.le_refl _)

theorem postsAs_performAmog (s : State) (i : TileId) (c : CopyCmd) : s.PostsAs f (s.performAmog i c).1 := by
  have hput (u : State) (n : Nat) (h : s.PostsAs f u) :
      s.PostsAs f (if dRet c.desc = true then u.setTile i ((u.tile i).setSpad (dSp c.desc) (bytesOfNat (dWidth c.desc) n)) else u) :=
    h.trans (postsAs_ite (postsAs_setTile rfl rfl) (.refl u))
  unfold State.performAmog
  dsimp only
  split
  next e _ =>
    split
    next pa _ _ _ =>
      have hread := memFrame_readDev s .agent pa (dWidth c.desc)
      split
      · exact postsAs_ite (hread.postsAs.trans (memFrame_faultNow ..).postsAs) hread.postsAs
      · exact hput _ _ (hread.trans ((memFrame_meets ..).trans ((memFrame_writeDevAs ..).trans (memFrame_logWrites ..)))).postsAs
    · exact hput _ _ ((memFrame_meets ..).trans ((memFrame_hostStoreAs ..).trans (memFrame_logOutside ..))).postsAs
    · exact .refl s
  next => exact hput _ _ (.refl s)

theorem memFrame_failedWrites (s : State) (i : TileId) (es : List ElemWrite) : MemFrame s (s.failedWrites i es) := by
  unfold State.failedWrites
  dsimp only
  split
  · exact .refl s
  · split
    · split
      next p _ =>
        have hreach := memFrame_reach s .partialWrite p.1 (p.2.2 != 64)
        generalize s.reach .partialWrite p.1 (p.2.2 != 64) = q at hreach
        split
        · exact hreach.trans (memFrame_faultNow ..)
        · exact hreach
      next => exact .refl s
    · exact .refl s

theorem postsAs_copyMeets (s : State) (c : CopyCmd) : s.PostsAs f (s.copyMeets f c) := by
  obtain ⟨p, q, r, v, hserved⟩ := copyMeets_tile s f c
  have hrest : (s.copyMeets f c).posts = s.posts ∧ (s.copyMeets f c).launches = s.launches := by
    unfold State.copyMeets
    dsimp only
    split <;> exact ⟨rfl, rfl⟩
  exact ⟨hrest.1, hrest.2, hserved.pt, hserved.act⟩

end

/-- The state in which a copy that fails has left its destination: the parts named have landed (R198). -/
def State.copyFailed (s : State) (f : TileId) (c : CopyCmd) (cause : CopyFailCause) (landed : List Nat) : State :=
  if dKind c.desc = some .amog then
    (if landed.contains 0 && !c.writes.isEmpty || !(s.performAmog f c).2 then (s.performAmog f c).1 else s)
  else if dKind c.desc = some .dtab then
    (if cause = .image then
      let x := s.tile f
      if h : dSlot c.desc < 2 then s.setTile f { x with dts := x.dts.set (dSlot c.desc) none h } else s
    else s)
  else if dKind c.desc = some .crew ∧ !s.peerServes f c then s
  else (s.failedWrites f c.writes).performAll (copyWatch f c.id) (s.copyWriter f c) (s.landedElems (s.tile f).k c landed)

section
variable {s : State} {f : TileId} {id : Nat} {c : CopyCmd} {cause : CopyFailCause}

/-- A copy fails for the cause that stopped it. -/
theorem exec_copyFail (hc : (s.tile f).copy? id = some c) (hs : c.stream = none) (hst : c.stage = .failing cause) (landed : List Nat) :
    exec (.copyFail f id cause landed) s = .next (((s.copyFailed f c cause landed).copyMeets f c).copyPost f c true) := by
  have hmay : (c.stream.isNone && s.mayFail f c cause) = true := by simp [State.mayFail, hs, hst]
  show execCopyFail f id cause landed s = _
  simp only [execCopyFail, hc, hmay, if_true]
  rfl

/-- Whatever landed, the copy's post goes where it would have gone. -/
theorem postsAs_copyFailed (landed : List Nat) : s.PostsAs f (s.copyFailed f c cause landed) := by
  unfold State.copyFailed
  refine postsAs_ite (postsAs_ite (postsAs_performAmog s f c) (.refl s)) (postsAs_ite (postsAs_ite ?_ (.refl s)) (postsAs_ite (.refl s) ?_))
  · dsimp only
    split
    · exact postsAs_setTile rfl rfl
    · exact .refl s
  · exact (memFrame_failedWrites ..).postsAs.trans (postsAs_performAll ..)

theorem soPrefix_none : ∀ (ws : List (ElemWrite × Bool)) (o : Bool), (∀ w ∈ ws, w.2 = false) → soPrefix o ws = []
  | [], _, _ => rfl
  | (w, hit) :: ws, o, h => by
    obtain rfl : hit = false := h _ (List.mem_cons_self ..)
    have hws (o : Bool) := soPrefix_none ws o fun v hv => h v (List.mem_cons_of_mem _ hv)
    simp [soPrefix, hws]

/-- With no part named none lands. -/
theorem landedElems_nil (s : State) (k : KRegs) (c : CopyCmd) : s.landedElems k c [] = [] :=
  soPrefix_none _ _ fun w hw => by
    obtain ⟨v, -, rfl⟩ := List.mem_map.mp hw
    rfl

/-- A raw copy of which no part landed leaves everything as it was. -/
theorem copyFailed_raw (hk : dKind c.desc = some .load ∨ dKind c.desc = some .spconv) (hw : ∀ w ∈ c.writes, ∃ j a, w.dest = .spad j a) :
    s.copyFailed f c cause [] = s := by
  have hfailed : s.failedWrites f c.writes = s := by
    have hnone : (c.writes.find? fun e => !s.canPerform [e]) = none := List.find?_eq_none.mpr fun w hm => by
      rw [canPerform_spads s (es := [w]) fun v hv => by rw [List.mem_singleton.mp hv]; exact hw w hm]
      simp
    rw [State.failedWrites]
    simp only [hnone]
  have hall : (s.failedWrites f c.writes).performAll (copyWatch f c.id) (s.copyWriter f c) (s.landedElems (s.tile f).k c []) = s := by
    rw [hfailed, landedElems_nil]
    exact logMade_nil ..
  obtain hk | hk := hk <;> simp [State.copyFailed, hk, hall]

variable {dst : TileId} {wide : Bool} (hs : c.stream = none) (ha : (s.tile f).act ≠ .stopped)
  (hp : postTarget s f (s.tile f) (dStgt c.desc) = .ok (dst, wide))
include hs ha hp

/-- From a state that posts as another does a copy ends with the same post, and has left the queue. -/
theorem copyPost_of_postsAs (cerr : Bool) {u : State} (h : s.PostsAs f u) :
    ((u.copyMeets f c).copyPost f c cerr).posts = s.posts ++ [copyEnd f dst (s.tile f) c cerr wide] ∧
    ∀ q ∈ (((u.copyMeets f c).copyPost f c cerr).tile f).copyq, q.id ≠ c.id := by
  have hv := h.trans (postsAs_copyMeets u c)
  generalize u.copyMeets f c = v at hv
  obtain ⟨n, o, hpost⟩ := copyPost_eq (s := v) (f := f) cerr hs (by rw [hv.act]; exact ha)
    ((postTarget_congr hv.launches hv.pt hv.act f _).trans hp)
  rw [hpost, tile_setTile]
  refine ⟨?_, fun q hq => by simpa using (List.mem_filter.mp hq).2⟩
  show v.posts ++ _ = _
  rw [hv.posts, copyEnd, hv.pt, hv.act]
  rfl

end

/-- Settles O45: starts by `startCopy_begun` and `copyStart_raw`, ends by `copyPost_eq` after what the copy did. -/
theorem copiesStartLandAndPost : Obligations.CopiesStartLandAndPost := by
  intro s f id c hc hs x d left sent kept settled raw
  have hid : c.id = id := copy?_id hc
  have hnotCrew (h : raw) : dKind c.desc ≠ some .crew := by
    obtain h | h := h <;> rw [h] <;> decide
  have hkept {dst : TileId} {wide : Bool} {y : Tile} (cerr : Bool) (ha : x.act ≠ .stopped)
      (hp : postTarget s f x (dStgt d) = .ok (dst, wide)) (hk : dKind c.desc ≠ some .crew) (hy : y.act = x.act ∧ y.pt = x.pt)
      (hq : y.copyq = x.copyq) : kept (((s.setTile f y).copyMeets f c).copyPost f c cerr) dst wide cerr y := by
    obtain ⟨hothers, hdata⟩ := copyMeets_copyPost hs ha hp cerr hk hy hq
    rw [hid] at hdata
    exact ⟨hothers, hdata⟩
  refine ⟨fun hq ht hm hset => ⟨fun hk => ⟨_, exec_copyStart hc hs hq ht hm hset, ?_⟩, copyStart_raw hc hs hq ht hm hset⟩,
    fun dst wide ws hst hg hb htime hk ha hp hw => ?_, fun dst wide tb h hst hg hb htime hk htb ha hp => ?_, fun dst wide cause hst ha hp => ?_⟩
  · rw [copyMeets_copyq, ← hid]
    exact startCopy_begun hs hk
  · have hframe := spadFold_frame ws x
    exact ⟨_, exec_copyComplete hc hs hst hg hb htime (finishCopy_raw hk hw), hkept false ha hp (hnotCrew hk)
      ⟨(congrArg Tile.act hframe :), (congrArg Tile.pt hframe :)⟩ (congrArg Tile.copyq hframe :)⟩
  · exact ⟨_, exec_copyComplete hc hs hst hg hb htime (finishCopy_dtab h hk htb), hkept false ha hp (by rw [hk]; decide) ⟨rfl, rfl⟩ rfl⟩
  · refine ⟨fun landed => ⟨_, exec_copyFail hc hs hst landed, ?_⟩, fun hk hw => ⟨_, exec_copyFail hc hs hst [], ?_⟩⟩
    · obtain ⟨hposts, hqueue⟩ := copyPost_of_postsAs hs ha hp true (postsAs_copyFailed (s := s) (f := f) (c := c) (cause := cause) landed)
      exact ⟨hposts, fun q hq => hid ▸ hqueue q hq⟩
    · rw [copyFailed_raw hk hw]
      have h := hkept (y := x) true ha hp (hnotCrew hk) ⟨rfl, rfl⟩ rfl
      rwa [setTile_self] at h

end Sys2Proof.Machine
end

section
namespace Sys2Proof.Machine

/-! ## Fields of records (R5, R206) -/

theorem getD_drop_take (bs : List Byte) (o : Nat) {n j : Nat} (hj : j < n) : ((bs.drop o).take n).getD j 0 = bs.getD (o + j) 0 := by
  simp [List.getD_eq_getElem?_getD, hj, List.getElem?_drop]

/-- A byte of a field read as a word. -/
theorem byte_of_field (bs : List Byte) (o : Nat) {w n j : Nat} (hj : j < n) (hw : 8 * j + 8 ≤ w) :
    (BitVec.ofNat w (field bs o n)).extractLsb' (8 * j) 8 = bs.getD (o + j) 0 := by
  rw [field, byte_of_bytes _ hw, getD_drop_take bs o hj]

theorem natOfBytes_eq_zero : ∀ {bs : List Byte}, natOfBytes bs = 0 ↔ ∀ j, bs.getD j 0 = 0
  | [] => by simp [natOfBytes]
  | b :: bs => by
    have hb : b.toNat = 0 ↔ b = 0 := (BitVec.toNat_inj (y := 0)).symm.trans Iff.rfl |>.symm
    rw [natOfBytes, Nat.add_eq_zero_iff, Nat.mul_eq_zero, natOfBytes_eq_zero]
    constructor
    · rintro ⟨h, h'⟩ j
      cases j with
      | zero => exact hb.mp h
      | succ j => exact (h'.resolve_left (by decide)) j
    · exact fun h => ⟨hb.mpr (h 0), .inr fun j => h (j + 1)⟩

/-- A field is 0 where all its bytes are. -/
theorem field_eq_zero (bs : List Byte) (o n : Nat) : field bs o n = 0 ↔ ∀ j < n, bs.getD (o + j) 0 = 0 := by
  rw [field, natOfBytes_eq_zero]
  refine ⟨fun h j hj => (getD_drop_take bs o hj).symm.trans (h j), fun h j => ?_⟩
  by_cases hj : j < n
  · rw [getD_drop_take bs o hj, h j hj]
  · rw [List.getD_eq_default _ _ (by simp only [List.length_take]; omega)]

/-- A halfword is 0 where both its bytes are. -/
theorem halfword_eq_zero (bs : List Byte) (o : Nat) :
    BitVec.ofNat 16 (field bs o 2) = 0 ↔ bs.getD o 0 = 0 ∧ bs.getD (o + 1) 0 = 0 := by
  constructor
  · intro h
    have h0 := byte_of_field bs o (w := 16) (j := 0) (n := 2) (by decide) (by decide)
    have h1 := byte_of_field bs o (w := 16) (j := 1) (n := 2) (by decide) (by decide)
    rw [h] at h0 h1
    exact ⟨h0.symm, h1.symm⟩
  · rintro ⟨h0, h1⟩
    have hf : field bs o 2 = 0 := (field_eq_zero bs o 2).mpr fun j hj => by
      obtain rfl | rfl : j = 0 ∨ j = 1 := by omega
      · exact h0
      · exact h1
    rw [hf]
    rfl

/-- The words and halfwords of a layout record, byte for byte. -/
theorem layoutOf_bytes (bs : List Byte) :
    (∀ j : Fin 4, ∀ k < 4, ((layoutOf bs).strides[j]).extractLsb' (8 * k) 8 = bs.getD (4 * j.val + k) 0) ∧
    ∀ j : Fin 4, ∀ k < 2, ((layoutOf bs).extents[j]).extractLsb' (8 * k) 8 = bs.getD (16 + 2 * j.val + k) 0 := by
  refine ⟨fun j k hk => ?_, fun j k hk => ?_⟩
  · simpa [layoutOf] using byte_of_field bs (4 * j.val) hk (w := 32) (by omega)
  · simpa [layoutOf] using byte_of_field bs (16 + 2 * j.val) hk (w := 16) (by omega)

/-- A record with no empty extent and reserved bytes 0 (R206, R207). -/
def layoutGood (bs : List Byte) : Prop :=
  (∀ j < 4, ¬ (bs.getD (16 + 2 * j) 0 = 0 ∧ bs.getD (17 + 2 * j) 0 = 0)) ∧ ∀ j < 8, bs.getD (24 + j) 0 = 0

/-- MLAY refuses exactly the records that are not good. -/
theorem layoutTest_iff (bs : List Byte) :
    (((layoutOf bs).extents.toList.any fun e => e == 0) || field bs 24 8 != 0) = false ↔ layoutGood bs := by
  have hext : ((layoutOf bs).extents.toList.any fun e => e == 0) = false ↔
      ∀ j < 4, ¬ (bs.getD (16 + 2 * j) 0 = 0 ∧ bs.getD (17 + 2 * j) 0 = 0) := by
    have hhalf (j : Nat) : ¬ (BitVec.ofNat 16 (field bs (16 + 2 * j) 2) = 0) ↔ ¬ (bs.getD (16 + 2 * j) 0 = 0 ∧ bs.getD (17 + 2 * j) 0 = 0) :=
      not_congr ((halfword_eq_zero bs (16 + 2 * j)).trans (by rw [show 16 + 2 * j + 1 = 17 + 2 * j by omega]))
    rw [List.any_eq_false]
    simp only [layoutOf, Vector.toList_ofFn, List.mem_ofFn, beq_iff_eq, forall_exists_index, forall_apply_eq_imp_iff, hhalf]
    exact ⟨fun h j hj => h ⟨j, hj⟩, fun h j => h j.val j.isLt⟩
  rw [Bool.or_eq_false_iff, hext, bne_eq_false_iff_eq, field_eq_zero]
  rfl

end Sys2Proof.Machine
end

section
namespace Sys2Proof.Machine

/-! ## MCFG and MLAY (R207, R210) -/

theorem mcfgTest_iff (imm : BitVec 16) :
    (imm.extractLsb' 8 8 == 0 && decide ((imm.extractLsb' 4 4).toNat ≤ 12) && decide ((imm.extractLsb' 0 4).toNat ≤ 12)) = true ↔
      imm.extractLsb' 8 8 = 0 ∧ (imm.extractLsb' 4 4).toNat ≤ 12 ∧ (imm.extractLsb' 0 4).toNat ≤ 12 := by
  simp [and_assoc]

theorem exec_mcfg (imm : BitVec 16) (s : State) : exec (.mcfg imm) s = execMcfg imm s := rfl

theorem exec_mlay (lay : BitVec 2) (sa : SReg) (s : State) : exec (.mlay lay sa) s = s.runOwn "MLAY" (.mlay lay sa) fun _ _ t _ =>
    atAddr ((t.sreg sa).toNat : Int) 32 32 fun a =>
      if ((layoutOf (t.ownBytes a 32)).extents.toList.any fun e => e == 0) || field (t.ownBytes a 32) 24 8 != 0 then .trap 0x14 0x08
      else .done { t with lays := t.lays.set lay.toNat (layoutOf (t.ownBytes a 32)) lay.isLt } (accessesOf t.k a 32) {} .seq := rfl

theorem getD_ownBytes (t : Tile) (a : Nat) {n j : Nat} (hj : j < n) : (t.ownBytes a n).getD j 0 = t.ownByte (a + j) :=
  getD_getRange 0 0 _ a hj

section
variable {s : State} {b : Inflight} {lay : BitVec 2} {sa : SReg} {a : Nat} (h : s.own.At (.mlay lay sa) b)
  (ha : (s.own.here.sreg sa).toNat = a) (hok : AddrOk a 32 32)
include h ha hok

theorem mlay_commits (hg : layoutGood (s.own.here.ownBytes a 32)) : CommitsOwn (.mlay lay sa) s
    (({ s.own.here with lays := s.own.here.lays.set lay.toNat (layoutOf (s.own.here.ownBytes a 32)) lay.isLt } : Tile).banked s.own b a 32) := by
  refine runOwn_commits_at h (exec_mlay lay sa) rfl (by rw [ha]) (by rw [ha]; exact hok) ?_ rfl rfl
  simp only [(layoutTest_iff _).mpr hg, Bool.false_eq_true, if_false]

theorem mlay_traps {l : Launch} (hg : ¬ layoutGood (s.own.here.ownBytes a 32)) (hl : s.own.Handles l) :
    TrapsFrom s.own (.mlay lay sa) s b l 0x14 0x08 := by
  refine runOwn_traps (exec_mlay lay sa) h hl ?_ rfl (by decide)
  have hbad := Bool.eq_true_of_not_eq_false (mt (layoutTest_iff _).mp hg)
  simp only [ha, atAddr_ok hok, Int.toNat_natCast, hbad, if_true]

end

/-- Whether a record in the scratchpad is good, byte for byte. -/
theorem layoutGood_ownBytes (t : Tile) (a : Nat) : layoutGood (t.ownBytes a 32) ↔
    (∀ j < 4, ¬ (t.ownByte (a + 16 + 2 * j) = 0 ∧ t.ownByte (a + 17 + 2 * j) = 0)) ∧ ∀ j < 8, t.ownByte (a + 24 + j) = 0 := by
  unfold layoutGood
  refine and_congr (forall₂_congr fun j hj => ?_) (forall₂_congr fun j hj => ?_)
  · rw [getD_ownBytes t a (by omega), getD_ownBytes t a (by omega), Nat.add_assoc, Nat.add_assoc]
  · rw [getD_ownBytes t a (by omega), Nat.add_assoc]

end Sys2Proof.Machine
end

section
namespace Sys2Proof.Machine

/-! ## A bad accumulator word (R19, R311) -/

/-- A cause of class Tile but for a timing failure keeps the turn: its tile stops, and its site is fenced. -/
theorem keeps_takeTrap_tile (s : State) (i : TileId) {c : Nat} (d : Nat) (m : Byte) (pc : BitVec 16) (n : Nat) (hc : classTile c = true)
    (he : c ≠ 0x0E) (ht : (s.tile i).k.trapped = false) : s.Keeps (s.takeTrap i c d m pc n) := by
  have hrange : 0x0E ≤ c ∧ c ≤ 0x11 := by simpa [classTile] using hc
  have hseg : c ≠ 0x0A := by omega
  have hroute : routeH c = false := by simp [routeH]; omega
  have hstop (u : State) : u.Keeps (u.stopWith i 1 c 0 0 false false) := by
    simp only [State.stopWith, hc, Bool.true_or, if_true, Bool.false_eq_true, if_false, he]
    exact (keeps_stop u i _ _ _).trans (keeps_fenceSite _ i c)
  refine (keeps_setTile s i ((s.tile i).enterTrap c d m pc n)).trans ?_
  simp only [State.takeTrap, ht, hseg, hroute, if_false, Bool.false_eq_true, Bool.false_and, beq_eq_false_iff_ne.mpr hseg]
  split <;> exact hstop _

/-- A slot that faults with such a cause stops its tile. -/
theorem runSlot_stops_tile {s : State} {i : Instr} {b : Inflight} {mn : String} {f : SlotFn} {c d : Nat} (h : s.At i b)
    (hx : exec i s = s.runSlot mn i f) (hf : f s s.focus s.here b = .trap c d) (ht : s.here.k.trapped = false) (hc : classTile c = true)
    (he : c ≠ 0x0E) : StopsWith i s b c d := by
  have hrange : 0x0E ≤ c ∧ c ≤ 0x11 := by simpa [classTile] using hc
  generalize hu : s.setTile s.focus (s.here.atCycle (commitCycle s.here b)) = u
  have htile : u.tile s.focus = s.here.atCycle (commitCycle s.here b) := by rw [← hu, tile_setTile]
  have hout : (u.tile s.focus).k.trapped = false := by rw [htile]; exact ht
  have hrest := takeTrap_rests (d := d) (m := 0) (pc := b.first) (n := b.next) (inj := false) (c := c) (by omega)
    (by simp [routeH]; omega) hout
  have hfocus : (u.takeTrap s.focus c d 0 b.first b.next).focus = s.focus :=
    (keeps_takeTrap_tile u s.focus d 0 b.first b.next hc he hout).focus.trans (by rw [← hu]; rfl)
  have hstop := hrest.trapStopped hout
  rw [htile] at hstop
  refine ⟨u.takeTrap s.focus c d 0 b.first b.next, ?_, hfocus, ?_⟩
  · rw [hx, runSlot_eq h, hf, ← hrest.boundary, ← hu]
    rfl
  · rw [State.here, State.here, hfocus]
    exact hstop

end Sys2Proof.Machine
end

section
namespace Sys2Proof.Machine

/-! ## Draining and clearing (R226, R227) -/

/-- The words of the accumulator file from an index on, zeroed. -/
def Tile.zeroAcc (t : Tile) (base n : Nat) : Tile := t.setAcc ((List.range n).map fun j => (base + j, 0))

@[simp] theorem zeroAcc_leafTrap (t : Tile) (base n : Nat) : (t.zeroAcc base n).leafTrap = t.leafTrap := rfl
@[simp] theorem zeroAcc_stopReq (t : Tile) (base n : Nat) : (t.zeroAcc base n).stopReq = t.stopReq := rfl
theorem zeroAcc_rest (t : Tile) (base n : Nat) : { t.zeroAcc base n with acc := t.acc, accBad := t.accBad } = t := rfl

theorem get_zeroAcc (t : Tile) (base n c : Nat) :
    Cells.get 0 (t.zeroAcc base n).acc c = if base ≤ c ∧ c < base + n then 0 else Cells.get 0 t.acc c := by
  have hfst : ((List.range n).map fun j => (base + j, (0 : Word))).map Prod.fst = (List.range n).map fun j => base + j := by
    rw [List.map_map]; rfl
  unfold Tile.zeroAcc Tile.setAcc
  split
  next h =>
    refine get_setAll_mem 0 _ t.acc ?_ (c, 0) ?_
    · rw [hfst]
      exact List.nodup_range.map fun i j hij => by omega
    · exact List.mem_map.mpr ⟨c - base, List.mem_range.mpr (by omega), by rw [Nat.add_sub_cancel' h.1]⟩
  next h =>
    refine get_setAll_outside 0 c _ _ fun p hp hpc => ?_
    obtain ⟨j, hj, rfl⟩ := List.mem_map.mp hp
    have := List.mem_range.mp hj
    exact h (by dsimp only at hpc; omega)

/-- Where half a row of an accumulator begins in the accumulator file (R23). -/
def halfRow (half : BitVec 1) (acc row : BitVec 4) : Nat := 2048 * acc.toNat + 128 * row.toNat + 64 * half.toNat

/-- A tile with half a row of an accumulator drained to a line. -/
def Tile.drained (t : Tile) (pd : Line) (base : Nat) : Tile := t.setLine pd (Cells.getRange 0 t.acc base 64)

theorem drained_written (t : Tile) (pd : Line) (base : Nat) :
    LineWritten t (t.drained pd base) pd 32 (fun e => some (Cells.get 0 t.acc (base + e)).toNat) 0 := by
  obtain ⟨helems, hrest⟩ := lineWritten_setLine_words t pd (getRange_length 0 t.acc base 64)
  refine ⟨fun e he => (helems e he).trans ?_, hrest⟩
  simp only [getD_getRange 0 0 t.acc base he]

section
variable {s : State} {i : TileId} {t : Tile} {b : Inflight} {pd : Line} {half : BitVec 1} {acc row : BitVec 4}

theorem mvaSlot_drains (zero : Bool) (h : ∀ c ∈ t.accBad, c < halfRow half acc row ∨ halfRow half acc row + 64 ≤ c) :
    mvaSlot zero pd half acc row s i t b =
      .keep (if zero then (t.drained pd (halfRow half acc row)).zeroAcc (halfRow half acc row) 64 else t.drained pd (halfRow half acc row)) := by
  have hgood : (t.accBad.any fun c => decide (halfRow half acc row ≤ c) && decide (c < halfRow half acc row + 64)) = false :=
    List.any_eq_false.mpr fun c hc hb => by
      simp only [Bool.and_eq_true, decide_eq_true_eq] at hb
      have := h c hc
      omega
  exact if_neg (Bool.eq_false_iff.mp hgood)

theorem mvaSlot_traps (zero : Bool) (h : ∃ c ∈ t.accBad, halfRow half acc row ≤ c ∧ c < halfRow half acc row + 64) :
    mvaSlot zero pd half acc row s i t b = .trap 0x11 (acc.toNat + 16 * row.toNat) := by
  obtain ⟨c, hc, hb⟩ := h
  exact if_pos (List.any_eq_true.mpr ⟨c, hc, by simpa [halfRow] using hb⟩)

end

section
variable (pd : Line) (half : BitVec 1) (acc row : BitVec 4) (s : State)
theorem exec_mva : exec (.mva pd half acc row) s = s.runSlot "MVA" (.mva pd half acc row) (mvaSlot false pd half acc row) := rfl
theorem exec_mvaz : exec (.mvaz pd half acc row) s = s.runSlot "MVAZ" (.mvaz pd half acc row) (mvaSlot true pd half acc row) := rfl
theorem exec_macz : exec (.macz acc) s = s.runSlot "MACZ" (.macz acc) fun _ _ t _ => .keep (t.zeroAcc (2048 * acc.toNat) 2048) := rfl
end

/-- A slot at its turn that changes its tile alone. -/
theorem runSlot_keeps {s : State} {i : Instr} {b : Inflight} {mn : String} {f : SlotFn} {y : Tile} (h : s.At i b)
    (hx : exec i s = s.runSlot mn i f) (hf : f s s.focus s.here b = .keep y) (hl : y.leafTrap = s.here.leafTrap)
    (hg : y.stopReq = s.here.stopReq) : Commits i s y :=
  runSlot_commits (accs := []) (fl := .seq) h hx hf (hl.trans h.leaf) (hg.trans h.goes) (by simp) (by simp)

/-! ## MWAIT (R228) -/

theorem fills_iff (c : CopyCmd) (m : BitVec 3) : c.fills m.toNat = true ↔ ∃ e, c.stream = some (m, e) := by
  unfold CopyCmd.fills
  cases c.stream with
  | none => simp
  | some p =>
    obtain ⟨n, e⟩ := p
    simp [BitVec.toNat_inj]

theorem macroIdle_iff (t : Tile) (m : BitVec 3) : macroIdle t m = true ↔ t.macroBusy m.toNat t.issueNo = false := by simp [macroIdle]

theorem exec_mwait (m : BitVec 3) (s : State) : exec (.mwait m) s = s.runSlot "MWAIT" (.mwait m) (mwaitSlot m) := rfl

/-- MWAIT_COMMIT ends the hold of an MWAIT once the earlier work is done that it waits for. -/
theorem mwaitCommit_releases {s : State} {f : TileId} {b : Inflight} {m : BitVec 3} (h : s.WaitsAtK f (.mwait m) .mwait b)
    (hd : (s.tile f).macroBusy m.toNat (s.tile f).issueNo = false) : ReleasesOn f (.mwaitCommit f) s (s.tile f) := by
  have hidle : macroIdle (s.tile f) m = true := (macroIdle_iff ..).mpr hd
  have hk : heldFor (s.tile f) .mwait = true := by simp [heldFor, h.bundle, h.held]
  have hi : heldSlot (s.tile f) isMwait = some (.mwait m) := heldSlot_next h.bundle h.slot rfl
  have hexec : exec (.mwaitCommit f) s = s.holdEnds f "MWAIT_COMMIT" (.mwait m) (mwaitSlot m) := by
    show execMwaitCommit f s = _
    simp only [execMwaitCommit, hi, hk, hidle, Bool.and_self, if_true]
  have hslot : mwaitSlot m (s.setTile f (s.letGo f b)) f (s.letGo f b) (b.afterHold (s.tile f)) = .keep (s.letGo f b) := if_pos hidle
  obtain ⟨z, hz, hdata⟩ := finishSlot_keep (s.setTile f (s.letGo f b)) f (b.afterHold (s.tile f)) (s.tile f).k.trapped
    (s.letGo f b) h.leaf h.goes
  refine ⟨s.setTile f z, ?_, onlyTile_setTile .., by rw [tile_setTile, hdata]; rfl⟩
  rw [hexec, holdEnds_eq h rfl, hslot, hz, setTile_setTile]

/-- Settles O37: MCFG by its test, MLAY by `mlay_commits` and `mlay_traps`, the drains by `mvaSlot_drains`, and MWAIT by `macroIdle_iff`. -/
theorem matrixStateIsConfiguredDrainedAndAwaited : Obligations.MatrixStateIsConfiguredDrainedAndAwaited := by
  intro s b imm lay sa pd half acc row m a x cells base fmtsOk own z extentsOk busy
  have hbusy (t : Tile) : t.macroBusy m.toNat t.issueNo = true ↔ busy t := by simp [Tile.macroBusy, fills_iff, busy]
  have hidle {t : Tile} (hd : ¬ busy t) : t.macroBusy m.toNat t.issueNo = false := Bool.eq_false_iff.mpr (mt (hbusy t).mp hd)
  refine ⟨fun h => ⟨fun hok => ?_, fun hok ht => ?_⟩, fun h ha hok => ⟨fun hg => ?_, fun hg l hl => ?_⟩, fun hgood => ⟨fun h => ?_, fun h => ?_⟩,
    fun i hi h ht hbad => ?_, fun h => ?_, fun h => ⟨fun hd => ?_, fun hd => ?_⟩, fun f h hd => mwaitCommit_releases h (hidle hd)⟩
  · exact runSlot_keeps h (exec_mcfg imm s) (if_pos ((mcfgTest_iff imm).mpr hok)) rfl rfl
  · exact runSlot_stops h (exec_mcfg imm s) (if_neg (mt (mcfgTest_iff imm).mp hok)) ht rfl (by decide) rfl
  · obtain ⟨hstrides, hextents⟩ := layoutOf_bytes (z.ownBytes a 32)
    refine ⟨_, mlay_commits h ha hok ((layoutGood_ownBytes z a).mpr hg), fun j k hk => ?_, fun j k hk => ?_⟩
    · rw [hstrides j k hk, getD_ownBytes z a (by omega), ← Nat.add_assoc]
    · rw [hextents j k hk, getD_ownBytes z a (by omega), ← Nat.add_assoc, ← Nat.add_assoc]
  · exact mlay_traps h ha hok (mt (layoutGood_ownBytes z a).mp hg) hl
  · exact ⟨_, runSlot_keeps h (exec_mva pd half acc row s) (mvaSlot_drains false hgood) rfl rfl, drained_written x pd base⟩
  · exact ⟨x.drained pd base, (x.drained pd base).zeroAcc base 64,
      runSlot_keeps h (exec_mvaz pd half acc row s) (mvaSlot_drains true hgood) rfl rfl, drained_written x pd base, rfl,
      get_zeroAcc (x.drained pd base) base 64⟩
  · obtain rfl | rfl := hi
    · exact runSlot_stops_tile h (exec_mva pd half acc row s) (mvaSlot_traps false hbad) ht rfl (by decide)
    · exact runSlot_stops_tile h (exec_mvaz pd half acc row s) (mvaSlot_traps true hbad) ht rfl (by decide)
  · refine ⟨x.zeroAcc (2048 * acc.toNat) 2048, runSlot_keeps h (exec_macz acc s) rfl (zeroAcc_leafTrap ..) (zeroAcc_stopReq ..), zeroAcc_rest .., fun c => ?_⟩
    have hin : 2048 * acc.toNat ≤ c ∧ c < 2048 * acc.toNat + 2048 ↔ c / 2048 = acc.toNat := by omega
    exact (get_zeroAcc x (2048 * acc.toNat) 2048 c).trans (by simp only [hin, cells])
  · exact runSlot_keeps h (exec_mwait m s) (if_pos ((macroIdle_iff x m).mpr (hidle hd))) rfl rfl
  · exact runSlot_holds h (exec_mwait m s) (if_neg (mt (macroIdle_iff x m).mp (Bool.not_eq_false _ ▸ (hbusy x).mpr hd)))

end Sys2Proof.Machine
end

section
namespace Sys2Proof.Machine

/-! ## The checks of a matrix multiply (R213) -/

/-- The format in which A is read: that of the region, or the override of MCFG. -/
def Tile.formatA (t : Tile) (a : Nat) : Nat :=
  if (t.k.mcfg.extractLsb' 4 4).toNat = 0 then regionFmt t.k a else (t.k.mcfg.extractLsb' 4 4).toNat

/-- There is such a format: MCFG overrides it, or the address names a region. -/
def Tile.hasFormatA (t : Tile) (a : Nat) : Prop := (t.k.mcfg.extractLsb' 4 4).toNat ≠ 0 ∨ a ≤ 0x1FFFFF

/-- A tag that may stand with a mode (R204). -/
def MacroTag.Fits (tag : MacroTag) (mode : MMode) : Prop := tag = .invalid ∨ ∃ c, tag = .fmt c ∧ pairOk mode c.toNat = true

/-- The layout is loaded and covers n chunks. -/
def LayoutRec.Covers (l : LayoutRec) (n : Nat) : Prop := l.isEmpty = false ∧ n ≤ l.cover

/-- A chunk lies in the scratchpad. -/
def chunkInSpad (l : LayoutRec) (a q : Nat) : Prop := 0 ≤ chunkAddr l a q ∧ chunkAddr l a q + 16 ≤ 0x200000

/-- A chunk lies in the region of the base. -/
def chunkInRegion (l : LayoutRec) (a q : Nat) : Prop := (chunkAddr l a q).toNat / 0x20000 = a / 0x20000

/-- The groups of MX blocks among n chunks lie as R208 asks. -/
def mxGroupsLie (l : LayoutRec) (a fmt n : Nat) : Prop :=
  ∀ g < n / (mxBlock fmt / 16), mxGroupOk l a fmt (g * (mxBlock fmt / 16)) = true

/-- The scale area of the region at an address lies in the scratchpad. -/
def Tile.scalesFit (t : Tile) (a fmt : Nat) : Prop := mxOff (t.k.regionDesc a) + mxArea fmt ≤ 0x200000

section
variable {l : LayoutRec} {a n : Nat} {bad : Int → Bool}

theorem badChunk_none (h : ∀ q < n, bad (chunkAddr l a q) = false) : badChunk l a n bad = none := by
  rw [badChunk, List.find?_eq_none]
  intro x hx
  obtain ⟨q, hq, rfl⟩ := List.mem_map.mp hx
  rw [h q (List.mem_range.mp hq)]
  decide

/-- The chunk found is the first that fails the test. -/
theorem badChunk_first {q : Nat} (hq : q < n) (hlow : ∀ p < q, bad (chunkAddr l a p) = false) (hbad : bad (chunkAddr l a q) = true) :
    badChunk l a n bad = some (chunkAddr l a q) := by
  have hfind : (List.range n).find? (bad ∘ chunkAddr l a) = some q :=
    List.find?_range_eq_some.mpr ⟨hbad, List.mem_range.mpr hq, fun p hp => by simp [hlow p hp]⟩
  rw [badChunk, List.find?_map, hfind]
  rfl

/-- Whether an address lies outside the scratchpad with its chunk, as R213 tests it. -/
def chunkOut (x : Int) : Bool := decide (x < 0 ∨ (spadSize : Int) < x + 16)

/-- Whether an address lies outside the region of another, as R213 tests it. -/
def regionOut (a : Nat) (x : Int) : Bool := regionOf x.toNat != regionOf a

theorem chunkOut_eq_false (q : Nat) : chunkOut (chunkAddr l a q) = false ↔ chunkInSpad l a q := by
  rw [chunkOut, decide_eq_false_iff_not, chunkInSpad, spadSize]
  omega

theorem regionOut_eq_false (q : Nat) : regionOut a (chunkAddr l a q) = false ↔ chunkInRegion l a q := bne_eq_false_iff_eq

theorem coverTest_eq_false : (l.isEmpty || decide (l.cover < n)) = false ↔ l.Covers n := by
  simp [LayoutRec.Covers]

theorem groupsTest_eq_false {fmt : Nat} : (isMx fmt && !((List.range (n / (mxBlock fmt / 16))).all fun g =>
    mxGroupOk l a fmt (g * (mxBlock fmt / 16)))) = false ↔ (isMx fmt = true → mxGroupsLie l a fmt n) := by
  simp [mxGroupsLie, List.all_eq_true]

end

theorem scalesTest_eq_false (t : Tile) (a fmt : Nat) :
    (isMx fmt && decide (spadSize < mxOff (t.k.regionDesc a) + mxArea fmt)) = false ↔ (isMx fmt = true → t.scalesFit a fmt) := by
  rw [Bool.and_eq_false_imp, decide_eq_false_iff_not, Nat.not_lt]
  rfl

/-- The checks of R213 from that of the layout on, for n chunks in a format. -/
def Tile.chunkCheck (t : Tile) (a n fmt : Nat) (l : LayoutRec) : Except (Nat × Nat) Nat :=
  if l.isEmpty || decide (l.cover < n) then .error (0x14, 0x04)
  else if a % 16 ≠ 0 then .error (0x05, addrDetail a)
  else match badChunk l a n chunkOut with
    | some x => .error (0x04, addrDetail x)
    | none =>
      match badChunk l a n (regionOut a) with
      | some x => .error (0x05, addrDetail x)
      | none =>
        if isMx fmt && !((List.range (n / (mxBlock fmt / 16))).all fun g => mxGroupOk l a fmt (g * (mxBlock fmt / 16)))
        then .error (0x14, 0x06)
        else if isMx fmt && decide (spadSize < mxOff (t.k.regionDesc a) + mxArea fmt) then .error (0x14, 0x07)
        else .ok fmt

section
variable {t : Tile} {dbl : Bool} {acc : BitVec 4} {a m : Nat} {l : LayoutRec}

theorem mmulCheck_noFormat (h : ¬ t.hasFormatA a) : mmulCheck t dbl acc a m l = .error (0x04, addrDetail a) :=
  if_pos (by unfold Tile.hasFormatA at h; omega)

variable (hr : t.hasFormatA a)
include hr

theorem formatTest_neg : ¬ ((t.k.mcfg.extractLsb' 4 4).toNat = 0 ∧ 0x1FFFFF < a) := by
  unfold Tile.hasFormatA at hr
  omega

theorem mmulCheck_badFormat (h : aMode dbl (t.formatA a) = none) : mmulCheck t dbl acc a m l = .error (0x14, 0x01) := by
  rw [Tile.formatA] at h
  simp only [mmulCheck, formatTest_neg hr, h, if_false]

variable {mode : MMode} (hm : aMode dbl (t.formatA a) = some mode)
include hm

theorem mmulCheck_noTag (h : t.tagAhead (acc.extractLsb' 1 3) = .none) : mmulCheck t dbl acc a m l = .error (0x14, 0x02) := by
  rw [Tile.formatA] at hm
  simp only [mmulCheck, formatTest_neg hr, hm, h, if_false, if_true]

theorem mmulCheck_badPair {c : BitVec 4} (h : t.tagAhead (acc.extractLsb' 1 3) = .fmt c) (hp : pairOk mode c.toNat = false) :
    mmulCheck t dbl acc a m l = .error (0x14, 0x03) := by
  rw [Tile.formatA] at hm
  simp only [mmulCheck, formatTest_neg hr, hm, h, hp, if_false, reduceCtorEq, Bool.not_false, if_true]

/-- Where the formats fit, the checks of the chunks are left. -/
theorem mmulCheck_fits (ht : (t.tagAhead (acc.extractLsb' 1 3)).Fits mode) :
    mmulCheck t dbl acc a m l = t.chunkCheck a (m * chunksPerRow (t.formatA a)) (t.formatA a) l := by
  rw [Tile.formatA] at hm ⊢
  obtain ht | ⟨c, ht, hp⟩ := ht
  · simp only [mmulCheck, formatTest_neg hr, hm, ht, if_false, reduceCtorEq, Bool.false_eq_true]
    rfl
  · simp only [mmulCheck, formatTest_neg hr, hm, ht, hp, if_false, reduceCtorEq, Bool.not_true, Bool.false_eq_true]
    rfl

end

section
variable {t : Tile} {a n fmt : Nat} {l : LayoutRec}

theorem chunkCheck_noCover (h : ¬ l.Covers n) : t.chunkCheck a n fmt l = .error (0x14, 0x04) :=
  if_pos (Bool.eq_true_of_not_eq_false (mt coverTest_eq_false.mp h))

variable (hc : l.Covers n)
include hc

theorem chunkCheck_unaligned (h : a % 16 ≠ 0) : t.chunkCheck a n fmt l = .error (0x05, addrDetail a) := by
  simp only [Tile.chunkCheck, coverTest_eq_false.mpr hc, h, Bool.false_eq_true, if_false, if_true, ne_eq, not_false_eq_true]

variable (ha : a % 16 = 0)
include ha

theorem chunkCheck_outside {q : Nat} (hq : q < n) (hlow : ∀ p < q, chunkInSpad l a p) (h : ¬ chunkInSpad l a q) :
    t.chunkCheck a n fmt l = .error (0x04, addrDetail (chunkAddr l a q)) := by
  have hfound : badChunk l a n chunkOut = some (chunkAddr l a q) := badChunk_first hq (fun p hp => (chunkOut_eq_false p).mpr (hlow p hp))
    (Bool.eq_true_of_not_eq_false (mt (chunkOut_eq_false q).mp h))
  simp only [Tile.chunkCheck, coverTest_eq_false.mpr hc, ha, hfound, Bool.false_eq_true, if_false, ne_eq, not_true_eq_false]

variable (hs : ∀ q < n, chunkInSpad l a q)
include hs

theorem chunkCheck_crossing {q : Nat} (hq : q < n) (hlow : ∀ p < q, chunkInRegion l a p) (h : ¬ chunkInRegion l a q) :
    t.chunkCheck a n fmt l = .error (0x05, addrDetail (chunkAddr l a q)) := by
  have hin : badChunk l a n chunkOut = none := badChunk_none fun p hp => (chunkOut_eq_false p).mpr (hs p hp)
  have hfound : badChunk l a n (regionOut a) = some (chunkAddr l a q) := badChunk_first hq
    (fun p hp => (regionOut_eq_false p).mpr (hlow p hp)) (Bool.eq_true_of_not_eq_false (mt (regionOut_eq_false q).mp h))
  simp only [Tile.chunkCheck, coverTest_eq_false.mpr hc, ha, hin, hfound, Bool.false_eq_true, if_false, ne_eq, not_true_eq_false]

variable (hr : ∀ q < n, chunkInRegion l a q)
include hr

/-- Where the chunks lie well, the checks of the MX groups and scales are left. -/
theorem chunkCheck_lies : t.chunkCheck a n fmt l =
    if isMx fmt && !((List.range (n / (mxBlock fmt / 16))).all fun g => mxGroupOk l a fmt (g * (mxBlock fmt / 16)))
    then .error (0x14, 0x06)
    else if isMx fmt && decide (spadSize < mxOff (t.k.regionDesc a) + mxArea fmt) then .error (0x14, 0x07)
    else .ok fmt := by
  have hin : badChunk l a n chunkOut = none := badChunk_none fun p hp => (chunkOut_eq_false p).mpr (hs p hp)
  have hone : badChunk l a n (regionOut a) = none := badChunk_none fun p hp => (regionOut_eq_false p).mpr (hr p hp)
  simp only [Tile.chunkCheck, coverTest_eq_false.mpr hc, ha, hin, hone, Bool.false_eq_true, if_false, ne_eq, not_true_eq_false]

theorem chunkCheck_ok (hg : isMx fmt = true → mxGroupsLie l a fmt n ∧ t.scalesFit a fmt) : t.chunkCheck a n fmt l = .ok fmt := by
  rw [chunkCheck_lies hc ha hs hr, groupsTest_eq_false.mpr fun h => (hg h).1, (scalesTest_eq_false t a fmt).mpr fun h => (hg h).2]
  rfl

theorem chunkCheck_groups (hx : isMx fmt = true) (h : ¬ mxGroupsLie l a fmt n) : t.chunkCheck a n fmt l = .error (0x14, 0x06) :=
  (chunkCheck_lies hc ha hs hr).trans
    (if_pos (Bool.eq_true_of_not_eq_false fun hf => h (groupsTest_eq_false.mp hf hx)))

theorem chunkCheck_scales (hx : isMx fmt = true) (hg : mxGroupsLie l a fmt n) (h : ¬ t.scalesFit a fmt) :
    t.chunkCheck a n fmt l = .error (0x14, 0x07) := by
  rw [chunkCheck_lies hc ha hs hr, groupsTest_eq_false.mpr fun _ => hg,
    Bool.eq_true_of_not_eq_false fun hf => h ((scalesTest_eq_false t a fmt).mp hf hx)]
  rfl

end

end Sys2Proof.Machine
end

section
namespace Sys2Proof.Machine

/-! ## The slots of the matrix multiplies (R213) -/

theorem evenAcc_toNat : ∀ p : BitVec 3, (evenAcc p).toNat = 2 * p.toNat := by decide

/-- The four forms run one slot function. -/
theorem exec_matrixMultiply {i : Instr} {dbl zf : Bool} {acc : BitVec 4} {pair : BitVec 3} {sa : SReg} {rows : BitVec 4} {lay : BitVec 2}
    (h : i = .mmul acc sa rows lay ∧ dbl = false ∧ zf = false ∨ i = .mmulz acc sa rows lay ∧ dbl = false ∧ zf = true ∨
      i = .mmuld pair sa rows lay ∧ dbl = true ∧ zf = false ∧ acc.toNat = 2 * pair.toNat ∨
      i = .mmuldz pair sa rows lay ∧ dbl = true ∧ zf = true ∧ acc.toNat = 2 * pair.toNat) :
    ∃ mn, ∀ s, exec i s = s.runOwn mn i (mmulSlot dbl zf acc sa rows lay) := by
  have heven (ha : acc.toNat = 2 * pair.toNat) : acc = evenAcc pair := BitVec.eq_of_toNat_eq (ha.trans (evenAcc_toNat pair).symm)
  obtain ⟨rfl, rfl, rfl⟩ | ⟨rfl, rfl, rfl⟩ | ⟨rfl, rfl, rfl, ha⟩ | ⟨rfl, rfl, rfl, ha⟩ := h
  · exact ⟨"MMUL", fun _ => rfl⟩
  · exact ⟨"MMULZ", fun _ => rfl⟩
  · exact ⟨"MMULD", fun _ => heven ha ▸ rfl⟩
  · exact ⟨"MMULDZ", fun _ => heven ha ▸ rfl⟩

section
variable {s : State} {f : TileId} {t : Tile} {b : Inflight} {dbl zf : Bool} {acc : BitVec 4} {sa : SReg} {rows : BitVec 4} {lay : BitVec 2}

theorem mmulSlot_takes {fmt : Nat} (h : mmulCheck t dbl acc (t.sreg sa).toNat (rows.toNat + 1) (t.lays[lay.toNat]'lay.isLt) = .ok fmt) :
    mmulSlot dbl zf acc sa rows lay s f t b = .keep (t.addEntry b (.mmul acc dbl zf (rows.toNat + 1) (BitVec.ofNat 4 fmt)
      (t.lays[lay.toNat]'lay.isLt) (BitVec.ofNat 32 (t.sreg sa).toNat) t.raced.length)) := by
  simp only [mmulSlot, h]

theorem mmulSlot_traps {c d : Nat}
    (h : mmulCheck t dbl acc (t.sreg sa).toNat (rows.toNat + 1) (t.lays[lay.toNat]'lay.isLt) = .error (c, d)) :
    mmulSlot dbl zf acc sa rows lay s f t b = .trap c d := by
  simp only [mmulSlot, h]

end

/-- A slot that uses the tile's own scratchpad and changes the tile alone. -/
theorem runOwn_keeps {s : State} {i : Instr} {b : Inflight} {mn : String} {f : SlotFn} {y : Tile} (hx : ∀ s, exec i s = s.runOwn mn i f)
    (h : s.own.At i b) (hf : f s.own s.own.focus s.own.here b = .keep y) (hl : y.leafTrap = s.own.here.leafTrap)
    (hg : y.stopReq = s.own.here.stopReq) : CommitsOwn i s y :=
  commitsOwn_of_commits hx (runSlot_keeps h (exec_own hx s) hf hl hg)

/-- Settles O38: past the format checks (`mmulCheck_fits`) each check of the chunks has its lemma, in the order of R213. -/
theorem matrixMultipliesTakeTheirEntries : Obligations.MatrixMultipliesTakeTheirEntries := by
  intro s b i dbl zf acc pair sa rows lay u h hi x a l ovr fmt m n tag inSpad inRegion per groups area ranged shaped trap detail
  obtain ⟨mn, hx⟩ := exec_matrixMultiply hi
  have traps {hl : Launch} (hh : u.Handles hl) {c d : Nat} (hc : mmulCheck x dbl acc a m l = .error (c, d)) (hr : routeH c = true)
      (hn : c ≠ 0x0A) : trap hl c d := runOwn_traps hx h hh (mmulSlot_traps hc) hr hn
  refine ⟨fun mode hr hm ht hs ha hq hg => ?_, fun hl hh => ⟨fun hr => ?_, fun hr hm => ?_, fun mode hr hm => ⟨fun ht => ?_,
    fun c ht hp => ?_, fun ht => ?_⟩⟩⟩
  · have hok : mmulCheck x dbl acc a m l = .ok fmt := (mmulCheck_fits hr hm ht).trans
      (chunkCheck_ok hs ha (fun q hn => (hq q hn).1) (fun q hn => (hq q hn).2) hg)
    exact takesEntry_of_commits (b := b) (runOwn_keeps hx h (mmulSlot_takes hok) rfl rfl)
  · exact traps hh ((mmulCheck_noFormat hr).trans (by rw [addrDetail_nat])) rfl (by decide)
  · exact traps hh (mmulCheck_badFormat hr hm) rfl (by decide)
  · exact traps hh (mmulCheck_noTag hr hm ht) rfl (by decide)
  · exact traps hh (mmulCheck_badPair hr hm ht hp) rfl (by decide)
  have chunkTraps {c d : Nat} (hc : x.chunkCheck a n fmt l = .error (c, d)) := traps hh ((mmulCheck_fits hr hm ht).trans hc)
  refine ⟨fun hs => chunkTraps (chunkCheck_noCover hs) rfl (by decide), fun hs ha => ?_, fun q hq hs ha hlow hbad => ?_,
    fun q hq hs ha hin hlow hbad => ?_, fun hs ha hq => ⟨fun hmx hg => ?_, fun hmx hg har => ?_⟩⟩
  · exact chunkTraps ((chunkCheck_unaligned hs ha).trans (by rw [addrDetail_nat])) rfl (by decide)
  · exact chunkTraps (chunkCheck_outside hs ha hq hlow hbad) rfl (by decide)
  · exact chunkTraps (chunkCheck_crossing hs ha hin hq hlow hbad) rfl (by decide)
  · exact chunkTraps (chunkCheck_groups hs ha (fun q hn => (hq q hn).1) (fun q hn => (hq q hn).2) hmx hg) rfl (by decide)
  · exact chunkTraps (chunkCheck_scales hs ha (fun q hn => (hq q hn).1) (fun q hn => (hq q hn).2) hmx hg har) rfl (by decide)

end Sys2Proof.Machine
end

section
namespace Sys2Proof.Machine

/-! ## Reading files (R23, R202) -/

/-- Values written at given indexes read back where all that an index is given agree. -/
theorem get_setAll_eq {α : Type} [DecidableEq α] (d : α) {j : Nat} {v : α} : ∀ (ps : List (Nat × α)) (c : Cells α),
    (∀ p ∈ ps, p.1 = j → p.2 = v) → (∃ p ∈ ps, p.1 = j) → Cells.get d (Cells.setAll d c ps) j = v
  | [], _, _, h => by simp at h
  | (i, w) :: ps, c, hv, h => by
    by_cases ht : ∃ p ∈ ps, p.1 = j
    · exact get_setAll_eq d ps _ (fun p hp => hv p (List.mem_cons_of_mem _ hp)) ht
    · have hi : i = j := by simpa [ht] using h
      subst hi
      rw [Cells.setAll, get_setAll_outside d i ps _ fun p hp hpi => ht ⟨p, hp, hpi⟩, get_set_self]
      exact hv (i, w) (List.mem_cons_self ..) rfl

/-- A canonical file listed from an index on. -/
theorem getElem?_dense {α : Type} [DecidableEq α] (d : α) : ∀ (n i : Nat) (c : Cells α), Cells.wfFrom d i c = true → ∀ j < n,
    (Cells.dense d i n c)[j]? = some (Cells.get d c (i + j))
  | 0, _, _, _, _, hj => absurd hj (Nat.not_lt_zero _)
  | n + 1, i, [], _, 0, _ => rfl
  | n + 1, i, [], h, j + 1, hj => getElem?_dense d n (i + 1) [] h j (Nat.lt_of_succ_lt_succ hj)
  | n + 1, i, (k, v) :: xs, h, j, hj => by
    simp only [Cells.wfFrom, Bool.and_eq_true, decide_eq_true_eq] at h
    obtain ⟨⟨hik, hv⟩, hxs⟩ := h
    rw [Cells.dense]
    split
    next hk =>
      subst hk
      cases j with
      | zero => simp [Cells.get]
      | succ j =>
        rw [List.getElem?_cons_succ, getElem?_dense d n (k + 1) xs hxs j (Nat.lt_of_succ_lt_succ hj), Cells.get, if_neg (by omega),
          Nat.add_right_comm, Nat.add_assoc]
    next hk =>
      cases j with
      | zero => rw [List.getElem?_cons_zero, get_eq_of_lt d ((k, v) :: xs) k (by omega) (by simp [Cells.wfFrom, hv, hxs])]
      | succ j =>
        have hw : Cells.wfFrom d (i + 1) ((k, v) :: xs) = true := by
          simp only [Cells.wfFrom, Bool.and_eq_true, decide_eq_true_eq]
          exact ⟨⟨by omega, hv⟩, hxs⟩
        rw [List.getElem?_cons_succ, getElem?_dense d n (i + 1) _ hw j (Nat.lt_of_succ_lt_succ hj), Nat.add_right_comm, Nat.add_assoc]

/-- The array made of a canonical file reads as the file. -/
theorem getD_dense {α : Type} [DecidableEq α] (d e : α) {n j : Nat} {c : Cells α} (h : Cells.wf d c = true) (hj : j < n) :
    (Cells.dense d 0 n c).toArray.getD j e = Cells.get d c j := by
  simp [Array.getD_eq_getD_getElem?, getElem?_dense d n 0 c h j hj]

end Sys2Proof.Machine
end

section
namespace Sys2Proof.Machine

/-! ## Reads of the scratchpad by the array (R208, R217) -/

/-- With no write since the instruction's commit an element has the bytes of the scratchpad. -/
theorem raceView_bytes {v : RaceView} (h : v.tile.raced.length ≤ v.since) (e : Nat) (a : Int) (n : Nat) :
    v.bytes e a n = (List.range n).map fun j => v.tile.byteAt (a.toNat + j) := by
  have hdrop (k : Nat) : v.tile.raced.drop (v.since + k) = [] := List.drop_eq_nil_of_le (by omega)
  simp only [RaceView.bytes, Tile.byteAfter, hdrop, afterStg, List.foldl_nil, List.find?_nil]
  rfl

/-- The bits of element j of row i of an A operand. -/
def Tile.bitsA (t : Tile) (fmt : Nat) (l : LayoutRec) (base i j : Nat) : Nat :=
  let c := (chunkAddr l base (i * chunksPerRow fmt + j * regionBits fmt / 8 / 16) + (j * regionBits fmt / 8 % 16 : Nat)).toNat
  if regionBits fmt = 4 then (t.byteAt c).toNat / 2 ^ (4 * (j % 2)) % 16
  else natOfBytes ((List.range (regionBits fmt / 8)).map fun k => t.byteAt (c + k))

/-- The exponent of its block's scale. -/
def Tile.scaleA (t : Tile) (fmt : Nat) (l : LayoutRec) (base i j : Nat) : Scale :=
  if isMx fmt then
    let v := (t.byteAt (mxScaleAddr fmt (t.k.regionDesc base)
      (chunkAddr l base (i * chunksPerRow fmt + j / 32 * (mxBlock fmt / 16))).toNat)).toNat
    if v = 0xFF then none else some ((v : Int) - 127)
  else some 0

theorem regionBits_cases (fmt : Nat) : regionBits fmt = 4 ∨ 8 ≤ regionBits fmt := by
  unfold regionBits
  split <;> decide

theorem aElem_unraced {v : RaceView} (h : v.tile.raced.length ≤ v.since) (fmt : Nat) (l : LayoutRec) (base i j : Nat) :
    aElem v fmt l base i j = (elemVal fmt (v.tile.bitsA fmt l base i j), v.tile.scaleA fmt l base i j) := by
  have hbyte (b : Byte) : natOfBytes [b] = b.toNat := by simp [natOfBytes]
  have hone (a : Nat) : (List.range 1).map (fun j => v.tile.byteAt (a + j)) = [v.tile.byteAt a] := rfl
  simp only [aElem, raceView_bytes h, Int.toNat_natCast, hone, hbyte, Tile.bitsA, Tile.scaleA]
  obtain hw | hw := regionBits_cases fmt
  · simp only [hw, show Nat.max 1 (4 / 8) = 1 from rfl, hone, hbyte, if_true]
    rfl
  · have hne : regionBits fmt ≠ 4 := by omega
    simp only [hne, show Nat.max 1 (regionBits fmt / 8) = regionBits fmt / 8 from Nat.max_eq_right (by omega), if_false]

end Sys2Proof.Machine
end

section
namespace Sys2Proof.Machine

/-! ## The words that a matrix multiply writes (R214-R216) -/

/-- The result of output element n of row i. -/
def mmulElem (v : RaceView) (mode : MMode) (acc : Nat) (zf : Bool) (fmt : Nat) (l : LayoutRec) (base i n : Nat) : Nat :=
  let m := v.tile.macros.toList.getD (acc / 2) MacroState.empty
  outElem mode (v.tile.k.numv == 1) (m.tag == .invalid) (if m.tag.code = 12 then fmtF32.decode m.tscale.toNat else FVal.ofNum 1)
    (if zf then 0 else accElem mode (Cells.dense 0 0 32768 v.tile.acc).toArray acc i n)
    ((List.range 128).map fun j => (aElem v fmt l base i j,
      m.weight (Cells.dense 0 0 16384 m.cells).toArray (Cells.dense 0 0 512 m.scales).toArray j n))

/-- The result of output element n of row i on the scratchpad's bytes of A and an old value of the accumulator. -/
def Tile.mmulOut (t : Tile) (mode : MMode) (acc : Nat) (zf : Bool) (fmt : Nat) (l : LayoutRec) (base i n old : Nat) : Nat :=
  let m := t.macros.toList.getD (acc / 2) MacroState.empty
  outElem mode (t.k.numv == 1) (m.tag == .invalid) (if m.tag.code = 12 then fmtF32.decode m.tscale.toNat else FVal.ofNum 1)
    (if zf then 0 else old)
    ((List.range 128).map fun j => ((elemVal fmt (t.bitsA fmt l base i j), t.scaleA fmt l base i j),
      m.weight (Cells.dense 0 0 16384 m.cells).toArray (Cells.dense 0 0 512 m.scales).toArray j n))

theorem mem_mmulWords {v : RaceView} {acc : Nat} {dbl zf : Bool} {rows fmt : Nat} {l : LayoutRec} {base : Nat} {mode : MMode}
    (hm : aMode dbl fmt = some mode) {p : Nat × Word} : p ∈ mmulWords v acc dbl zf rows fmt l base ↔
      ∃ i < rows, (∃ n < if dbl then 64 else 128, p ∈ outWords mode acc i n (mmulElem v mode acc zf fmt l base i n)) ∨
        dbl = true ∧ ∃ h < 2, ∃ c < 64, p = (2048 * (acc + h) + 128 * i + 64 + c, 0) := by
  simp only [mmulWords, hm, Option.getD_some, List.mem_flatMap, List.mem_append, List.mem_range, List.zip_map', mmulElem]
  refine exists_congr fun i => and_congr_right fun _ => or_congr_right ?_
  cases dbl <;> simp [List.mem_flatMap, eq_comm]

theorem aMode_single {fmt : Nat} {mode : MMode} (h : aMode false fmt = some mode) : mode ≠ .fp64 := by
  rintro rfl
  revert h
  simp only [aMode, Bool.false_eq_true, if_false]
  split
  · simp
  · split <;> simp

theorem aMode_double {fmt : Nat} {mode : MMode} (h : aMode true fmt = some mode) : mode = .fp64 := by
  revert h
  simp only [aMode, if_true]
  split <;> simp [eq_comm]

/-- The words of output element n of row i of a 32-bit result begin here, and those of column n of a plain accumulator. -/
def accWord (acc i n : Nat) : Nat := 2048 * acc + 128 * i + n

/-- The low word of output element n of row i of a 64-bit result: the pair holds 32 columns in each accumulator (R215). -/
def pairWord (acc i n : Nat) : Nat := accWord acc i (2 * (n % 32)) + 2048 * (n / 32)

section
variable {v : RaceView} {acc : Nat} {zf : Bool} {rows fmt : Nat} {l : LayoutRec} {base : Nat} {mode : MMode}

/-- MMUL writes one word for each output element. -/
theorem mem_mmulWords_single (hm : aMode false fmt = some mode) {p : Nat × Word} : p ∈ mmulWords v acc false zf rows fmt l base ↔
    ∃ i < rows, ∃ n < 128, p = (accWord acc i n, BitVec.ofNat 32 (mmulElem v mode acc zf fmt l base i n)) := by
  have hout (i n w : Nat) : outWords mode acc i n w = [(accWord acc i n, BitVec.ofNat 32 w)] := by
    cases mode with
    | float => rfl
    | int => rfl
    | fp64 => exact absurd rfl (aMode_single hm)
  rw [mem_mmulWords hm]
  simp only [hout, List.mem_singleton, Bool.false_eq_true, if_false, false_and, or_false]

/-- MMULD writes two words for each output element, and zeros beside them. -/
theorem mem_mmulWords_double (hm : aMode true fmt = some mode) {p : Nat × Word} : p ∈ mmulWords v acc true zf rows fmt l base ↔
    ∃ i < rows, (∃ n < 64, p = (pairWord acc i n, BitVec.ofNat 32 (mmulElem v mode acc zf fmt l base i n)) ∨
        p = (pairWord acc i n + 1, BitVec.ofNat 32 (mmulElem v mode acc zf fmt l base i n / 2 ^ 32))) ∨
      ∃ h < 2, ∃ c < 64, p = (accWord acc i (64 + c) + 2048 * h, 0) := by
  have hout (i n w : Nat) : outWords mode acc i n w = [(pairWord acc i n, BitVec.ofNat 32 w), (pairWord acc i n + 1, BitVec.ofNat 32 (w / 2 ^ 32))] := by
    have hat : 2048 * (acc + n / 32) + 128 * i + 2 * (n % 32) = pairWord acc i n := by unfold pairWord accWord; omega
    rw [aMode_double hm, ← hat]
    rfl
  have hzero (i h c : Nat) : 2048 * (acc + h) + 128 * i + 64 + c = accWord acc i (64 + c) + 2048 * h := by unfold accWord; omega
  rw [mem_mmulWords hm]
  simp only [hout, hzero, List.mem_cons, List.not_mem_nil, or_false, if_true, true_and]

section
variable (t : Tile) (hm : aMode false fmt = some mode)
include hm

theorem get_mmulWords_single {i n : Nat} (hi : i < rows) (hn : n < 128) :
    Cells.get 0 (t.setAcc (mmulWords v acc false zf rows fmt l base)).acc (accWord acc i n) =
      BitVec.ofNat 32 (mmulElem v mode acc zf fmt l base i n) := by
  refine get_setAll_eq 0 _ _ (fun p hp hpi => ?_) ⟨_, (mem_mmulWords_single hm).mpr ⟨i, hi, n, hn, rfl⟩, rfl⟩
  obtain ⟨i', -, n', hn', rfl⟩ := (mem_mmulWords_single hm).mp hp
  have h : accWord acc i' n' = accWord acc i n := hpi
  unfold accWord at h
  obtain rfl : i' = i := by omega
  obtain rfl : n' = n := by omega
  rfl

end

section
variable (t : Tile) (hm : aMode true fmt = some mode)
include hm

theorem get_mmulWords_zero {i h c : Nat} (hi : i < rows) (hh : h < 2) (hc : c < 64) :
    Cells.get 0 (t.setAcc (mmulWords v acc true zf rows fmt l base)).acc (accWord acc i (64 + c) + 2048 * h) = 0 := by
  refine get_setAll_eq 0 _ _ (fun p hp hpi => ?_) ⟨_, (mem_mmulWords_double hm).mpr ⟨i, hi, .inr ⟨h, hh, c, hc, rfl⟩⟩, rfl⟩
  obtain ⟨i', hi', ⟨n', hn', rfl | rfl⟩ | ⟨h', hh', c', hc', rfl⟩⟩ := (mem_mmulWords_double hm).mp hp
  · simp only [pairWord, accWord] at hpi
    omega
  · simp only [pairWord, accWord] at hpi
    omega
  · rfl

variable (hrows : rows ≤ 16)
include hrows

theorem get_mmulWords_low {i n : Nat} (hi : i < rows) (hn : n < 64) :
    Cells.get 0 (t.setAcc (mmulWords v acc true zf rows fmt l base)).acc (pairWord acc i n) =
      BitVec.ofNat 32 (mmulElem v mode acc zf fmt l base i n) := by
  refine get_setAll_eq 0 _ _ (fun p hp hpi => ?_) ⟨_, (mem_mmulWords_double hm).mpr ⟨i, hi, .inl ⟨n, hn, .inl rfl⟩⟩, rfl⟩
  obtain ⟨i', hi', ⟨n', hn', rfl | rfl⟩ | ⟨h, hh, c, hc, rfl⟩⟩ := (mem_mmulWords_double hm).mp hp <;>
    simp only [pairWord, accWord] at hpi
  · obtain rfl : i' = i := by omega
    obtain rfl : n' = n := by omega
    rfl
  · omega
  · omega

theorem get_mmulWords_high {i n : Nat} (hi : i < rows) (hn : n < 64) :
    Cells.get 0 (t.setAcc (mmulWords v acc true zf rows fmt l base)).acc (pairWord acc i n + 1) =
      BitVec.ofNat 32 (mmulElem v mode acc zf fmt l base i n / 2 ^ 32) := by
  refine get_setAll_eq 0 _ _ (fun p hp hpi => ?_) ⟨_, (mem_mmulWords_double hm).mpr ⟨i, hi, .inl ⟨n, hn, .inr rfl⟩⟩, rfl⟩
  obtain ⟨i', hi', ⟨n', hn', rfl | rfl⟩ | ⟨h, hh, c, hc, rfl⟩⟩ := (mem_mmulWords_double hm).mp hp <;>
    simp only [pairWord, accWord] at hpi
  · omega
  · obtain rfl : i' = i := by omega
    obtain rfl : n' = n := by omega
    rfl
  · omega

end

/-- No word is written but those of the rows in the accumulator, or in both of the pair. -/
theorem mmulWords_inside {dbl : Bool} (hm : aMode dbl fmt = some mode) {p : Nat × Word} (hp : p ∈ mmulWords v acc dbl zf rows fmt l base) :
    ∃ i n h, i < rows ∧ n < 128 ∧ h < (if dbl then 2 else 1) ∧ p.1 = 2048 * h + accWord acc i n := by
  cases dbl with
  | false =>
    obtain ⟨i, hi, n, hn, rfl⟩ := (mem_mmulWords_single hm).mp hp
    exact ⟨i, n, 0, hi, hn, by simp, by simp⟩
  | true =>
    obtain ⟨i, hi, ⟨n, hn, rfl | rfl⟩ | ⟨h, hh, c, hc, rfl⟩⟩ := (mem_mmulWords_double hm).mp hp
    · exact ⟨i, 2 * (n % 32), n / 32, hi, by omega, by simp; omega, by simp only [pairWord]; omega⟩
    · exact ⟨i, 2 * (n % 32) + 1, n / 32, hi, by omega, by simp; omega, by simp only [pairWord, accWord]; omega⟩
    · exact ⟨i, 64 + c, h, hi, by omega, by simpa using hh, by simp only []; omega⟩

/-- With no write to the scratchpad since the instruction's commit the result is that on the bytes that stand there. -/
theorem mmulElem_unraced (h : v.tile.raced.length ≤ v.since) (i n : Nat) : mmulElem v mode acc zf fmt l base i n =
    v.tile.mmulOut mode acc zf fmt l base i n (accElem mode (Cells.dense 0 0 32768 v.tile.acc).toArray acc i n) := by
  simp only [mmulElem, Tile.mmulOut, aElem_unraced h]

variable {accs : Cells Word} (hw : Cells.wf 0 accs = true) {i n : Nat} (hi : i < 16)
include hw hi

theorem accElem_single (hm : mode ≠ .fp64) (hacc : acc < 16) (hn : n < 128) :
    accElem mode (Cells.dense 0 0 32768 accs).toArray acc i n = (Cells.get 0 accs (accWord acc i n)).toNat := by
  rw [← getD_dense 0 0 hw (n := 32768) (by unfold accWord; omega)]
  cases mode with
  | float => rfl
  | int => rfl
  | fp64 => exact absurd rfl hm

theorem accElem_double (hacc : acc < 15) (hn : n < 64) : accElem .fp64 (Cells.dense 0 0 32768 accs).toArray acc i n =
    (Cells.get 0 accs (pairWord acc i n)).toNat + 2 ^ 32 * (Cells.get 0 accs (pairWord acc i n + 1)).toNat := by
  have hat : 2048 * (acc + n / 32) + 128 * i + 2 * (n % 32) = pairWord acc i n := by unfold pairWord accWord; omega
  rw [← getD_dense 0 0 hw (n := 32768) (by unfold pairWord accWord; omega), ← getD_dense 0 0 hw (n := 32768) (by unfold pairWord accWord; omega),
    ← hat]
  rfl

end

end Sys2Proof.Machine
end

section
namespace Sys2Proof.Machine

/-! ## Write-backs of matrix work (R203, R209, R217) -/

theorem fetchStarts_length (steps : Nat) : ∀ (ds : List Nat) (fe nom s1 s2 : Nat), (fetchStarts steps ds fe nom s1 s2).length = ds.length
  | [], _, _, _, _ => rfl
  | d :: ds, _, _, _, _ => by simp only [fetchStarts, List.length_cons, fetchStarts_length steps ds]

/-- The cycles that turns take beyond the first, whenever each begins. -/
theorem extraCycles_zip_length : ∀ (cs : List Nat) (rows : List (List Nat × Nat)), cs.length = rows.length →
    ((cs.zip rows).flatMap fun x => extraCycles x.1 x.2.1).length = (rows.map fun r => r.1.sum).sum
  | [], [], _ => rfl
  | c :: cs, r :: rows, h => by
    rw [List.zip_cons_cons, List.flatMap_cons, List.length_append, extraCycles_length,
      extraCycles_zip_length cs rows (Nat.succ.inj h), List.map_cons, List.sum_cons]

/-- The conflict cycles of a matrix multiply's fetches (R209). -/
theorem slowCycles_mmul {t : Tile} {e : SbEntry} {acc fmt : BitVec 4} {dbl zf : Bool} {rows : Nat} {l : LayoutRec} {base : Word} {since : Nat}
    (hw : e.work = .mmul acc dbl zf rows fmt l base since) (c : Nat) :
    (t.slowCycles e c).length = fetchConflicts t.k l base.toNat rows (chunksPerRow fmt.toNat) := by
  rw [Tile.slowCycles, hw]
  refine (extraCycles_zip_length _ _ (by rw [fetchStarts_length, List.length_map])).trans ?_
  simp only [hw, fetchConflicts, List.map_map]
  rfl

section
variable {t : Tile} {m : Fin 8} (d : Nat)

/-- Weights of which no fill has failed stand. -/
theorem settleMacro_filled (h : (t.macros[m]).fails = none) : t.settleMacro m d = t := by
  simp only [Tile.settleMacro, h]

/-- One with a failed fill behind earlier work waits for that. -/
theorem settleMacro_waits {q : Nat} (h : (t.macros[m]).fails = some q) (hb : t.macroBusy m.val q = true) : t.settleMacro m d = t := by
  simp only [Tile.settleMacro, h, hb, if_true]

/-- With the earlier work done the weights are those of the failed fill. -/
theorem settleMacro_fails {q : Nat} (h : (t.macros[m]).fails = some q) (hb : t.macroBusy m.val q = false) :
    t.settleMacro m d = { t with macros := t.macros.set m.val (failedMacro t.macros[m] d) m.isLt } := by
  simp only [Tile.settleMacro, h, hb, Bool.false_eq_true, if_false]

/-- What settles depends on the macros and on what pends, and the macros alone change. -/
theorem settleMacro_congr {u : Tile} (hm : u.macros = t.macros) (hs : u.sb = t.sb) (hc : u.copyq = t.copyq) :
    u.settleMacro m d = { u with macros := (t.settleMacro m d).macros } := by
  have hbusy (n q : Nat) : u.macroBusy n q = t.macroBusy n q := by rw [Tile.macroBusy, Tile.macroBusy, hs, hc]
  have hself : { u with macros := t.macros } = u := by rw [← hm]
  cases hf : (t.macros[m]).fails with
  | none => rw [settleMacro_filled d (by rw [hm]; exact hf), settleMacro_filled d hf, hself]
  | some q =>
    cases hb : t.macroBusy m.val q with
    | true => rw [settleMacro_waits d (by rw [hm]; exact hf) ((hbusy ..).trans hb), settleMacro_waits d hf hb, hself]
    | false => rw [settleMacro_fails d (by rw [hm]; exact hf) ((hbusy ..).trans hb), settleMacro_fails d hf hb, hm]

end

/-- What finished matrix work leaves of its tile. -/
theorem data_workDone (t : Tile) {e : SbEntry} (hx : e.isMatrix = true) (m : Fin 8) (c d : Nat) : (t.workDone e m c d).data =
    (((t.addAconf ((t.slowCycles e c).drop e.paid).length).worked e).settleMacro m d).data := by
  have hcount : t.countRest e c = { t.addAconf ((t.slowCycles e c).drop e.paid).length with
      pipe := { t.pipe with acounts := t.pipe.acounts ++ ((t.slowCycles e c).drop e.paid).map fun x => (x, 1) } } := if_pos hx
  have hfinish := settleMacro_congr (m := m) d (t := { t with sb := t.sb.erase e }) (u := ((t.countRest e c).entryDone e c).macroDone m c)
    (by rw [hcount]; rfl) (by rw [hcount]; rfl) (by rw [hcount]; rfl)
  have hworked := settleMacro_congr (m := m) d (t := { t with sb := t.sb.erase e })
    (u := (t.addAconf ((t.slowCycles e c).drop e.paid).length).worked e) rfl rfl rfl
  rw [Tile.workDone, hfinish, hworked, hcount]
  generalize (Tile.settleMacro { t with sb := t.sb.erase e } m d).macros = macs
  by_cases h : (t.sb.erase e).any SbEntry.isMatrix = true
  · refine (congrArg Tile.data (if_pos h)).trans ?_
    simp only [Tile.worked, Tile.addAconf, h, if_true]
    rfl
  · refine (congrArg Tile.data (if_neg h)).trans ?_
    simp only [Tile.worked, Tile.addAconf, h]
    rfl

/-- A write-back that takes a free value changes its tile alone. -/
theorem onlyTile_backDone (s : State) (f : TileId) (z : Tile) (n : Nat) :
    OnlyTile f { s with draws := n } { s.backDone f z with draws := n } ∧ (({ s.backDone f z with draws := n } : State).tile f).data = z.data := by
  refine ⟨⟨rfl, fun _ hj => tile_setTile_ne s _ hj⟩, ?_⟩
  show ((s.backDone f z).tile f).data = _
  rw [State.backDone, tile_setTile]
  rfl

section
variable {s : State} {f : TileId} {num : BitVec 4} {ent : SbEntry} {acc fmt : BitVec 4} {dbl zf : Bool} {rows : Nat} {l : LayoutRec}
  {base : Word} {since : Nat} (h : (s.tile f).Pends num ent) (hw : ent.work = .mmul acc dbl zf rows fmt l base since)
include h hw

/-- The write-back of a matrix multiply that no earlier work on its weights holds up, with the posts due of its tile's streams come. -/
theorem exec_mmulWriteback (hb : (s.tile f).macroBusy (acc.toNat / 2) ent.seqNo = false)
    (hp : s.postsDue f ((s.tile f).backCycle f ent) = false) : exec (.mmulWriteback f num) s =
      .next { s.backDone f (((s.tile f).setAcc (mmulWords ⟨s.tile f, ent.seqNo, since, s.draws⟩ acc.toNat dbl zf rows fmt.toNat l base.toNat)).workDone
        ent (macroNo (acc.toNat / 2)) ((s.tile f).backCycle f ent) s.draws) with draws := s.draws + 1 } := by
  show execMmulWriteback f num s = _
  simp only [execMmulWriteback, entry?_of_pends h, hw, hb, hp, Bool.or_self, Bool.false_eq_true, if_false]

end

/-- Settles O39: the write-back leaves what `data_workDone` says, its words are those of `mem_mmulWords`, and what they are made of is
`mmulElem_unraced`. -/
theorem matrixWriteBackFillsItsRows : Obligations.MatrixWriteBackFillsItsRows := by
  intro s f num ent acc fmt dbl zf rows l base since h hw hrows heven hwf hbusy hposts x mode hmode
  let v : RaceView := ⟨x, ent.seqNo, since, s.draws⟩
  have hx : ent.isMatrix = true := by rw [SbEntry.isMatrix, hw]
  obtain ⟨honly, hdata⟩ := onlyTile_backDone s f ((x.setAcc (mmulWords v acc.toNat dbl zf rows fmt.toNat l base.toNat)).workDone
    ent (macroNo (acc.toNat / 2)) (x.backCycle f ent) s.draws) (s.draws + 1)
  refine ⟨_, x.setAcc (mmulWords v acc.toNat dbl zf rows fmt.toNat l base.toNat), exec_mmulWriteback h hw hbusy hposts, honly, ?_, rfl, ?_⟩
  · rw [hdata, data_workDone _ hx, List.length_drop, slowCycles_mmul hw]
    rfl
  refine ⟨fun c hc => ?_, fun hraced => ⟨fun hd i n hi hn => ?_, fun hd i n hi hn => ?_⟩⟩
  · refine get_setAll_outside 0 c _ _ fun p hp hpc => hc ?_
    obtain ⟨i, n, k, hi, hn, hk, hpi⟩ := mmulWords_inside hmode hp
    exact ⟨i, n, k, hi, hn, hk, hpc.symm.trans hpi⟩
  · subst hd
    refine (get_mmulWords_single x hmode hi hn).trans (congrArg (BitVec.ofNat 32) ?_)
    rw [mmulElem_unraced hraced, accElem_single hwf (by omega) (aMode_single hmode) acc.isLt hn]
    rfl
  · subst hd
    have hpair : acc.toNat % 2 = 0 := by simpa [BitVec.getLsbD, Nat.testBit_zero] using heven rfl
    have hacc : acc.toNat < 15 := by have := acc.isLt; omega
    obtain rfl := aMode_double hmode
    have hval := mmulElem_unraced (mode := .fp64) (acc := acc.toNat) (zf := zf) (fmt := fmt.toNat) (l := l) (base := base.toNat) (v := v) hraced i n
    rw [accElem_double hwf (by omega) hacc hn] at hval
    refine ⟨(get_mmulWords_low x hmode hrows hi hn).trans (congrArg (BitVec.ofNat 32) hval),
      (get_mmulWords_high x hmode hrows hi hn).trans (congrArg (fun v => BitVec.ofNat 32 (v / 2 ^ 32)) hval),
      get_mmulWords_zero x hmode (h := 0) hi (by decide) hn,
      (congrArg (Cells.get 0 _) (Nat.add_comm ..)).trans (get_mmulWords_zero x hmode (h := 1) hi (by decide) hn)⟩

end Sys2Proof.Machine
end

section
namespace Sys2Proof.Machine

/-! ## MLDW and MSTREAM at the slot (R219, R222) -/

/-- The format in which a weight image is read: that of the region, or the override of MCFG. -/
def Tile.formatB (t : Tile) (a : Nat) : Nat :=
  if (t.k.mcfg.extractLsb' 0 4).toNat = 0 then regionFmt t.k a else (t.k.mcfg.extractLsb' 0 4).toNat

/-- There is such a format: MCFG overrides it, or the address names a region. -/
def Tile.hasFormatB (t : Tile) (a : Nat) : Prop := (t.k.mcfg.extractLsb' 0 4).toNat ≠ 0 ∨ a ≤ 0x1FFFFF

section
variable {t : Tile} {a : Nat} (hr : t.hasFormatB a)
include hr

/-- With a format known, the checks of the format, the address and the scale area are left. -/
theorem mldwCheck_hasFormat : mldwCheck t a =
    if !(decide (2 ≤ t.formatB a) && decide (t.formatB a ≤ 10)) then .error (0x14, 0x01)
    else (addrFault a (imageData (t.formatB a)) 256).elim
      (if isMx (t.formatB a) && decide (spadSize < mxOff (t.k.regionDesc a) + mxArea (t.formatB a)) then .error (0x14, 0x07)
        else .ok (t.formatB a))
      fun c => .error (c, addrDetail a) := by
  have hpass : ¬ ((t.k.mcfg.extractLsb' 0 4).toNat = 0 ∧ 0x1FFFFF < a) := by unfold Tile.hasFormatB at hr; omega
  simp only [mldwCheck, if_neg hpass, Tile.formatB]
  cases addrFault a (imageData (if (t.k.mcfg.extractLsb' 0 4).toNat = 0 then regionFmt t.k a else (t.k.mcfg.extractLsb' 0 4).toNat)) 256 <;> rfl

theorem mldwCheck_badFormat (h : ¬ (2 ≤ t.formatB a ∧ t.formatB a ≤ 10)) : mldwCheck t a = .error (0x14, 0x01) := by
  rw [mldwCheck_hasFormat hr, if_pos (by simpa only [Bool.not_eq_true', Bool.and_eq_false_iff, decide_eq_false_iff_not, not_and_or] using h)]

variable (h2 : 2 ≤ t.formatB a) (h10 : t.formatB a ≤ 10) (hok : AddrOk a (imageData (t.formatB a)) 256)
include h2 h10 hok

theorem mldwCheck_lies : mldwCheck t a =
    if isMx (t.formatB a) && decide (spadSize < mxOff (t.k.regionDesc a) + mxArea (t.formatB a)) then .error (0x14, 0x07)
    else .ok (t.formatB a) := by
  rw [mldwCheck_hasFormat hr, if_neg (by simp [h2, h10]), addrFault_none hok]
  rfl

theorem mldwCheck_ok (hs : isMx (t.formatB a) = true → t.scalesFit a (t.formatB a)) : mldwCheck t a = .ok (t.formatB a) := by
  rw [mldwCheck_lies hr h2 h10 hok, (scalesTest_eq_false t a _).mpr hs]
  rfl

theorem mldwCheck_scales (hx : isMx (t.formatB a) = true) (hs : ¬ t.scalesFit a (t.formatB a)) : mldwCheck t a = .error (0x14, 0x07) :=
  (mldwCheck_lies hr h2 h10 hok).trans (if_pos (Bool.eq_true_of_not_eq_false fun hf => hs ((scalesTest_eq_false t a _).mp hf hx)))

end

/-- The slot function of MLDW. -/
def mldwSlot (mac : BitVec 3) (sa : SReg) : SlotFn := fun _ _ t b =>
  match mldwCheck t (t.sreg sa).toNat with
  | .error (c, d) => .trap c d
  | .ok fmt => .keep (t.addEntry b (.mldw mac (BitVec.ofNat 4 fmt) (t.sreg sa).toNat t.raced.length))

theorem exec_mldw (mac : BitVec 3) (sa : SReg) (s : State) : exec (.mldw mac sa) s = s.runOwn "MLDW" (.mldw mac sa) (mldwSlot mac sa) := rfl

theorem exec_mstream (mac : BitVec 3) (sa : SReg) (sem : BitVec 6) (s : State) : exec (.mstream mac sa sem) s =
    s.runOwn "MSTREAM" (.mstream mac sa sem) (queueSlot sa (some (mac, sem)) fun _ _ _ d => streamCheck d) := rfl

section
variable {s : State} {b : Inflight} {mac : BitVec 3} {sa : SReg} (h : s.own.At (.mldw mac sa) b)
include h

theorem mldw_takes {fmt : Nat} (hc : mldwCheck s.own.here (s.own.here.sreg sa).toNat = .ok fmt) : TakesEntry s.own (.mldw mac sa) s
    (.mldw mac (BitVec.ofNat 4 fmt) (s.own.here.sreg sa).toNat s.own.here.raced.length) :=
  takesEntry_of_commits (b := b) (runOwn_keeps (exec_mldw mac sa) h (by simp only [mldwSlot, hc]) rfl rfl)

theorem mldw_traps {l : Launch} {c d : Nat} (hl : s.own.Handles l) (hc : mldwCheck s.own.here (s.own.here.sreg sa).toNat = .error (c, d))
    (hr : routeH c = true) (hn : c ≠ 0x0A) : TrapsFrom s.own (.mldw mac sa) s b l c d :=
  runOwn_traps (exec_mldw mac sa) h hl (by simp only [mldwSlot, hc]) hr hn

end

end Sys2Proof.Machine
end

section
namespace Sys2Proof.Machine

/-! ## Weight images (R218, R219) -/

theorem getD_toArray {α : Type} (xs : List α) (i : Nat) (d : α) : xs.toArray.getD i d = xs.getD i d := by
  rw [Array.getD_eq_getD_getElem?, List.getElem?_toArray, List.getD_eq_getElem?_getD]

/-- The weights and block scales are those of an image whose bytes two functions give. -/
def MacroState.Holds (mac : MacroState) (fmt : Nat) (data scale : Nat → Byte) : Prop :=
  (fmt ≠ 10 → ∀ k n, k < 128 → n < 128 → Cells.get 0 mac.cells (128 * k + n) = BitVec.ofNat 32 (elemOf (regionBits fmt) data (128 * n + k))) ∧
  (fmt = 10 → ∀ k n, k < 128 → n < 64 →
    let v := elemOf 64 data (128 * n + k)
    Cells.get 0 mac.cells (128 * k + 2 * n) = BitVec.ofNat 32 v ∧ Cells.get 0 mac.cells (128 * k + 2 * n + 1) = BitVec.ofNat 32 (v / 2 ^ 32)) ∧
  (isMx fmt = true → ∀ q < 512, Cells.get 0 mac.scales q = scale q)

/-- The cell of a weight. -/
theorem get_fillMacro (fmt : Nat) (data scale : Nat → Byte) (book : List Word) (t : Word) {k n : Nat} (hk : k < 128) (hn : n < 128) :
    Cells.get 0 (fillMacro fmt data scale book t).cells (128 * k + n) =
      if fmt = 10 then
        BitVec.ofNat 32 (if n % 2 = 0 then elemOf 64 data (128 * (n / 2) + k) else elemOf 64 data (128 * (n / 2) + k) / 2 ^ 32)
      else if fmt = 12 then
        let idx := elemOf 16 data (16 * n + k / 8)
        BitVec.ofNat 32 (wrap (vq2Weight (book.getD (idx / 256) 0) idx (k % 8)) 16)
      else BitVec.ofNat 32 (elemOf (regionBits fmt) data (128 * n + k)) := by
  have hdiv : (128 * k + n) / 128 = k := by omega
  have hmod : (128 * k + n) % 128 = n := by omega
  simp only [fillMacro]
  rw [get_tabulate 0 _ (by omega)]
  simp only [hdiv, hmod, getD_toArray]

theorem fillMacro_holds {fmt : Nat} (hf : fmt ≠ 12) (data scale : Nat → Byte) (book : List Word) (t : Word) :
    (fillMacro fmt data scale book t).Holds fmt data scale := by
  refine ⟨fun h k n hk hn => ?_, fun h k n hk hn => ⟨?_, ?_⟩, fun h q hq => ?_⟩
  · rw [get_fillMacro fmt data scale book t hk hn, if_neg h, if_neg hf]
  · rw [get_fillMacro fmt data scale book t hk (by omega), if_pos h, if_pos (by omega), Nat.mul_div_cancel_left n (by decide)]
  · rw [Nat.add_assoc, get_fillMacro fmt data scale book t hk (by omega), if_pos h, if_neg (by omega), show (2 * n + 1) / 2 = n by omega]
  · have hscales : imageScales fmt = 512 := by simp [imageScales, h]
    simp only [fillMacro]
    rw [get_tabulate 0 scale (by rw [hscales]; exact hq)]

theorem fillMacro_tag (fmt : Nat) (data scale : Nat → Byte) (book : List Word) (t : Word) :
    (fillMacro fmt data scale book t).tag = .fmt (BitVec.ofNat 4 fmt) := rfl
theorem fillMacro_fails (fmt : Nat) (data scale : Nat → Byte) (book : List Word) (t : Word) :
    (fillMacro fmt data scale book t).fails = none := rfl
theorem fillMacro_tscale (fmt : Nat) (data scale : Nat → Byte) (book : List Word) (t : Word) :
    (fillMacro fmt data scale book t).tscale = if fmt = 12 then t else 0x3F800000 := rfl

/-- With no write to the scratchpad since the commit a block's bytes are those that stand there. -/
theorem blockByte_unraced {v : RaceView} (h : v.tile.raced.length ≤ v.since) {w : Nat} (hw : w = 4 ∨ 8 ≤ w) (a j : Nat) :
    v.blockByte w a j = v.tile.byteAt (a + j) := by
  unfold RaceView.blockByte
  simp only [raceView_bytes h, Int.toNat_natCast]
  obtain rfl | hw := hw
  · have hnibbles (b : Byte) : BitVec.ofNat 8 (bits (natOfBytes [b]) 0 4 + 16 * bits (natOfBytes [b]) 4 4) = b := by
      revert b; decide
    exact hnibbles (v.tile.byteAt (a + j))
  · have hu : 0 < w / 8 := by omega
    rw [if_neg (by omega), List.getD_eq_getElem?_getD, List.getElem?_map, List.getElem?_range (Nat.mod_lt j hu), Option.map_some,
      Option.getD_some, Nat.add_assoc, Nat.mul_comm, Nat.div_add_mod]

end Sys2Proof.Machine
end

section
namespace Sys2Proof.Machine

/-! ## Macros that are filled or fail (R203, R218, R225) -/

theorem macroNo_toNat (m : BitVec 3) : macroNo m.toNat = ⟨m.toNat, m.isLt⟩ := Fin.ext (Nat.mod_eq_of_lt m.isLt)

theorem get_set_macroNo (ms : Vector MacroState 8) (m : BitVec 3) (mac : MacroState) :
    (ms.set m.toNat mac m.isLt)[macroNo m.toNat] = mac := by
  simp only [macroNo_toNat]
  exact Vector.getElem_set_self ..

/-- Weights whose fill did not fail stand, whatever pends. -/
theorem settleMacro_set {t : Tile} {m : BitVec 3} {mac : MacroState} (h : mac.fails = none) (d : Nat) :
    Tile.settleMacro { t with macros := t.macros.set m.toNat mac m.isLt } (macroNo m.toNat) d =
      { t with macros := t.macros.set m.toNat mac m.isLt } :=
  settleMacro_filled d (by rw [get_set_macroNo]; exact h)

/-- Weights marked by a failed fill: with earlier work on them pending the mark stands, and else they become those of the failed fill. -/
theorem settleMacro_marked {t : Tile} {m : BitVec 3} {mac : MacroState} {q : Nat} (h : mac.fails = some q) (d : Nat) :
    Tile.settleMacro { t with macros := t.macros.set m.toNat mac m.isLt } (macroNo m.toNat) d =
      { t with macros := t.macros.set m.toNat (if t.macroBusy m.toNat q then mac else failedMacro mac d) m.isLt } := by
  have hfails : (Tile.macros { t with macros := t.macros.set m.toNat mac m.isLt })[macroNo m.toNat].fails = some q := by
    rw [get_set_macroNo]
    exact h
  have hbusy : Tile.macroBusy { t with macros := t.macros.set m.toNat mac m.isLt } (macroNo m.toNat).val q = t.macroBusy m.toNat q := by
    rw [macroNo_toNat]
    rfl
  cases hb : t.macroBusy m.toNat q with
  | true =>
    rw [settleMacro_waits d hfails (hbusy.trans hb)]
    rfl
  | false =>
    rw [settleMacro_fails d hfails (hbusy.trans hb), get_set_macroNo]
    simp only [macroNo_toNat, Vector.set_set]
    rfl

/-- A stream that leaves the queue takes nothing off what was issued before it. -/
theorem macroBusy_leaves (t : Tile) (m q : Nat) : Tile.macroBusy { t with copyq := t.copyq.filter fun c => c.id != q } m q = t.macroBusy m q := by
  have hmem (p : CopyCmd → Bool) : ((t.copyq.filter fun c => c.id != q).any fun c => p c && decide (c.id < q)) =
      t.copyq.any fun c => p c && decide (c.id < q) := by
    rw [List.any_filter]
    refine congrArg t.copyq.any (funext fun c => ?_)
    by_cases hlt : c.id < q
    · simp [hlt, Nat.ne_of_lt hlt]
    · simp [hlt]
  exact congrArg (_ || ·) (hmem fun c => c.fills m)

/-- The weights that an MLDW places, of the bytes as its fetches find them. -/
def RaceView.imageMacro (v : RaceView) (fmt a : Nat) : MacroState :=
  fillMacro fmt (v.blockByte (regionBits fmt) a)
    (fun q => (v.bytes (100000 + q) (mxScaleAddr fmt (v.tile.k.regionDesc a) (a + q * mxBlock fmt) : Nat) 1).getD 0 0) [] 0

/-- With no write to the scratchpad since the commit it holds the image that stands there. -/
theorem imageMacro_holds {v : RaceView} {fmt a : Nat} (hf : fmt ≠ 12) (h : v.tile.raced.length ≤ v.since) :
    (v.imageMacro fmt a).Holds fmt (fun j => v.tile.byteAt (a + j))
      fun q => v.tile.byteAt (mxScaleAddr fmt (v.tile.k.regionDesc a) (a + q * mxBlock fmt)) := by
  have hdata : v.blockByte (regionBits fmt) a = fun j => v.tile.byteAt (a + j) := funext (blockByte_unraced h (regionBits_cases fmt) a)
  have hscale (q : Nat) : (v.bytes (100000 + q) (mxScaleAddr fmt (v.tile.k.regionDesc a) (a + q * mxBlock fmt) : Nat) 1).getD 0 0 =
      v.tile.byteAt (mxScaleAddr fmt (v.tile.k.regionDesc a) (a + q * mxBlock fmt)) := by
    rw [raceView_bytes h]
    rfl
  unfold RaceView.imageMacro
  simp only [hdata, hscale]
  exact fillMacro_holds hf _ _ [] 0

section
variable {s : State} {f : TileId} {num : BitVec 4} {ent : SbEntry} {m : BitVec 3} {fmt : BitVec 4} {a since : Nat}
  (h : (s.tile f).Pends num ent) (hw : ent.work = .mldw m fmt a since) (hb : (s.tile f).macroBusy m.toNat ent.seqNo = false)
include h hw hb

/-- The write-back of an MLDW that no earlier work on its weights holds up. -/
theorem exec_mldwFillDone : exec (.mldwFillDone f num) s = .next { s.backDone f
      (Tile.workDone { s.tile f with
        macros := (s.tile f).macros.set m.toNat (RaceView.imageMacro ⟨s.tile f, ent.seqNo, since, s.draws⟩ fmt.toNat a) m.isLt }
        ent (macroNo m.toNat) ((s.tile f).backCycle f ent) s.draws) with draws := s.draws + 1 } := by
  show execMldwFillDone f num s = _
  simp only [execMldwFillDone, entry?_of_pends h, hw, hb, Bool.false_eq_true, if_false]
  rfl

end

/-- What a finished MLDW leaves of its tile. -/
theorem data_workDone_mldw {t : Tile} {e : SbEntry} {m : BitVec 3} {fmt : BitVec 4} {a since : Nat} (hw : e.work = .mldw m fmt a since)
    {mac : MacroState} (hf : mac.fails = none) (c d : Nat) :
    (Tile.workDone { t with macros := t.macros.set m.toNat mac m.isLt } e (macroNo m.toNat) c d).data =
      (Tile.worked { t with macros := t.macros.set m.toNat mac m.isLt } e).data := by
  have hslow : Tile.slowCycles { t with macros := t.macros.set m.toNat mac m.isLt } e c = [] := by rw [Tile.slowCycles, hw]
  have hcount : Tile.addAconf { t with macros := t.macros.set m.toNat mac m.isLt } 0 = { t with macros := t.macros.set m.toNat mac m.isLt } := by
    simp only [Tile.addAconf, satAdd32_zero]
  rw [data_workDone _ (by rw [SbEntry.isMatrix, hw]), hslow, List.drop_nil, List.length_nil, hcount]
  exact congrArg Tile.data (settleMacro_set (t := t.worked e) hf d)

end Sys2Proof.Machine
end

section
namespace Sys2Proof.Machine

/-! ## Streams end and post (R224, R225, R429) -/

/-- The post of a stream that ended in a core cycle. -/
def streamEnd (f : TileId) (x : Tile) (sem : BitVec 6) (cerr : Bool) (ended : Nat) : Post :=
  ⟨f, f, sem, 1, cerr, x.pt.handle, x.pt.serial, x.act == .prologue, false, 0, some (ended + 2)⟩

/-- A stream of a tile that has not stopped leaves the queue and posts. -/
theorem copyPost_stream {s : State} {f : TileId} {c : CopyCmd} {m : BitVec 3} {sem : BitVec 6} (cerr : Bool) (ended : Nat)
    (hs : c.stream = some (m, sem)) (ha : (s.tile f).act ≠ .stopped) : ∃ n o, s.copyPost f c cerr (some ended) =
      ({ s with draws := n, posts := s.posts ++ [streamEnd f (s.tile f) sem cerr ended] } : State).setTile f
        { s.tile f with inflight := o, copyq := (s.tile f).copyq.filter fun q => q.id != c.id } := by
  obtain ⟨n, o, hfreed⟩ := freed_eq s f [.fence, .pend, .queueFull]
  refine ⟨n, o, ?_⟩
  simp only [State.copyPost, hfreed, hs, tile_setTile, setTile_setTile]
  refine if_neg fun hended => ?_
  have hact := (Bool.and_eq_true_iff.mp hended).1
  rw [State.tile, State.setTile] at hact
  exact ha (by simpa [State.tile] using hact)

/-- A stream that leaves its tile as `y`, the queue with or without it, ends: the queue is without it, and the post is sent. -/
theorem streamEnds {s : State} {f : TileId} {c : CopyCmd} {m : BitVec 3} {sem : BitVec 6} (cerr : Bool) (ended : Nat)
    (hs : c.stream = some (m, sem)) (ha : (s.tile f).act ≠ .stopped) {y : Tile} (hact : y.act = (s.tile f).act) (hpt : y.pt = (s.tile f).pt)
    (hq : y.copyq.filter (fun q => q.id != c.id) = (s.tile f).copyq.filter fun q => q.id != c.id) :
    let t := (({ s with draws := s.draws + 1 } : State).setTile f y).copyPost f c cerr (some ended)
    OnlyTile f { s with posts := s.posts ++ [streamEnd f (s.tile f) sem cerr ended], draws := t.draws } t ∧
    (t.tile f).data = ({ y with copyq := (s.tile f).copyq.filter fun q => q.id != c.id } : Tile).data := by
  obtain ⟨n, o, hpost⟩ := copyPost_stream (s := ({ s with draws := s.draws + 1 } : State).setTile f y) (f := f) cerr ended hs
    (by rw [tile_setTile, hact]; exact ha)
  have hend : streamEnd f y sem cerr ended = streamEnd f (s.tile f) sem cerr ended := by rw [streamEnd, hact, hpt]; rfl
  rw [hpost, tile_setTile, hend, hq]
  refine ⟨⟨?_, fun j hj => ?_⟩, ?_⟩
  · rfl
  · exact (tile_setTile_ne _ _ hj).trans (tile_setTile_ne s y hj)
  · exact (congrArg Tile.data (tile_setTile ..)).trans rfl

end Sys2Proof.Machine
end

section
namespace Sys2Proof.Machine

section
variable {s : State} {f : TileId} {id : Nat} {c : CopyCmd} {m : BitVec 3} {sem : BitVec 6} (hc : (s.tile f).copy? id = some c)
  (hs : c.stream = some (m, sem))
include hc hs

/-- A started stream whose bytes are all there, with no earlier work on its weights, completes with its image. -/
theorem exec_mstreamComplete {im : List Byte} (hst : c.stage = .started) (hr : s.streamReady f c m = true) (ht : s.cutTimeUp f = false)
    (him : streamImage (s.tile f) c.desc c.image = some im) :
    let ended := fillEnd (s.tile f) m c (fillBeats (s.tile f) c.desc c.image) s.draws
    exec (.mstreamComplete f id) s = .next ((({ s with draws := s.draws + 1 } : State).setTile f
      (Tile.macroDone { s.tile f with macros := (s.tile f).macros.set m.toNat (streamMacro (s.tile f) c.desc im) m.isLt }
        (macroNo m.toNat) ended)).copyPost f c false (some ended)) := by
  intro ended
  show execMstreamComplete f id s = _
  simp [execMstreamComplete, hc, hs, hst, hr, ht, him, ended]

/-- A stream that may fail fails. -/
theorem exec_mstreamFail {cause : CopyFailCause} (hmay : s.streamMayFail f c m cause = true) :
    let ended := fillEnd (s.tile f) m c 0 s.draws
    exec (.mstreamFail f id cause) s = .next ((({ s with draws := s.draws + 1 } : State).setTile f
      ((Tile.macroDone { s.tile f with
        macros := (s.tile f).macros.set m.toNat { (s.tile f).macros[m.toNat]'m.isLt with fails := some c.id } m.isLt,
        copyq := (s.tile f).copyq.filter fun q => q.id != c.id } (macroNo m.toNat) ended).settleMacro (macroNo m.toNat) s.draws)).copyPost
      f c true (some ended)) := by
  intro ended
  show execMstreamFail f id cause s = _
  simp [execMstreamFail, hc, hs, hmay, ended]

end

/-- A failed stream may end once the earlier work on its weights is done, or at once where a hard cut failed it in a handler. -/
theorem streamMayFail_failing {s : State} {f : TileId} {c : CopyCmd} {m : BitVec 3} {cause : CopyFailCause} (hst : c.stage = .failing cause)
    (h : (s.tile f).macroBusy m.toNat c.id = false ∨ cause = .cut ∧ (s.tile f).k.trapped = true) : s.streamMayFail f c m cause = true := by
  rw [State.streamMayFail, hst]
  obtain hb | ⟨rfl, ht⟩ := h
  · simp [hb]
  · simp [ht]

/-- A started stream may fail whose bytes are all there and decode to no image. -/
theorem streamMayFail_decode {s : State} {f : TileId} {c : CopyCmd} {m : BitVec 3} (hst : c.stage = .started) (hr : s.streamReady f c m = true)
    (him : streamImage (s.tile f) c.desc c.image = none) : s.streamMayFail f c m .decode = true := by
  rw [State.streamMayFail, hst]
  simp [hr, him]

/-- The weights and block scales of a stream's image. -/
theorem streamMacro_holds (t : Tile) {d : List Byte} (h : dConv d ≠ 12) (im : List Byte) :
    (streamMacro t d im).Holds (dConv d) (fun j => im.getD j 0) fun q => im.getD (imageData (dConv d) + q) 0 := by
  unfold streamMacro
  simp only [getD_toArray]
  exact fillMacro_holds h ..

/-- The weights that a codebook gives a stream of indexes (R218). -/
theorem streamMacro_vq2 (t : Tile) {d : List Byte} (h : dConv d = 12) (im : List Byte) {tb : DTable}
    (htb : t.dts.toList.getD (dSlot d) none = some tb) {k n : Nat} (hk : k < 128) (hn : n < 128) :
    let idx := elemOf 16 (fun j => im.getD j 0) (16 * n + k / 8)
    Cells.get 0 (streamMacro t d im).cells (128 * k + n) =
      BitVec.ofNat 32 (wrap (vq2Weight (tb.entries.getD (idx / 256) 0) idx (k % 8)) 16) := by
  unfold streamMacro
  simp only [getD_toArray, htb]
  refine (get_fillMacro _ _ _ _ _ hk hn).trans ?_
  rw [if_neg (by omega), if_pos h]

theorem streamMacro_tag (t : Tile) (d im : List Byte) : (streamMacro t d im).tag = .fmt (BitVec.ofNat 4 (dConv d)) := rfl

theorem streamMacro_tscale (t : Tile) {d : List Byte} (h : dConv d = 12) (im : List Byte) :
    (streamMacro t d im).tscale = BitVec.ofNat 32 (field d 0x34 4) := (fillMacro_tscale ..).trans (if_pos h)

end Sys2Proof.Machine
end

section
namespace Sys2Proof.Machine

/-! ## What reaches memory and peers leaves the tiles (R366, R371, R397) -/

theorem foldl_tiles {α : Type} {g : State → α → State} (h : ∀ s x, (g s x).tiles = s.tiles) :
    ∀ (xs : List α) (s : State), (xs.foldl g s).tiles = s.tiles
  | [], _ => rfl
  | x :: xs, s => (foldl_tiles h xs (g s x)).trans (h s x)

theorem sendPacket_tiles {s t : State} {p : Fin 12} {slot : Fin 8} {node : BitVec 16} {k : Packet}
    (h : s.sendPacket p slot node k = some t) : t.tiles = s.tiles := by
  unfold State.sendPacket at h
  split at h
  · cases h
  · split at h
    · cases h
    · cases h
      rfl

theorem pumpReplies_tiles (p : Fin 12) : ∀ (rs : List PeerReply) (s : State), (s.pumpReplies p rs).1.tiles = s.tiles
  | [], _ => rfl
  | r :: rs, s => by
    rw [State.pumpReplies]
    split
    next t ht => exact (pumpReplies_tiles p rs t).trans (sendPacket_tiles (s := s.setPort p _) ht)
    next => exact pumpReplies_tiles p rs s

theorem pumpRequests_tiles (p : Fin 12) : ∀ (rs before : List PeerRequest) (s : State), (s.pumpRequests p before rs).tiles = s.tiles
  | [], _, _ => rfl
  | r :: rs, before, s => by
    simp only [State.pumpRequests]
    split
    · exact pumpRequests_tiles p rs _ s
    · split
      · exact pumpRequests_tiles p rs _ s
      · split
        next => exact pumpRequests_tiles p rs _ s
        next t ht =>
          have hsent := sendPacket_tiles ht
          exact (pumpRequests_tiles p rs _ _).trans hsent

theorem pump_tiles (s : State) (p : Fin 12) : (s.pump p).tiles = s.tiles := by
  unfold State.pump
  split
  · exact (pumpRequests_tiles ..).trans (pumpReplies_tiles p _ s)
  · rfl

theorem windowRequests_tiles (s : State) (i : TileId) (c : CopyCmd) (w : Fin 32) (p : Piece) (data : Option (List Byte)) :
    (s.windowRequests i c w p data).tiles = s.tiles := by
  unfold State.windowRequests
  split
  · rfl
  · refine (pump_tiles ..).trans (foldl_tiles ?_ _ s)
    exact fun _ _ => rfl

theorem dropRequests_tiles (s : State) (pick : PeerRequest → Bool) : (s.dropRequests pick).tiles = s.tiles := by
  refine foldl_tiles (fun s r => ?_) _ _
  unfold State.winEnded
  dsimp only
  split <;> rfl

theorem faultCode_tiles (s : State) (a : Accessor) (kind : Nat) (write : Bool) (addr : Nat) : (s.faultCode a kind write addr).tiles = s.tiles := by
  unfold State.faultCode
  split
  · rfl
  · exact (memFrame_pushFault ..).tiles

theorem streamRecord_tiles (s : State) (i : TileId) (c : CopyCmd) (cause : CopyFailCause) : (s.streamRecord i c cause).tiles = s.tiles := by
  unfold State.streamRecord
  split
  · exact faultCode_tiles ..
  · rfl

theorem dieCtx_tiles (s : State) (d : Fin 8) (c : BitVec 16) : (s.dieCtx d c).1.tiles = s.tiles := by
  unfold State.dieCtx
  split
  · rfl
  · have h := (memFrame_ctxEntry s (some d) c).tiles
    dsimp only
    split
    · exact h
    · exact h

theorem walkFails_tiles (s : State) (a : Accessor) (e : WalkFault) (write : Bool) (va : Nat) (cause : CopyFailCause) :
    (s.walkFails a e write va cause).1.tiles = s.tiles := (memFrame_walkRecord ..).tiles

theorem tensorEntry_tiles (s : State) (i : TileId) (a : Accessor) (t : Nat) (write : Bool) : (s.tensorEntry i a t write).1.tiles = s.tiles := by
  unfold State.tensorEntry
  have hctx := dieCtx_tiles s i.die a.ctx
  generalize s.dieCtx i.die a.ctx = q at hctx ⊢
  obtain ⟨u, q⟩ := q
  cases q with
  | error e => exact (walkFails_tiles u a e write 0 .tensor).trans hctx
  | ok e =>
    dsimp only
    split
    · exact (memFrame_faultNow ..).tiles.trans hctx
    · split
      · exact hctx
      · have hread := (memFrame_readFrom ({ u with draws := u.draws + 1 } : State) (some i.die) (e.ttBase + 128 * (t - 1)) 128).tiles
        split
        next e' _ => exact (walkFails_tiles _ a (e'.walk _) write 0 .tensor).trans (hread.trans hctx)
        · exact hread.trans hctx

theorem boxRuns_tiles (s : State) (i : TileId) (a : Accessor) (d : List Byte) (k : CopyKind) (f : Nat) (writes : Bool) :
    (s.boxRuns i a d k f writes).1.tiles = s.tiles := by
  unfold State.boxRuns
  split
  · split
    · split
      · rfl
      · exact (memFrame_faultNow ..).tiles
    · rfl
  · have hentry := tensorEntry_tiles s i a (dTensor d) writes
    dsimp only
    split
    · exact hentry
    · split
      · exact (memFrame_faultNow ..).tiles.trans hentry
      · split
        · exact (memFrame_faultNow ..).tiles.trans hentry
        · exact hentry

theorem targetStop_tiles (s : State) (i : TileId) (a : Accessor) (write : Bool) (p : Piece) : (s.targetStop i a write p).1.tiles = s.tiles := by
  unfold State.targetStop
  split
  · dsimp only
    split
    · exact (memFrame_faultNow ..).tiles
    · rfl
  · rfl
  · split
    · exact (memFrame_faultNow ..).tiles
    · rfl

theorem readPieces_tiles (i : TileId) (c : CopyCmd) (a : Accessor) : ∀ (ps : List Piece) (s : State), (s.readPieces i c a ps).1.tiles = s.tiles
  | [], _ => rfl
  | p :: ps, s => by
    rw [State.readPieces]
    split
    · have hread := (memFrame_readDevBy s (.tile i) p.tgt.addr p.len).tiles
      dsimp only
      split
      · exact hread
      · exact hread
      · exact (readPieces_tiles i c a ps _).trans hread
    · exact (readPieces_tiles i c a ps _).trans (memFrame_seenBy ..).tiles
    · exact (readPieces_tiles i c a ps _).trans (windowRequests_tiles ..)

/-! ## A stream starts (R197, R224) -/

/-- What the start of a copy that only reads may change at the tiles: the copies and the TLB of its own. -/
structure State.ReadsFor (f : TileId) (s t : State) : Prop where
  others : ∀ j, j ≠ f → t.tile j = s.tile j
  here : { t.tile f with copyq := (s.tile f).copyq, tlb := (s.tile f).tlb } = s.tile f
  ids : (t.tile f).copyq.map CopyCmd.id = (s.tile f).copyq.map CopyCmd.id

section
variable {f : TileId}

theorem State.ReadsFor.trans {s t u : State} (h : s.ReadsFor f t) (g : t.ReadsFor f u) : s.ReadsFor f u where
  others := fun j hj => (g.others j hj).trans (h.others j hj)
  here := (congrArg (fun y : Tile => { y with copyq := (s.tile f).copyq, tlb := (s.tile f).tlb }) g.here).trans h.here
  ids := g.ids.trans h.ids

theorem readsFor_of_tiles {s t : State} (h : t.tiles = s.tiles) : s.ReadsFor f t := by
  have htile (j : TileId) : t.tile j = s.tile j := by rw [State.tile, State.tile, h]
  exact ⟨fun j _ => htile j, by rw [htile], by rw [htile]⟩

theorem readsFor_setTile {s : State} {y : Tile} (h : { y with copyq := (s.tile f).copyq, tlb := (s.tile f).tlb } = s.tile f)
    (hids : y.copyq.map CopyCmd.id = (s.tile f).copyq.map CopyCmd.id) : s.ReadsFor f (s.setTile f y) :=
  ⟨fun _ hj => tile_setTile_ne s y hj, by rw [tile_setTile]; exact h, by rw [tile_setTile]; exact hids⟩

theorem mapCopy_ids (t : Tile) (id : Nat) {g : CopyCmd → CopyCmd} (hg : ∀ c, (g c).id = c.id) :
    (t.mapCopy id g).copyq.map CopyCmd.id = t.copyq.map CopyCmd.id := by
  rw [Tile.mapCopy, List.map_map]
  refine List.map_congr_left fun c _ => ?_
  by_cases h : (c.id == id) = true
  · exact (congrArg CopyCmd.id (if_pos h)).trans (hg c)
  · exact congrArg CopyCmd.id (if_neg h)

theorem readsFor_mapCopy (s : State) (id : Nat) {g : CopyCmd → CopyCmd} (hg : ∀ c, (g c).id = c.id) :
    s.ReadsFor f (s.setTile f ((s.tile f).mapCopy id g)) := readsFor_setTile rfl (mapCopy_ids _ id hg)

theorem readsFor_copyFails (s : State) (id : Nat) (cause : CopyFailCause) : s.ReadsFor f (s.copyFails f id cause) := by
  refine .trans (readsFor_of_tiles ?_) (readsFor_mapCopy _ id fun _ => rfl)
  split
  · exact (streamRecord_tiles ..).trans (dropRequests_tiles ..)
  · exact dropRequests_tiles ..

theorem readsFor_putStarted (s : State) (id : Nat) (ws : List ElemWrite) (image : List Byte) (gaps : List (Nat × Nat))
    (stop : Option StartStop) : s.ReadsFor f (s.putStarted f id ws image gaps stop) := by
  unfold State.putStarted
  dsimp only
  split
  · refine .trans ?_ (readsFor_copyFails ..)
    exact readsFor_mapCopy s id fun _ => rfl
  · exact readsFor_mapCopy s id fun _ => rfl

theorem readsFor_translateFor (s : State) (c : BitVec 16) (va : Nat) (write : Bool) : s.ReadsFor f (s.translateFor f c va write).1 := by
  have hhold (t : State) (es : List TlbEntry) : t.ReadsFor f (t.setTile f { t.tile f with tlb := es }) := readsFor_setTile rfl rfl
  unfold State.translateFor
  split
  · exact readsFor_of_tiles rfl
  · exact hhold s _
  · have hctx := dieCtx_tiles s f.die c
    dsimp only
    split
    · exact readsFor_of_tiles hctx
    · next e _ =>
      have hwalk := (memFrame_walkGo (some f.die) va 5 (s.dieCtx f.die c).1 0 e.root).tiles
      split
      · exact readsFor_of_tiles (hwalk.trans hctx)
      · refine .trans ?_ (hhold _ _)
        exact readsFor_of_tiles (hwalk.trans hctx)

theorem readsFor_translatePieces (a : Accessor) (write : Bool) : ∀ (ps : List (Nat × Nat × Nat)) (s : State),
    s.ReadsFor f (s.translatePieces f a write ps).1
  | [], _ => readsFor_of_tiles rfl
  | (va, n, off) :: ps, s => by
    rw [State.translatePieces]
    split
    · exact readsFor_of_tiles rfl
    · have htr := readsFor_translateFor (f := f) s a.ctx va write
      dsimp only
      split
      · exact htr.trans (readsFor_of_tiles (memFrame_faultWait ..).tiles)
      next e _ _ => exact htr.trans (readsFor_of_tiles (walkFails_tiles _ a e write va .translation))
      · next tgt _ =>
        have hstop := targetStop_tiles (s.translateFor f a.ctx va write).1 f a write ⟨tgt, va, n, off⟩
        split
        · exact htr.trans (readsFor_of_tiles hstop)
        · exact (htr.trans (readsFor_of_tiles hstop)).trans (readsFor_translatePieces a write ps _)

theorem readsFor_readBox (s : State) (c : CopyCmd) (a : Accessor) (k : CopyKind) (fmt : Nat) : s.ReadsFor f (s.readBox f c a k fmt).1 := by
  have hruns : s.ReadsFor f (s.boxRuns f a c.desc k fmt false).1 := readsFor_of_tiles (boxRuns_tiles ..)
  unfold State.readBox
  dsimp only
  split
  · exact hruns
  · next runs e _ =>
    have hpieces := hruns.trans (readsFor_translatePieces a false (cutRuns 0 runs) _)
    split
    · exact hpieces
    · exact hpieces.trans (readsFor_of_tiles (readPieces_tiles ..))

theorem readsFor_startRead (s : State) (c : CopyCmd) (k : CopyKind) : s.ReadsFor f (s.startRead f c k) := by
  unfold State.startRead
  dsimp only
  refine .trans ?_ (readsFor_putStarted ..)
  refine .trans (readsFor_readBox s c (s.copyAccessor f c.stream.isSome) k (fmtAt (s.tile f).k (dSp c.desc))) ?_
  exact readsFor_mapCopy _ c.id fun _ => rfl

end

end Sys2Proof.Machine
end

section
namespace Sys2Proof.Machine

section
variable {s : State} {f : TileId} {id : Nat} {c : CopyCmd} {m : BitVec 3} {sem : BitVec 6} (hc : (s.tile f).copy? id = some c)
  (hs : c.stream = some (m, sem))
include hc hs

/-- A queued stream whose turn has come reads its bytes. -/
theorem exec_mstreamStart (hq : c.stage = .queued) (ht : (s.tile f).startsCopies = true) (hm : mayStart (s.tile f).copyq c = true)
    (hset : s.Settled f c) : exec (.mstreamStart f id) s = .next ((s.startRead f c .load).copyMeets f c) := by
  show s.startQueued "MSTREAM_START" f id true = _
  simp [State.startQueued, State.startCopy, hc, hs, hq, ht, hm, sourcesSettled_of_settled hset]

end

/-- A stream meets the accesses of its own tile alone. -/
theorem copyMeets_stream (s : State) (f : TileId) {c : CopyCmd} (hs : c.stream ≠ none) :
    s.copyMeets f c = s.setTile f ((s.tile f).beside f (s.tile f).stands) :=
  if_neg fun h => hs (Option.isNone_iff_eq_none.mp h.2)

/-- What a stream's start leaves of the tiles: others stand, and of its own the copies, the TLB and the accounts of accesses move. -/
theorem mstreamStart_leaves (s : State) (f : TileId) {c : CopyCmd} (hs : c.stream ≠ none) :
    let x := s.tile f
    let t := (s.startRead f c .load).copyMeets f c
    (∀ j, j ≠ f → t.tile j = s.tile j) ∧
    { t.tile f with copyq := x.copyq, tlb := x.tlb, meets := x.meets, sb := x.sb,
                    k := { (t.tile f).k with bconf := x.k.bconf, aconf := x.k.aconf } } = x ∧
    (t.tile f).sb.map SbEntry.num = x.sb.map SbEntry.num ∧ (t.tile f).copyq.map CopyCmd.id = x.copyq.map CopyCmd.id ∧
    (t.tile f).Begun c.id := by
  intro x t
  obtain ⟨hothers, hhere, hids⟩ := readsFor_startRead (f := f) s c .load
  have hbegun : ((s.startRead f c .load).tile f).Begun c.id := startRead_begun
  have ht : t = _ := copyMeets_stream _ f hs
  generalize s.startRead f c .load = u at hothers hhere hids hbegun ht
  obtain ⟨p, q, r, v, hbeside⟩ := beside_eq (u.tile f) f (u.tile f).stands
  have hnums := beside_nums (u.tile f) f (u.tile f).stands
  have htile : t.tile f = (u.tile f).beside f (u.tile f).stands := by rw [ht, tile_setTile]
  have hsb : (u.tile f).sb = x.sb := (congrArg Tile.sb hhere :)
  refine ⟨fun j hj => by rw [ht, tile_setTile_ne _ _ hj, hothers j hj], ?_, ?_, ?_, ?_⟩
  · rw [htile, hbeside]
    exact (congrArg (fun y : Tile => { y with
      meets := x.meets, sb := x.sb, k := { y.k with bconf := x.k.bconf, aconf := x.k.aconf } }) hhere :)
  · rw [htile, hnums, hsb]
  · rw [htile, hbeside]
    exact hids
  · rw [htile, hbeside]
    exact hbegun

section
variable {s : State} {f : TileId} {id : Nat} {c : CopyCmd} {m : BitVec 3} {sem : BitVec 6}

/-- The tile of a stream that has failed: its weights are marked, or those of the failed fill. -/
theorem settleMacro_leaves (x : Tile) (m : BitVec 3) (q e d : Nat) :
    (Tile.macroDone { x with macros := x.macros.set m.toNat { x.macros[m.toNat]'m.isLt with fails := some q } m.isLt,
                             copyq := x.copyq.filter fun c => c.id != q } (macroNo m.toNat) e).settleMacro (macroNo m.toNat) d =
      Tile.macroDone { x with
        macros := x.macros.set m.toNat
          (if x.macroBusy m.toNat q then { x.macros[m.toNat]'m.isLt with fails := some q }
            else failedMacro { x.macros[m.toNat]'m.isLt with fails := some q } d) m.isLt,
        copyq := x.copyq.filter fun c => c.id != q } (macroNo m.toNat) e := by
  have h := settleMacro_marked (t := Tile.macroDone { x with copyq := x.copyq.filter fun c => c.id != q } (macroNo m.toNat) e) (m := m)
    (mac := { x.macros[m.toNat]'m.isLt with fails := some q }) rfl d
  have hbusy : Tile.macroBusy (Tile.macroDone { x with copyq := x.copyq.filter fun c => c.id != q } (macroNo m.toNat) e) m.toNat q =
      x.macroBusy m.toNat q := (macroBusy_leaves x m.toNat q :)
  rw [hbusy] at h
  exact h

/-- A stream has ended in a core cycle: its weights are those given, it has left the queue, and its post is due two cycles later. -/
def State.Filled (s : State) (f : TileId) (c : CopyCmd) (m : BitVec 3) (sem : BitVec 6) (t : State) (mac : MacroState) (cerr : Bool)
    (beats : Nat) : Prop :=
  OnlyTile f { s with posts := s.posts ++ [streamEnd f (s.tile f) sem cerr (fillEnd (s.tile f) m c beats s.draws)], draws := t.draws } t ∧
  (t.tile f).data = ({ s.tile f with
    macros := (s.tile f).macros.set m.toNat mac m.isLt, copyq := (s.tile f).copyq.filter fun q => q.id != c.id } : Tile).data

variable (hc : (s.tile f).copy? id = some c) (hs : c.stream = some (m, sem))
include hc hs

theorem mstreamComplete_fills {im : List Byte} (hst : c.stage = .started) (hr : s.streamReady f c m = true) (ht : s.cutTimeUp f = false)
    (him : streamImage (s.tile f) c.desc c.image = some im) : ∃ t, exec (.mstreamComplete f id) s = .next t ∧
      ((s.tile f).act ≠ .stopped →
        s.Filled f c m sem t (streamMacro (s.tile f) c.desc im) false (fillBeats (s.tile f) c.desc c.image)) :=
  ⟨_, exec_mstreamComplete hc hs hst hr ht him, fun ha => streamEnds false _ hs ha rfl rfl rfl⟩

theorem mstreamFail_fills {cause : CopyFailCause} (hmay : s.streamMayFail f c m cause = true) :
    let marked : MacroState := { (s.tile f).macros[m.toNat]'m.isLt with fails := some c.id }
    ∃ t, exec (.mstreamFail f id cause) s = .next t ∧ ((s.tile f).act ≠ .stopped →
      s.Filled f c m sem t (if (s.tile f).macroBusy m.toNat c.id then marked else failedMacro marked s.draws) true 0) := by
  intro marked
  have hexec := exec_mstreamFail hc hs hmay
  dsimp only at hexec
  rw [settleMacro_leaves] at hexec
  exact ⟨_, hexec, fun ha => streamEnds true _ hs ha rfl rfl (by simp [Tile.macroDone, List.filter_filter])⟩

end

/-- Settles O40: MLDW by `mldw_takes` and `imageMacro_holds`, MSTREAM by `queueSlot_queues`, `mstreamStart_leaves`, and the ends of a stream by
`mstreamComplete_fills` and `mstreamFail_fills`. -/
theorem weightsAreLoadedAndStreamed : Obligations.WeightsAreLoadedAndStreamed := by
  unfold Obligations.WeightsAreLoadedAndStreamed
  intro placed
  refine ⟨fun s b mac sa sem => ?_, fun s f num ent m fmt a since h hw hb h2 h10 => ?_, fun s f id c m sem hc hs => ?_⟩
  · intro u x a ovr fmt ranged desc area
    refine ⟨fun h hr => ⟨fun h2 h10 hok hx => ?_, fun l hl => ⟨fun hf => ?_, fun h2 h10 hok hx hs => ?_⟩⟩,
      fun h => ⟨fun hq hok hc => ?_, fun hq => ?_, fun l d hq hok hc hl => ?_⟩⟩
    · exact mldw_takes h (mldwCheck_ok hr h2 h10 hok hx)
    · exact mldw_traps h hl (mldwCheck_badFormat hr hf) rfl (by decide)
    · exact mldw_traps h hl (mldwCheck_scales hr h2 h10 hok hx hs) rfl (by decide)
    · exact runOwn_commits (exec_mstream mac sa sem) h (queueSlot_queues (check := fun _ _ _ d => streamCheck d) hq hok hc) rfl rfl
    · exact runOwn_holds (exec_mstream mac sa sem) h (queueSlot_holds hq)
    · exact runOwn_traps (exec_mstream mac sa sem) h hl (queueSlot_traps (check := fun _ _ _ d => streamCheck d) hq hok hc) rfl (by decide)
  · intro x
    obtain ⟨honly, hdata⟩ := onlyTile_backDone s f (Tile.workDone { x with
      macros := x.macros.set m.toNat (RaceView.imageMacro ⟨x, ent.seqNo, since, s.draws⟩ fmt.toNat a) m.isLt }
      ent (macroNo m.toNat) (x.backCycle f ent) s.draws) (s.draws + 1)
    have h12 : fmt.toNat ≠ 12 := by omega
    refine ⟨_, _, exec_mldwFillDone h hw hb, honly, hdata.trans (data_workDone_mldw hw rfl _ _), ?_,
      (fillMacro_tscale ..).trans (if_neg h12), fun hraced => imageMacro_holds h12 hraced⟩
    exact (fillMacro_tag ..).trans (congrArg _ (BitVec.ofNat_toNat 4 fmt))
  · intro x left post filled
    have hid : c.id = id := copy?_id hc
    refine ⟨fun hq ht hm hcrew hsb => ?_, fun im hst hr ht him => ?_, fun cause hcause => ?_⟩
    · obtain ⟨hothers, hhere, hnums, hids, hbegun⟩ := mstreamStart_leaves s f (c := c) (by simp [hs])
      exact ⟨_, exec_mstreamStart hc hs hq ht hm ⟨hcrew, hsb⟩, hothers, hhere, hnums, hids, hid ▸ hbegun⟩
    · intro conv data
      obtain ⟨t, hexec, hfilled⟩ := mstreamComplete_fills hc hs hst hr ht him
      refine ⟨t, _, hexec, hfilled, streamMacro_tag .., fun h2 h10 => streamMacro_holds x (by omega) im, fun h12 => ?_⟩
      exact ⟨streamMacro_tscale x h12 im, fun tb htb k n hk hn => streamMacro_vq2 x h12 im htb hk hn⟩
    · have hmay : s.streamMayFail f c m cause = true := by
        obtain ⟨hst, hbusy⟩ | ⟨hst, rfl, hr, him⟩ := hcause
        · exact streamMayFail_failing hst hbusy
        · exact streamMayFail_decode hst hr him
      obtain ⟨t, hexec, hfilled⟩ := mstreamFail_fills hc hs hmay
      refine ⟨t, _, hexec, hfilled, fun hbusy => ?_, fun hbusy => ?_⟩
      · rw [if_neg (Bool.eq_false_iff.mp hbusy)]
        exact ⟨rfl, rfl⟩
      · rw [if_pos hbusy]

end Sys2Proof.Machine
end

section
namespace Sys2Proof.Machine

/-! ## Blocks of the leaf file (R231, R245) -/

theorem mem_blockLeaves {blk : BitVec 4} {n : Nat} : n ∈ blockLeaves blk ↔ n / 64 = blk.toNat := by
  simp only [blockLeaves, List.mem_map, List.mem_range]
  constructor
  · rintro ⟨i, hi, rfl⟩
    omega
  · exact fun h => ⟨n % 64, Nat.mod_lt n (by decide), by omega⟩

@[simp] theorem blockLeaves_length (blk : BitVec 4) : (blockLeaves blk).length = 64 := by simp [blockLeaves]

theorem blockLeaves_getElem (blk : BitVec 4) {e : Nat} (h : e < (blockLeaves blk).length) : (blockLeaves blk)[e] = 64 * blk.toNat + e := by
  simp [blockLeaves]

@[simp] theorem block_length (t : Tile) (blk : BitVec 4) : (t.block blk).length = 64 := by simp [Tile.block]

theorem getD_block (t : Tile) (blk : BitVec 4) {e : Nat} (he : e < 64) :
    (t.block blk).getD e 0 = Cells.get 0 t.leaves (64 * blk.toNat + e) := by
  rw [List.getD_eq_getElem _ _ (by simpa using he)]
  simp only [Tile.block, List.getElem_map, blockLeaves_getElem]

/-- A block filled: its leaves read as the words, in order, and every other leaf as before. -/
theorem get_setLeaves_block (t : Tile) (blk : BitVec 4) {ws : List Word} (hw : ws.length = 64) (n : Nat) :
    Cells.get 0 (t.setLeaves ((blockLeaves blk).zip ws)).leaves n =
      if n / 64 = blk.toNat then ws.getD (n % 64) 0 else Cells.get 0 t.leaves n := by
  have hlen : ((blockLeaves blk).zip ws).length = 64 := by simp [hw]
  show Cells.get 0 (Cells.setAll 0 t.leaves ((blockLeaves blk).zip ws)) n = _
  split
  next hn =>
    refine get_setAll_eq 0 _ t.leaves (fun p hp hpn => ?_) ⟨((blockLeaves blk).zip ws)[n % 64]'(by omega), List.getElem_mem _, ?_⟩
    · obtain ⟨j, hj, rfl⟩ := List.mem_iff_getElem.mp hp
      rw [List.getElem_zip, blockLeaves_getElem] at hpn
      rw [List.getElem_zip, show n % 64 = j by omega, List.getD_eq_getElem _ _ (by omega)]
    · rw [List.getElem_zip, blockLeaves_getElem]
      omega
  next hn => exact get_setAll_outside 0 n _ _ fun p hp e => hn (mem_blockLeaves.mp (e ▸ (List.of_mem_zip hp).1))

/-! ### Blocks with a bad leaf (R246) -/

theorem readingBlock_good {t : Tile} {blk : BitVec 4} (h : ∀ n ∈ t.leafBad, n / 64 ≠ blk.toNat) (k : SlotOut) :
    readingBlock t blk k = k := by
  have hnone : (blockLeaves blk).find? t.leafBad.contains = none :=
    List.find?_eq_none.mpr fun n hn hb => h n (by simpa using hb) (mem_blockLeaves.mp hn)
  rw [readingBlock, hnone]

theorem readingBlock_bad {t : Tile} {blk : BitVec 4} (h : ¬ ∀ n ∈ t.leafBad, n / 64 ≠ blk.toNat) :
    ∃ n ∈ t.leafBad, n / 64 = blk.toNat ∧ ∀ k, readingBlock t blk k = .trap 0x10 n := by
  cases hfound : (blockLeaves blk).find? t.leafBad.contains with
  | none =>
    exact absurd (fun n hn hb => List.find?_eq_none.mp hfound n (mem_blockLeaves.mpr hb) (by simpa using hn)) h
  | some n =>
    refine ⟨n, by simpa using List.find?_some hfound, mem_blockLeaves.mp (List.mem_of_find?_eq_some hfound), fun k => ?_⟩
    rw [readingBlock, hfound]

/-- A slot of the tile's own scratchpad that faults with a cause of class Tile stops its tile. -/
theorem runOwn_stops_tile {s : State} {i : Instr} {b : Inflight} {mn : String} {f : SlotFn} {c d : Nat}
    (hx : ∀ s, exec i s = s.runOwn mn i f) (h : s.own.At i b) (hf : f s.own s.own.focus s.own.here b = .trap c d)
    (ht : s.own.here.k.trapped = false) (hc : classTile c = true) (he : c ≠ 0x0E) : StopsWith i s b c d := by
  obtain ⟨t, hexec, hfocus, hstop⟩ := runSlot_stops_tile h (exec_own hx s) hf ht hc he
  exact ⟨t, (exec_eq_own hx s).trans hexec, hfocus.trans (own_focus s), hstop.of_copyq (here_own s).copyq⟩

/-! ## The slots of the T unit that move data (R232, R237, R245) -/

theorem exec_tcfg (imm : BitVec 16) (s : State) : exec (.tcfg imm) s = execTcfg imm s := rfl
theorem exec_tshp (shp : BitVec 6) (sa : SReg) (s : State) : exec (.tshp shp sa) s = s.runOwn "TSHP" (.tshp shp sa) fun _ _ t _ =>
    atAddr ((t.sreg sa).toNat : Int) 32 32 fun a =>
      .done { t with shapes := t.shapes.set shp.toNat (BitVec.ofNat 256 (natOfBytes (t.ownBytes a 32))) shp.isLt }
        (accessesOf t.k a 32) {} .seq := rfl
theorem exec_tld (blk : BitVec 4) (sa : SReg) (s : State) : exec (.tld blk sa) s = s.runOwn "TLD" (.tld blk sa) fun _ i t b =>
    atAddr ((t.sreg sa).toNat : Int) 256 16 fun a =>
      .done (t.addForest i b (.tld blk (wordsOfBytes (t.ownBytes a 256)))) (accessesOf t.k a 256) {} .seq := rfl
theorem exec_tst (blk : BitVec 4) (sa : SReg) (s : State) : exec (.tst blk sa) s = s.runOwn "TST" (.tst blk sa) fun _ _ t _ =>
    atAddr ((t.sreg sa).toNat : Int) 256 16 fun a =>
      readingBlock t blk (.done (t.ownStore a (bytesOfWords (t.block blk))) (accessesOf t.k a 256) {} .seq) := rfl
theorem exec_tmvp (pd : Line) (blk : BitVec 4) (s : State) : exec (.tmvp pd blk) s = s.runSlot "TMVP" (.tmvp pd blk) fun _ _ t _ =>
    readingBlock t blk (.keep (t.setLine pd (t.block blk))) := rfl
theorem exec_tmvn (blk : BitVec 4) (pa : Line) (s : State) : exec (.tmvn blk pa) s = s.runSlot "TMVN" (.tmvn blk pa) fun _ _ t _ =>
    readingLines t [pa] (.keep (t.setLeaves ((blockLeaves blk).zip (t.line pa)))) := rfl

theorem tcfgTest_iff (imm : BitVec 16) : (imm.extractLsb' 1 3 == 0 && imm.extractLsb' 8 8 == 0) = true ↔
    imm.extractLsb' 1 3 = 0 ∧ imm.extractLsb' 8 8 = 0 := by
  simp

/-- The extra cycles that a forest operation or TLD may have to wait for leaf banks (R249). -/
def Tile.forestLate (t : Tile) (i : TileId) (w : SbWork) : List Nat :=
  if t.bankWait w = 0 then [] else [Config.forestWait i t.meets % (t.bankWait w + 1)]

theorem forestLate_free {t : Tile} {w : SbWork} (i : TileId) (h : t.bankWait w = 0) : t.forestLate i w = [] := if_pos h

section
variable {s : State} {b : Inflight} {sa : SReg} {blk : BitVec 4} {a : Nat} (ha : (s.own.here.sreg sa).toNat = a)
include ha

theorem tshp_commits {shp : BitVec 6} (h : s.own.At (.tshp shp sa) b) (hok : AddrOk a 32 32) : CommitsOwn (.tshp shp sa) s
    (({ s.own.here with
        shapes := s.own.here.shapes.set shp.toNat (BitVec.ofNat 256 (natOfBytes (s.own.here.ownBytes a 32))) shp.isLt } : Tile).banked
      s.own b a 32) :=
  runOwn_commits_at h (exec_tshp shp sa) rfl (congrArg _ ha) (ha ▸ hok) rfl rfl rfl

theorem tld_takes (h : s.own.At (.tld blk sa) b) (hok : AddrOk a 256 16) :
    TakesForest s.own (.tld blk sa) s (.tld blk (wordsOfBytes (s.own.here.ownBytes a 256))) (some (b, a)) :=
  ⟨s.own.here.freeEntry, commitCycle s.own.here b, s.own.here.forestLate s.own.focus (.tld blk (wordsOfBytes (s.own.here.ownBytes a 256))),
    freeEntry_free, forestLate_free s.own.focus, runOwn_commits_at h (exec_tld blk sa) rfl (congrArg _ ha) (ha ▸ hok) rfl rfl rfl⟩

theorem tst_commits (h : s.own.At (.tst blk sa) b) (hok : AddrOk a 256 16) (hgood : ∀ n ∈ s.own.here.leafBad, n / 64 ≠ blk.toNat) :
    CommitsOwn (.tst blk sa) s ((s.own.here.ownStore a (bytesOfWords (s.own.here.block blk))).banked s.own b a 256) :=
  runOwn_commits_at h (exec_tst blk sa) rfl (congrArg _ ha) (ha ▸ hok) (readingBlock_good hgood _) rfl rfl

theorem tst_stops (h : s.own.At (.tst blk sa) b) (hok : AddrOk a 256 16) (hbad : ¬ ∀ n ∈ s.own.here.leafBad, n / 64 ≠ blk.toNat)
    (ht : s.own.here.k.trapped = false) : ∃ n ∈ s.own.here.leafBad, n / 64 = blk.toNat ∧ StopsWith (.tst blk sa) s b 0x10 n := by
  obtain ⟨n, hn, hblk, htrap⟩ := readingBlock_bad hbad
  exact ⟨n, hn, hblk, runOwn_stops_tile (exec_tst blk sa) h ((atAddr_ok (ha ▸ hok) _).trans (htrap _)) ht rfl (by decide)⟩

end

/-- The bytes that TST stores are those of the block's leaves. -/
theorem ownStored_block (t : Tile) (blk : BitVec 4) (a : Nat) : OwnStored t (t.ownStore a (bytesOfWords (t.block blk))) a 256 fun j =>
    (Cells.get 0 t.leaves (64 * blk.toNat + j / 4)).extractLsb' (8 * (j % 4)) 8 :=
  ownStored_ownStore t a (by rw [bytesOfWords_length, block_length]) fun j hj => by
    rw [getD_bytesOfWords, getD_block t blk (by omega)]

/-- The words that TMVP writes to its line are the block's leaves. -/
theorem lineWritten_block (t : Tile) (pd : Line) (blk : BitVec 4) : LineWritten t (t.setLine pd (t.block blk)) pd 32
    (fun e => some (Cells.get 0 t.leaves (64 * blk.toNat + e)).toNat) 0 :=
  (lineWritten_setLine_words t pd (block_length t blk)).congr fun e he => by rw [getD_block t blk he]

theorem tmvp_stops {s : State} {b : Inflight} {pd : Line} {blk : BitVec 4} (h : s.At (.tmvp pd blk) b)
    (hbad : ¬ ∀ n ∈ s.here.leafBad, n / 64 ≠ blk.toNat) (ht : s.here.k.trapped = false) :
    ∃ n ∈ s.here.leafBad, n / 64 = blk.toNat ∧ StopsWith (.tmvp pd blk) s b 0x10 n := by
  obtain ⟨n, hn, hblk, htrap⟩ := readingBlock_bad hbad
  exact ⟨n, hn, hblk, runSlot_stops_tile h (exec_tmvp pd blk s) (htrap _) ht rfl (by decide)⟩

/-- A lane of a line as a word. -/
theorem getD_line (t : Tile) (l : Line) {e : Nat} (he : e < 64) : (t.line l).getD e 0 = BitVec.ofNat 32 (t.lane l e) := by
  rw [Tile.lane, elemAt_words _ he, BitVec.ofNat_toNat, BitVec.setWidth_eq]

theorem tldWriteback_commits {s : State} {f : TileId} {num : BitVec 4} {ent : SbEntry} {blk : BitVec 4} {ws : List Word}
    (h : (s.tile f).Pends num ent) (hw : ent.work = .tld blk ws) : CommitsOn f (.tldWriteback f num) s
      { (s.tile f).setLeaves ((blockLeaves blk).zip ws) with sb := (s.tile f).sb.erase ent } := by
  refine commitsOn_backDone (z := ((s.tile f).setLeaves ((blockLeaves blk).zip ws)).entryDone ent ((s.tile f).backCycle f ent)) ?_ rfl
  show execTldWriteback f num s = _
  simp only [execTldWriteback, entry?_of_pends h, hw]

/-- Settles O41: TCFG by its test, the accesses of the scratchpad by `runOwn_commits_at` with the bytes of the tile's own view, the leaf
file by `get_setLeaves_block`, and a bad leaf by `readingBlock_bad`. -/
theorem blocksMoveBetweenLeavesAndTheTile : Obligations.BlocksMoveBetweenLeavesAndTheTile := by
  intro s b imm shp blk sa p x u z a leaf byte bitsOk good filled
  have hfilled (t : Tile) {ws : List Word} (hw : ws.length = 64) {w : Nat → Word} (hg : ∀ e < 64, ws.getD e 0 = w e) :
      filled t (t.setLeaves ((blockLeaves blk).zip ws)) w :=
    ⟨fun n => by rw [← hg (n % 64) (Nat.mod_lt n (by decide))]; exact get_setLeaves_block t blk hw n, rfl⟩
  refine ⟨fun h => ⟨fun hok => ?_, fun hok ht => ?_⟩, fun h ha => ⟨_, fun j hj => ?_, tshp_commits rfl h ha⟩, fun h ha => ?_,
    fun h ha hgood => ⟨_, tst_commits rfl h ha hgood, ownStored_block z blk a⟩, fun h ha hbad ht => tst_stops rfl h ha hbad ht,
    fun h hgood => ⟨_, ?_, lineWritten_block x p blk⟩, fun h hbad ht => tmvp_stops h hbad ht, fun h hb =>
      ⟨x.setLeaves ((blockLeaves blk).zip (x.line p)), ?_, hfilled x (line_length x p) fun e he => getD_line x p he⟩,
    fun f num ent ws h hw hlen => ⟨_, tldWriteback_commits h hw, hfilled (s.tile f) hlen fun e _ => rfl⟩⟩
  · exact runSlot_keeps h (exec_tcfg imm s) (if_pos ((tcfgTest_iff imm).mpr hok)) rfl rfl
  · exact runSlot_stops h (exec_tcfg imm s) (if_neg (mt (tcfgTest_iff imm).mp hok)) ht rfl (by decide) rfl
  · exact byte_of_getRange _ _ hj (by decide)
  · obtain ⟨hlen, hbytes⟩ := words_of_getRange (z.viewAt z.issueNo) a
    exact ⟨_, hlen, hbytes, tld_takes rfl h ha⟩
  · exact runSlot_keeps h (exec_tmvp p blk s) (readingBlock_good hgood _) rfl rfl
  · exact readingLines_commits h (exec_tmvn blk p s) (by simpa using hb) rfl rfl rfl

end Sys2Proof.Machine
end

section
namespace Sys2Proof.Machine

/-! ## Shape descriptors (R236, R238) -/

theorem shapeFault_none {d : BitVec 256} (h : shapeFault d = none) :
    0 < shapeCount d ∧ shapeCount d ≤ 31 ∧ ∃ depth, stackRun d (shapeCount d) 0 0 = .ok depth := by
  unfold shapeFault at h
  dsimp only at h
  split at h
  · exact absurd h (by simp)
  · split at h
    · exact absurd h (by simp)
    · split at h
      · exact absurd h (by simp)
      · rename_i hcount _ _ _ depth hrun
        exact ⟨by omega, by omega, depth, hrun⟩

/-- A descriptor of one entry names a leaf. -/
theorem entries_lone {d : BitVec 256} {e : Nat} (h : shapeFault d = none) (he : (List.range (shapeCount d)).map (shapeByte d) = [e]) :
    shapeCount d = 1 ∧ shapeByte d 0 = e ∧ e < 128 := by
  obtain ⟨-, -, depth, hrun⟩ := shapeFault_none h
  have hc : shapeCount d = 1 := by simpa using congrArg List.length he
  rw [hc] at he hrun
  have hb : shapeByte d 0 = e := by simpa using he
  refine ⟨hc, hb, Nat.lt_of_not_le fun hnode => ?_⟩
  rw [stackRun, if_neg (by omega), if_pos (by simp [entryArity])] at hrun
  exact absurd hrun (by simp)

/-- A leaf entry of a descriptor names its leaf from a base on. -/
theorem mem_descLeaves {d : BitVec 256} (h : shapeCount d ≤ 31) {j : Nat} (hj : j < shapeCount d) (hleaf : shapeByte d j < 128)
    (base : Nat) : leafNo (base + shapeByte d j) ∈ descLeaves d base := by
  have hmin : Nat.min (shapeByte d 31) 31 = shapeCount d := Nat.min_eq_left h
  refine List.mem_map.mpr ⟨shapeByte d j, List.mem_filter.mpr ⟨?_, decide_eq_true hleaf⟩, rfl⟩
  rw [hmin]
  exact List.mem_map.mpr ⟨j, List.mem_range.mpr hj, rfl⟩

/-! ## The upward pass (R241, R242) -/

/-- The values of the entries that stand on a stack. -/
def stackVals (out : List (Nat × List Nat)) (stack : List Nat) : List Nat := stack.map fun j => (out.getD j (0, [])).1

/-- An entry's value, pushed. -/
theorem stackVals_push {out : List (Nat × List Nat)} {stack : List Nat} (h : ∀ k ∈ stack, k < out.length) (r : Nat × List Nat) :
    stackVals (out ++ [r]) (out.length :: stack) = r.1 :: stackVals out stack := by
  have hold : ∀ k ∈ stack, ((out ++ [r]).getD k (0, [])).1 = (out.getD k (0, [])).1 := fun k hk => by
    rw [List.getD_append _ _ _ _ (h k hk)]
  simp only [stackVals, List.map_cons, List.map_congr_left hold, List.getD_append_right _ _ _ _ (Nat.le_refl out.length), Nat.sub_self,
    List.getD_cons_zero]

theorem lt_length_push {out : List (Nat × List Nat)} {stack : List Nat} (h : ∀ k ∈ stack, k < out.length) (r : Nat × List Nat) :
    ∀ k ∈ out.length :: stack, k < (out ++ [r]).length := by
  intro k hk
  rw [List.length_append, List.length_singleton]
  obtain rfl | hk := List.mem_cons.mp hk
  · exact Nat.lt_succ_self _
  · exact Nat.lt_succ_of_lt (h k hk)

theorem stackVals_drop (out : List (Nat × List Nat)) (stack : List Nat) (k : Nat) :
    stackVals out (stack.drop k) = (stackVals out stack).drop k := List.map_drop

/-- The values of a node's children, in push order. -/
theorem stackVals_children (out : List (Nat × List Nat)) (stack : List Nat) (k : Nat) :
    ((stack.take k).reverse.map fun c => (out.getD c (0, [])).1) = ((stackVals out stack).take k).reverse := by
  rw [stackVals, ← List.map_take, List.map_reverse]

/-- The value of the last entry that the upward pass reaches is the one that a stack of values ends with, if the last entry before was on
top of the stack. -/
theorem upward_root (d : BitVec 256) (p32 : Bool) (leaf : Nat → Nat) (base : Nat) :
    ∀ (n : Nat) (stack : List Nat) (out : List (Nat × List Nat)) (st : BitVec 5), (∀ k ∈ stack, k < out.length) →
      (stackVals out stack).headD 0 = (out.getD (out.length - 1) (0, [])).1 →
      ((upward d p32 leaf base n out.length stack out st).1.getD (out.length + n - 1) (0, [])).1 =
        (riseStack p32 (fun e => leaf (leafNo (base + e))) ((List.range' out.length n).map (shapeByte d)) (stackVals out stack)).headD 0
  | 0, stack, out, st, _, htop => htop.symm
  | n + 1, stack, out, st, hin, htop => by
    have hstep (r : Nat × List Nat) (rest : List Nat) (st : BitVec 5) (hrest : ∀ k ∈ rest, k < out.length) :
        ((upward d p32 leaf base n (out.length + 1) (out.length :: rest) (out ++ [r]) st).1.getD (out.length + (n + 1) - 1) (0, [])).1 =
          (riseStack p32 (fun e => leaf (leafNo (base + e))) ((List.range' (out.length + 1) n).map (shapeByte d))
            (r.1 :: stackVals out rest)).headD 0 := by
      have ih := upward_root d p32 leaf base n (out.length :: rest) (out ++ [r]) st (lt_length_push hrest r) (by
        rw [stackVals_push hrest]; simp)
      rw [stackVals_push hrest, List.length_append, List.length_singleton] at ih
      rw [show out.length + (n + 1) - 1 = out.length + 1 + n - 1 by omega]
      exact ih
    rw [List.range'_succ, List.map_cons, riseStack, upward]
    split
    next hleaf => exact hstep (_, []) stack st hin
    next hnode =>
      dsimp only
      rw [← stackVals_drop, ← stackVals_children]
      exact hstep (_, _) _ _ fun k hk => hin k (List.mem_of_mem_drop hk)

/-- The root's value is the one on top of the stack after the last entry. -/
theorem upward_last (d : BitVec 256) (p32 : Bool) (leaf : Nat → Nat) (base : Nat) :
    ((upward d p32 leaf base (shapeCount d) 0 [] [] 0).1.getD (shapeCount d - 1) (0, [])).1 =
      (riseStack p32 (fun e => leaf (leafNo (base + e))) ((List.range (shapeCount d)).map (shapeByte d)) []).headD 0 := by
  have h := upward_root d p32 leaf base (shapeCount d) [] [] 0 (fun _ hk => absurd hk List.not_mem_nil) rfl
  rw [List.length_nil, Nat.zero_add, ← List.range_eq_range'] at h
  exact h

/-! ## The downward pass (R244) -/

/-- Gradients are added only into the leaves of the leaf entries. -/
theorem get_addGrads_off (d : BitVec 256) (p32 : Bool) (base goff : Nat) (grads : List (Nat × Nat)) {l : Nat} :
    ∀ (n j : Nat) (leaves : Cells Word) (st : BitVec 5),
      (∀ i, j ≤ i → i < j + n → shapeByte d i < 128 → l ≠ leafNo (base + shapeByte d i + goff)) →
      Cells.get 0 (addGrads d p32 base goff grads n j leaves st).1 l = Cells.get 0 leaves l
  | 0, _, _, _, _ => rfl
  | n + 1, j, leaves, st, h => by
    have hrest : ∀ i, j + 1 ≤ i → i < j + 1 + n → shapeByte d i < 128 → l ≠ leafNo (base + shapeByte d i + goff) := fun i hi hn =>
      h i (by omega) (by omega)
    rw [addGrads]
    split
    next hleaf =>
      rw [get_addGrads_off d p32 base goff grads n (j + 1) _ _ hrest]
      exact get_set_ne 0 leaves _ (h j (Nat.le_refl j) (by omega) hleaf)
    next => exact get_addGrads_off d p32 base goff grads n (j + 1) leaves st hrest

/-- A lone leaf is given the gradient of the root. -/
theorem addGrads_lone {d : BitVec 256} (h : shapeByte d 0 < 128) (p32 : Bool) (base goff g : Nat) (leaves : Cells Word) (st : BitVec 5) :
    (addGrads d p32 base goff [(0, g)] 1 0 leaves st).1 = Cells.set 0 leaves (leafNo (base + shapeByte d 0 + goff)) (BitVec.ofNat 32
      (rndSum p32 [leafVal p32 (Cells.get 0 leaves (leafNo (base + shapeByte d 0 + goff))).toNat, g]).v) := by
  rw [addGrads, if_pos h]
  rfl

theorem downward_lone {d : BitVec 256} (h : shapeByte d 0 < 128) (p32 : Bool) (vals : List (Nat × List Nat)) (grads : List (Nat × Nat))
    (st : BitVec 5) : downward d p32 vals 1 grads st = (grads, st) := by
  rw [downward, if_pos h]
  rfl

end Sys2Proof.Machine
end

section
namespace Sys2Proof.Machine

/-! ## TRISE and TFALL at the slot (R239) -/

/-- TRISE or TFALL, with the work that its entry takes. -/
def IsForest (i : Instr) (shp : BitVec 6) (sa sb : SReg) (w : BitVec 256 → Nat → Nat → BitVec 16 → SbWork) : Prop :=
  i = .trise shp sa sb ∧ w = .trise ∨ i = .tfall shp sa sb ∧ w = .tfall

section
variable {s : State} {i : Instr} {b : Inflight} {shp : BitVec 6} {sa sb : SReg} {w : BitVec 256 → Nat → Nat → BitVec 16 → SbWork}

theorem exec_forest (hi : IsForest i shp sa sb w) : ∃ mn, exec i s = s.runSlot mn i (forestSlot shp sa sb w) := by
  obtain ⟨rfl, rfl⟩ | ⟨rfl, rfl⟩ := hi
  · exact ⟨"TRISE", rfl⟩
  · exact ⟨"TFALL", rfl⟩

variable (h : s.At i b) (hi : IsForest i shp sa sb w)
include h hi

theorem forest_takes (ha : (s.here.sreg sa).toNat < 1024) (hb : (s.here.sreg sb).toNat < 1024)
    (hd : shapeFault (s.here.shapes[shp.toNat]'shp.isLt) = none) : TakesForest s i s
      (w (s.here.shapes[shp.toNat]'shp.isLt) (s.here.sreg sa).toNat (s.here.sreg sb).toNat s.here.k.tcfg) none := by
  obtain ⟨mn, hx⟩ := exec_forest (s := s) hi
  refine ⟨s.here.freeEntry, commitCycle s.here b, s.here.forestLate s.focus _, freeEntry_free, forestLate_free s.focus,
    runSlot_keeps h hx ?_ rfl rfl⟩
  simp only [forestSlot, if_neg (Nat.not_le_of_gt ha), if_neg (Nat.not_le_of_gt hb), hd]
  rfl

theorem forest_traps {l : Launch} (hl : s.Handles l) {c e : Nat} (hf : forestSlot shp sa sb w s s.focus s.here b = .trap c e)
    (hr : routeH c = true) (hc : c ≠ 0x0A) : TrapsTo i s b l c e := by
  obtain ⟨mn, hx⟩ := exec_forest (s := s) hi
  exact runSlot_traps h hl hx hf hr hc

end

/-! ## Bad leaves met by a pass (R246) -/

theorem badLeafOf_eq_none {t : Tile} {e : SbEntry} (h : ∀ n ∈ e.leavesRead, n ∉ t.leafBad) : t.badLeafOf e = none :=
  List.find?_eq_none.mpr fun n hn hb => h n hn (by simpa using hb)

theorem badLeafOf_eq_some {t : Tile} {e : SbEntry} (h : ∃ n ∈ e.leavesRead, n ∈ t.leafBad) :
    ∃ n ∈ e.leavesRead, n ∈ t.leafBad ∧ t.badLeafOf e = some n := by
  obtain ⟨m, hm, hb⟩ := h
  cases hfound : t.badLeafOf e with
  | none => exact absurd hb (by simpa using List.find?_eq_none.mp hfound m hm)
  | some n => exact ⟨n, List.mem_of_find?_eq_some hfound, by simpa using List.find?_some hfound, rfl⟩

theorem mem_leavesRead_trise {e : SbEntry} {d : BitVec 256} {base g : Nat} {k9 : BitVec 16} (h : e.work = .trise d base g k9) {n : Nat} :
    n ∈ e.leavesRead ↔ n ∈ descLeaves d base := by
  simp only [SbEntry.leavesRead, h]

theorem mem_leavesRead_tfall {e : SbEntry} {d : BitVec 256} {base g : Nat} {k9 : BitVec 16} (h : e.work = .tfall d base g k9) {n : Nat} :
    n ∈ e.leavesRead ↔ n ∈ g :: descLeaves d base ++ descLeaves d (base + tcfgGoff k9) := by
  simp only [SbEntry.leavesRead, h, List.mem_append, List.mem_cons, List.not_mem_nil, or_false]
  tauto

section
variable {s : State} {f : TileId} {ent : SbEntry} {n : Nat} (back : Nat)

/-- A bundle part of which has committed, or whose slots no longer wait at K before it, ends first. -/
theorem leafFault_later {b : Inflight} (hb : (s.tile f).inflight = some b) (h : b.next ≠ 0 ∨ b.passed = true ∨ b.atomSent = true) :
    ∃ z, s.leafFault f ent n back = s.setTile f z ∧
      z.data = ({ s.tile f with sb := (s.tile f).sb.erase ent, leafTrap := some n } : Tile).data := by
  have hno (c : Bool) : (b.next = 0 && !b.passed && !b.atomSent && b.atomBack.isNone && c) = false := by
    obtain h | h | h := h <;> simp [h]
  refine ⟨{ s.tile f with
    sb := (s.tile f).sb.erase ent, leafTrap := some n, cutHere := (s.tile f).cutAtD, meets := (s.tile f).meets + 1 }, ?_, rfl⟩
  simp only [State.leafFault, hb, hno, Bool.false_eq_true, if_false]

/-- The trap of a bad leaf, taken by a tile outside a handler, stops it. -/
theorem badLeaf_stops {x y : Tile} {pc : BitVec 16} {slot : Nat} (ht : y.k.trapped = false) (hq : y.copyq = x.copyq) :
    TrapStopped x ((((s.setTile f y).takeTrap f 0x10 n 0 pc slot).boundary f).tile f) pc slot 0x10 n 0 := by
  obtain ⟨-, -, hstop⟩ := takeTrap_boundary (s := s.setTile f y) (i := f) (c := 0x10) (d := n) (m := 0) (pc := pc) (n := slot)
    (inj := false) (by decide) rfl
  rw [tile_setTile] at hstop
  exact (hstop ht).of_copyq hq

variable (ht : (s.tile f).k.trapped = false)
include ht

/-- The trap is taken before a bundle that waits at K. -/
theorem leafFault_held {b : Inflight} (hb : (s.tile f).inflight = some b) (hn : b.next = 0) (hp : b.passed = false)
    (ha : b.atomSent = false) (hm : b.atomBack = none) (hh : b.hold ≠ none) :
    TrapStopped (s.tile f) ((s.leafFault f ent n back).tile f) b.first 0 0x10 n 0 := by
  have hhold : b.hold.isSome = true := Option.isSome_iff_ne_none.mpr hh
  simp only [State.leafFault, hb, hn, hp, ha, hm, hhold]
  exact badLeaf_stops ht rfl

/-- The trap is taken at once where the tile stands at a bundle boundary. -/
theorem leafFault_boundary (hb : (s.tile f).inflight = none) (hr : (s.tile f).resume = 0) :
    TrapStopped (s.tile f) ((s.leafFault f ent n back).tile f) (s.tile f).pc 0 0x10 n 0 := by
  simp only [State.leafFault, hb, hr]
  exact badLeaf_stops ht rfl

end

/-! ## Write-backs of the passes (R242, R244) -/

/-- A tile after a TRISE: the root's value is in its leaf, and TSTAT has the bits of the pass. -/
def Tile.risen (t : Tile) (d : BitVec 256) (base g : Nat) (k9 : BitVec 16) : Tile :=
  let r := upward d (k9.getLsbD 0) t.leaf base (shapeCount d) 0 [] [] 0
  (t.setLeaves [(g, BitVec.ofNat 32 (r.1.getD (shapeCount d - 1) (0, [])).1)]).raiseTstat r.2

/-- A tile after a TFALL: the gradients are added, and TSTAT has the bits of the passes. -/
def Tile.fallen (t : Tile) (d : BitVec 256) (base g : Nat) (k9 : BitVec 16) : Tile :=
  let p32 := k9.getLsbD 0
  let r := upward d p32 t.leaf base (shapeCount d) 0 [] [] 0
  let gs := downward d p32 r.1 (shapeCount d) [(shapeCount d - 1, leafVal p32 (t.leaf g))] 0
  let ls := addGrads d p32 base (tcfgGoff k9) gs.1 (shapeCount d) 0 t.leaves 0
  ({ t with leaves := ls.1 } : Tile).raiseTstat (r.2 ||| gs.2 ||| ls.2)

/-- Of a tile, the leaf file changes, and in TSTAT bits are set. -/
def Tile.Passed (x y : Tile) : Prop :=
  { y with leaves := x.leaves, leafBad := x.leafBad, k := x.k } = x ∧ ∃ st, y.k = { x.k with tstat := x.k.tstat ||| st }

theorem passed_leaves (t : Tile) (leaves : Cells Word) (bad : List Nat) (st : BitVec 5) :
    t.Passed (({ t with leaves := leaves, leafBad := bad } : Tile).raiseTstat st) := ⟨rfl, st, rfl⟩

theorem risen_passed (t : Tile) (d : BitVec 256) (base g : Nat) (k9 : BitVec 16) : t.Passed (t.risen d base g k9) := passed_leaves t _ _ _
theorem fallen_passed (t : Tile) (d : BitVec 256) (base g : Nat) (k9 : BitVec 16) : t.Passed (t.fallen d base g k9) :=
  passed_leaves t _ t.leafBad _

theorem leaves_risen (t : Tile) (d : BitVec 256) (base g : Nat) (k9 : BitVec 16) (n : Nat) : Cells.get 0 (t.risen d base g k9).leaves n =
    if n = g then BitVec.ofNat 32 ((riseStack (k9.getLsbD 0) (fun e => t.leaf (leafNo (base + e)))
      ((List.range (shapeCount d)).map (shapeByte d)) []).headD 0) else Cells.get 0 t.leaves n := by
  rw [← upward_last]
  split
  next h => exact h ▸ get_set_self 0 t.leaves g _
  next h => exact get_set_ne 0 t.leaves _ h

theorem leaves_fallen_off (t : Tile) {d : BitVec 256} (hd : shapeFault d = none) (base g : Nat) (k9 : BitVec 16) {n : Nat}
    (hn : n ∉ descLeaves d (base + tcfgGoff k9)) : Cells.get 0 (t.fallen d base g k9).leaves n = Cells.get 0 t.leaves n := by
  obtain ⟨-, hle, -⟩ := shapeFault_none hd
  refine get_addGrads_off d _ base _ _ (shapeCount d) 0 t.leaves 0 fun i _ hi hleaf e => hn ?_
  rw [e, Nat.add_right_comm]
  exact mem_descLeaves hle (by omega) hleaf _

/-- With a lone leaf its gradient is that of the root. -/
theorem leaves_fallen_lone (t : Tile) {d : BitVec 256} (hd : shapeFault d = none) (base g : Nat) (k9 : BitVec 16) {e : Nat}
    (he : (List.range (shapeCount d)).map (shapeByte d) = [e]) :
    Cells.get 0 (t.fallen d base g k9).leaves (leafNo (base + e + tcfgGoff k9)) = BitVec.ofNat 32 (rndSum (k9.getLsbD 0)
      [leafVal (k9.getLsbD 0) (Cells.get 0 t.leaves (leafNo (base + e + tcfgGoff k9))).toNat, leafVal (k9.getLsbD 0) (t.leaf g)]).v := by
  obtain ⟨hc, rfl, hleaf⟩ := entries_lone hd he
  simp only [Tile.fallen, Tile.raiseTstat, hc, downward_lone hleaf, addGrads_lone hleaf, Nat.sub_self, get_set_self]

/-- A write-back of the forest, its conflict cycles counted. -/
theorem commitsOn_passed {s : State} {f : TileId} {i : Instr} {ent : SbEntry} {y : Tile} {extra c : Nat} (hy : (s.tile f).Passed y)
    (hx : exec i s = .next (s.backDone f ((y.addTconf extra).entryDone ent c))) :
    CommitsOn f i s { y.addTconf extra with sb := (s.tile f).sb.erase ent } := by
  have hsb : y.sb = (s.tile f).sb := (congrArg Tile.sb hy.1 :)
  rw [← hsb]
  exact commitsOn_backDone hx rfl

section
variable {s : State} {f : TileId} {num : BitVec 4} {ent : SbEntry} {d : BitVec 256} {base g : Nat} {k9 : BitVec 16}
  (h : (s.tile f).Pends num ent)
include h

theorem triseWriteback_commits (hw : ent.work = .trise d base g k9) (hgood : ∀ n ∈ descLeaves d base, n ∉ (s.tile f).leafBad) :
    CommitsOn f (.triseWriteback f num) s
      { ((s.tile f).risen d base g k9).addTconf (readCycles (descLeaves d base) - 1) with sb := (s.tile f).sb.erase ent } := by
  have hbad : (s.tile f).badLeafOf ent = none := badLeafOf_eq_none fun n hn => hgood n ((mem_leavesRead_trise hw).mp hn)
  refine commitsOn_passed (c := (s.tile f).backCycle f ent) (risen_passed ..) ?_
  show execTriseWriteback f num s = _
  simp only [execTriseWriteback, entry?_of_pends h, hw, hbad, Tile.risen]

theorem tfallWriteback_commits (hw : ent.work = .tfall d base g k9)
    (hgood : ∀ n ∈ g :: descLeaves d base ++ descLeaves d (base + tcfgGoff k9), n ∉ (s.tile f).leafBad) :
    CommitsOn f (.tfallWriteback f num) s { ((s.tile f).fallen d base g k9).addTconf
      ((readCycles (g :: descLeaves d base) - 1) + (bankLoad (descLeaves d (base + tcfgGoff k9)) - 1)) with
        sb := (s.tile f).sb.erase ent } := by
  have hbad : (s.tile f).badLeafOf ent = none := badLeafOf_eq_none fun n hn => hgood n ((mem_leavesRead_tfall hw).mp hn)
  refine commitsOn_passed (c := (s.tile f).backCycle f ent) (fallen_passed ..) ?_
  show execTfallWriteback f num s = _
  simp only [execTfallWriteback, entry?_of_pends h, hw, hbad, Tile.fallen]

/-- The write-back of an operation that met a bad leaf is the fault of that leaf. -/
theorem forestWriteback_bad {i : Instr} {n : Nat} (hi : ent.work = .trise d base g k9 ∧ i = .triseWriteback f num ∨
    ent.work = .tfall d base g k9 ∧ i = .tfallWriteback f num) (hbad : (s.tile f).badLeafOf ent = some n) :
    exec i s = .next (s.leafFault f ent n (((s.tile f).due ent).getD 0)) := by
  obtain ⟨hw, rfl⟩ | ⟨hw, rfl⟩ := hi
  · show execTriseWriteback f num s = _
    simp only [execTriseWriteback, entry?_of_pends h, hw, hbad]
  · show execTfallWriteback f num s = _
    simp only [execTfallWriteback, entry?_of_pends h, hw, hbad]

end

/-- Settles O42: the slots by `forest_takes` and `forest_traps`, TRISE's root by `upward_last`, TFALL's leaves by the equations of
`Tile.fallen`, and a bad leaf by the cases of `State.leafFault`. -/
theorem forestPassesWriteTheirLeaves : Obligations.ForestPassesWriteTheirLeaves := by
  refine ⟨fun s b shp sa sb i w h hi => ?_, fun s f num ent d base g k9 h hd => ?_⟩
  · intro x u v d
    have hslot {c e : Nat} (hf : forestSlot shp sa sb w s s.focus s.here b = .trap c e) (hr : routeH c = true) (hc : c ≠ 0x0A) (l : Launch)
        (hl : s.Handles l) : TrapsTo i s b l c e := forest_traps h hi hl hf hr hc
    refine ⟨fun hu hv hd => forest_takes h hi hu hv hd, fun l hl => ⟨fun hu => ?_, fun hu hv => ?_, fun k j hu hv hd => ?_⟩⟩
    · exact hslot (if_pos hu) rfl (by decide) l hl
    · exact hslot ((if_neg (Nat.not_le_of_gt hu)).trans (if_pos hv)) rfl (by decide) l hl
    · refine hslot ((if_neg (Nat.not_le_of_gt hu)).trans ((if_neg (Nat.not_le_of_gt hv)).trans ?_)) rfl (by decide) l hl
      rw [show shapeFault (s.here.shapes[shp.toNat]'shp.isLt) = some (k, j) from hd]
  · intro x p32 entries leaf goff reads wrote passes
    refine ⟨fun hw hgood => ?_, fun hw hgood => ?_, fun i met hi hbad => ?_⟩
    · exact ⟨x.risen d base g k9, ⟨triseWriteback_commits h hw hgood, risen_passed x d base g k9⟩, leaves_risen x d base g k9⟩
    · exact ⟨x.fallen d base g k9, ⟨tfallWriteback_commits h hw hgood, fallen_passed x d base g k9⟩,
        fun n hn => leaves_fallen_off x hd base g k9 hn, rfl, fun e he => leaves_fallen_lone x hd base g k9 he⟩
    · have hread (n : Nat) : n ∈ ent.leavesRead ↔ n ∈ met := by
        obtain ⟨hw, -, rfl⟩ | ⟨hw, -, rfl⟩ := hi
        · exact mem_leavesRead_trise hw
        · exact mem_leavesRead_tfall hw
      obtain ⟨n, hn, hb, hfound⟩ := badLeafOf_eq_some (t := x) (e := ent) (by simpa only [hread] using hbad)
      have hexec : exec i s = _ := forestWriteback_bad h (hi.imp (fun ⟨hw, he, _⟩ => ⟨hw, he⟩) fun ⟨hw, he, _⟩ => ⟨hw, he⟩) hfound
      refine ⟨n, (hread n).mp hn, hb, fun b hin hlate => ?_, fun b hin hnext hpassed hsent hback hhold => ⟨_, hexec, ?_⟩,
        fun hin hresume => ⟨_, hexec, ?_⟩⟩
      · obtain ⟨z, hz, hdata⟩ := leafFault_later (ent := ent) (n := n) ((x.due ent).getD 0) hin hlate
        exact ⟨_, hexec.trans (congrArg _ hz), onlyTile_setTile .., by rw [tile_setTile]; exact hdata⟩
      · exact leafFault_held _ h.outside hin hnext hpassed hsent hback hhold
      · exact leafFault_boundary _ h.outside hin hresume

end Sys2Proof.Machine
end

section
namespace Sys2Proof.Machine

/-! ## Waits brought up to date leave a launch as it was (R296) -/

/-- A launch of which no more than the waits and the priorities of its parts have moved. -/
def Launch.Waited (l l' : Launch) : Prop :=
  ∃ g : DieLaunch → DieLaunch, (∀ p, { g p with waiting := p.waiting, boost := p.boost } = p) ∧ l' = { l with parts := l.parts.map g }

theorem Launch.Waited.refl (l : Launch) : l.Waited l := ⟨id, fun _ => rfl, by rw [List.map_id]⟩

theorem Launch.Waited.trans {a b c : Launch} (h : a.Waited b) (k : b.Waited c) : a.Waited c := by
  obtain ⟨f, hf, rfl⟩ := h
  obtain ⟨g, hg, rfl⟩ := k
  refine ⟨g ∘ f, fun p => ?_, by rw [List.map_map]⟩
  have := hf p
  rw [← hg (f p)] at this
  exact this

theorem refreshWaits_launches (s : State) (d : Fin 8) :
    ∃ f : Launch → Launch, (∀ l : Launch, l.Waited (f l)) ∧ (s.refreshWaits d).launches = s.launches.map f := by
  refine ⟨_, fun l => ⟨_, fun p => ?_, rfl⟩, rfl⟩
  split
  · split <;> rfl
  · rfl

theorem refreshAll_launches (s : State) :
    ∃ f : Launch → Launch, (∀ l : Launch, l.Waited (f l)) ∧ s.refreshAll.launches = s.launches.map f := by
  have h : ∀ (ds : List (Fin 8)) (s : State),
      ∃ f : Launch → Launch, (∀ l : Launch, l.Waited (f l)) ∧ (ds.foldl State.refreshWaits s).launches = s.launches.map f := fun ds => by
    induction ds with
    | nil => exact fun s => ⟨id, .refl, (List.map_id _).symm⟩
    | cons d ds ih =>
      intro s
      obtain ⟨f, hf, hs⟩ := refreshWaits_launches s d
      obtain ⟨g, hg, ht⟩ := ih (s.refreshWaits d)
      exact ⟨g ∘ f, fun l => (hf l).trans (hg _), by rw [List.foldl_cons, ht, hs, List.map_map]⟩
  exact h _ s

@[simp] theorem refreshAll_tiles (s : State) : s.refreshAll.tiles = s.tiles := by
  have := congrArg State.tiles (refreshed_refreshAll s).frame
  exact this

@[simp] theorem refreshAll_time (s : State) : s.refreshAll.time = s.time := by
  have := congrArg State.time (refreshed_refreshAll s).frame
  exact this

@[simp] theorem refreshAll_regs (s : State) : s.refreshAll.regs = s.regs := by
  have := congrArg State.regs (refreshed_refreshAll s).frame
  exact this

@[simp] theorem refreshAll_ghosts (s : State) : s.refreshAll.ghosts = s.ghosts := by
  have := congrArg State.ghosts (refreshed_refreshAll s).frame
  exact this

@[simp] theorem refreshAll_queues (s : State) : s.refreshAll.queues = s.queues := by
  have := congrArg State.queues (refreshed_refreshAll s).frame
  exact this

/-! ## Commands completed and stores made leave tiles and launches (R295) -/

theorem memFrame_raiseCovered (s : State) (h : BitVec 16) (n : Nat) : MemFrame s (s.raiseCovered h n) :=
  memFrame_narrow s _ _ (Nat.le_refl _)

theorem memFrame_notify (s : State) (q : Fin 16) (cmd : List Byte) : MemFrame s (s.notify q cmd) := by
  have hs : MemFrame s (if bit (field cmd 1 1) 0 then
      (s.feStore (field cmd 2 1) (s.queue q).ctx (field cmd 0x20 8) (bytesOfNat 8 (field cmd 0x28 8))).1 else s) := by
    split
    · exact memFrame_feStore ..
    · exact .refl s
  unfold State.notify
  dsimp only
  split
  · exact hs.trans (memFrame_raiseVector ..)
  · exact hs

theorem memFrame_storeCword (s : State) (l : Launch) (n : Nat) : MemFrame s (s.storeCword l n) := by
  unfold State.storeCword State.storeWord
  split
  · exact .refl s
  · exact (memFrame_raiseCovered s l.handle _).trans (memFrame_feWord ..)

theorem memFrame_writeRecords (s : State) (l : Launch) : MemFrame s (s.writeRecords l) := by
  unfold State.writeRecords
  split
  · exact .refl s
  · exact (MemFrame.foldl _ (fun _ _ => memFrame_feWrite ..) _ _).trans (memFrame_feWrite ..)

theorem memFrame_saveStatus (s : State) (c : BitVec 16) (save code : Nat) : MemFrame s (s.saveStatus c save code) := memFrame_feWrite ..

/-! ## What the end of launches changes (R302, R311, R315) -/

/-- What the end of launches makes of one that stays: what it was, or, of a resident one, a faulted one. -/
structure Launch.Left (x y : Launch) : Prop where
  handle : y.handle = x.handle
  kills : y.kills = x.kills
  phase : y.phase = x.phase ∨ x.isResident = true ∧ y.phase = .faulted

/-- What the end of launches makes of a tile: what it was, a free one, or, of one that ran, one that has stopped or is told to. -/
def Tile.Left (x y : Tile) : Prop := y = x ∨ y.act = .idle ∨ x.act ≠ .idle ∧ (y.act = .stopped ∨ y.stopReq = true)

theorem Launch.Left.refl (l : Launch) : l.Left l := ⟨rfl, rfl, .inl rfl⟩

theorem Launch.Left.trans {x y z : Launch} (h : x.Left y) (g : y.Left z) : x.Left z where
  handle := g.handle.trans h.handle
  kills := g.kills.trans h.kills
  phase := by
    rcases h.phase with hp | ⟨hr, hp⟩ <;> rcases g.phase with gp | ⟨gr, gp⟩
    · exact .inl (gp.trans hp)
    · exact .inr ⟨by simpa [Launch.isResident, hp] using gr, gp⟩
    · exact .inr ⟨hr, gp.trans hp⟩
    · exact .inr ⟨hr, gp⟩

/-- A killed launch stays killed. -/
theorem Launch.Left.killed {x y : Launch} (h : x.Left y) (hx : x.phase = .killed) : y.phase = .killed := by
  rcases h.phase with hp | ⟨hr, -⟩
  · exact hp.trans hx
  · simp [Launch.isResident, hx] at hr

theorem Launch.Waited.left {l l' : Launch} (h : l.Waited l') : l.Left l' := by
  obtain ⟨g, -, rfl⟩ := h
  exact ⟨rfl, rfl, .inl rfl⟩

theorem Tile.Left.trans {x y z : Tile} (h : x.Left y) (g : y.Left z) : x.Left z := by
  rcases g with rfl | gi | ⟨ga, gs⟩
  · exact h
  · exact .inr (.inl gi)
  · rcases h with rfl | hi | ⟨ha, -⟩
    · exact .inr (.inr ⟨ga, gs⟩)
    · exact absurd hi ga
    · exact .inr (.inr ⟨ha, gs⟩)

/-- Between two states launches have ended: what is left of launches and tiles is as above, and no queue has fetched or passed a
command. -/
structure State.Unwinds (s t : State) : Prop where
  launches : ∀ y ∈ t.launches, ∃ x ∈ s.launches, x.Left y
  tiles : ∀ i, (s.tile i).Left (t.tile i)
  fetched : ∀ q, (t.queue q).fetched = (s.queue q).fetched

section
variable {s t u : State}

theorem unwinds_of_frame (hl : t.launches = s.launches) (ht : t.tiles = s.tiles) (hq : t.queues = s.queues) : s.Unwinds t where
  launches y hy := ⟨y, hl ▸ hy, .refl y⟩
  tiles i := .inl (by simp only [State.tile, ht])
  fetched q := by simp only [State.queue, hq]

theorem State.Unwinds.refl (s : State) : s.Unwinds s := unwinds_of_frame rfl rfl rfl

theorem State.Unwinds.trans (h : s.Unwinds t) (g : t.Unwinds u) : s.Unwinds u where
  launches z hz := by
    obtain ⟨y, hy, hyz⟩ := g.launches z hz
    obtain ⟨x, hx, hxy⟩ := h.launches y hy
    exact ⟨x, hx, hxy.trans hyz⟩
  tiles i := (h.tiles i).trans (g.tiles i)
  fetched q := (g.fetched q).trans (h.fetched q)

theorem MemFrame.unwinds (h : MemFrame s t) : s.Unwinds t := unwinds_of_frame h.launches h.tiles h.queues

theorem unwinds_foldl {α : Type} {g : State → α → State} (h : ∀ (s : State) (x : α), s.Unwinds (g s x)) :
    ∀ (xs : List α) (s : State), s.Unwinds (xs.foldl g s)
  | [], s => .refl s
  | x :: xs, s => (h s x).trans (unwinds_foldl h xs _)

theorem unwinds_ite {c : Prop} [Decidable c] (h : s.Unwinds t) (g : s.Unwinds u) : s.Unwinds (if c then t else u) := by
  split
  · exact h
  · exact g

theorem unwinds_setTile {i : TileId} {y : Tile} (h : (s.tile i).Left y) : s.Unwinds (s.setTile i y) where
  launches y hy := ⟨y, hy, .refl y⟩
  tiles j := by
    by_cases hj : j = i
    · rw [hj, tile_setTile]; exact h
    · rw [tile_setTile_ne s y hj]; exact .inl rfl
  fetched _ := rfl

/-- A launch of the state replaced by what is left of it. -/
theorem unwinds_setLaunch {h : BitVec 16} {l l' : Launch} (hl : s.launch? h = some l) (hleft : l.Left l') : s.Unwinds (s.setLaunch l') where
  launches y hy := by
    obtain ⟨x, hx, rfl⟩ := List.mem_map.mp hy
    split
    · exact ⟨l, List.mem_of_find?_eq_some hl, hleft⟩
    · exact ⟨x, hx, .refl x⟩
  tiles _ := .inl rfl
  fetched _ := rfl

theorem unwinds_dropLaunch (s : State) (h : BitVec 16) : s.Unwinds (s.dropLaunch h) where
  launches y hy := ⟨y, (List.mem_filter.mp hy).1, .refl y⟩
  tiles _ := .inl rfl
  fetched _ := rfl

theorem unwinds_refreshAll (s : State) : s.Unwinds s.refreshAll where
  launches y hy := by
    obtain ⟨f, hf, hs⟩ := refreshAll_launches s
    rw [hs] at hy
    obtain ⟨x, hx, rfl⟩ := List.mem_map.mp hy
    exact ⟨x, hx, (hf x).left⟩
  tiles i := .inl ((refreshed_refreshAll s).tile i)
  fetched q := by simp only [State.queue, refreshAll_queues]

theorem unwinds_captureRecord (s : State) (h : BitVec 16) (d : Fin 8) (cls : Nat) (rec : List Byte) :
    s.Unwinds (s.captureRecord h d cls rec) := by
  have hlog : s.Unwinds (s.logError cls 0 d.val rec) := by
    unfold State.logError
    exact unwinds_of_frame rfl rfl rfl
  unfold State.captureRecord
  generalize s.logError cls 0 d.val rec = u at hlog
  dsimp only
  split
  · exact hlog
  · rename_i l hl
    exact hlog.trans (unwinds_setLaunch hl ⟨rfl, rfl, .inl rfl⟩)

theorem unwinds_sameCycle (s : State) (i : TileId) : s.Unwinds (s.sameCycle i) := by
  unfold State.sameCycle
  dsimp only
  split
  · split
    · split
      · split
        · exact .trans (t := { s with draws := s.draws + 1 }) (unwinds_of_frame rfl rfl rfl) (unwinds_captureRecord ..)
        · exact unwinds_of_frame rfl rfl rfl
      · exact .refl s
    · exact .refl s
  · exact .refl s

theorem queue_setQueue_ne (s : State) {q r : Fin 16} (x : Queue) (h : r ≠ q) : (s.setQueue q x).queue r = s.queue r :=
  Vector.getElem_set_ne q.isLt r.isLt fun e => h (Fin.ext e.symm)

theorem completeRunning_fetched (s : State) (q r : Fin 16) (n : Nat) : ((s.completeRunning q n).queue r).fetched = (s.queue r).fetched := by
  unfold State.completeRunning
  dsimp only
  split
  · rfl
  · rw [State.queue, (memFrame_notify ..).queues]
    show ((s.setQueue q _).queue r).fetched = _
    by_cases h : r = q
    · rw [h, queue_setQueue]
    · rw [queue_setQueue_ne s _ h]

theorem unwinds_completeRunning (s : State) (q : Fin 16) (n : Nat) : s.Unwinds (s.completeRunning q n) where
  launches y hy := by
    have hs : (s.completeRunning q n).launches = s.launches := by
      unfold State.completeRunning
      dsimp only
      split
      · rfl
      · exact (memFrame_notify ..).launches
    exact ⟨y, hs ▸ hy, .refl y⟩
  tiles i := .inl (by rw [State.tile, completeRunning_tiles]; rfl)
  fetched r := completeRunning_fetched s q r n

theorem unwinds_endPreempts (s : State) (l : Launch) (code : Nat) : s.Unwinds (s.endPreempts l code) :=
  unwinds_foldl (fun s _ => (memFrame_saveStatus s ..).unwinds.trans (unwinds_completeRunning ..)) _ s

theorem unwinds_leaveDies (s : State) (h : BitVec 16) : s.Unwinds (s.leaveDies h) :=
  unwinds_foldl (g := fun s d => s.setDie d _) (fun _ _ => unwinds_of_frame rfl rfl rfl) _ s

theorem unwinds_setFstat (s : State) (n : Nat) : s.Unwinds (s.setFstat n) := (memFrame_setFstat s n).unwinds

theorem unwinds_tellEnd (s : State) (l : Launch) : s.Unwinds (s.tellEnd l) := by
  have hfault := unwinds_ite (c := l.phase = .faulted) (unwinds_setFstat s 2) (.refl s)
  exact (hfault.trans (unwinds_ite (c := l.tfence = true) (unwinds_setFstat _ 3) (.refl _))).trans
    (unwinds_foldl (fun s (k : Fin 16 × Nat) => unwinds_completeRunning s k.1 k.2) _ _)

theorem unwinds_fenceSites (s : State) (d : Fin 8) : s.Unwinds (s.fenceSites d) := by
  refine .trans (t := { s with draws := s.draws + 1 }) (unwinds_of_frame rfl rfl rfl) (unwinds_foldl (fun s i => ?_) _ _)
  dsimp only
  split
  · refine .trans ?_ (unwinds_setFstat _ 3)
    exact unwinds_of_frame rfl rfl rfl
  · exact unwinds_of_frame rfl rfl rfl

theorem unwinds_settleFences (s : State) : s.Unwinds s.settleFences :=
  unwinds_foldl (fun s d => unwinds_ite
    (.trans (t := s.setDie d _) (unwinds_of_frame rfl rfl rfl) ((unwinds_setFstat _ 1).trans (unwinds_fenceSites _ d))) (.refl s)) _ s

theorem unwinds_stopTile {i : TileId} (h : (s.tile i).act ≠ .idle) : s.Unwinds (s.stopTile i) where
  launches y hy := ⟨y, hy, .refl y⟩
  tiles j := by
    by_cases hj : j = i
    · rw [hj, State.stopTile, tile_setTile]; exact .inr (.inr ⟨h, .inl rfl⟩)
    · rw [State.stopTile, tile_setTile_ne _ _ hj]; exact .inl rfl
  fetched _ := rfl

/-- A tile of a launch stops, or is told to (R302, R315): one turn of `State.stopLaunchTiles`. -/
def State.stopMember (s : State) (h : BitVec 16) (i : TileId) : State :=
  let t := s.tile i
  if t.runs h && t.act != .stopped then
    if t.mayStop then (s.sameCycle i).stopTile i else s.setTile i { t with stopReq := true }
  else s

theorem sameCycle_tile (s : State) (i j : TileId) : (s.sameCycle i).tile j = s.tile j := by rw [State.tile, sameCycle_tiles]; rfl

theorem unwinds_stopMember (s : State) (h : BitVec 16) (i : TileId) : s.Unwinds (s.stopMember h i) := by
  unfold State.stopMember
  dsimp only
  split
  · rename_i hi
    have hruns : (s.tile i).act ≠ .idle := fun e => by simp [Tile.runs, e] at hi
    split
    · exact (unwinds_sameCycle s i).trans (unwinds_stopTile (sameCycle_tile s i i ▸ hruns))
    · exact unwinds_setTile (.inr (.inr ⟨hruns, .inr rfl⟩))
  · exact .refl s

theorem unwinds_stopLaunchTiles (s : State) (h : BitVec 16) : s.Unwinds (s.stopLaunchTiles h) :=
  unwinds_foldl (fun s i => unwinds_stopMember s h i) allTiles s

/-- What is left of a launch that is done with leaves the state, and its tiles are free. -/
theorem unwinds_reap (s : State) (h : BitVec 16) : s.Unwinds (s.reap h) := by
  unfold State.reap
  split
  · rename_i l _
    refine unwinds_ite ?_ (.refl s)
    exact ((memFrame_writeRecords s l).trans (memFrame_storeCword _ l _)).unwinds.trans (.trans
      (unwinds_foldl (fun s i => unwinds_ite (unwinds_setTile (y := (s.tile i).freed) (.inr (.inl rfl))) (.refl s)) allTiles _)
      ((unwinds_dropLaunch _ h).trans ((unwinds_tellEnd _ l).trans (unwinds_settleFences _))))
  · exact .refl s

theorem unwinds_faultOne {h : BitVec 16} {l : Launch} (hl : s.launch? h = some l) (hr : l.isResident = true) : s.Unwinds (s.faultOne l) :=
  (unwinds_setLaunch hl (l' := { l with phase := .faulted }) ⟨rfl, rfl, .inr ⟨hr, rfl⟩⟩).trans ((unwinds_stopLaunchTiles _ _).trans
    ((unwinds_endPreempts _ l 3).trans ((unwinds_leaveDies _ _).trans (unwinds_reap _ _))))

theorem unwinds_faultChain : ∀ (fuel : Nat) (s : State) (h : BitVec 16), s.Unwinds (s.faultChain fuel h)
  | 0, s, _ => .refl s
  | fuel + 1, s, h => by
    unfold State.faultChain
    split
    · exact .refl s
    · rename_i l hl
      split
      · rename_i hr
        exact (unwinds_faultOne hl hr).trans (unwinds_foldl (fun s (d : Launch) => unwinds_faultChain fuel s d.handle) _ _)
      · exact .refl s

theorem unwinds_faultDependants (s : State) (h : BitVec 16) : s.Unwinds (s.faultDependants h) :=
  unwinds_foldl (fun s (d : Launch) => unwinds_faultChain _ s d.handle) _ s

/-- A launch killed, once it is marked as killed (R302). -/
theorem unwinds_killResident (s : State) (l : Launch) : (s.setLaunch { l with phase := .killed }).Unwinds (s.killResident l) :=
  (unwinds_stopLaunchTiles _ l.handle).trans ((unwinds_endPreempts _ l 3).trans ((unwinds_leaveDies _ l.handle).trans
    ((unwinds_faultDependants _ l.handle).trans ((unwinds_reap _ l.handle).trans (unwinds_refreshAll _)))))

end

end Sys2Proof.Machine
end

section
namespace Sys2Proof.Machine

/-! ## Writes of the queue registers (R291-R293, R386) -/

section
variable {s : State} {q : Fin 16} {v : Word}

/-- Before READY the front-end window takes no write (R386). -/
theorem frontOpen_unready (h : s.regs.ready = false) : s.frontOpen = false := by simp [State.frontOpen, h]

theorem frontOpen_ready (h : s.regs.ready = true) (hv : s.regs.viral = false) : s.frontOpen = true := by simp [State.frontOpen, h, hv]

@[simp] theorem setQueue_self (s : State) (q : Fin 16) : s.setQueue q (s.queue q) = s := by simp [State.setQueue, State.queue]

theorem writeQtail_eq (s : State) (q : Fin 16) (v : Word) : s.writeQtail q v = s.setQueue q
    (if (s.queue q).en = false then s.queue q
     else if 2 ^ (s.queue q).size ≤ v.toNat then { s.queue q with tailErr := true } else { s.queue q with tail := v.toNat }) := by
  unfold State.writeQtail
  by_cases he : (s.queue q).en = false
  · simp [he]
  · by_cases hn : 2 ^ (s.queue q).size ≤ v.toNat <;> simp [he, hn, Queue.entries]

theorem exec_qtailWrite_ready (h : s.frontOpen = true) : exec (.qtailWrite q v) s = .next (s.writeQtail q v) := by
  show execQtailWrite q v s = _
  simp only [execQtailWrite, h, Bool.not_true, Bool.false_eq_true, if_false]

theorem exec_qctlWrite_ready (h : s.frontOpen = true) : exec (.qctlWrite q v) s = .next (s.writeQctl q v) := by
  show execQctlWrite q v s = _
  simp only [execQctlWrite, h, Bool.not_true, Bool.false_eq_true, if_false]

theorem exec_queueWrites_closed (h : s.frontOpen = false) :
    exec (.qtailWrite q v) s = .next s ∧ exec (.qctlWrite q v) s = .next s ∧ exec (.qstatErrClear q) s = .next s := by
  show execQtailWrite q v s = _ ∧ execQctlWrite q v s = _ ∧ execQstatErrClear q s = _
  simp only [execQtailWrite, execQctlWrite, execQstatErrClear, h, Bool.not_false, if_true, and_self]

/-- A QCTL write takes its bits; the queue's context and pointers only where it was disabled (R291). -/
theorem qctlWrite_writes (h : s.frontOpen = true) : ∃ y, exec (.qctlWrite q v) s = .next (s.setQueue q y) ∧
    y.en = v.getLsbD 0 ∧ y.irq = v.getLsbD 1 ∧ y.diagOk = v.getLsbD 2 ∧
    ((s.queue q).en = true → y.ctx = (s.queue q).ctx ∧ y.head = (s.queue q).head ∧ y.tail = (s.queue q).tail) ∧
    ((s.queue q).en = false → y.ctx = v.extractLsb' 16 16 ∧
      if v.getLsbD 0 then y.head = 0 ∧ y.tail = 0 ∧ y.fetched = none else y.head = (s.queue q).head ∧ y.tail = (s.queue q).tail) := by
  refine ⟨_, exec_qctlWrite_ready h, rfl, rfl, rfl, fun he => ?_, fun he => ?_⟩
  · simp [he]
  · cases v.getLsbD 0 <;> simp [he]

/-- Clearing ERR passes over the command at QHEAD; where ERR is clear it does nothing (R293). -/
theorem exec_qstatErrClear_set (h : s.frontOpen = true) (he : (s.queue q).err = true) :
    exec (.qstatErrClear q) s = .next (s.setQueue q { (s.queue q).advance with err := false }) := by
  show execQstatErrClear q s = _
  simp only [execQstatErrClear, State.clearQerr, h, he, Bool.not_true, Bool.false_eq_true, if_false, if_true]

theorem exec_qstatErrClear_clear (he : (s.queue q).err = false) : exec (.qstatErrClear q) s = .next s := by
  show execQstatErrClear q s = _
  simp only [execQstatErrClear, State.clearQerr, he, Bool.false_eq_true, if_false, ite_self]

end

/-! ## Commands from their fetch to their end (R293-R295) -/

section
variable {s : State} {q : Fin 16} {cmd : List Byte}

/-- A queue that stops at a command keeps QHEAD there (R293). -/
theorem queue_queueErr (s : State) (q : Fin 16) (code : Nat) : (s.queueErr q code).queue q =
    { s.queue q with err := true, errCode := BitVec.ofNat 8 code, fetched := none, begun := false } := by
  have hirq (t : State) : (t.queueIrq q).queue q = t.queue q := by
    unfold State.queueIrq
    split
    · rw [State.queue, (memFrame_raiseVector ..).queues]; rfl
    · rfl
  rw [State.queueErr, hirq, queue_setQueue]

/-- A queue that reads on takes the command at QHEAD where it is well formed, and stops there where it is not (R293, R294). -/
theorem commandFetch_fetches {s' : State} {r : Option (List Byte)} (hv : s.regs.viral = false) (hen : (s.queue q).en = true)
    (herr : (s.queue q).err = false) (hf : (s.queue q).fetched = none) (hne : (s.queue q).head ≠ (s.queue q).tail)
    (hw : ∀ l ∈ s.launches, l.phase = .waiting → l.queue ≠ q)
    (hr : s.feRead (s.queue q).ctx ((s.queue q).base.toNat + 64 * (s.queue q).head) 64 = (s', r)) :
    ∃ t, exec (.commandFetch q) s = .next t ∧
      (∀ c, r = some c → commandError c = none →
        t = s'.setQueue q { s'.queue q with fetched := some c, begun := false, index := (s.queue q).index + 1 }) ∧
      (∀ e, (r = none ∧ e = 0x07 ∨ ∃ c, r = some c ∧ commandError c = some e) → t = s'.queueErr q e) := by
  have hheld : (s.launches.any fun l => l.phase == .waiting && l.queue == q) = false := by simpa using hw
  have hx : exec (.commandFetch q) s = execCommandFetch q s := rfl
  simp only [hx, execCommandFetch, hv, hen, herr, hf, hheld, bne_iff_ne.mpr hne, hr, Option.isNone_none, Bool.not_false, Bool.and_self,
    if_true]
  refine ⟨_, rfl, ?_, ?_⟩
  · rintro c rfl hc
    simp only [hc]
  · rintro e (⟨rfl, rfl⟩ | ⟨c, rfl, hc⟩)
    · rfl
    · simp only [hc]

theorem toBegin_eq {op : Nat} (hf : (s.queue q).fetched = some cmd) (ho : cOp cmd = op) (hb : (s.queue q).begun = false)
    (hv : s.regs.viral = false) : s.toBegin q op = some cmd := by
  simp only [State.toBegin, hf, ho, hb, hv, Bool.not_false, and_self, if_true]

/-- A command with no NOTIFY and no INTR tells its end to nobody. -/
theorem notify_plain (s : State) (q : Fin 16) (h : field cmd 1 1 = 0) : s.notify q cmd = s := by
  simp [State.notify, h, bit]

/-- With no NOTIFY and no INTR, all that a command's end does is to move its queue on. -/
theorem completeFetched_plain (h : field cmd 1 1 = 0) (hf : (s.queue q).fetched = some cmd) :
    s.completeFetched q cmd = s.setQueue q (s.queue q).advance := by
  simp only [State.completeFetched, hf, Option.isSome_some, if_true, notify_plain _ q h]

theorem bit_eq_testBit (v i : Nat) : bit v i = v.testBit i := by
  rw [bit, Nat.testBit_eq_decide_div_mod_eq]
  rfl

/-- A WAIT that has read its word completes where the word is reached or says fault, and waits on otherwise (R295). -/
theorem waitRead_plain {s' : State} {bs : List Byte} (h : field cmd 1 1 = 0)
    (hr : s.feReadGo .front true (s.queue q).ctx (cAddr cmd) 8 = (s', some bs)) (hf : (s'.queue q).fetched = some cmd) :
    s.waitRead q cmd = s'.setQueue q
      (if (natOfBytes bs).testBit 63 ∨ cValue cmd % 2 ^ 62 ≤ natOfBytes bs % 2 ^ 62 then (s'.queue q).advance
       else { s'.queue q with begun := true }) := by
  have hstop : bit (field cmd 1 1) 2 = false := by simp [h, bit]
  simp only [State.waitRead, hr, hstop, completeFetched_plain h hf, Bool.false_and, Bool.false_eq_true, if_false]
  by_cases hw : (natOfBytes bs).testBit 63 ∨ cValue cmd % 2 ^ 62 ≤ natOfBytes bs % 2 ^ 62
  · rw [if_pos hw, if_pos]
    simpa only [bit_eq_testBit, Bool.or_eq_true, decide_eq_true_eq] using hw
  · rw [if_neg hw, if_neg]
    simpa only [bit_eq_testBit, Bool.or_eq_true, decide_eq_true_eq] using hw

theorem exec_wait (hf : (s.queue q).fetched = some cmd) (ho : cOp cmd = 2) (hb : (s.queue q).begun = false) (hv : s.regs.viral = false) :
    exec (.wait q) s = .next (s.waitRead q cmd) := by
  show execWait q s = _
  simp only [execWait, toBegin_eq hf ho hb hv]

theorem exec_waitPoll (hf : (s.queue q).fetched = some cmd) (ho : cOp cmd = 2) (hb : (s.queue q).begun = true)
    (hv : s.regs.viral = false) : exec (.waitPoll q) s = .next (s.waitRead q cmd) := by
  show execWaitPoll q s = _
  simp only [execWaitPoll, hf, ho, hb, hv, beq_self_eq_true, Bool.not_false, Bool.and_self, if_true]

theorem exec_signal {s' : State} {ok : Bool} (hf : (s.queue q).fetched = some cmd) (ho : cOp cmd = 3) (hb : (s.queue q).begun = false)
    (hv : s.regs.viral = false)
    (hs : s.feStore (field cmd 2 1) (s.queue q).ctx (cAddr cmd) (bytesOfNat 8 (cValue cmd)) = (s', ok)) :
    exec (.signal q) s = .next (s'.completeFetched q cmd) := by
  show execSignal q s = _
  simp only [execSignal, toBegin_eq hf ho hb hv, hs]

theorem exec_barrier (hf : (s.queue q).fetched = some cmd) (ho : cOp cmd = 7) (hb : (s.queue q).begun = false)
    (hv : s.regs.viral = false) (hr : (s.queue q).running = []) : exec (.barrier q) s = .next (s.completeFetched q cmd) := by
  show execBarrier q s = _
  simp only [execBarrier, toBegin_eq hf ho hb hv, hr, List.isEmpty_nil, if_true]

/-! ## KILL (R295, R302) -/

/-- A KILL of a handle that nothing holds has no effect but its own end. -/
theorem exec_kill_nothing (hf : (s.queue q).fetched = some cmd) (ho : cOp cmd = 6) (hb : (s.queue q).begun = false)
    (hv : s.regs.viral = false) (hl : ∀ l ∈ s.launches, l.handle ≠ cHandle cmd) (hg : ∀ g ∈ s.ghosts, g.handle ≠ cHandle cmd) :
    exec (.kill q) s = .next (s.completeFetched q cmd) := by
  have hlaunch : (s.launches.find? fun l => l.handle == cHandle cmd && !l.gone) = none :=
    List.find?_eq_none.mpr fun l hm => by simp [hl l hm]
  have hghost : (s.ghosts.find? fun g => g.handle == cHandle cmd) = none :=
    List.find?_eq_none.mpr fun g hm => by simp [hg g hm]
  show execKill q s = _
  simp only [execKill, toBegin_eq hf ho hb hv, hlaunch, hghost]

theorem exec_kill_resident {l : Launch} (hf : (s.queue q).fetched = some cmd) (ho : cOp cmd = 6) (hb : (s.queue q).begun = false)
    (hv : s.regs.viral = false) (hl : s.launches = [l]) (hh : l.handle = cHandle cmd) (hr : l.phase = .resident) :
    exec (.kill q) s = .next ((s.startRunning q cmd).killResident { l with kills := l.kills ++ [(q, (s.queue q).index)] }) := by
  have hlaunch : (s.launches.find? fun l => l.handle == cHandle cmd && !l.gone) = some l := by
    simp [hl, hh, Launch.gone, hr]
  show execKill q s = _
  simp only [execKill, toBegin_eq hf ho hb hv, hlaunch, hr]
  rfl
end

/-! ### The tiles and the queues as a launch is killed -/

/-- A tile that runs nothing, has stopped, or is told to stop. -/
def Tile.Halts (x : Tile) : Prop := x.act = .idle ∨ x.act = .stopped ∨ x.stopReq = true

theorem Tile.Left.halts {x y : Tile} (h : x.Left y) (hx : x.Halts) : y.Halts := by
  rcases h with rfl | hi | ⟨-, hs⟩
  · exact hx
  · exact .inl hi
  · exact .inr hs

/-- A launch as a KILL leaves one. -/
def Launch.KilledAs (l y : Launch) : Prop := y.handle = l.handle ∧ y.kills = l.kills ∧ y.phase = .killed

section
variable {s : State} {h : BitVec 16} {i : TileId}

theorem stopMember_tile_ne {j : TileId} (hj : j ≠ i) : (s.stopMember h i).tile j = s.tile j := by
  unfold State.stopMember
  dsimp only
  split
  · split
    · rw [State.stopTile, tile_setTile_ne _ _ hj]
      exact sameCycle_tile s i j
    · exact tile_setTile_ne s _ hj
  · rfl

theorem stopMember_halts (hr : (s.tile i).runs h = true) : ((s.stopMember h i).tile i).Halts := by
  unfold State.stopMember
  dsimp only
  split
  · split
    · rw [State.stopTile, tile_setTile]
      exact .inr (.inl rfl)
    · rw [tile_setTile]
      exact .inr (.inr rfl)
  · rename_i hn
    exact .inr (.inl (by simpa [hr] using hn))

/-- No tile of a launch runs on unasked once its tiles are stopped (R302, R315). -/
theorem stopLaunchTiles_halts (hr : (s.tile i).runs h = true) : ((s.stopLaunchTiles h).tile i).Halts := by
  have key : ∀ (xs : List TileId) (s : State), (s.tile i).Halts ∨ (s.tile i).runs h = true ∧ i ∈ xs →
      ((xs.foldl (fun s i => s.stopMember h i) s).tile i).Halts := fun xs => by
    induction xs with
    | nil => exact fun s hs => hs.resolve_right fun hn => absurd hn.2 List.not_mem_nil
    | cons x xs ih =>
      refine fun s hs => ih (s.stopMember h x) ?_
      rcases hs with hs | ⟨hrun, hmem⟩
      · exact .inl (((unwinds_stopMember s h x).tiles i).halts hs)
      · by_cases hx : i = x
        · subst hx
          exact .inl (stopMember_halts hrun)
        · exact .inr ⟨by rw [stopMember_tile_ne hx]; exact hrun, (List.mem_cons.mp hmem).resolve_left hx⟩
  have hmem : i ∈ allTiles := List.mem_flatMap.mpr ⟨i.die, List.mem_finRange _, List.mem_map.mpr ⟨i.site, List.mem_finRange _, rfl⟩⟩
  exact key allTiles s (.inr ⟨hr, hmem⟩)

theorem sameCycle_queues (s : State) (i : TileId) : (s.sameCycle i).queues = s.queues := by
  have hcapture (t : State) (h : BitVec 16) (d : Fin 8) (cls : Nat) (rec : List Byte) : (t.captureRecord h d cls rec).queues = t.queues := by
    have hlog : (t.logError cls 0 d.val rec).queues = t.queues := by simp only [State.logError]
    unfold State.captureRecord
    generalize t.logError cls 0 d.val rec = u at hlog
    dsimp only
    split
    · exact hlog
    · exact hlog
  unfold State.sameCycle
  dsimp only
  split
  · split
    · split
      · split
        · exact hcapture ..
        · rfl
      · rfl
    · rfl
  · rfl

theorem queues_foldl {α : Type} {g : State → α → State} (hg : ∀ s x, (g s x).queues = s.queues) :
    ∀ (xs : List α) (s : State), (xs.foldl g s).queues = s.queues
  | [], _ => rfl
  | x :: xs, s => (queues_foldl hg xs _).trans (hg s x)

theorem stopLaunchTiles_queues (s : State) (h : BitVec 16) : (s.stopLaunchTiles h).queues = s.queues := by
  refine queues_foldl (fun s i => ?_) allTiles s
  show (s.stopMember h i).queues = s.queues
  unfold State.stopMember
  dsimp only
  split
  · split
    · exact sameCycle_queues s i
    · rfl
  · rfl

theorem leaveDies_queues (s : State) (h : BitVec 16) : (s.leaveDies h).queues = s.queues :=
  queues_foldl (g := fun s d => s.setDie d _) (fun _ _ => rfl) _ s

theorem handle_ne_of_dropLaunch {y : Launch} (hy : y ∈ (s.dropLaunch h).launches) : y.handle ≠ h := by
  simpa using (List.mem_filter.mp hy).2

/-- A launch that is not done with stays as it is; one that is leaves the state. -/
theorem reap_eq_or_leaves (s : State) (h : BitVec 16) : s.reap h = s ∨ ∀ y ∈ (s.reap h).launches, y.handle ≠ h := by
  unfold State.reap
  split
  · rename_i l _
    dsimp only
    split
    · refine .inr fun y hy => ?_
      obtain ⟨x, hx, hleft⟩ := ((unwinds_tellEnd _ l).trans (unwinds_settleFences _)).launches y hy
      exact hleft.handle ▸ handle_ne_of_dropLaunch hx
    · exact .inl rfl
  · exact .inl rfl

/-- Where no launch is resident, none depends on another. -/
theorem faultDependants_none (hn : ∀ l ∈ s.launches, l.isResident = false) : s.faultDependants h = s := by
  have hd : s.dependants h = [] := List.filter_eq_nil_iff.mpr fun l hl => by simp [hn l hl]
  simp only [State.faultDependants, hd, List.foldl_nil]

theorem killResident_eq {l : Launch} (hp : l.preempts = []) : s.killResident l =
    (((((s.setLaunch { l with phase := .killed }).stopLaunchTiles l.handle).leaveDies l.handle).faultDependants l.handle).reap
      l.handle).refreshAll := by
  have hnone (t : State) : t.endPreempts l 3 = t := by rw [State.endPreempts, hp, List.foldl_nil]
  exact congrArg (fun t : State => (((t.leaveDies l.handle).faultDependants l.handle).reap l.handle).refreshAll) (hnone _)

theorem State.Unwinds.killed {k t : State} {l : Launch} (ht : k.Unwinds t) (hk : ∀ y ∈ k.launches, l.KilledAs y) :
    ∀ y ∈ t.launches, l.KilledAs y := fun y hy => by
  obtain ⟨x, hx, hleft⟩ := ht.launches y hy
  obtain ⟨hhandle, hkills, hphase⟩ := hk x hx
  exact ⟨hleft.handle.trans hhandle, hleft.kills.trans hkills, hleft.killed hphase⟩

/-- The only launch killed: it stays as killed until its completion word is stored, and its tiles halt (R302). -/
theorem killResident_only {l l' : Launch} (hl : s.launches = [l]) (hh : l.handle = l'.handle) (hp : l'.preempts = []) :
    (∀ y ∈ (s.killResident l').launches, l'.KilledAs y ∧ (s.killResident l').queues = s.queues) ∧
    ∀ i, (s.tile i).runs l'.handle = true → ((s.killResident l').tile i).Halts := by
  rw [killResident_eq hp]
  have hk : ∀ y ∈ (s.setLaunch { l' with phase := .killed }).launches, l'.KilledAs y := by
    simp [State.setLaunch, hl, hh, Launch.KilledAs]
  have hqueues : (s.setLaunch { l' with phase := .killed }).queues = s.queues := rfl
  have htile (i : TileId) : (s.setLaunch { l' with phase := .killed }).tile i = s.tile i := rfl
  generalize s.setLaunch { l' with phase := .killed } = k at hk hqueues htile
  have hleave := unwinds_leaveDies (k.stopLaunchTiles l'.handle) l'.handle
  have hw := ((unwinds_stopLaunchTiles k l'.handle).trans hleave).killed hk
  rw [faultDependants_none fun y hy => by simp [Launch.isResident, (hw y hy).2.2]]
  have hwq := (leaveDies_queues (k.stopLaunchTiles l'.handle) l'.handle).trans (stopLaunchTiles_queues k l'.handle)
  generalize (k.stopLaunchTiles l'.handle).leaveDies l'.handle = w at hleave hw hwq
  have hreap := unwinds_reap w l'.handle
  refine ⟨fun y hy => ?_, fun i hr => ?_⟩
  · refine ⟨(hreap.trans (unwinds_refreshAll _)).killed hw y hy, ?_⟩
    obtain ⟨x, hx, -⟩ := (unwinds_refreshAll _).launches y hy
    have hstays : w.reap l'.handle = w :=
      (reap_eq_or_leaves w l'.handle).resolve_right fun hn => hn x hx (hreap.killed hw x hx).1
    rw [refreshAll_queues, hstays, hwq, hqueues]
  · exact ((hleave.trans (hreap.trans (unwinds_refreshAll _))).tiles i).halts (stopLaunchTiles_halts (by rw [htile]; exact hr))

end

/-- Settles O51: the registers by their writes, the commands by what `completeFetched` leaves of one with no NOTIFY and no INTR, and a KILL
by what is left of its launch until its completion word is stored (`killResident_only`). -/
theorem queuesFetchAndCompleteCommands : Obligations.QueuesFetchAndCompleteCommands := by
  unfold Obligations.QueuesFetchAndCompleteCommands
  intro s q v hv x n only past
  refine ⟨fun hr => exec_queueWrites_closed (frontOpen_unready hr), fun hr => ?_, fun hr => qctlWrite_writes (frontOpen_ready hr hv),
    fun hr he => exec_qstatErrClear_set (frontOpen_ready hr hv) he, fun he => exec_qstatErrClear_clear he,
    fun s' r hen herr hf hne hw hread => ?_, fun cmd hf h1 => ?_⟩
  · exact (exec_qtailWrite_ready (frontOpen_ready hr hv)).trans (congrArg _ (writeQtail_eq s q v))
  · obtain ⟨t, hx, htakes, hstops⟩ := commandFetch_fetches hv hen herr hf hne hw hread
    refine ⟨t, hx, htakes, fun e he => ?_⟩
    rw [hstops e he, queue_queueErr]
    exact ⟨rfl, rfl, rfl⟩
  · intro ctx addr value h
    refine ⟨fun s' bs ho hread hf' => ?_, fun s' ok ho hb hstore hf' => ?_, fun ho hb hrun => ?_, fun ho hb hl hg => ?_,
      fun l ho hb hl hh hr hp => ?_⟩
    · have hy := waitRead_plain h1 hread hf'
      exact ⟨fun hb => (exec_wait hf ho hb hv).trans (congrArg _ hy), fun hb => (exec_waitPoll hf ho hb hv).trans (congrArg _ hy)⟩
    · exact (exec_signal hf ho hb hv hstore).trans (congrArg _ (completeFetched_plain h1 hf'))
    · exact (exec_barrier hf ho hb hv hrun).trans (congrArg _ (completeFetched_plain h1 hf))
    · exact (exec_kill_nothing hf ho hb hv hl hg).trans (congrArg _ (completeFetched_plain h1 hf))
    · obtain ⟨hlaunches, htiles⟩ := killResident_only (s := s.startRunning q cmd) (l' := { l with kills := l.kills ++ [(q, x.index)] })
        hl rfl hp
      have hfetched := (unwinds_killResident (s.startRunning q cmd) { l with kills := l.kills ++ [(q, x.index)] }).fetched q
      refine ⟨_, exec_kill_resident hf ho hb hv hl hh hr, hfetched.trans (by simp [State.startRunning, Queue.advance]), fun y hy => ?_,
        fun i hi => htiles i (hh ▸ hi)⟩
      obtain ⟨⟨-, hkills, hphase⟩, hqueues⟩ := hlaunches y hy
      refine ⟨hphase, by simp [hkills], ?_⟩
      rw [State.queue, hqueues]
      show (x.index, cmd) ∈ ((s.startRunning q cmd).queue q).running
      simp [State.startRunning, x]

end Sys2Proof.Machine
end

section
namespace Sys2Proof.Machine

/-! ## Where a tile stops for the cut (R300) -/

/-- At a boundary nothing of a tile moves as it is cut where it stands. -/
theorem cutAt_boundary {x : Tile} (hb : x.inflight = none) : x.cutAt x.pc x.resume = { x with act := .cut, cutHere := false } := by
  rw [Tile.cutAt, hb]
  rfl

section
variable {s : State} {f : TileId} {n c : Nat}

/-- At a boundary outside loops, after a commit that R300 names, or where the scoreboard holds it at D, a tile stops. -/
theorem hardCutStop_boundary (hcut : (s.tile f).cutReq = some (n, c)) (ha : (s.tile f).act = .point) (hb : (s.tile f).inflight = none)
    (hs : (s.tile f).loops = [] ∨ (s.tile f).cutHere = true ∨ (s.tile f).waitsAtD = true) :
    exec (.hardCutStop f) s = .next (s.setTile f { (s.tile f).atStop f with act := .cut, cutHere := false }) := by
  have hstops : ((s.tile f).cutStops || (s.tile f).waitsAtD) = true := by
    rcases hs with h | h | h <;> simp [Tile.cutStops, hcut, hb, h]
  have hat : ((s.tile f).atStop f).cutAt (s.tile f).pc (s.tile f).resume = { (s.tile f).atStop f with act := .cut, cutHere := false } :=
    cutAt_boundary (x := (s.tile f).atStop f) hb
  show execHardCutStop f s = _
  simp only [execHardCutStop, ha, hcut, hb, hstops, hat, bne_self_eq_false, Option.isNone_some, Bool.or_self, Bool.false_eq_true,
    if_false, if_true]

/-- A tile whose bundle is held at K with no slot committed gives the bundle up and stops before it. -/
theorem hardCutStop_held {b : Inflight} (hcut : (s.tile f).cutReq = some (n, c)) (ha : (s.tile f).act = .point)
    (hb : (s.tile f).inflight = some b) (hh : b.hold ≠ none) (hn : b.next = b.start) (hz : (s.tile f).asleep = false) :
    exec (.hardCutStop f) s = .next (s.setTile f { (s.tile f).atStop f with
      act := .cut, pc := b.first, resume := b.next, sameNo := true, inflight := none, cutHere := false }) := by
  have hb' : ((s.tile f).atStop f).inflight = some b := hb
  have hhold : (b.hold.isSome && b.next == b.start && !(s.tile f).asleep) = true := by
    simp [Option.isSome_iff_ne_none.mpr hh, hn, hz]
  show execHardCutStop f s = _
  simp only [execHardCutStop, ha, hcut, hb, hhold, Tile.cutAt, hb', bne_self_eq_false, Option.isNone_some, Bool.or_self, Bool.false_eq_true,
    if_false, if_true, Option.isSome_some, Bool.true_or]

/-- At the first boundary 16,384 core cycles after the decision a tile stops where it stands. -/
theorem cutCycleLimit_stops (hcut : (s.tile f).cutReq = some (n, c)) (ha : (s.tile f).act = .point) (hb : (s.tile f).inflight = none)
    (hc : c + 16384 ≤ (s.tile f).k.cycle.toNat) :
    exec (.cutCycleLimit f) s = .next (s.setTile f { s.tile f with act := .cut, cutHere := false }) := by
  show execCutCycleLimit f s = _
  simp only [execCutCycleLimit, hcut, ha, hb, hc, cutAt_boundary hb, beq_self_eq_true, Option.isNone_none, decide_true, Bool.and_self, if_true]

theorem winsEnded_frame : ∀ (rs : List PeerRequest) (s : State), { s.winsEnded rs with imps := s.imps } = s
  | [], _ => rfl
  | r :: rs, s => by
    have hone : { s.winEnded r.win with imps := s.imps } = s := by
      unfold State.winEnded
      dsimp only
      split <;> rfl
    exact (congrArg (fun u : State => { u with imps := s.imps }) (winsEnded_frame rs (s.winEnded r.win))).trans hone

theorem dropRequests_frame (s : State) (pick : PeerRequest → Bool) : { s.dropRequests pick with ports := s.ports, imps := s.imps } = s :=
  congrArg (fun u : State => { u with ports := s.ports }) (winsEnded_frame (s.ports.toList.flatMap fun x => x.pending.filter pick)
    { s with ports := s.ports.map fun (x : Port) => { x with pending := x.pending.filter fun r => !pick r } })

/-- A copy that fails at the cut takes its unsent requests with it, and no more than its stage moves in its tile (R198, R300). -/
theorem copyFails_cut (s : State) (f : TileId) (id : Nat) : s.copyFails f id .cut =
    (s.dropRequests fun r => r.tile == f && r.copy == id && !r.sent).setTile f
      ((s.tile f).mapCopy id fun k => { k with stage := .failing .cut }) := by
  have htile : (s.dropRequests fun r => r.tile == f && r.copy == id && !r.sent).tile f = s.tile f := by
    rw [State.tile, dropRequests_tiles]; rfl
  have hrecord (u : State) (c : CopyCmd) : u.streamRecord f c .cut = u := by simp [State.streamRecord]
  simp only [State.copyFails, hrecord]
  split <;> rw [htile]

/-- A started copy of a cut tile that has not ended 10 us after the decision fails. -/
theorem cutCopyTimeout_fails {id : Nat} {k : CopyCmd} (hcut : (s.tile f).cutReq = some (n, c)) (hk : (s.tile f).copy? id = some k)
    (hst : k.stage = .started) (ht : n + 10000 ≤ s.time) :
    ∃ t, exec (.cutCopyTimeout f id) s = .next t ∧ OnlyTile f { s with ports := t.ports, imps := t.imps } t ∧
      t.tile f = (s.tile f).mapCopy id fun k => { k with stage := .failing .cut } := by
  refine ⟨s.copyFails f id .cut, ?_, ?_⟩
  · show execCutCopyTimeout f id s = _
    simp only [execCutCopyTimeout, hcut, hk, hst, ht, decide_true, Bool.and_self, if_true]
  · rw [copyFails_cut]
    refine ⟨⟨?_, fun j hj => ?_⟩, tile_setTile ..⟩
    · have hframe := dropRequests_frame s fun r => r.tile == f && r.copy == id && !r.sent
      generalize s.dropRequests _ = u at hframe ⊢
      exact congrArg (fun v : State => { v with tiles := s.tiles, ports := u.ports, imps := u.imps }) hframe
    · rw [tile_setTile_ne _ _ hj, State.tile, dropRequests_tiles]
      rfl
end

end Sys2Proof.Machine
end

section
namespace Sys2Proof.Machine

/-! ## Tiles changed one after another -/

/-- The tiles of a list changed in turn by what TIME makes of each. -/
def State.eachTile (s : State) (g : Nat → Tile → Tile) (xs : List TileId) : State :=
  xs.foldl (fun s i => s.setTile i (g s.time (s.tile i))) s

theorem eachTile_frame (g : Nat → Tile → Tile) : ∀ (xs : List TileId) (s : State), { s.eachTile g xs with tiles := s.tiles } = s
  | [], _ => rfl
  | x :: xs, s => congrArg (fun u : State => { u with tiles := s.tiles }) (eachTile_frame g xs (s.setTile x (g s.time (s.tile x))))

/-- An idempotent change changes each tile of the list once, however often the list names it. -/
theorem eachTile_tile {g : Nat → Tile → Tile} (hg : ∀ n x, g n (g n x) = g n x) (i : TileId) : ∀ (xs : List TileId) (s : State),
    (s.eachTile g xs).tile i = if i ∈ xs then g s.time (s.tile i) else s.tile i
  | [], _ => by simp [State.eachTile]
  | x :: xs, s => by
    show ((s.setTile x (g s.time (s.tile x))).eachTile g xs).tile i = _
    rw [eachTile_tile hg i xs, setTile_time]
    by_cases hx : i = x
    · subst hx
      simp [hg]
    · rw [tile_setTile_ne s _ hx]
      simp [hx]

/-! ## Where a launch stands as it drains (R299) -/

/-- A launch with a point in flight that is not complete. -/
def Launch.InFlight (s : State) (l : Launch) : Prop := ∃ x ∈ l.parts, ∃ r ∈ x.runs, s.runEnds l x.die r = false

/-- Every point in flight of a launch has started. -/
def Launch.Started (l : Launch) : Prop := ∀ x ∈ l.parts, ∀ r ∈ x.runs, r.started = true

/-- A deadline of a launch that drains has passed. -/
def Launch.PastDeadline (l : Launch) (time : Nat) : Prop := ∃ p ∈ l.preempts, p.deadline ≠ 0 ∧ p.deadline ≤ time

/-- A launch whose PREEMPTs the cut decision has marked. -/
def Launch.allLate (l : Launch) : Launch := { l with preempts := l.preempts.map fun p => { p with late := true } }

/-- What the cut decision makes of the tiles of a launch: its members in a point are asked to stop. -/
def State.CutFrom (s t : State) (l : Launch) : Prop :=
  ∀ i, t.tile i = if i ∈ l.members ∧ (s.tile i).act = .point
    then { s.tile i with cutReq := some (s.time, (s.tile i).k.cycle.toNat), woken := (s.tile i).asleep,
                         cutHere := (t.tile i).cutHere } else s.tile i

section
variable {s : State} {h : BitVec 16} {l l' : Launch}

theorem cutDue_iff (hl : s.launch? h = some l) (hp : l.phase = .draining) (hv : s.regs.viral = false) :
    s.cutDue h = true ↔ l.cutting = false ∧ l.PastDeadline s.time ∧ l.InFlight s := by
  simp only [State.cutDue, hl, hp, hv, beq_self_eq_true, Bool.not_false, Bool.and_self, Bool.true_and, Bool.and_eq_true, Bool.not_eq_true',
    List.any_eq_true, bne_iff_ne, decide_eq_true_eq, Launch.PastDeadline, Launch.InFlight, and_assoc]

/-! ### Launches replaced and refreshed -/

theorem launch?_setLaunch (hl : s.launch? h = some l) (hh : l'.handle = h) : (s.setLaunch l').launch? h = some l' := by
  subst hh
  have hg : ∀ x : Launch, (if x.handle == l'.handle then l' else x).handle = x.handle := fun x => by
    split
    · exact (eq_of_beq ‹_›).symm
    · rfl
  have hm := launch?_map s hg l'.handle
  rw [hl, Option.map_some, handle_of_launch? hl, beq_self_eq_true, if_pos rfl] at hm
  exact hm

theorem launch?_refreshAll (hl : s.launch? h = some l) : ∃ l' : Launch, l.Waited l' ∧ s.refreshAll.launch? h = some l' := by
  obtain ⟨f, hf, hs⟩ := refreshAll_launches s
  have hm := launch?_map s (g := f) (fun l => (hf l).left.handle) h
  rw [hl] at hm
  refine ⟨f l, hf l, ?_⟩
  rw [State.launch?, hs]
  exact hm

theorem Launch.Waited.isDependant {l l' : Launch} (hw : l.Waited l') :
    (l'.isResident && l'.chained && l'.chainH == h) = (l.isResident && l.chained && l.chainH == h) := by
  obtain ⟨g, -, rfl⟩ := hw
  rfl

theorem ghostsFull_eq_false : s.ghostsFull h = false ↔
    (∀ l ∈ s.launches, (l.isResident && l.chained && l.chainH == h) = false) ∨ s.ghosts.length < 64 := by
  simp only [State.ghostsFull, State.dependants, Bool.and_eq_false_iff, Bool.not_eq_false', List.isEmpty_iff, decide_eq_false_iff_not,
    Nat.not_le, List.filter_eq_nil_iff, Bool.not_eq_true]

theorem ghostsFull_refreshAll (hg : s.ghostsFull h = false) : s.refreshAll.ghostsFull h = false := by
  obtain ⟨f, hf, hs⟩ := refreshAll_launches s
  rw [ghostsFull_eq_false] at hg ⊢
  rw [refreshAll_ghosts, hs]
  refine hg.imp_left fun hn y hy => ?_
  obtain ⟨x, hx, rfl⟩ := List.mem_map.mp hy
  rw [(hf x).isDependant]
  exact hn x hx

/-- A launch replaced by one that depends on no more than it does leaves the need of a ghost. -/
theorem ghostsFull_setLaunch (hl : l ∈ s.launches) (hd : l'.isResident = l.isResident ∧ l'.chained = l.chained ∧ l'.chainH = l.chainH)
    (hg : s.ghostsFull h = false) : (s.setLaunch l').ghostsFull h = false := by
  obtain ⟨hr, hc, hh⟩ := hd
  rw [ghostsFull_eq_false] at hg ⊢
  refine hg.imp_left fun hn y hy => ?_
  obtain ⟨x, hx, rfl⟩ := List.mem_map.mp hy
  split
  · rw [hr, hc, hh]
    exact hn l hl
  · exact hn x hx

/-! ### The cut decision -/

theorem askCut_askCut (n : Nat) (x : Tile) : (x.askCut n).askCut n = x.askCut n := by
  unfold Tile.askCut
  split
  · simp
  · simp

/-- The cut decision of a launch whose points in flight have all started asks each member to stop, and marks its PREEMPTs as late. -/
theorem cutNow_started (hl : s.launch? h = some l) (hg : s.ghostsFull h = false) (hs : l.Started) :
    s.cutNow h = (s.eachTile (fun n x => x.askCut n) l.members).setLaunch l.allLate := by
  have hruns : l.parts.foldl (fun s x => x.runs.foldl (fun s r => s.cutRun l x.die r) s) s =
      s.eachTile (fun n x => x.askCut n) l.members := by
    simp only [State.eachTile, Launch.members, List.foldl_flatMap]
    refine List.foldl_ext _ _ s fun s x hx => List.foldl_ext _ _ s fun s r hr => ?_
    simp only [State.cutRun, hs x hx r hr, if_true]
  have hback : (l.parts.flatMap fun x => x.runs.filterMap fun r => if r.started then none else r.cut) = [] :=
    List.flatMap_eq_nil_iff.mpr fun x hx => List.filterMap_eq_nil_iff.mpr fun r hr => by simp [hs x hx r hr]
  have hparts : (l.parts.map fun x => { x with runs := x.runs.filter fun r => r.started }) = l.parts :=
    (List.map_congr_left fun x hx => by rw [List.filter_eq_self.mpr (hs x hx), id_eq]).trans (List.map_id _)
  have hafter : l.afterCut = l.allLate := by
    simp only [Launch.afterCut, Launch.allLate, hback, hparts, List.nil_append]
  simp only [State.cutNow, hl, hg, hruns, hafter, Bool.false_eq_true, if_false]

theorem cutFrom_eachTile (s : State) (l : Launch) : s.CutFrom (s.eachTile (fun n x => x.askCut n) l.members) l := by
  intro i
  rw [eachTile_tile askCut_askCut]
  by_cases hi : i ∈ l.members
  · by_cases ha : (s.tile i).act = .point
    · simp [hi, ha, Tile.askCut]
    · simp [hi, ha, Tile.askCut]
  · simp [hi]

/-- The cut decision at a deadline (R299 item 4): the PREEMPTs are late, and of the rest only members' tiles move. -/
theorem cutNow_spec (hl : s.launch? h = some l) (hg : s.ghostsFull h = false) (hs : l.Started) :
    (s.cutNow h).launch? h = some l.allLate ∧ (s.cutNow h).queues = s.queues ∧ s.CutFrom (s.cutNow h) l := by
  have hhandle : l.handle = h := handle_of_launch? hl
  have hframe := eachTile_frame (fun n x => x.askCut n) l.members s
  have hcut := cutFrom_eachTile s l
  rw [cutNow_started hl hg hs]
  generalize s.eachTile (fun n x => x.askCut n) l.members = u at hframe hcut ⊢
  refine ⟨launch?_setLaunch (l := l) (l' := l.allLate) ?_ hhandle, ?_, hcut⟩
  · have := congrArg (State.launch? · h) hframe
    exact this.trans hl
  · have := congrArg State.queues hframe
    exact this

/-! ### A launch whose waits are brought up to date -/

theorem waits_keep_runs {g : DieLaunch → DieLaunch} (hg : ∀ p, { g p with waiting := p.waiting, boost := p.boost } = p) :
    (∀ p, (g p).die = p.die) ∧ ∀ p, (g p).runs = p.runs :=
  ⟨fun p => by simpa using congrArg DieLaunch.die (hg p), fun p => by simpa using congrArg DieLaunch.runs (hg p)⟩

section
variable {t : State} (hw : l.Waited l')
include hw

theorem Launch.Waited.kept : l'.handle = l.handle ∧ l'.phase = l.phase ∧ l'.preempts = l.preempts := by
  obtain ⟨g, -, rfl⟩ := hw
  exact ⟨rfl, rfl, rfl⟩

theorem Launch.Waited.members : l'.members = l.members := by
  obtain ⟨g, hg, rfl⟩ := hw
  obtain ⟨hd, hr⟩ := waits_keep_runs hg
  simp only [Launch.members, List.flatMap_map, hd, hr]
  rfl

theorem Launch.Waited.inFlight (ht : t.tiles = s.tiles) : l'.InFlight t ↔ l.InFlight s := by
  obtain ⟨g, hg, rfl⟩ := hw
  obtain ⟨hd, hr⟩ := waits_keep_runs hg
  have hends (d : Fin 8) (r : PointRun) : t.runEnds { l with parts := l.parts.map g } d r = s.runEnds l d r := by
    simp only [State.runEnds, State.tile, ht]
    rfl
  simp only [Launch.InFlight, List.mem_map, exists_exists_and_eq_and, hd, hr, hends]

theorem Launch.Waited.started : l'.Started ↔ l.Started := by
  obtain ⟨g, hg, rfl⟩ := hw
  obtain ⟨-, hr⟩ := waits_keep_runs hg
  simp only [Launch.Started, List.forall_mem_map, hr]
end

end

/-! ## PREEMPT (R299) -/

/-- A launch that drains for one PREEMPT more. -/
def Launch.drainingFor (l : Launch) (p : PreemptRun) : Launch := { l with phase := .draining, preempts := l.preempts ++ [p] }

/-- The PREEMPT that a queue's command makes. -/
def State.preemptOf (s : State) (q : Fin 16) (cmd : List Byte) (l : Launch) : PreemptRun :=
  ⟨q, (s.queue q).index, cAddr cmd, cLen cmd, cValue cmd, l.cutting, s.time⟩

/-- The state in which a launch drains for a PREEMPT, before its deadline is looked at. -/
def State.preempted (s : State) (q : Fin 16) (cmd : List Byte) (l : Launch) : State :=
  ((s.startRunning q cmd).setLaunch (l.drainingFor (s.preemptOf q cmd l))).refreshAll

section
variable {s : State} {q : Fin 16} {cmd : List Byte} {l : Launch}

theorem exec_preempt (hf : (s.queue q).fetched = some cmd) (hb : (s.queue q).begun = false) (ho : cOp cmd = 4) (hv : s.regs.viral = false)
    (hl : s.launch? (cHandle cmd) = some l) (hp : l.phase = .resident ∨ l.phase = .draining) (hg : s.ghostsFull l.handle = false) :
    exec (.preempt q) s = .next (if (s.preempted q cmd l).cutDue l.handle then (s.preempted q cmd l).cutNow l.handle
      else s.preempted q cmd l) := by
  have hphase : (l.phase != .resident && l.phase != .draining) = false := by rcases hp with h | h <;> simp [h]
  show execPreempt q s = _
  simp only [execPreempt, toBegin_eq hf ho hb hv, hl, hphase, hg, Bool.false_eq_true, if_false]
  rfl

/-- A PREEMPT of a handle that no launch has ends without one (R299). -/
theorem preempt_unknown (hf : (s.queue q).fetched = some cmd) (hb : (s.queue q).begun = false) (ho : cOp cmd = 4)
    (hv : s.regs.viral = false) (hl : s.launch? (cHandle cmd) = none) :
    ∃ t, exec (.preempt q) s = .next t ∧ t.launches = s.launches ∧ (t.queue q).fetched = none := by
  have hx : exec (.preempt q) s = .next ((s.saveStatus (s.queue q).ctx (cAddr cmd) 3).completeFetched q cmd) := by
    show execPreempt q s = _
    simp only [execPreempt, toBegin_eq hf ho hb hv, hl]
  have hsave := memFrame_saveStatus s (s.queue q).ctx (cAddr cmd) 3
  generalize s.saveStatus (s.queue q).ctx (cAddr cmd) 3 = u at hx hsave
  have hfetched : (u.queue q).fetched.isSome = true := by rw [State.queue, hsave.queues]; exact hf ▸ rfl
  have hnotify := memFrame_notify (u.setQueue q (u.queue q).advance) q cmd
  refine ⟨_, hx, ?_, ?_⟩
  · simp only [State.completeFetched, hfetched, if_true]
    exact hnotify.launches.trans hsave.launches
  · simp only [State.completeFetched, hfetched, if_true]
    rw [State.queue, hnotify.queues]
    show ((u.setQueue q (u.queue q).advance).queue q).fetched = none
    rw [queue_setQueue]
    rfl

/-- Whether the deadline of a PREEMPT, or of one before it, has passed as it comes, with a point in flight and no cut before. -/
def State.PastAt (s : State) (q : Fin 16) (cmd : List Byte) (l : Launch) : Prop :=
  l.cutting = false ∧ (l.drainingFor (s.preemptOf q cmd l)).PastDeadline s.time ∧ l.InFlight s

theorem cutting_drainingFor (s : State) (q : Fin 16) (cmd : List Byte) (l : Launch) :
    (l.drainingFor (s.preemptOf q cmd l)).cutting = l.cutting := by
  simp [Launch.cutting, Launch.drainingFor, State.preemptOf]

/-- What stands as a launch begins to drain: tiles and TIME; its queue has read on, and a cut is due where a deadline has passed. -/
theorem preempted_spec (hv : s.regs.viral = false) (hl : s.launch? l.handle = some l) (hp : l.phase = .resident ∨ l.phase = .draining)
    (hg : s.ghostsFull l.handle = false) :
    ∃ l', (l.drainingFor (s.preemptOf q cmd l)).Waited l' ∧ (s.preempted q cmd l).launch? l.handle = some l' ∧
      (s.preempted q cmd l).ghostsFull l.handle = false ∧ (s.preempted q cmd l).tiles = s.tiles ∧ (s.preempted q cmd l).time = s.time ∧
      (s.preempted q cmd l).queue q = (s.startRunning q cmd).queue q ∧
      ((s.preempted q cmd l).cutDue l.handle = true ↔ s.PastAt q cmd l) := by
  have hresident : (l.drainingFor (s.preemptOf q cmd l)).isResident = l.isResident := by
    rcases hp with h | h <;> simp [Launch.drainingFor, Launch.isResident, h]
  have hghosts := ghostsFull_refreshAll (ghostsFull_setLaunch (s := s.startRunning q cmd) (l' := l.drainingFor (s.preemptOf q cmd l))
    (List.mem_of_find?_eq_some hl) ⟨hresident, rfl, rfl⟩ hg)
  obtain ⟨l', hw, hl'⟩ := launch?_refreshAll
    (launch?_setLaunch (s := s.startRunning q cmd) hl (l' := l.drainingFor (s.preemptOf q cmd l)) rfl)
  obtain ⟨-, hphase, hpre⟩ := hw.kept
  have htiles : (s.preempted q cmd l).tiles = s.tiles := refreshAll_tiles _
  have htime : (s.preempted q cmd l).time = s.time := refreshAll_time _
  have hregs : (s.preempted q cmd l).regs = s.regs := refreshAll_regs _
  have hqueues : (s.preempted q cmd l).queues = (s.startRunning q cmd).queues := refreshAll_queues _
  refine ⟨l', hw, hl', hghosts, htiles, htime, by rw [State.queue, hqueues]; rfl, ?_⟩
  have hcutting : l'.cutting = l.cutting := by rw [← cutting_drainingFor s q cmd l, Launch.cutting, hpre]; rfl
  have hdue := cutDue_iff (s := s.preempted q cmd l) hl' hphase (by rw [hregs]; exact hv)
  rw [hdue, hcutting, htime, hw.inFlight htiles, Launch.PastDeadline, hpre]
  rfl

variable (hf : (s.queue q).fetched = some cmd) (hb : (s.queue q).begun = false) (ho : cOp cmd = 4) (hv : s.regs.viral = false)
  (hl : s.launch? (cHandle cmd) = some l) (hp : l.phase = .resident ∨ l.phase = .draining) (hg : s.ghostsFull l.handle = false)
include hf hb ho hv hl hp hg

/-- A launch drains for a PREEMPT whose deadline has not passed, with its tiles as they were (R299). -/
theorem preempt_drains (hn : ¬ s.PastAt q cmd l) : ∃ t l', exec (.preempt q) s = .next t ∧ t.launch? l.handle = some l' ∧
    l'.phase = .draining ∧ t.queue q = (s.startRunning q cmd).queue q ∧ l'.preempts = l.preempts ++ [s.preemptOf q cmd l] ∧
    t.tiles = s.tiles := by
  obtain ⟨l', hw, hl', -, htiles, -, hqueue, hdue⟩ := preempted_spec (q := q) (cmd := cmd) hv ((handle_of_launch? hl).symm ▸ hl) hp hg
  obtain ⟨-, hphase, hpre⟩ := hw.kept
  refine ⟨_, l', exec_preempt hf hb ho hv hl hp hg, ?_⟩
  rw [if_neg (mt hdue.mp hn)]
  exact ⟨hl', hphase, hqueue, hpre, htiles⟩

/-- A PREEMPT whose deadline has passed as it comes cuts at once (R299). -/
theorem preempt_cuts (hpast : s.PastAt q cmd l) (hs : l.Started) : ∃ t l', exec (.preempt q) s = .next t ∧
    t.launch? l.handle = some l' ∧ l'.phase = .draining ∧ t.queue q = (s.startRunning q cmd).queue q ∧
    l'.preempts = (l.preempts ++ [s.preemptOf q cmd l]).map (fun p => { p with late := true }) ∧ s.CutFrom t l := by
  obtain ⟨l', hw, hl', hfull, htiles, htime, hqueue, hdue⟩ :=
    preempted_spec (q := q) (cmd := cmd) hv ((handle_of_launch? hl).symm ▸ hl) hp hg
  obtain ⟨-, hphase, hpre⟩ := hw.kept
  obtain ⟨hcutl, hcutq, hcut⟩ := cutNow_spec hl' hfull (hw.started.mpr hs)
  refine ⟨_, l'.allLate, exec_preempt hf hb ho hv hl hp hg, ?_⟩
  rw [if_pos (hdue.mpr hpast)]
  refine ⟨hcutl, hphase, (congrArg (·[q]) hcutq).trans hqueue, by rw [Launch.allLate, hpre]; rfl, fun i => ?_⟩
  have htile : (s.preempted q cmd l).tile i = s.tile i := by rw [State.tile, htiles]; rfl
  have hi := hcut i
  rw [htile, htime, hw.members] at hi
  exact hi

end

end Sys2Proof.Machine
end

section
namespace Sys2Proof.Machine

/-! ## The end of a drain: the images saved, or the launch killed (R299, R301) -/

/-- No launch of a handle is left, unless as killed. -/
def State.Leaves (s : State) (h : BitVec 16) : Prop := ∀ y ∈ s.launches, y.handle = h → y.phase = .killed

/-- A launch whose points in flight have been saved. -/
def Launch.saved (l : Launch) : Launch := { l with parts := l.parts.map fun x => { x with runs := [] } }

section
variable {s t : State} {h : BitVec 16} {l : Launch}

theorem State.Unwinds.leaves (hu : s.Unwinds t) (hs : s.Leaves h) : t.Leaves h := fun y hy hh => by
  obtain ⟨x, hx, hleft⟩ := hu.launches y hy
  exact hleft.killed (hs x hx (hleft.handle ▸ hh))

theorem State.Leaves.launch? (hs : s.Leaves h) : ∀ x, s.launch? h = some x → x.phase = .killed :=
  fun x hx => hs x (List.mem_of_find?_eq_some hx) (handle_of_launch? hx)

/-- A tile that is free stays free as launches end. -/
theorem State.Unwinds.idle (hu : s.Unwinds t) {i : TileId} (hi : (s.tile i).act = .idle) : (t.tile i).act = .idle := by
  rcases hu.tiles i with he | he | ⟨hn, -⟩
  · rw [he]; exact hi
  · exact he
  · exact absurd hi hn

theorem killResident_leaves (s : State) (l : Launch) : (s.killResident l).Leaves l.handle := by
  refine (unwinds_killResident s l).leaves fun y hy hh => ?_
  obtain ⟨x, -, rfl⟩ := List.mem_map.mp hy
  by_cases hx : (x.handle == l.handle) = true
  · rw [if_pos hx]
  · rw [if_neg hx] at hh
    exact absurd (beq_iff_eq.mpr hh) hx

/-- A launch leaves its dies after a save. -/
theorem leaveSaved_leaves (s : State) (l : Launch) : s.Unwinds (s.leaveSaved l) ∧ (s.leaveSaved l).Leaves l.handle := by
  unfold State.leaveSaved
  dsimp only
  generalize hu : (if (s.dependants l.handle).isEmpty then s else _) = u
  have hghost : s.Unwinds u := hu ▸ unwinds_ite (.refl s) (unwinds_of_frame rfl rfl rfl)
  exact ⟨hghost.trans ((unwinds_leaveDies u _).trans ((unwinds_dropLaunch _ _).trans (unwinds_refreshAll _))),
    (unwinds_refreshAll _).leaves fun y hy hh => absurd hh (handle_ne_of_dropLaunch hy)⟩

theorem memFrame_writeSave (s : State) (area : List Byte) (p : PreemptRun) : MemFrame s (s.writeSave area p) := by
  unfold State.writeSave
  dsimp only
  split
  · exact (memFrame_feWrite ..).trans (memFrame_saveStatus ..)
  · exact memFrame_feWrite ..

/-- However a drain ends, its launch is gone or killed, and free tiles stay free. -/
theorem finishPreempts_leaves (s : State) (l : Launch) (status : Nat) (cuts : List CutPoint) :
    (s.finishPreempts l status cuts).Leaves l.handle ∧
    ∀ i, (s.tile i).act = .idle → ((s.finishPreempts l status cuts).tile i).act = .idle := by
  have hsave (area : List Byte) := (memFrame_raiseCovered s l.handle 3).trans
    (MemFrame.foldl _ (fun s p => memFrame_writeSave s area p) l.preempts _)
  have hdone (w : State) := unwinds_foldl (fun s (p : PreemptRun) => unwinds_completeRunning s p.queue p.index) l.preempts w
  unfold State.finishPreempts
  dsimp only
  generalize saveArea l status s.time cuts = area
  have hsave := hsave area
  generalize l.preempts.foldl (fun u p => u.writeSave area p) (s.raiseCovered l.handle 3) = u at hsave ⊢
  split
  · have hkill := unwinds_killResident u { l with preempts := [] }
    exact ⟨(hdone _).leaves (killResident_leaves u { l with preempts := [] }),
      fun i hi => (hdone _).idle (hkill.idle (hsave.unwinds.idle hi))⟩
  · obtain ⟨hsaved, hleaves⟩ := leaveSaved_leaves u l
    exact ⟨(hdone _).leaves hleaves, fun i hi => (hdone _).idle (hsaved.idle (hsave.unwinds.idle hi))⟩

/-! ## PREEMPT_DRAIN_END, PREEMPT_DEADLINE and CONTEXT_SAVE (R299, R300) -/

section
variable (hl : s.launch? l.handle = some l) (hp : l.phase = .draining) (hv : s.regs.viral = false) (hg : s.ghostsFull l.handle = false)
include hl hp hv hg

theorem preemptDrainEnd_leaves (hc : l.cutting = false) (hr : ∀ x ∈ l.parts, x.runs = [])
    (hn : ¬ (l.restores = [] ∧ ∀ x ∈ l.parts, x.done = true)) :
    ∃ t, exec (.preemptDrainEnd l.handle) s = .next t ∧ ∀ x, t.launch? l.handle = some x → x.phase = .killed := by
  have hidle : (l.parts.all fun x => x.runs.isEmpty) = true := List.all_eq_true.mpr fun x hx => by simp [hr x hx]
  have hall : (l.restores.isEmpty && l.parts.all DieLaunch.done) = false := by
    rw [← Bool.not_eq_true, Bool.and_eq_true, List.isEmpty_iff, List.all_eq_true]
    exact hn
  have hx : exec (.preemptDrainEnd l.handle) s = .next (s.finishPreempts l 0 l.restores) := by
    show execPreemptDrainEnd l.handle s = _
    simp only [execPreemptDrainEnd, State.draining, hl, hp, hv, hidle, hall, hc, hg, Bool.not_false, and_self, Bool.and_self, if_true,
      Bool.false_eq_true, if_false]
  exact ⟨_, hx, (finishPreempts_leaves s l 0 l.restores).1.launch?⟩

theorem preemptDeadline_cuts (hc : l.cutting = false) (hd : l.PastDeadline s.time) (hi : l.InFlight s) (hs : l.Started) :
    ∃ t, exec (.preemptDeadline l.handle) s = .next t ∧ t.launch? l.handle = some l.allLate ∧ s.CutFrom t l := by
  obtain ⟨hlate, -, hcut⟩ := cutNow_spec hl hg hs
  refine ⟨_, ?_, hlate, hcut⟩
  show execPreemptDeadline l.handle s = _
  rw [execPreemptDeadline, if_pos ((cutDue_iff hl hp hv).mpr ⟨hc, hd, hi⟩)]

theorem contextSave_frees (hc : l.cutting = true) (hs : s.cutSettled l = true) (hb : ∀ i ∈ l.members, (s.tile i).badParity = none) :
    ∃ t, exec (.contextSave l.handle) s = .next t ∧ (∀ x, t.launch? l.handle = some x → x.phase = .killed) ∧
      ∀ i ∈ l.members, (t.tile i).act = .idle := by
  have hbad : (l.members.findSome? fun i => (s.tile i).badParity.map fun c => (i, c)) = none :=
    List.findSome?_eq_none_iff.mpr fun i hi => by rw [hb i hi, Option.map_none]
  have hx : exec (.contextSave l.handle) s = .next ((s.eachTile (fun _ => Tile.freed) l.members).finishPreempts
      l.saved 1 (s.cutPoints l ++ l.restores)) := by
    show execContextSave l.handle s = _
    simp only [execContextSave, State.draining, hl, hp, hv, hc, hs, hg, hbad, Bool.not_false, and_self, Bool.and_self, if_true]
    rfl
  obtain ⟨hleaves, hidle⟩ := finishPreempts_leaves (s.eachTile (fun _ => Tile.freed) l.members)
    l.saved 1 (s.cutPoints l ++ l.restores)
  refine ⟨_, hx, hleaves.launch?, fun i hi => hidle i ?_⟩
  rw [eachTile_tile (g := fun _ => Tile.freed) fun _ _ => rfl, if_pos hi]
  rfl
end

end

/-- Settles O53: a PREEMPT by the state in which its launch begins to drain (`preempted_spec`), the cut by what it asks of each member
(`cutNow_spec`), the ends of a drain by what they leave of the launch (`finishPreempts_leaves`), and the stops of a tile one by one. -/
theorem preemptionDrainsCutsAndSaves : Obligations.PreemptionDrainsCutsAndSaves := by
  unfold Obligations.PreemptionDrainsCutsAndSaves
  intro inFlight started cutFrom
  refine ⟨fun s q cmd hf hb ho hv => ⟨fun l hl hp hg => ?_, preempt_unknown hf hb ho hv⟩, fun s l hl hp hv hg => ?_,
    fun s f n c hcut => ?_⟩
  · have hh := handle_of_launch? hl
    refine ⟨fun hn => ?_, fun hpast hs => ?_⟩
    · obtain ⟨t, l', hx, hl', hphase, hqueue, hpre, htiles⟩ := preempt_drains hf hb ho hv hl hp hg hn
      exact ⟨t, l', ⟨hx, hh ▸ hl', hphase, hqueue.trans (by rw [State.startRunning, queue_setQueue]; rfl)⟩, hpre, htiles⟩
    · obtain ⟨t, l', hx, hl', hphase, hqueue, hpre, hcut⟩ := preempt_cuts hf hb ho hv hl hp hg hpast hs
      exact ⟨t, l', ⟨hx, hh ▸ hl', hphase, hqueue.trans (by rw [State.startRunning, queue_setQueue]; rfl)⟩, hpre, hcut⟩
  · refine ⟨preemptDrainEnd_leaves hl hp hv hg, fun hc hd hi hs => ?_, contextSave_frees hl hp hv hg⟩
    obtain ⟨t, hx, hlate, hcut⟩ := preemptDeadline_cuts hl hp hv hg hc hd hi hs
    exact ⟨t, _, hx, hlate, rfl, rfl, rfl, hcut⟩
  · exact ⟨fun ha hb hs => ⟨_, hardCutStop_boundary hcut ha hb hs, _, _, rfl⟩,
      fun b ha hb hh hn hz => ⟨_, hardCutStop_held hcut ha hb hh hn hz, _, _, rfl⟩,
      fun ha hb hc => cutCycleLimit_stops hcut ha hb hc, fun id k hk hst ht => cutCopyTimeout_fails hcut hk hst ht⟩

end Sys2Proof.Machine
end

section
namespace Sys2Proof.Machine

/-! ## The low ones of a number -/

theorem testBit_of_lt_lowOnes : ∀ {n v i : Nat}, i < lowOnes n v → v.testBit i = true
  | 0, _, _, h => absurd h (Nat.not_lt_zero _)
  | n + 1, v, i, h => by
    rw [lowOnes] at h
    split at h
    · rename_i hodd
      cases i with
      | zero => simp [hodd]
      | succ i => rw [Nat.testBit_succ]; exact testBit_of_lt_lowOnes (Nat.lt_of_succ_lt_succ h)
    · exact absurd h (Nat.not_lt_zero _)

theorem testBit_lowOnes : ∀ {n v : Nat}, lowOnes n v < n → v.testBit (lowOnes n v) = false
  | 0, _, h => absurd h (Nat.not_lt_zero _)
  | n + 1, v, h => by
    rw [lowOnes] at h ⊢
    split
    · rename_i hodd
      rw [if_pos hodd] at h
      rw [Nat.testBit_succ]
      exact testBit_lowOnes (Nat.lt_of_succ_lt_succ h)
    · rename_i heven
      simpa using heven

/-! ## The points behind a row (R280) -/

/-- Whether the point at an inner index of an open row is behind the frontier. -/
def RowState.behind (x : RowState) (i : Nat) : Bool :=
  x.full || decide (i < x.c) || (decide (x.c < i) && decide (i - x.c ≤ 64) && x.window.getLsbD (i - x.c - 1))

theorem behind_iff {f : Frontier} {r i : Nat} :
    f.behind r i = true ↔ r < f.b ∨ r < f.t ∧ ∃ x, f.rows[r - f.b]? = some x ∧ x.behind i = true := by
  unfold Frontier.behind RowState.behind
  cases f.rows[r - f.b]? <;> simp

/-- Behind a full row stands every point of it. -/
theorem RowState.behind_full {x : RowState} (h : x.full = true) (i : Nat) : x.behind i = true := by
  simp [RowState.behind, h]

/-- Of a row that is not full the window, moved up by one place, says which points from C on are behind. -/
theorem RowState.behind_open_iff {x : RowState} (h : x.full = false) {i : Nat} :
    x.behind i = true ↔ i < x.c ∨ x.c ≤ i ∧ (2 * x.window.toNat).testBit (i - x.c) = true := by
  simp only [RowState.behind, h, Bool.false_or, Bool.or_eq_true, Bool.and_eq_true, decide_eq_true_eq]
  refine or_congr_right ⟨fun ⟨⟨hc, _⟩, hw⟩ => ⟨hc.le, ?_⟩, fun ⟨hc, hw⟩ => ?_⟩
  · obtain ⟨k, rfl⟩ := Nat.exists_eq_add_of_lt hc
    simpa [show x.c + k + 1 - x.c = k + 1 by omega, Nat.testBit_succ, BitVec.getLsbD] using hw
  · obtain ⟨k, rfl⟩ := Nat.exists_eq_add_of_le hc
    rw [Nat.add_sub_cancel_left] at hw ⊢
    cases k with
    | zero => simp at hw
    | succ k =>
      rw [Nat.testBit_succ, Nat.mul_div_cancel_left _ Nat.two_pos] at hw
      have hk : k < 64 := by
        by_contra hk
        exact absurd hw (by simp [BitVec.testBit_toNat, BitVec.getLsbD_of_ge _ _ (Nat.le_of_not_lt hk)])
      exact ⟨⟨by omega, by omega⟩, hw⟩

/-! ## A row after a completion (R282 item 2) -/

/-- The points of a row from C on that are behind once another has completed, by their distance from C. -/
def RowState.after (x : RowState) (inner : Nat) : Nat := 2 * x.window.toNat ||| 2 ^ (inner - x.c)

theorem RowState.after_testBit {x : RowState} {inner i : Nat} (hf : x.full = false) (hc : x.c ≤ inner) :
    (i < x.c ∨ x.c ≤ i ∧ (x.after inner).testBit (i - x.c) = true) ↔ x.behind i = true ∨ i = inner := by
  rw [RowState.behind_open_iff hf, RowState.after, Nat.testBit_or, Bool.or_eq_true, Nat.testBit_two_pow, decide_eq_true_eq]
  have hd : x.c ≤ i → (inner - x.c = i - x.c ↔ i = inner) := by omega
  by_cases hi : x.c ≤ i
  · simp only [hi, hd hi, true_and, or_assoc]
  · have : i ≠ inner := by omega
    simp [hi, this, Nat.lt_of_not_le hi]

/-- At most the 65 points from C on are behind. -/
theorem RowState.after_lt {x : RowState} {inner : Nat} (h : inner ≤ x.c + 64) : x.after inner < 2 ^ 65 :=
  Nat.or_lt_two_pow (by have := x.window.isLt; omega) (Nat.pow_lt_pow_right (by decide) (by omega))

/-- The window that C leaves behind as it moves up by the low ones of a number holds the bits above them. -/
theorem testBit_movedWindow {v a k : Nat} (hv : v < 2 ^ 65) (ha : v.testBit a = false) :
    (2 * (BitVec.ofNat 64 (v / 2 ^ (a + 1))).toNat).testBit k = v.testBit (a + k) := by
  have hlt : v / 2 ^ (a + 1) < 2 ^ 64 := by
    rw [Nat.div_lt_iff_lt_mul (Nat.two_pow_pos _), ← Nat.pow_add]
    exact hv.trans_le (Nat.pow_le_pow_right Nat.two_pos (by omega))
  rw [BitVec.toNat_ofNat, Nat.mod_eq_of_lt hlt]
  cases k with
  | zero => simp [ha]
  | succ k => rw [Nat.testBit_succ, Nat.mul_div_cancel_left _ Nat.two_pos, Nat.testBit_div_two_pow, show k + (a + 1) = a + (k + 1) by omega]

/-- The first zero of a number of 65 bits is within the 66 that are looked at. -/
theorem testBit_lowOnes_window {v : Nat} (hv : v < 2 ^ 65) : v.testBit (lowOnes 66 v) = false := by
  refine testBit_lowOnes (Nat.lt_of_not_le fun h => ?_)
  have hone : v.testBit 65 = true := testBit_of_lt_lowOnes h
  rw [Nat.testBit_lt_two_pow hv] at hone
  exact Bool.false_ne_true hone

theorem RowState.complete_eq (x : RowState) (e inner : Nat) : x.complete e inner =
    if e ≤ x.c + lowOnes 66 (x.after inner) then ⟨0, true, 0⟩
    else ⟨x.c + lowOnes 66 (x.after inner), false, BitVec.ofNat 64 (x.after inner / 2 ^ (lowOnes 66 (x.after inner) + 1))⟩ := rfl

/-- The completion of a point of an open row puts exactly that point of the row behind. -/
theorem RowState.behind_complete {x : RowState} {e inner i : Nat} (hf : x.full = false) (hc : x.c ≤ inner) (h64 : inner ≤ x.c + 64)
    (hi : i < e) : (x.complete e inner).behind i = true ↔ x.behind i = true ∨ i = inner := by
  rw [← RowState.after_testBit hf hc, RowState.complete_eq]
  have hlt := RowState.after_lt h64
  generalize x.after inner = v at hlt ⊢
  have hzero := testBit_lowOnes_window hlt
  have hones : ∀ k, k < lowOnes 66 v → v.testBit k = true := fun k => testBit_of_lt_lowOnes
  generalize lowOnes 66 v = a at hones hzero ⊢
  have hbelow : i < x.c + a → i < x.c ∨ x.c ≤ i ∧ v.testBit (i - x.c) = true := fun h =>
    (Nat.lt_or_ge i x.c).imp_right fun hle => ⟨hle, hones _ (by omega)⟩
  split
  · exact iff_of_true (RowState.behind_full rfl i) (hbelow (by omega))
  · rw [RowState.behind_open_iff rfl]
    dsimp only
    by_cases hia : i < x.c + a
    · exact iff_of_true (.inl hia) (hbelow hia)
    · obtain ⟨k, rfl⟩ := Nat.exists_eq_add_of_le (Nat.le_of_not_lt hia)
      rw [Nat.add_sub_cancel_left, testBit_movedWindow hlt hzero, show x.c + a + k - x.c = a + k by omega]
      exact or_congr (iff_of_false (by omega) (by omega)) (and_congr_left' (iff_of_true (by omega) (by omega)))

/-! ## Rows retired (R282 item 3) -/

theorem retireRows_length : ∀ (b : Nat) (xs : List RowState), (retireRows b xs).1 + (retireRows b xs).2.length = b + xs.length
  | _, [] => rfl
  | b, x :: xs => by
    rw [retireRows]
    split
    · rw [retireRows_length, List.length_cons]; omega
    · rfl

/-- A full row at the foot of the band is as much behind the frontier as one below the band. -/
theorem behind_retire {x : RowState} {xs : List RowState} {b t r i : Nat} (hx : x.full = true) (ht : b < t) :
    (⟨b + 1, t, xs⟩ : Frontier).behind r i = (⟨b, t, x :: xs⟩ : Frontier).behind r i := by
  rw [Bool.eq_iff_iff, behind_iff, behind_iff]
  dsimp only
  rcases Nat.lt_trichotomy r b with h | rfl | h
  · exact iff_of_true (.inl (by omega)) (.inl h)
  · exact iff_of_true (.inl (by omega)) (.inr ⟨ht, x, by simp, RowState.behind_full hx i⟩)
  · obtain ⟨k, rfl⟩ := Nat.exists_eq_add_of_lt h
    have h1 : b + k + 1 - (b + 1) = k := by omega
    have h2 : b + k + 1 - b = k + 1 := by omega
    rw [h1, h2, List.getElem?_cons_succ]
    refine or_congr_left (iff_of_false (by omega) (by omega))

theorem behind_retireRows (t r i : Nat) : ∀ (b : Nat) (xs : List RowState), b + xs.length = t →
    (⟨(retireRows b xs).1, t, (retireRows b xs).2⟩ : Frontier).behind r i = (⟨b, t, xs⟩ : Frontier).behind r i
  | _, [], _ => rfl
  | b, x :: xs, ht => by
    rw [List.length_cons] at ht
    rw [retireRows]
    split
    · rename_i hx
      rw [behind_retireRows t r i (b + 1) xs (by omega), behind_retire hx (by omega)]
    · rfl

/-! ## A frontier after a completion (R280, R282) -/

section
variable {fr : Frontier} {e row inner : Nat} {x : RowState}

theorem complete_eq (hx : fr.rows[row - fr.b]? = some x) : fr.complete e row inner =
    ⟨(retireRows fr.b (fr.rows.set (row - fr.b) (x.complete e inner))).1, fr.t,
      (retireRows fr.b (fr.rows.set (row - fr.b) (x.complete e inner))).2⟩ := by
  simp only [Frontier.complete, hx]

/-- Of the rows of the band only the one replaced changes which points are behind. -/
theorem behind_set {y : RowState} {r i : Nat} (ht : fr.b + fr.rows.length = fr.t) (hrow : fr.b ≤ row)
    (hx : fr.rows[row - fr.b]? = some x) (hy : y.behind i = true ↔ x.behind i = true ∨ i = inner) :
    (⟨fr.b, fr.t, fr.rows.set (row - fr.b) y⟩ : Frontier).behind r i = (fr.behind r i || (r == row && i == inner)) := by
  have hlen : row - fr.b < fr.rows.length := (List.getElem?_eq_some_iff.mp hx).1
  rw [Bool.eq_iff_iff, Bool.or_eq_true, behind_iff, behind_iff]
  simp only [Bool.and_eq_true, beq_iff_eq]
  by_cases hr : r = row
  · subst hr
    have hb : ¬ r < fr.b := Nat.not_lt.mpr hrow
    have hrt : r < fr.t := by omega
    rw [List.getElem?_set_self hlen, hx]
    simp [hb, hrt, hy]
  · by_cases hb : r < fr.b
    · simp [hb]
    · rw [List.getElem?_set_ne (by omega)]
      simp [hr]

end

/-- Settles O49: the completed row has one point more behind it (`RowState.behind_complete`), and retiring full rows changes nothing of what
is behind (`behind_retireRows`). -/
theorem completionPutsOnePointBehindTheFrontier : Obligations.CompletionPutsOnePointBehindTheFrontier := by
  unfold Obligations.CompletionPutsOnePointBehindTheFrontier
  intro fr e row inner x ht hrow hx hf hc h64 _
  have hlen := List.length_set (as := fr.rows) (i := row - fr.b) (a := x.complete e inner)
  rw [complete_eq hx]
  refine ⟨rfl, by rw [retireRows_length, hlen, ht], fun r i hi => ?_⟩
  rw [behind_retireRows fr.t r i _ _ (by rw [hlen, ht]), behind_set ht hrow hx (RowState.behind_complete hf hc h64 hi)]

end Sys2Proof.Machine
end

section
namespace Sys2Proof.Machine

/-! ## A launch takes its slots (R279) -/

/-- The dies of a list hold a handle in one slot more. -/
def State.takeSlots (s : State) (h : BitVec 16) (ds : List (Fin 8)) : State :=
  ds.foldl (fun s d => s.setDie d { s.die d with slots := (s.die d).slots ++ [h] }) s

theorem takeSlots_frame (h : BitVec 16) : ∀ (ds : List (Fin 8)) (s : State), { s.takeSlots h ds with dies := s.dies } = s
  | [], _ => rfl
  | d :: ds, s => congrArg (fun u : State => { u with dies := s.dies })
      (takeSlots_frame h ds (s.setDie d { s.die d with slots := (s.die d).slots ++ [h] }))

@[simp] theorem takeSlots_launches (s : State) (h : BitVec 16) (ds : List (Fin 8)) : (s.takeSlots h ds).launches = s.launches := by
  have := congrArg State.launches (takeSlots_frame h ds s)
  exact this

@[simp] theorem takeSlots_queues (s : State) (h : BitVec 16) (ds : List (Fin 8)) : (s.takeSlots h ds).queues = s.queues := by
  have := congrArg State.queues (takeSlots_frame h ds s)
  exact this

theorem mem_slots_takeSlots {h : BitVec 16} {k : Fin 8} : ∀ (ds : List (Fin 8)) (s : State), h ∈ (s.die k).slots ∨ k ∈ ds →
    h ∈ ((s.takeSlots h ds).die k).slots
  | [], _, hk => hk.resolve_right List.not_mem_nil
  | d :: ds, s, hk => by
    refine mem_slots_takeSlots ds (s.setDie d { s.die d with slots := (s.die d).slots ++ [h] }) ?_
    by_cases hd : k = d
    · subst hd
      exact .inl (by simp [die_setDie])
    · rw [die_setDie_ne s _ hd]
      exact hk.imp_right fun hm => (List.mem_cons.mp hm).resolve_left hd

/-! ## Residency (R279, R287, R288) -/

/-- The block and the frontier of a part. -/
def DieLaunch.band (p : DieLaunch) : Fin 8 × Frontier × Nat × Nat := (p.die, p.fr, p.rowLo, p.rowHi)

/-- A launch as it becomes resident: numbered, chained or not, with mirrors in its parts, and otherwise as it was admitted. -/
def Launch.EntersAs (l l' : Launch) : Prop :=
  ∃ n c ps, l' = { l with uid := n, phase := .resident, chained := c, parts := ps } ∧ ps.map DieLaunch.band = l.parts.map DieLaunch.band

theorem Launch.EntersAs.waited {l a b : Launch} (h : l.EntersAs a) (hw : a.Waited b) : l.EntersAs b := by
  obtain ⟨n, c, ps, rfl, hps⟩ := h
  obtain ⟨g, hg, rfl⟩ := hw
  have hband : DieLaunch.band ∘ g = DieLaunch.band := funext fun p => by
    have := congrArg DieLaunch.band (hg p)
    exact this
  exact ⟨n, c, _, rfl, by rw [List.map_map, hband, hps]⟩

/-- The form in which a waiting launch becomes resident: chained where its predecessor is there, with mirrors of its own dies and of the
predecessor's. -/
def State.residentForm (s : State) (l : Launch) : Launch :=
  let chained := l.chain && (s.recordOf l.chainH).isSome
  { l with phase := .resident, chained := chained, parts := l.parts.map fun p =>
    { p with mirrors := (l.parts.filter fun x => x.die != p.die).map fun x => (x.die.val, x.fr),
             chain := if chained then (s.partsOf l.chainH).map fun p => (p.die.val, p.fr) else [] } }

theorem residentForm_enters (s : State) (l : Launch) : l.EntersAs (s.residentForm l) :=
  ⟨l.uid, _, _, rfl, by rw [List.map_map]; rfl⟩

theorem memFrame_chainRelease (s : State) (l : Launch) : MemFrame s (s.chainRelease l) := by
  unfold State.chainRelease
  split
  · split
    · exact memFrame_narrow s _ _ (Nat.le_refl _)
    · exact .refl s
  · exact .refl s

theorem refreshAll_slots (s : State) (d : Fin 8) : (s.refreshAll.die d).slots = (s.die d).slots := by
  have := congrArg Die.slots ((refreshed_refreshAll s).dies d)
  exact this

/-- A launch in its resident form, before it takes its slots: the writes of its predecessor's points are released to it, and a ghost of its
own handle is gone. -/
def State.entered (s : State) (h : BitVec 16) (l : Launch) : State :=
  { (s.setLaunch (s.residentForm l)).chainRelease l with ghosts := s.ghosts.filter fun g => g.handle != h }

section
variable {s : State} {h : BitVec 16} {l : Launch}

theorem entered_launches : (s.entered h l).launches = (s.setLaunch (s.residentForm l)).launches := (memFrame_chainRelease _ l).launches

theorem entered_queues : (s.entered h l).queues = s.queues := (memFrame_chainRelease (s.setLaunch (s.residentForm l)) l).queues

theorem makeResident_eq (hl : s.launch? h = some l) :
    s.makeResident h = ((s.entered h l).takeSlots h (namedDies l.record)).refreshAll := by
  unfold State.makeResident
  rw [hl]
  rfl

theorem makeResident_queues (hl : s.launch? h = some l) : (s.makeResident h).queues = s.queues := by
  rw [makeResident_eq hl, refreshAll_queues, takeSlots_queues, entered_queues]

theorem makeResident_slots (hl : s.launch? h = some l) {d : Fin 8} (hd : d ∈ namedDies l.record) :
    h ∈ ((s.makeResident h).die d).slots := by
  rw [makeResident_eq hl, refreshAll_slots]
  exact mem_slots_takeSlots _ _ (.inr hd)

theorem makeResident_launch? (hl : s.launch? h = some l) : ∃ l', (s.makeResident h).launch? h = some l' ∧ l.EntersAs l' := by
  have hset := launch?_setLaunch hl (l' := s.residentForm l) (handle_of_launch? (l := l) hl)
  rw [State.launch?, ← entered_launches (h := h), ← takeSlots_launches _ h (namedDies l.record)] at hset
  obtain ⟨l', hw, hl'⟩ := launch?_refreshAll (s := (s.entered h l).takeSlots h (namedDies l.record)) hset
  exact ⟨l', by rw [makeResident_eq hl]; exact hl', (residentForm_enters s l).waited hw⟩

theorem slotsFree_iff : s.slotsFree l = true ↔ ∀ d ∈ namedDies l.record, (s.die d).slots.length < 16 := by
  simp [State.slotsFree]
end

/-! ## The end of the command that admits (R279, R295) -/

section
variable {s : State} {q : Fin 16} {cmd : List Byte}

/-- A command in hand completes: its queue moves on, and what its notice stores is memory. -/
theorem memFrame_completeFetched (hf : (s.queue q).fetched = some cmd) (c : List Byte) :
    MemFrame (s.setQueue q (s.queue q).advance) (s.completeFetched q c) := by
  simp only [State.completeFetched, hf, Option.isSome_some, if_true]
  exact memFrame_notify ..

theorem MemFrame.queue {t : State} (h : MemFrame s t) (q : Fin 16) : t.queue q = s.queue q := by simp [State.queue, h.queues]

theorem MemFrame.launch? {t : State} (h : MemFrame s t) (n : BitVec 16) : t.launch? n = s.launch? n := by
  rw [State.launch?, h.launches, State.launch?]

theorem MemFrame.slots {t : State} (h : MemFrame s t) (d : Fin 8) : (t.die d).slots = (s.die d).slots := by
  have := congrArg Die.slots (h.dies d)
  exact this

/-- The launch of a command becomes resident as the command completes. -/
theorem resident_completes {h : BitVec 16} {l : Launch} (hl : s.launch? h = some l) (hf : (s.queue q).fetched = some cmd) (c : List Byte) :
    (∃ l', ((s.makeResident h).completeFetched q c).launch? h = some l' ∧ l.EntersAs l') ∧
    (∀ d ∈ namedDies l.record, h ∈ (((s.makeResident h).completeFetched q c).die d).slots) ∧
    (((s.makeResident h).completeFetched q c).queue q).fetched = none := by
  have hm := memFrame_completeFetched (s := s.makeResident h) (by rw [State.queue, makeResident_queues hl]; exact hf) c
  obtain ⟨l', hl', he⟩ := makeResident_launch? hl
  exact ⟨⟨l', (hm.launch? h).trans hl', he⟩, fun d hd => (hm.slots d).symm ▸ makeResident_slots hl hd,
    by rw [hm.queue, queue_setQueue]; rfl⟩

/-- LAUNCH_RESIDENT: a waiting launch enters its dies, and the command that holds its queue completes. -/
theorem launchResident_enters {l : Launch} (hl : s.launch? l.handle = some l) (hp : l.phase = .waiting) (hv : s.regs.viral = false)
    (hslots : ∀ d ∈ namedDies l.record, (s.die d).slots.length < 16) :
    ∃ t l', exec (.launchResident l.handle) s = .next t ∧ t.launch? l.handle = some l' ∧ l'.phase = .resident ∧
      (∀ d ∈ namedDies l.record, l.handle ∈ (t.die d).slots) ∧
      ((s.queue l.queue).fetched ≠ none → (t.queue l.queue).fetched = none) := by
  have hqueue : (s.makeResident l.handle).queue l.queue = s.queue l.queue := by
    rw [State.queue, makeResident_queues hl, State.queue]
  have hx : exec (.launchResident l.handle) s = execLaunchResident l.handle s := rfl
  simp only [execLaunchResident, hl, hp, hv, slotsFree_iff.mpr hslots, hqueue, beq_self_eq_true, Bool.not_false, Bool.and_self,
    if_true] at hx
  cases hf : (s.queue l.queue).fetched with
  | none =>
    rw [hf] at hx
    obtain ⟨l', hl', n, c, ps, rfl, -⟩ := makeResident_launch? hl
    exact ⟨_, _, hx, hl', rfl, fun d hd => makeResident_slots hl hd, fun hn => absurd rfl hn⟩
  | some c =>
    rw [hf] at hx
    obtain ⟨⟨l', hl', n, b, ps, rfl, -⟩, hs, hq⟩ := resident_completes hl hf c
    exact ⟨_, _, hx, hl', rfl, hs, fun _ => hq⟩

/-! ## Admission (R277-R279) -/

theorem memFrame_queueIrq (s : State) (q : Fin 16) : MemFrame s (s.queueIrq q) := by
  unfold State.queueIrq
  split
  · exact memFrame_raiseVector ..
  · exact .refl s

/-- A failed admission leaves ADM and the detail in its queue, which moves on, and no launch (R278). -/
theorem failAdmission_leaves (hf : (s.queue q).fetched = some cmd) (detail seqVal : Nat) (r : Option (List Byte)) :
    let t := s.failAdmission q cmd detail seqVal r
    (t.queue q).adm = true ∧ (t.queue q).admInfo = BitVec.ofNat 32 (field cmd 4 2 * 65536 + detail) ∧ (t.queue q).fetched = none ∧
      t.launches = s.launches := by
  let told := s.setQueue q { s.queue q with adm := true, admInfo := BitVec.ofNat 32 (field cmd 4 2 * 65536 + detail) }
  have hstored : ∃ u, MemFrame told u ∧ s.failAdmission q cmd detail seqVal r = u.completeFetched q cmd := by
    refine ⟨_, ?_, rfl⟩
    refine (memFrame_queueIrq told q).trans ?_
    split
    · split
      · exact memFrame_feWord ..
      · exact .refl _
    · exact .refl _
  obtain ⟨u, hu, he⟩ := hstored
  have hq : u.queue q = { s.queue q with adm := true, admInfo := BitVec.ofNat 32 (field cmd 4 2 * 65536 + detail) } := by
    rw [hu.queue, queue_setQueue]
  have hm := memFrame_completeFetched (s := u) (q := q) (by rw [hq]; exact hf) cmd
  dsimp only
  rw [he, hm.queue, hm.launches, queue_setQueue, hq]
  exact ⟨rfl, rfl, rfl, hu.launches⟩

/-- A launch that passed every check is resident where its dies have slots, and waits with its command where one has none. -/
theorem takeLaunch_takes {l : Launch} (hnew : ∀ x ∈ s.launches, x.handle ≠ l.handle) (hf : (s.queue q).fetched = some cmd)
    (hp : l.phase = .waiting) :
    let t := s.takeLaunch q cmd l
    ((∀ d ∈ namedDies l.record, (s.die d).slots.length < 16) → (∃ l', t.launch? l.handle = some l' ∧ l.EntersAs l') ∧
      (∀ d ∈ namedDies l.record, l.handle ∈ (t.die d).slots) ∧ (t.queue q).fetched = none) ∧
    ((∃ d ∈ namedDies l.record, 16 ≤ (s.die d).slots.length) →
      ∃ l', t.launch? l.handle = some l' ∧ l'.phase = .waiting ∧ l'.queue = l.queue ∧ (t.queue q).begun = true) := by
  let u : State := { s with launches := s.launches ++ [{ l with uid := s.nextId + 1 }], nextId := s.nextId + 1 }
  have hl : u.launch? l.handle = some { l with uid := s.nextId + 1 } := by
    have hnone : s.launches.find? (fun x => x.handle == l.handle) = none := List.find?_eq_none.mpr fun x hx => by simp [hnew x hx]
    simp [u, State.launch?, List.find?_append, hnone]
  have ht : s.takeLaunch q cmd l = if u.slotsFree l then (u.makeResident l.handle).completeFetched q cmd
      else u.setQueue q { u.queue q with begun := true } := rfl
  have hfree : u.slotsFree l = true ↔ ∀ d ∈ namedDies l.record, (s.die d).slots.length < 16 := slotsFree_iff
  dsimp only
  rw [ht]
  refine ⟨fun hslots => ?_, fun ⟨d, hd, hfull⟩ => ?_⟩
  · rw [if_pos (hfree.mpr hslots)]
    obtain ⟨⟨l', hl', n, c, ps, rfl, hps⟩, hs, hq⟩ := resident_completes hl hf cmd
    exact ⟨⟨_, hl', n, c, ps, rfl, hps⟩, hs, hq⟩
  · rw [if_neg fun hn => absurd (hfree.mp hn d hd) (Nat.not_lt.mpr hfull)]
    exact ⟨_, hl, hp, rfl, by rw [queue_setQueue]⟩

/-! ## LAUNCH and RESUME (R277, R304, R305) -/

theorem memFrame_readParts (s : State) (c : BitVec 16) (r : List Byte) : MemFrame s (s.readParts c r).1 := by
  unfold State.readParts
  have hcode := memFrame_feRead s c (field r 0x30 8) (4 * Nat.min 65536 (field r 0x38 4))
  generalize s.feRead c (field r 0x30 8) (4 * Nat.min 65536 (field r 0x38 4)) = p at hcode ⊢
  obtain ⟨u, code⟩ := p
  cases code with
  | none => exact hcode
  | some code => exact hcode.trans (memFrame_feRead ..)

theorem memFrame_savedLaunch (s : State) (c : BitVec 16) (cmd hdr : List Byte) : MemFrame s (s.savedLaunch c cmd hdr).1 := by
  unfold State.savedLaunch
  dsimp only
  split
  · exact .refl s
  · have hr := memFrame_feRead s c (cAddr cmd) (Nat.max (field hdr 0x118 8) 0x140)
    generalize s.feRead c (cAddr cmd) (Nat.max (field hdr 0x118 8) 0x140) = p at hr ⊢
    obtain ⟨u, area⟩ := p
    cases area with
    | none => exact hr
    | some area =>
      dsimp only
      split
      · exact hr
      · split
        · exact hr
        · split
          · exact hr
          · split <;> exact hr

theorem memFrame_adopt (s : State) (old h : BitVec 16) (cuts : List CutPoint) : MemFrame s (s.adopt old h cuts) :=
  memFrame_narrow s _ _ (Nat.le_refl _)

theorem unreaped_eq_false {h : BitVec 16} (hnew : ∀ l ∈ s.launches, l.handle ≠ h) : s.unreaped h = false :=
  List.any_eq_false.mpr fun l hl => by simp [hnew l hl]

section
variable {s1 s2 s3 : State} {r hdr arg : List Byte} {code : List Word}

/-- A LAUNCH whose record and code can be read is admitted as its record says, or fails with the detail of its first bad field. -/
theorem exec_launch (hf : (s.queue q).fetched = some cmd) (ho : cOp cmd = 1) (hb : (s.queue q).begun = false) (hv : s.regs.viral = false)
    (hnew : ∀ l ∈ s.launches, l.handle ≠ cHandle cmd) (h1 : s.feRead (s.queue q).ctx (cAddr cmd) 256 = (s1, some r))
    (h2 : s1.readParts (s.queue q).ctx r = (s2, some (code, arg))) :
    (recordDetail s2 q (cHandle cmd) false r = none → exec (.launch q) s = .next (s2.takeLaunch q cmd
      (newLaunch q (s.queue q).ctx (cHandle cmd) (cValue cmd) r code arg (freshParts r) []))) ∧
    (∀ e, recordDetail s2 q (cHandle cmd) false r = some e →
      exec (.launch q) s = .next (s2.failAdmission q cmd e (cValue cmd) (some r))) := by
  have hx : exec (.launch q) s = execLaunch q s := rfl
  simp only [execLaunch, toBegin_eq hf ho hb hv, unreaped_eq_false hnew, h1, h2, Bool.false_eq_true, if_false] at hx
  exact ⟨fun hd => by rw [hx, hd], fun e hd => by rw [hx, hd]⟩

/-- A RESUME that passes every check takes the parts and the cut points of its save area. -/
theorem exec_resume {parts : List DieLaunch} {cuts : List CutPoint} (hf : (s.queue q).fetched = some cmd) (ho : cOp cmd = 5)
    (hb : (s.queue q).begun = false) (hv : s.regs.viral = false) (hnew : ∀ l ∈ s.launches, l.handle ≠ cHandle cmd)
    (h1 : s.feRead (s.queue q).ctx (cAddr cmd) 0x140 = (s1, some hdr))
    (h2 : s1.readParts (s.queue q).ctx (hdr.take 256) = (s2, some (code, arg)))
    (hd : recordDetail s2 q (cHandle cmd) true (hdr.take 256) = none)
    (h3 : s2.savedLaunch (s.queue q).ctx cmd hdr = (s3, .ok (parts, cuts))) :
    exec (.resume q) s = .next ((s3.adopt (BitVec.ofNat 16 (field hdr 0x102 2)) (cHandle cmd) cuts).takeLaunch q cmd
      (newLaunch q (s.queue q).ctx (cHandle cmd) (field hdr 0x108 8 % 2 ^ 62) (hdr.take 256) code arg parts cuts)) := by
  show execResume q s = _
  simp only [execResume, toBegin_eq hf ho hb hv, unreaped_eq_false hnew, h1, h2, hd, h3, Bool.false_eq_true, if_false]
end

/-- What the front-end reads for an admission leaves the queues and the launches. -/
theorem memFrame_admissionReads {c : BitVec 16} {a n : Nat} {s1 s2 : State} {b : Option (List Byte)} {r : List Byte}
    {p : Option (List Word × List Byte)} (h1 : s.feRead c a n = (s1, b)) (h2 : s1.readParts c r = (s2, p)) : MemFrame s s2 := by
  have a1 := memFrame_feRead s c a n
  have a2 := memFrame_readParts s1 c r
  rw [h1] at a1
  rw [h2] at a2
  exact a1.trans a2

end

/-- Settles O52: the events by `exec_launch`, `exec_resume` and `launchResident_enters`, what an admitted launch becomes by
`takeLaunch_takes`, and what a failed check leaves by `failAdmission_leaves`. -/
theorem admissionMakesLaunchesResident : Obligations.AdmissionMakesLaunchesResident := by
  unfold Obligations.AdmissionMakesLaunchesResident
  refine ⟨fun s q cmd => ?_, fun s l hl hp hv hslots => launchResident_enters hl hp hv hslots⟩
  intro x hf hb hplain hv h hnew hghosts resident admits
  have admitted {u v : State} {r : List Byte} {seqVal : Nat} {code : List Word} {arg : List Byte} {parts : List DieLaunch}
      {cuts : List CutPoint} (hu : MemFrame s u) (hd : ∀ d, u.die d = v.die d) :
      admits (u.takeLaunch q cmd (newLaunch q x.ctx h seqVal r code arg parts cuts)) v r seqVal code arg parts cuts := by
    obtain ⟨henters, hwaits⟩ := takeLaunch_takes (s := u) (q := q) (cmd := cmd) (l := newLaunch q x.ctx h seqVal r code arg parts cuts)
      (by rw [hu.launches]; exact hnew) (by rw [hu.queue]; exact hf) rfl
    simp only [hd] at henters hwaits
    refine ⟨fun hslots => ?_, hwaits⟩
    obtain ⟨⟨l', hl', n, c, ps, rfl, hps⟩, hs, hq⟩ := henters hslots
    exact ⟨_, hl', rfl, rfl, rfl, rfl, rfl, rfl, hps, rfl, hs, hq⟩
  refine ⟨fun s1 s2 r code arg ho h1 h2 => ?_, fun s1 s2 s3 hdr code arg parts cuts ho h1 h2 hd h3 => ?_⟩
  · have hu := memFrame_admissionReads h1 h2
    obtain ⟨hgood, hbad⟩ := exec_launch hf ho hb hv hnew h1 h2
    cases hd : recordDetail s2 q h false r with
    | none => exact ⟨_, hgood hd, fun _ => admitted hu fun _ => rfl, fun e he => absurd he (by simp)⟩
    | some e =>
      refine ⟨_, hbad e hd, fun hn => absurd hn (by simp), fun e' he => ?_⟩
      obtain rfl := Option.some.inj he
      exact failAdmission_leaves (by rw [hu.queue]; exact hf) e _ _
  · have hs := memFrame_savedLaunch s2 x.ctx cmd hdr
    rw [h3] at hs
    have hu := ((memFrame_admissionReads h1 h2).trans hs).trans (memFrame_adopt s3 (BitVec.ofNat 16 (field hdr 0x102 2)) h cuts)
    exact ⟨_, exec_resume hf ho hb hv hnew h1 h2 hd h3, admitted hu fun _ => rfl⟩

end Sys2Proof.Machine
end

section
namespace Sys2Proof.Machine

/-! ## What operations of global memory leave of FSTAT.DFENCE (R321, R323) -/

theorem dfence_foldl {α : Type} {g : State → α → State} (h : ∀ s x, (g s x).regs.dfence = s.regs.dfence) :
    ∀ (xs : List α) (s : State), (xs.foldl g s).regs.dfence = s.regs.dfence
  | [], _ => rfl
  | x :: xs, s => (dfence_foldl h xs _).trans (h s x)

theorem dfence_foldl_fst {α β : Type} {g : State × β → α → State × β} (h : ∀ p x, (g p x).1.regs.dfence = p.1.regs.dfence) :
    ∀ (xs : List α) (p : State × β), (xs.foldl g p).1.regs.dfence = p.1.regs.dfence
  | [], _ => rfl
  | x :: xs, p => (dfence_foldl_fst h xs _).trans (h p x)

@[simp] theorem settleAt_dfence (s : State) (host : Bool) (a n : Nat) : (s.settleAt host a n).regs.dfence = s.regs.dfence := by
  unfold State.settleAt; split <;> rfl

@[simp] theorem seenBy_dfence (s : State) (r : Agent) (host : Bool) (runs : List (Nat × Nat)) (bs : List Byte) :
    (s.seenBy r host runs bs).1.regs.dfence = s.regs.dfence := by
  unfold State.seenBy; dsimp only; split <;> rfl

@[simp] theorem hostStore_dfence (s : State) (a : Nat) (bs : List Byte) : (s.hostStore a bs).regs.dfence = s.regs.dfence := by
  unfold State.hostStore; split <;> simp

@[simp] theorem raiseVector_dfence (s : State) (v : Nat) : (s.raiseVector v).regs.dfence = s.regs.dfence := by
  unfold State.raiseVector
  split
  · dsimp only; split <;> simp
  · rfl

/-- A rise of FSTAT leaves DFENCE as it was or sets it. -/
theorem setFstat_dfence (s : State) (b : Nat) : (s.setFstat b).regs.dfence = (s.regs.dfence || b == 1) := by
  have h : ∀ (c : Bool) (r : PkgRegs), (if c = true then (s.setRegs r).raiseVector 16 else s.setRegs r).regs.dfence = r.dfence :=
    fun c r => by split <;> simp
  unfold State.setFstat
  refine (h _ _).trans ?_
  split <;> simp_all

@[simp] theorem pushFault_dfence (s : State) (rec : List Byte) : (s.pushFault rec).regs.dfence = s.regs.dfence := by
  unfold State.pushFault; dsimp only; split <;> simp

@[simp] theorem faultNow_dfence (s : State) (a : Accessor) (k : FaultKind) (w : Bool) (addr : Nat) :
    (s.faultNow a k w addr).regs.dfence = s.regs.dfence := by
  unfold State.faultNow State.faultCode; split <;> simp

@[simp] theorem copyRow_dfence (s : State) (n : Fin 8) (row : Nat) : (s.copyRow n row).regs.dfence = s.regs.dfence :=
  dfence_foldl (g := fun s (e : LineError) =>
    let s := s.setStack n ((s.stack n).countError e.symbol.isNone (s.paOf e.line) (e.symbol.getD 0xFF) .prune s.time)
    if e.symbol.isSome then s.setFstat 0 else s) (fun s e => by dsimp only; split <;> simp [setFstat_dfence]) _ s

@[simp] theorem pruneRow_dfence (s : State) (n : Fin 8) (row : Nat) : (s.pruneRow n row).regs.dfence = s.regs.dfence := by
  unfold State.pruneRow
  dsimp only
  split
  · simp
  · exact dfence_foldl (fun s f => faultNow_dfence s ..) _ _

@[simp] theorem corrected_dfence (s : State) (d pa : Nat) (sym : Byte) (src : ErrSrc) :
    (s.corrected d pa sym src).regs.dfence = s.regs.dfence := by
  have h : s.halveDue.regs.dfence = s.regs.dfence := rfl
  unfold State.corrected
  dsimp only
  split <;> simp [setFstat_dfence, h]

@[simp] theorem reach_dfence (s : State) (src : ErrSrc) (l : Nat) (b : Bool) : (s.reach src l b).1.regs.dfence = s.regs.dfence := by
  unfold State.reach
  split
  · rfl
  · split
    · rfl
    · split
      · split
        · rfl
        · split <;> simp
      · rfl

@[simp] theorem readDev_dfence (s : State) (src : ErrSrc) (pa n : Nat) : (s.readDev src pa n).1.regs.dfence = s.regs.dfence := by
  refine dfence_foldl_fst (fun p x => ?_) _ (s, Except.ok [])
  obtain ⟨s, r⟩ := p
  cases r with
  | error e => rfl
  | ok bs =>
    have h := reach_dfence s src x.1 true
    dsimp only
    split <;> exact h

@[simp] theorem writePiece_dfence (s : State) (l o : Nat) (bs : List Byte) : (s.writePiece l o bs).1.regs.dfence = s.regs.dfence := by
  have h := reach_dfence s .partialWrite l (!(bs.length == 64))
  unfold State.writePiece
  dsimp only
  split
  · exact h
  · exact (settleAt_dfence ..).trans h

@[simp] theorem writePieces_dfence : ∀ (ps : List (Nat × Nat × Nat)) (s : State) (bs : List Byte),
    (s.writePieces bs ps).1.regs.dfence = s.regs.dfence
  | [], _, _ => rfl
  | (l, o, k) :: ps, s, bs => (writePieces_dfence ps _ (bs.drop k)).trans (writePiece_dfence s l o (bs.take k))

@[simp] theorem writeDev_dfence (s : State) (pa : Nat) (bs : List Byte) : (s.writeDev pa bs).1.regs.dfence = s.regs.dfence :=
  writePieces_dfence ..

@[simp] theorem writeDevAs_dfence (s : State) (w : Writer) (leaf : VPage) (ord pa : Nat) (bs : List Byte) :
    (s.writeDevAs w leaf ord pa bs).1.regs.dfence = s.regs.dfence := by
  have h := writeDev_dfence s pa bs
  unfold State.writeDevAs
  dsimp only
  split <;> exact h

@[simp] theorem hostStoreAs_dfence (s : State) (w : Writer) (leaf : VPage) (ord a : Nat) (bs : List Byte) :
    (s.hostStoreAs w leaf ord a bs).regs.dfence = s.regs.dfence := by
  have h := hostStore_dfence s a bs
  unfold State.hostStoreAs
  split <;> exact h

@[simp] theorem watchRecord_dfence (s : State) (n : Fin 8) (w : WatchSrc) (hit pa len : Nat) :
    (s.watchRecord n w hit pa len).regs.dfence = s.regs.dfence := by
  unfold State.watchRecord
  dsimp only
  split
  · rfl
  · split
    · rfl
    · split <;> simp

@[simp] theorem logWrites_dfence (s : State) (w : WatchSrc) (ws : List (Nat × Nat × Option Nat)) :
    (s.logWrites w ws).regs.dfence = s.regs.dfence := by
  unfold State.logWrites
  rw [dfence_foldl, dfence_foldl]
  · intro s pg
    dsimp only
    split
    · exact watchRecord_dfence ..
    · rfl
  · intro s n
    split
    · rw [dfence_foldl]
      intro s i
      dsimp only
      split
      · rfl
      · exact watchRecord_dfence ..
    · rfl

@[simp] theorem logOutside_dfence (s : State) (w : WatchSrc) (ws : List (Nat × Nat × Option Nat)) :
    (s.logOutside w ws).regs.dfence = s.regs.dfence := by
  unfold State.logOutside
  rw [dfence_foldl]
  intro s pg
  exact watchRecord_dfence ..

@[simp] theorem logMade_dfence (s : State) (w : WatchSrc) (ms : List MadeWrite) : (s.logMade w ms).regs.dfence = s.regs.dfence :=
  (logOutside_dfence ..).trans (logWrites_dfence ..)

@[simp] theorem readFrom_dfence (s : State) (d : Option (Fin 8)) (pa n : Nat) : (s.readFrom d pa n).1.regs.dfence = s.regs.dfence := by
  have h : ∀ b : Bool, (if b then (s, .error .fenced) else s.readDev .agent pa n).1.regs.dfence = s.regs.dfence := fun b => by
    split
    · rfl
    · exact readDev_dfence ..
  exact h _

@[simp] theorem ctxEntry_dfence (s : State) (d : Option (Fin 8)) (c : BitVec 16) : (s.ctxEntry d c).1.regs.dfence = s.regs.dfence := by
  have h := readFrom_dfence s d (s.regs.ctxBase + 64 * c.toNat) 64
  unfold State.ctxEntry
  dsimp only
  split
  · rfl
  · split <;> exact h

@[simp] theorem walkGo_dfence (d : Option (Fin 8)) (va : Nat) : ∀ (fuel : Nat) (s : State) (lvl table : Nat),
    (s.walkGo d va fuel lvl table).1.regs.dfence = s.regs.dfence
  | 0, _, _, _ => rfl
  | fuel + 1, s, lvl, table => by
    have h := readFrom_dfence s d (table + 8 * (va / 2 ^ levelShift lvl % 2 ^ levelBits lvl)) 8
    unfold State.walkGo
    dsimp only
    split
    · exact h
    · split
      · exact h
      · split
        · exact h
        · split
          · exact h
          · exact (walkGo_dfence d va fuel _ _ _).trans h

@[simp] theorem translate_dfence (s : State) (c : BitVec 16) (va : Nat) (w : Bool) : (s.translate c va w).1.regs.dfence = s.regs.dfence := by
  have h := ctxEntry_dfence s none c
  unfold State.translate
  dsimp only
  split
  · exact h
  · split <;> exact (walkGo_dfence ..).trans h

@[simp] theorem walkRecord_dfence (s : State) (a : Accessor) (e : WalkFault) (w : Bool) (va : Nat) :
    (s.walkRecord a e w va).regs.dfence = s.regs.dfence := by
  cases e <;> simp [State.walkRecord]

@[simp] theorem feWritePage_dfence (s : State) (w : Writer) (told : Bool) (c : BitVec 16) (va : Nat) (bs : List Byte) :
    (s.feWritePage w told c va bs).1.regs.dfence = s.regs.dfence := by
  unfold State.feWritePage
  have h := translate_dfence s c va true
  generalize s.translate c va true = q at h ⊢
  obtain ⟨t, q⟩ := q
  dsimp only at h ⊢
  split
  · dsimp only; split <;> simp [h]
  · simp [h]
  · rename_i g
    split
    · have h2 := writeDevAs_dfence t w g.leaf g.ord g.addr bs
      split
      · exact h2.trans h
      · dsimp only; split <;> simp [h]
    · simp [h]
    · simp [h]

@[simp] theorem feWritePages_dfence (w : Writer) (told : Bool) (c : BitVec 16) : ∀ (ps : List (Nat × Nat)) (s : State) (bs : List Byte),
    (s.feWritePages w told c bs ps).1.regs.dfence = s.regs.dfence
  | [], _, _ => rfl
  | (a, k) :: ps, s, bs => (feWritePages_dfence w told c ps _ (bs.drop k)).trans (feWritePage_dfence s w told c a (bs.take k))

@[simp] theorem feWriteGo_dfence (s : State) (w : WatchSrc) (by' : Writer) (told : Bool) (c : BitVec 16) (bs : List Byte)
    (ps : List (Nat × Nat)) : (s.feWriteGo w by' told c bs ps).1.regs.dfence = s.regs.dfence :=
  (logMade_dfence ..).trans (feWritePages_dfence by' told c ps s bs)

@[simp] theorem feWrite_dfence (s : State) (c : BitVec 16) (va : Nat) (bs : List Byte) : (s.feWrite c va bs).1.regs.dfence = s.regs.dfence :=
  feWriteGo_dfence ..

end Sys2Proof.Machine
end

section
namespace Sys2Proof.Machine

/-! ## What containing an error keeps (R311, R315, R320, R321) -/

/-- A tile that runs nothing: it is free, or has stopped. -/
def Tile.Still (t : Tile) : Prop := t.act = .idle ∨ t.act = .stopped

/-- A site's state as fences leave it: what it was, or, of one that is not retired, fenced. -/
def SiteState.Fences (a b : SiteState) : Prop := b = a ∨ a ≠ .retired ∧ b = .fenced

/-- A site that is neither enabled nor spare. -/
def SiteState.out (a : SiteState) : Prop := a ≠ .enabled ∧ a ≠ .spare

/-- The fence of a die has been told and recorded, and no launch names the die (R321 steps 5 and 6). -/
structure State.FenceTold (s : State) (d : Fin 8) : Prop where
  dfence : s.regs.dfence = true
  sites : ∀ n, (s.site ⟨d, n⟩).live.state.out
  unnamed : ∀ l ∈ s.launches, l.names d = false

/-- Between two states errors have been contained: no tile starts to run, no die loses its fence, of the ports at most the requests have
moved, the package does not become viral, sites are at most fenced, and the last steps of a die's fence are still to come or done. -/
structure State.Contained (s t : State) : Prop where
  still : ∀ i, (s.tile i).Still → (t.tile i).Still
  fenced : ∀ d, (t.die d).fenced = (s.die d).fenced
  ports : ∀ p, { t.port p with pending := (s.port p).pending } = s.port p
  viral : t.regs.viral = s.regs.viral
  dfence : s.regs.dfence = true → t.regs.dfence = true
  sites : ∀ i, (s.site i).live.state.Fences (t.site i).live.state
  launches : ∀ l ∈ t.launches, ∃ x ∈ s.launches, l.record = x.record
  fencing : ∀ d, (s.die d).fencing = true → (t.die d).fencing = true ∨ t.FenceTold d

theorem SiteState.Fences.refl (a : SiteState) : a.Fences a := .inl rfl

theorem SiteState.Fences.trans {a b c : SiteState} (h : a.Fences b) (g : b.Fences c) : a.Fences c := by
  rcases h with rfl | ⟨ha, rfl⟩
  · exact g
  · rcases g with rfl | ⟨-, rfl⟩ <;> exact .inr ⟨ha, rfl⟩

theorem SiteState.Fences.out {a b : SiteState} (h : a.Fences b) (ha : a.out) : b.out := by
  rcases h with rfl | ⟨-, rfl⟩
  · exact ha
  · exact ⟨by decide, by decide⟩

theorem Launch.names_of_record {l x : Launch} (h : l.record = x.record) (d : Fin 8) : l.names d = x.names d := by
  simp only [Launch.names, Launch.f, h]

section
variable {s t u : State}

theorem State.Contained.refl (s : State) : s.Contained s where
  still _ h := h
  fenced _ := rfl
  ports _ := rfl
  viral := rfl
  dfence h := h
  sites _ := .refl _
  launches l hl := ⟨l, hl, rfl⟩
  fencing _ h := .inl h

theorem State.Contained.told (h : s.Contained t) {d : Fin 8} (hs : s.FenceTold d) : t.FenceTold d where
  dfence := h.dfence hs.dfence
  sites n := (h.sites _).out (hs.sites n)
  unnamed l hl := by
    obtain ⟨x, hx, hr⟩ := h.launches l hl
    rw [Launch.names_of_record hr]
    exact hs.unnamed x hx

theorem State.Contained.trans (h : s.Contained t) (g : t.Contained u) : s.Contained u where
  still i hi := g.still i (h.still i hi)
  fenced d := (g.fenced d).trans (h.fenced d)
  ports p := by
    have ha := h.ports p
    rw [← g.ports p] at ha
    exact ha
  viral := g.viral.trans h.viral
  dfence hd := g.dfence (h.dfence hd)
  sites i := (h.sites i).trans (g.sites i)
  launches l hl := by
    obtain ⟨y, hy, hly⟩ := g.launches l hl
    obtain ⟨x, hx, hyx⟩ := h.launches y hy
    exact ⟨x, hx, hly.trans hyx⟩
  fencing d hd := (h.fencing d hd).elim (g.fencing d) fun ht => .inr (g.told ht)

/-- A change that leaves every part which containment speaks of but the tiles. -/
theorem contained_of_parts (hstill : ∀ i, (s.tile i).Still → (t.tile i).Still) (hd : t.dies = s.dies) (hp : t.ports = s.ports)
    (hv : t.regs.viral = s.regs.viral) (hf : s.regs.dfence = true → t.regs.dfence = true) (hs : t.sites = s.sites)
    (hl : ∀ l ∈ t.launches, ∃ x ∈ s.launches, l.record = x.record) : s.Contained t where
  still := hstill
  fenced d := by simp only [State.die, hd]
  ports p := by simp only [State.port, hp]
  viral := hv
  dfence := hf
  sites i := by simp only [State.site, hs]; exact .refl _
  launches := hl
  fencing d h := .inl (by simpa only [State.die, hd] using h)

/-- A change of registers other than these. -/
theorem contained_of_regs (ht : t.tiles = s.tiles) (hd : t.dies = s.dies) (hp : t.ports = s.ports) (hv : t.regs.viral = s.regs.viral)
    (hf : t.regs.dfence = s.regs.dfence) (hs : t.sites = s.sites) (hl : t.launches = s.launches) : s.Contained t :=
  contained_of_parts (fun i h => by simpa only [State.tile, ht] using h) hd hp hv (hf ▸ id) hs fun l h => ⟨l, hl ▸ h, rfl⟩

/-- A change of none of these parts. -/
theorem contained_of_frame (ht : t.tiles = s.tiles) (hd : t.dies = s.dies) (hp : t.ports = s.ports) (hr : t.regs = s.regs)
    (hs : t.sites = s.sites) (hl : t.launches = s.launches) : s.Contained t :=
  contained_of_regs ht hd hp (by rw [hr]) (by rw [hr]) hs hl

theorem MemFrame.contained (h : MemFrame s t) (hf : s.regs.dfence = true → t.regs.dfence = true) : s.Contained t where
  still i hi := by rwa [h.tile i]
  fenced d := by rw [← h.dies d]
  ports p := by simp only [State.port, h.ports]
  viral := h.viral
  dfence := hf
  sites i := by simp only [State.site, h.sites]; exact .refl _
  launches l hl := ⟨l, h.launches ▸ hl, rfl⟩
  fencing d hd := .inl (by rw [← h.dies d] at hd; exact hd)

theorem contained_foldl {α : Type} {g : State → α → State} (h : ∀ (s : State) (x : α), s.Contained (g s x)) :
    ∀ (xs : List α) (s : State), s.Contained (xs.foldl g s)
  | [], s => .refl s
  | x :: xs, s => (h s x).trans (contained_foldl h xs _)

theorem contained_ite {c : Prop} [Decidable c] (h : s.Contained t) (g : s.Contained u) : s.Contained (if c then t else u) := by
  split
  · exact h
  · exact g

theorem contained_setTile (i : TileId) {y : Tile} (h : (s.tile i).Still → y.Still) : s.Contained (s.setTile i y) :=
  contained_of_parts (fun j hj => by
    by_cases he : j = i
    · subst he; rw [tile_setTile]; exact h hj
    · rwa [tile_setTile_ne s y he]) rfl rfl rfl id rfl fun l hl => ⟨l, hl, rfl⟩

theorem contained_setSite (i : TileId) {x : Site} (h : (s.site i).live.state.Fences x.live.state) : s.Contained (s.setSite i x) where
  still _ hj := hj
  fenced _ := rfl
  ports _ := rfl
  viral := rfl
  dfence hd := hd
  sites j := by
    by_cases he : j = i
    · subst he; rw [site_setSite]; exact h
    · rw [site_setSite_ne s x he]; exact .refl _
  launches l hl := ⟨l, hl, rfl⟩
  fencing _ hd := .inl hd

theorem contained_setDie (d : Fin 8) {x : Die} (hf : x.fenced = (s.die d).fenced) (hg : x.fencing = (s.die d).fencing) :
    s.Contained (s.setDie d x) where
  still _ hj := hj
  fenced e := by
    by_cases he : e = d
    · subst he; rw [die_setDie]; exact hf
    · rw [die_setDie_ne s x he]
  ports _ := rfl
  viral := rfl
  dfence hd := hd
  sites _ := .refl _
  launches l hl := ⟨l, hl, rfl⟩
  fencing e hd := by
    by_cases he : e = d
    · subst he; rw [die_setDie]; exact .inl (hg.trans hd)
    · rw [die_setDie_ne s x he]; exact .inl hd

/-- A launch of the state replaced by one with its record. -/
theorem contained_setLaunch {h : BitVec 16} {l l' : Launch} (hl : s.launch? h = some l) (hr : l'.record = l.record) :
    s.Contained (s.setLaunch l') :=
  contained_of_parts (fun _ hi => hi) rfl rfl rfl id rfl fun y hy => by
    obtain ⟨x, hx, rfl⟩ := List.mem_map.mp hy
    split
    · exact ⟨l, List.mem_of_find?_eq_some hl, hr⟩
    · exact ⟨x, hx, rfl⟩

theorem contained_dropLaunch (s : State) (h : BitVec 16) : s.Contained (s.dropLaunch h) :=
  contained_of_parts (fun _ hi => hi) rfl rfl rfl id rfl fun l hl => ⟨l, (List.mem_filter.mp hl).1, rfl⟩

/-! ### Records, commands and stores -/

theorem contained_draw (s : State) : s.Contained { s with draws := s.draws + 1 } := contained_of_frame rfl rfl rfl rfl rfl rfl

theorem contained_logError (s : State) (cls src unit : Nat) (detail : List Byte) : s.Contained (s.logError cls src unit detail) := by
  unfold State.logError
  exact contained_of_regs rfl rfl rfl rfl rfl rfl rfl

theorem contained_logPlain (s : State) (cls src unit : Nat) : s.Contained (s.logPlain cls src unit) := by
  unfold State.logPlain
  exact (contained_draw s).trans (contained_logError _ cls src unit _)

theorem contained_captureRecord (s : State) (h : BitVec 16) (d : Fin 8) (cls : Nat) (rec : List Byte) :
    s.Contained (s.captureRecord h d cls rec) := by
  have hlog := contained_logError s cls 0 d.val rec
  unfold State.captureRecord
  generalize s.logError cls 0 d.val rec = u at hlog
  dsimp only
  split
  · exact hlog
  · rename_i l hl
    exact hlog.trans (contained_setLaunch hl rfl)

theorem contained_sameCycle (s : State) (i : TileId) : s.Contained (s.sameCycle i) := by
  unfold State.sameCycle
  dsimp only
  split
  · split
    · split
      · split
        · exact (contained_draw s).trans (contained_captureRecord ..)
        · exact contained_draw s
      · exact .refl s
    · exact .refl s
  · exact .refl s

theorem contained_setFstat (s : State) (b : Nat) : s.Contained (s.setFstat b) :=
  (memFrame_setFstat s b).contained fun h => by rw [setFstat_dfence, h, Bool.true_or]

theorem contained_feWrite (s : State) (c : BitVec 16) (va : Nat) (bs : List Byte) : s.Contained (s.feWrite c va bs).1 :=
  (memFrame_feWrite s c va bs).contained (by rw [feWrite_dfence]; exact id)

theorem contained_notify (s : State) (q : Fin 16) (cmd : List Byte) : s.Contained (s.notify q cmd) := by
  refine (memFrame_notify s q cmd).contained fun h => ?_
  unfold State.notify
  dsimp only
  split <;> split <;> simp [State.feStore, h]

theorem contained_completeRunning (s : State) (q : Fin 16) (n : Nat) : s.Contained (s.completeRunning q n) := by
  unfold State.completeRunning
  dsimp only
  split
  · exact .refl s
  · exact .trans (t := s.setQueue q _) (contained_of_frame rfl rfl rfl rfl rfl rfl) (contained_notify ..)

theorem contained_completeFetched (s : State) (q : Fin 16) (cmd : List Byte) : s.Contained (s.completeFetched q cmd) :=
  .trans (contained_ite (c := (s.queue q).fetched.isSome = true) (t := s.setQueue q (s.queue q).advance)
    (contained_of_frame rfl rfl rfl rfl rfl rfl) (.refl s)) (contained_notify ..)

theorem contained_endPreempts (s : State) (l : Launch) (code : Nat) : s.Contained (s.endPreempts l code) :=
  contained_foldl (fun s _ => (contained_feWrite s ..).trans (contained_completeRunning ..)) _ s

theorem contained_leaveDies (s : State) (h : BitVec 16) : s.Contained (s.leaveDies h) := by
  unfold State.leaveDies
  exact contained_foldl (fun s d => by exact contained_setDie d rfl rfl) _ s

theorem contained_writeRecords (s : State) (l : Launch) : s.Contained (s.writeRecords l) :=
  contained_ite (.refl s) ((contained_foldl (fun s _ => contained_feWrite s ..) _ s).trans (contained_feWrite ..))

theorem contained_storeCword (s : State) (l : Launch) (n : Nat) : s.Contained (s.storeCword l n) := by
  refine (memFrame_storeCword s l n).contained fun h => ?_
  unfold State.storeCword State.storeWord
  split
  · exact h
  · exact (feWriteGo_dfence ..).trans h

/-! ### Fences of dies and the end of launches -/

theorem contained_setVerify (s : State) (i : TileId) (on : Bool) : s.Contained (s.setVerify i on) := by
  unfold State.setVerify
  exact contained_setSite i (.refl _)

theorem contained_writeSiteNow (s : State) (i : TileId) : s.Contained (s.writeSiteNow i) := by
  unfold State.writeSiteNow
  exact contained_setSite i (.refl _)

/-- A site fenced in its record and written at once. -/
theorem contained_fenceRecord (i : TileId) {c : BitVec 8} (hr : (s.site i).live.state ≠ .retired) :
    s.Contained (((s.mapSite i fun r => { r.setState .fenced with fcause := c }).setVerify i false).writeSiteNow i) :=
  .trans (t := s.mapSite i fun r => { r.setState .fenced with fcause := c })
    (contained_setSite i (.inr ⟨hr, SiteRec.setState_state (s.site i).live .fenced⟩))
    ((contained_setVerify _ i false).trans (contained_writeSiteNow _ i))

/-- One turn of `State.fenceSites`. -/
def State.fenceOut (s : State) (i : TileId) (c : BitVec 8) : State :=
  if (s.site i).live.state = .enabled ∨ (s.site i).live.state = .spare then
    (((s.mapSite i fun r => { r.setState .fenced with fcause := c }).setVerify i false).writeSiteNow i).setFstat 3
  else s.setVerify i false

theorem fenceSites_eq (s : State) (d : Fin 8) : s.fenceSites d =
    (tilesOf d).foldl (fun s i => s.fenceOut i (Config.hangCause s.draws)) { s with draws := s.draws + 1 } := rfl

end

end Sys2Proof.Machine
end

section
namespace Sys2Proof.Machine

/-! ## The fence of a die, step by step (R321) -/

section
variable {s t u : State}

theorem contained_mapZone (s : State) (d : Fin 8) (z : Fin 4) (g : Zone → Zone) : s.Contained (s.mapZone d z g) :=
  contained_setDie d rfl rfl

theorem contained_noteAbove (s : State) (i : TileId) : s.Contained (s.noteAbove i) := contained_ite (contained_mapZone ..) (.refl s)

theorem fencedRecord_state (s : State) (i : TileId) (c : BitVec 8) :
    ((((s.mapSite i fun r => { r.setState .fenced with fcause := c }).setVerify i false).writeSiteNow i).site i).live.state = .fenced := by
  simp only [State.writeSiteNow, State.setVerify, State.mapSite, site_setSite]
  exact SiteRec.setState_state (s.site i).live .fenced

theorem SiteState.out_fenced : SiteState.fenced.out := ⟨by decide, by decide⟩

theorem contained_fenceOut (s : State) (i : TileId) (c : BitVec 8) : s.Contained (s.fenceOut i c) := by
  unfold State.fenceOut
  split
  · rename_i h
    have hr : (s.site i).live.state ≠ .retired := fun he => by simp [he] at h
    exact (contained_fenceRecord i hr).trans (contained_setFstat _ 3)
  · exact contained_setVerify s i false

/-- A site fenced with its die is neither enabled nor spare. -/
theorem fenceOut_out (s : State) (i : TileId) (c : BitVec 8) : ((s.fenceOut i c).site i).live.state.out := by
  unfold State.fenceOut
  split
  · refine ((contained_setFstat _ 3).sites i).out ?_
    rw [fencedRecord_state]
    exact SiteState.out_fenced
  · rename_i h
    simp only [State.setVerify, site_setSite]
    exact not_or.mp h

/-- What one turn of a fold makes of its item, and the later ones keep, holds after the fold. -/
theorem foldl_made {α : Type} {P : State → α → Prop} {g : State → α → State} (hk : ∀ s i j, P s i → P (g s j) i)
    (hm : ∀ s i, P (g s i) i) : ∀ (xs : List α) (s : State) {i : α}, P s i ∨ i ∈ xs → P (xs.foldl g s) i
  | [], _, _, h => h.elim id nofun
  | x :: xs, s, i, h => foldl_made hk hm xs (g s x) <| by
    rcases h with h | h
    · exact .inl (hk s i x h)
    · rcases List.mem_cons.mp h with rfl | h
      · exact .inl (hm s i)
      · exact .inr h

theorem contained_fenceSites (s : State) (d : Fin 8) : s.Contained (s.fenceSites d) := by
  rw [fenceSites_eq]
  exact (contained_draw s).trans (contained_foldl (fun s i => contained_fenceOut s i _) _ _)

theorem fenceSites_out (s : State) (d : Fin 8) (n : Fin 80) : ((s.fenceSites d).site ⟨d, n⟩).live.state.out := by
  rw [fenceSites_eq]
  exact foldl_made (P := fun s i => (s.site i).live.state.out) (fun s i j h => ((contained_fenceOut s j _).sites i).out h)
    (fun s i => fenceOut_out s i _) _ _ (.inr (List.mem_map_of_mem (List.mem_finRange n)))

/-- A change of one die's FENCING bit that ends with the fence told is a containment. -/
theorem contained_of_told (d : Fin 8) {x : Die} (hf : x.fenced = (s.die d).fenced) (h : (s.setDie d x).Contained t) (ht : t.FenceTold d) :
    s.Contained t where
  still := h.still
  fenced e := by
    rw [h.fenced e]
    by_cases he : e = d
    · subst he; rw [die_setDie, hf]
    · rw [die_setDie_ne s x he]
  ports := h.ports
  viral := h.viral
  dfence := h.dfence
  sites := h.sites
  launches := h.launches
  fencing e hg := by
    by_cases he : e = d
    · exact .inr (he ▸ ht)
    · exact h.fencing e (by rwa [die_setDie_ne s x he])

/-- One turn of `State.settleFences`. -/
def State.settleFence (s : State) (d : Fin 8) : State :=
  if (s.die d).fencing && !(s.launches.any fun l => l.names d) then
    ((s.setDie d { s.die d with fencing := false }).setFstat 1).fenceSites d
  else s

theorem settleFences_eq (s : State) : s.settleFences = (List.finRange 8).foldl State.settleFence s := rfl

theorem not_names {d : Fin 8} (h : (s.launches.any fun l => l.names d) = false) : ∀ l ∈ s.launches, l.names d = false := by
  simpa using h

/-- The last steps of a die's fence. -/
theorem told_fenceSites (d : Fin 8) (h : (s.launches.any fun l => l.names d) = false) : ((s.setFstat 1).fenceSites d).FenceTold d where
  dfence := (contained_fenceSites (s.setFstat 1) d).dfence (by rw [setFstat_dfence]; simp)
  sites := fenceSites_out _ d
  unnamed l hl := by
    obtain ⟨x, hx, hr⟩ := ((contained_setFstat s 1).trans (contained_fenceSites _ d)).launches l hl
    rw [Launch.names_of_record hr]
    exact not_names h x hx

theorem settleFence_told {d : Fin 8} (hf : (s.die d).fencing = true) (h : (s.launches.any fun l => l.names d) = false) :
    (s.settleFence d).FenceTold d := by
  unfold State.settleFence
  rw [if_pos (by rw [hf, h]; rfl)]
  exact told_fenceSites (s := s.setDie d { s.die d with fencing := false }) d h

theorem contained_settleFence (s : State) (d : Fin 8) : s.Contained (s.settleFence d) := by
  by_cases h : ((s.die d).fencing && !(s.launches.any fun l => l.names d)) = true
  · have ht : (s.settleFence d).FenceTold d := by
      simp only [Bool.and_eq_true, Bool.not_eq_true'] at h
      exact settleFence_told h.1 h.2
    refine contained_of_told (x := { s.die d with fencing := false }) d rfl ?_ ht
    unfold State.settleFence
    rw [if_pos h]
    exact (contained_setFstat _ 1).trans (contained_fenceSites _ d)
  · unfold State.settleFence
    rw [if_neg h]
    exact .refl s

theorem contained_settleFences (s : State) : s.Contained s.settleFences := contained_foldl contained_settleFence _ s

theorem foldl_launches {α : Type} {g : State → α → State} (h : ∀ s x, (g s x).launches = s.launches) :
    ∀ (xs : List α) (s : State), (xs.foldl g s).launches = s.launches
  | [], _ => rfl
  | x :: xs, s => (foldl_launches h xs (g s x)).trans (h s x)

theorem fenceOut_launches (s : State) (i : TileId) (c : BitVec 8) : (s.fenceOut i c).launches = s.launches := by
  unfold State.fenceOut
  split
  · exact (memFrame_setFstat _ 3).launches
  · rfl

theorem fenceSites_launches (s : State) (d : Fin 8) : (s.fenceSites d).launches = s.launches := by
  rw [fenceSites_eq]
  exact foldl_launches (fun s i => fenceOut_launches s i _) _ _

theorem settleFence_launches (s : State) (d : Fin 8) : (s.settleFence d).launches = s.launches := by
  unfold State.settleFence
  split
  · exact (fenceSites_launches _ d).trans (memFrame_setFstat _ 1).launches
  · rfl

/-- A die's fence with no launch left that names the die is told. -/
theorem settleFences_told {d : Fin 8} (hf : (s.die d).fencing = true) (h : (s.launches.any fun l => l.names d) = false) :
    s.settleFences.FenceTold d := by
  have hgo : ∀ (xs : List (Fin 8)) (s : State), (s.die d).fencing = true → (s.launches.any fun l => l.names d) = false → d ∈ xs →
      (xs.foldl State.settleFence s).FenceTold d := by
    intro xs
    induction xs with
    | nil => exact fun _ _ _ hd => absurd hd List.not_mem_nil
    | cons x xs ih =>
      intro s hf h hd
      have hrest := contained_foldl contained_settleFence xs (s.settleFence x)
      rcases List.mem_cons.mp hd with rfl | hd
      · exact hrest.told (settleFence_told hf h)
      · rcases (contained_settleFence s x).fencing d hf with hg | hg
        · exact ih _ hg (by rw [settleFence_launches]; exact h) hd
        · exact hrest.told hg
  exact hgo _ s hf h (List.mem_finRange d)

theorem settleFences_launches (s : State) : s.settleFences.launches = s.launches := foldl_launches settleFence_launches _ s

/-- After the last steps are tried, a die's fence waits for a launch that names the die, or has been told. -/
theorem settleFences_settled {d : Fin 8} (h : (s.die d).fencing = true ∨ s.FenceTold d) :
    ((s.settleFences.launches.any fun l => l.names d) = true → (s.settleFences.die d).fencing = true) ∧
      ((s.settleFences.launches.any fun l => l.names d) = false → s.settleFences.FenceTold d) := by
  have hc := contained_settleFences s
  have hl := settleFences_launches s
  have hlast := settleFences_told (s := s) (d := d)
  generalize s.settleFences = u at hc hl hlast ⊢
  refine ⟨fun hn => ?_, fun hn => ?_⟩
  · have hd : (u.die d).fencing = true ∨ u.FenceTold d := by
      rcases h with hf | ht
      · exact hc.fencing d hf
      · exact .inr (hc.told ht)
    obtain ⟨l, hm, hn⟩ := List.any_eq_true.mp hn
    rcases hd with hg | hg
    · exact hg
    · rw [hg.unnamed l hm] at hn
      exact nomatch hn
  · rcases h with hf | ht
    · exact hlast hf (by rw [← hl]; exact hn)
    · exact hc.told ht

/-! ### Tiles that stop and launches that end -/

theorem contained_stopTile (s : State) (i : TileId) : s.Contained (s.stopTile i) :=
  .trans (t := { s with crew := s.crew.filter fun a => a.src != i }) (contained_of_frame rfl rfl rfl rfl rfl rfl)
    (contained_setTile i fun _ => .inr rfl)

theorem stopTile_still (s : State) (i : TileId) : ((s.stopTile i).tile i).Still := by
  unfold State.stopTile
  rw [tile_setTile]
  exact .inr rfl

theorem contained_stopLaunchTiles (s : State) (h : BitVec 16) : s.Contained (s.stopLaunchTiles h) := by
  have hask (s : State) (i : TileId) : s.Contained (s.setTile i { s.tile i with stopReq := true }) := contained_setTile i fun h => h
  exact contained_foldl (fun s i => contained_ite (contained_ite ((contained_sameCycle s i).trans (contained_stopTile _ i)) (hask s i))
    (.refl s)) _ s

theorem contained_setTile_freed (s : State) (i : TileId) : s.Contained (s.setTile i (s.tile i).freed) := contained_setTile i fun _ => .inl rfl

theorem contained_tellEnd (s : State) (l : Launch) : s.Contained (s.tellEnd l) := by
  have h2 := contained_ite (c := l.phase = .faulted) (contained_setFstat s 2) (.refl s)
  exact (h2.trans (contained_ite (c := l.tfence = true) (contained_setFstat _ 3) (.refl _))).trans
    (contained_foldl (fun s (k : Fin 16 × Nat) => contained_completeRunning s k.1 k.2) _ _)

theorem contained_reap (s : State) (h : BitVec 16) : s.Contained (s.reap h) := by
  unfold State.reap
  split
  · rename_i l _
    refine contained_ite ?_ (.refl s)
    refine .trans ((contained_writeRecords s l).trans (contained_storeCword _ l _)) (.trans
      (contained_foldl (fun s i => contained_ite (contained_setTile_freed s i) (.refl s)) allTiles _)
      ((contained_dropLaunch _ h).trans ((contained_tellEnd _ l).trans (contained_settleFences _))))
  · exact .refl s

theorem contained_settleStopped (s : State) (i : TileId) : s.Contained (s.settleStopped i) := by
  refine contained_ite ?_ (.refl s)
  split
  · exact contained_ite (contained_reap s _) (contained_setTile_freed s i)
  · exact contained_setTile_freed s i

theorem contained_faultOne {h : BitVec 16} {l : Launch} (hl : s.launch? h = some l) : s.Contained (s.faultOne l) :=
  .trans (t := s.setLaunch { l with phase := .faulted }) (contained_setLaunch hl rfl) ((contained_stopLaunchTiles _ _).trans
    ((contained_endPreempts _ l 3).trans ((contained_leaveDies _ _).trans (contained_reap _ _))))

theorem contained_faultChain : ∀ (fuel : Nat) (s : State) (h : BitVec 16), s.Contained (s.faultChain fuel h)
  | 0, s, _ => .refl s
  | fuel + 1, s, h => by
    unfold State.faultChain
    split
    · exact .refl s
    · rename_i hl
      exact contained_ite ((contained_faultOne hl).trans
        (contained_foldl (fun s (d : Launch) => contained_faultChain fuel s d.handle) _ _)) (.refl s)

theorem contained_faultLaunch (s : State) (h : BitVec 16) : s.Contained (s.faultLaunch h) := contained_faultChain _ s h

theorem contained_faultShapeless (s : State) (d : Fin 8) : s.Contained (s.faultShapeless d) :=
  contained_foldl (fun s (l : Launch) => contained_ite (c := s.hasRect d l.shape = true) (.refl s) (contained_faultLaunch s l.handle)) _ s

theorem contained_tellFence (s : State) (i : TileId) : s.Contained (s.tellFence i) := by
  unfold State.tellFence
  dsimp only
  split
  · rename_i hl
    exact contained_ite (contained_setLaunch hl rfl) (contained_setFstat s 3)
  · exact contained_setFstat s 3

/-- A site fenced in the record, unless it is retired (R320). -/
theorem contained_fenceSite (s : State) (i : TileId) (cause : Nat) : s.Contained (s.fenceSite i cause) ∧
    ((s.site i).live.state ≠ .retired → ((s.fenceSite i cause).site i).live.state = .fenced) := by
  unfold State.fenceSite
  split
  · exact ⟨.refl s, fun h => absurd ‹_› h⟩
  · have hr : ((s.noteAbove i).site i).live.state ≠ .retired := by
      rw [noteAbove_eq]
      assumption
    have hrec := contained_fenceRecord (c := BitVec.ofNat 8 cause) i hr
    have hstate := fencedRecord_state (s.noteAbove i) i (BitVec.ofNat 8 cause)
    dsimp only
    generalize State.writeSiteNow _ i = u at hrec hstate ⊢
    have hrest := (contained_tellFence u i).trans (contained_faultShapeless _ i.die)
    refine ⟨(contained_noteAbove s i).trans (hrec.trans hrest), fun _ => ?_⟩
    rcases hrest.sites i with he | ⟨-, he⟩
    · rw [he, hstate]
    · exact he

/-- A trap of a Tile class whose site is only fenced: 0x0F. -/
theorem contained_stopWith_parity (s : State) (i : TileId) (kind dfpc dfcause : Nat) (injected : Bool) :
    s.Contained (s.stopWith i kind 0x0F dfpc dfcause false injected) := by
  simp only [State.stopWith, show classTile 0x0F = true from rfl, Bool.true_or, if_true, Bool.false_eq_true, if_false,
    show ¬ ((0x0F : Nat) = 0x0E) by decide]
  exact (contained_captureRecord s ..).trans ((contained_stopTile _ i).trans ((contained_faultLaunch _ _).trans
    ((contained_settleStopped _ i).trans (contained_fenceSite _ i 0x0F).1)))

theorem contained_takeTrap_parity (s : State) (i : TileId) (d : Nat) (m : Byte) (pc : BitVec 16) (n : Nat) :
    s.Contained (s.takeTrap i 0x0F d m pc n) := by
  simp only [State.takeTrap, show ¬ ((0x0F : Nat) = 0x0A) by decide, show routeH 0x0F = false from rfl,
    show classTile 0x0F = true from rfl, if_false, if_true, Bool.false_eq_true, Bool.false_and,
    show ((0x0F : Nat) == 0x0A) = false from rfl]
  split
  · exact contained_stopWith_parity ..
  · refine (contained_setTile i (y := (s.tile i).enterTrap 0x0F d m pc n) id).trans ?_
    split <;> exact contained_stopWith_parity ..

/-! ### The tiles and copies of a die, and its launches -/

theorem contained_sweepFirst (s : State) (i : TileId) : s.Contained (s.sweepFirst i) := by
  unfold State.sweepFirst
  dsimp only
  split
  · refine contained_ite ?_ (contained_setTile i id)
    have hsweep : s.Contained (s.setTile i { (s.tile i).swept with asleep := false }) := contained_setTile i id
    split
    · exact hsweep.trans (contained_takeTrap_parity ..)
    · exact hsweep
  · exact contained_ite (.refl s) (contained_setTile i id)

theorem contained_fenceRecordOf (s : State) (i : TileId) : s.Contained (s.fenceRecord i) := contained_ite (.refl s) (contained_captureRecord ..)

theorem contained_stopTiles (s : State) (xs : List TileId) : s.Contained (s.stopTiles xs) :=
  contained_foldl (fun s i => contained_ite (.refl s) (contained_stopTile s i)) xs s

theorem stopTiles_still (s : State) {xs : List TileId} {i : TileId} (h : i ∈ xs) : ((s.stopTiles xs).tile i).Still := by
  refine foldl_made (P := fun s i => (s.tile i).Still) (fun s i j => (contained_ite (.refl s) (contained_stopTile s j)).still i)
    (fun s i => ?_) xs s (.inr h)
  split
  · assumption
  · exact stopTile_still s i

theorem contained_faultCode (s : State) (a : Accessor) (kind : Nat) (write : Bool) (addr : Nat) : s.Contained (s.faultCode a kind write addr) :=
  contained_ite (contained_of_regs rfl rfl rfl rfl rfl rfl rfl) ((memFrame_pushFault s _).contained (by rw [pushFault_dfence]; exact id))

theorem contained_streamRecord (s : State) (i : TileId) (c : CopyCmd) (e : CopyFailCause) : s.Contained (s.streamRecord i c e) :=
  contained_ite ((contained_draw s).trans (contained_faultCode ..)) (.refl s)

theorem contained_winsEnded (s : State) (rs : List PeerRequest) : s.Contained (s.winsEnded rs) := by
  refine contained_foldl (fun s r => ?_) rs s
  unfold State.winEnded
  dsimp only
  split <;> exact contained_of_frame rfl rfl rfl rfl rfl rfl

theorem contained_dropRequests (s : State) (pick : PeerRequest → Bool) : s.Contained (s.dropRequests pick) := by
  refine .trans (t := { s with ports := s.ports.map fun (x : Port) => { x with pending := x.pending.filter fun r => !pick r } }) ?_
    (contained_winsEnded _ _)
  exact
    { still := fun _ h => h
      fenced := fun _ => rfl
      ports := fun p => by simp [State.port]
      viral := rfl
      dfence := id
      sites := fun _ => .refl _
      launches := fun l hl => ⟨l, hl, rfl⟩
      fencing := fun _ h => .inl h }

theorem contained_copyFails (s : State) (i : TileId) (id : Nat) (e : CopyFailCause) : s.Contained (s.copyFails i id e) := by
  unfold State.copyFails
  dsimp only
  split
  · exact (contained_dropRequests s _).trans ((contained_streamRecord _ i _ e).trans (contained_setTile i fun h => h))
  · exact (contained_dropRequests s _).trans (contained_setTile i fun h => h)

theorem contained_eachCopy {pick : TileId → CopyCmd → Bool} {f : State → TileId → CopyCmd → State}
    (h : ∀ (s : State) i c, s.Contained (f s i c))
    (s : State) :
    s.Contained (s.eachCopy pick f) :=
  contained_foldl (fun _ i => contained_foldl (fun s c => h s i c) _ _) _ s

theorem contained_fenceLaunch (s : State) (l : Launch) : s.Contained (s.fenceLaunch l) := by
  refine contained_ite ?_ (contained_faultLaunch s _)
  have hdrop := (contained_dropLaunch s l.handle).trans (contained_storeCword _ l faultBit)
  dsimp only
  split
  · exact hdrop.trans (contained_completeFetched ..)
  · exact hdrop

end

end Sys2Proof.Machine
end

section
namespace Sys2Proof.Machine

/-! ## Deadlines, hangs and droop (R318, R319, R416) -/

section
variable {s : State} {f : TileId}

/-- A tile that is told not to stop and holds no bundle stands as it is at a boundary. -/
theorem boundary_id_of_none (hb : (s.tile f).inflight = none) (hg : (s.tile f).stopReq = false) : s.boundary f = s := by
  simp [State.boundary, hb, hg]

/-- A trap taken with a handler leaves no bundle, and so nothing else is due at the boundary after it. -/
theorem takeTrap_boundary_toHandler {l : Launch} {c d : Nat} {m : Byte} {pc : BitVec 16} {n : Nat}
    (hl : s.launch? (s.tile f).pt.handle = some l) (hh : l.hnd = true) (ht : (s.tile f).k.trapped = false)
    (hs : (s.tile f).retiring = false) (hg : (s.tile f).stopReq = false) (hr : routeH c = true) (hc : c ≠ 0x0A) :
    (s.takeTrap f c d m pc n).boundary f = s.setTile f (((s.tile f).enterTrap c d m pc n).toHandler l.handler) := by
  rw [takeTrap_handler ht hl hh hs hr hc]
  exact boundary_id_of_none (by rw [tile_setTile]; rfl) (by rw [tile_setTile]; exact hg)

/-- A tile as its point's deadline is taken in a cycle. -/
def Tile.late (x : Tile) (c : Nat) : Tile := { x with pt := { x.pt with deadlineTaken := true } }.atCycle c

/-- What the deadline's trap makes of a tile with a handler (R308, R318). -/
def Tile.lateTrapped (x : Tile) (c : Nat) (pc : BitVec 16) (n : Nat) (handler : BitVec 16) : Tile :=
  ((x.late c).enterTrap 0x0D 0 0 pc n).toHandler handler

theorem lateTrapped_taken {x : Tile} {same : Bool} (ha : x.asleep = false) (hs : (x.inflight.isSome || x.sameNo) = same) (c : Nat)
    (pc : BitVec 16) (n : Nat) (handler : BitVec 16) : (x.lateTrapped c pc n handler).pc = handler ∧
      (x.lateTrapped c pc n handler).inflight = none ∧ (x.lateTrapped c pc n handler).loops = x.loops ∧
      (x.lateTrapped c pc n handler).data = ({ x with
        pt := { x.pt with deadlineTaken := true }, resume := 0, woken := false, sameNo := same,
        k := { x.k with tpc := pc, tcause := 0x0D, tmask := 0, sr := BitVec.ofNat 3 n, tsb := x.pendingMask, trapped := true } } :
          Tile).data := by
  refine ⟨rfl, rfl, rfl, ?_⟩
  subst hs
  unfold Tile.data
  dsimp only
  rw [ha]
  rfl

/-- The deadline's trap is taken once in each point. -/
theorem deadlineDue_of {l : Launch} (hl : s.launch? (s.tile f).pt.handle = some l)
    (hr : (s.tile f).act = .point ∨ (s.tile f).act = .prologue) (hp : l.pdeadline ≠ 0) (ht : (s.tile f).pt.deadlineTaken = false)
    (hd : (s.tile f).pt.fireTime + l.pdeadline ≤ s.time) : s.deadlineDue (s.tile f) = true := by
  simp [State.deadlineDue, hl, hr, hp, ht, hd]

theorem pointDeadline_traps {l : Launch} {c n : Nat} {pc : BitVec 16} (hl : s.launch? (s.tile f).pt.handle = some l)
    (hk : (s.tile f).k.trapped = false) (hh : l.hnd = true) (hs : (s.tile f).retiring = false) (hg : (s.tile f).stopReq = false) :
    ((({ s with draws := s.draws + 1 }.setTile f ((s.tile f).late c)).takeTrap f 0x0D 0 0 pc n).boundary f) =
      { s with draws := s.draws + 1 }.setTile f ((s.tile f).lateTrapped c pc n l.handler) := by
  have ht : ({ s with draws := s.draws + 1 }.setTile f ((s.tile f).late c)).tile f = (s.tile f).late c := tile_setTile ..
  rw [takeTrap_boundary_toHandler (l := l) (by rw [ht]; exact hl) hh (by rw [ht]; exact hk) (by rw [ht]; exact hs) (by rw [ht]; exact hg)
    rfl (by decide), ht, setTile_setTile]
  rfl

/-- A fenced tile that was running has stopped, and its site is fenced unless it was retired (R320). -/
theorem fenceTile_fences (s : State) (f : TileId) (cause : Nat) (h : ¬ ((s.tile f).act = .idle ∨ (s.tile f).act = .stopped)) :
    HasStopped (s.tile f) ((s.fenceTile f cause).tile f) ∧
      ((s.site f).live.state ≠ .retired → ((s.fenceTile f cause).site f).live.state = .fenced) := by
  simp only [State.fenceTile, if_neg h]
  generalize trapRecord _ _ _ _ _ _ _ = r
  have htile : (s.captureRecord (s.tile f).pt.handle f.die 2 r).tile f = s.tile f := by rw [State.tile, captureRecord_tiles]; rfl
  have hc := contained_captureRecord s (s.tile f).pt.handle f.die 2 r
  generalize s.captureRecord (s.tile f).pt.handle f.die 2 r = u at htile hc ⊢
  have hrest : (s.tile f).AtRest (s.tile f).k ((u.stopTile f).tile f) := by
    rw [State.stopTile, tile_setTile, htile]
    exact atRest_stopped ..
  constructor
  · exact (((rests_faultLaunch _ _).trans (rests_settleStopped _ _)).trans (rests_fenceSite _ f cause) _ _ hrest).stopped
  · intro hs
    have hcont := hc.trans ((contained_stopTile u f).trans ((contained_faultLaunch _ (s.tile f).pt.handle).trans (contained_settleStopped _ f)))
    generalize State.settleStopped _ f = v at hcont ⊢
    refine (contained_fenceSite v f cause).2 ?_
    rcases hcont.sites f with he | ⟨-, he⟩ <;> rw [he]
    · exact hs
    · decide

theorem running_acts {x : Tile} (h : x.act = .point ∨ x.act = .prologue) : ¬ (x.act = .idle ∨ x.act = .stopped) := by
  rcases h with h | h <;> simp [h]

theorem tileHangTimeout_fences (hr : (s.tile f).act = .point ∨ (s.tile f).act = .prologue) (hh : s.heldByRule f (s.tile f) = false)
    (hm : (s.tile f).movedAt + 1000000 ≤ s.time) :
    ∃ t, exec (.tileHangTimeout f) s = .next t ∧ HasStopped (s.tile f) (t.tile f) ∧
      ((s.site f).live.state ≠ .retired → (t.site f).live.state = .fenced) := by
  have hex : exec (.tileHangTimeout f) s = .next (({ s with draws := s.draws + 1 }.setTile f ((s.tile f).atStop f)).fenceTile f
      (Config.hangCause s.draws).toNat) := by
    show execTileHangTimeout f s = _
    simp [execTileHangTimeout, hr, hh, oneMs, hm]
  have hf := fenceTile_fences ({ s with draws := s.draws + 1 }.setTile f ((s.tile f).atStop f)) f (Config.hangCause s.draws).toNat
    (by rw [tile_setTile]; exact running_acts hr)
  rw [tile_setTile] at hf
  exact ⟨_, hex, hf⟩

end

section
variable {s : State} {f : TileId} {l : Launch}

/-- The deadline at a boundary. -/
theorem pointDeadline_atBoundary (hdue : s.deadlineDue (s.tile f) = true) (hk : (s.tile f).k.trapped = false)
    (ha : (s.tile f).asleep = false) (hb : (s.tile f).inflight = none) (hr : (s.tile f).resume = 0) :
    ∃ c, exec (.pointDeadline f) s =
      .next ((({ s with draws := s.draws + 1 }.setTile f ((s.tile f).late c)).takeTrap f 0x0D 0 0 (s.tile f).pc 0).boundary f) := by
  have hsleep : s.sleepDue (s.tile f) = false := by simp [State.sleepDue, hb]
  refine ⟨Nat.max (s.tile f).k.cycle.toNat ((s.tile f).freeCycle (Config.waited s.draws)), ?_⟩
  have hhere : (s.tile f).deadlineHere = true := by simp [Tile.deadlineHere, hk, ha, hb, hr]
  show execPointDeadline f s = _
  unfold execPointDeadline
  dsimp only
  rw [if_pos (by rw [hdue, hhere, hsleep]; rfl)]
  split
  · simp_all only [reduceCtorEq]
  · rfl

/-- The deadline by which a hold at K is given up. -/
theorem pointDeadline_atHold {b : Inflight} (hdue : s.deadlineDue (s.tile f) = true) (hk : (s.tile f).k.trapped = false)
    (ha : (s.tile f).asleep = false) (hb : (s.tile f).inflight = some b) (hh : b.hold ≠ none) (hn : b.next = b.start)
    (hl : b.start = 0 ∨ (s.tile f).dueLate = false) (hsleep : s.sleepDue (s.tile f) = false) :
    ∃ c, exec (.pointDeadline f) s =
      .next ((({ s with draws := s.draws + 1 }.setTile f ((s.tile f).late c)).takeTrap f 0x0D 0 0 b.first b.next).boundary f) := by
  have hhere : (s.tile f).deadlineHere = true := by
    have hl : (b.start == 0 || !(s.tile f).dueLate) = true := by rcases hl with h | h <;> simp [h]
    simp only [Tile.deadlineHere, hk, ha, hb, Option.isSome_iff_ne_none.mpr hh, hn, hl, Bool.not_false, Bool.and_self, beq_self_eq_true]
  refine ⟨Nat.max (s.tile f).k.cycle.toNat ((s.tile f).freeCycle (Config.waited s.draws)) + 1, ?_⟩
  show execPointDeadline f s = _
  unfold execPointDeadline
  dsimp only
  rw [if_pos (by rw [hdue, hhere, hsleep]; rfl)]
  split
  · rename_i hb'
    obtain rfl := Option.some.inj (hb.symm.trans hb')
    rfl
  · simp_all only [reduceCtorEq]

end

/-- Settles O48: where the deadline may be taken its trap enters the handler, a hanging tile is stopped and its site fenced, and the
droop events write what the rules say. -/
theorem deadlinesHangsAndDroop : Obligations.DeadlinesHangsAndDroop := by
  unfold Obligations.DeadlinesHangsAndDroop
  intro s f
  refine ⟨fun l hl hr hp ht hd hk ha hh hs hg => ?_, tileHangTimeout_fences, fun hw => ?_, fun he => ?_, fun hd ha => ?_⟩
  · have hdue := deadlineDue_of hl hr hp ht hd
    refine ⟨fun hb h0 => ?_, fun b hb hh' hn hlate hsleep => ?_⟩
    · obtain ⟨c, hex⟩ := pointDeadline_atBoundary hdue hk ha hb h0
      rw [pointDeadline_traps hl hk hh hs hg] at hex
      refine ⟨_, hex, onlyTile_setTile .., ?_⟩
      simp only [tile_setTile]
      exact lateTrapped_taken ha (by rw [hb]; rfl) ..
    · obtain ⟨c, hex⟩ := pointDeadline_atHold hdue hk ha hb hh' hn hlate hsleep
      rw [pointDeadline_traps hl hk hh hs hg] at hex
      refine ⟨_, hex, onlyTile_setTile .., ?_⟩
      simp only [tile_setTile]
      exact lateTrapped_taken ha (by rw [hb]; rfl) ..
  · show execHalfWidthEnd f s = _
    simp only [execHalfWidthEnd, hw, if_true]
    rfl
  · show execStretchEnd f s = _
    simp only [execStretchEnd, he, if_false]
    rfl
  · show execDroop f s = _
    simp only [execDroop, hd, ha, beq_iff_eq, Bool.or_false, if_false]

end Sys2Proof.Machine
end

section
namespace Sys2Proof.Machine

/-! ## The die fence and the viral state (R321, R322) -/

section
variable {s : State}

theorem mem_tilesOf (d : Fin 8) (n : Fin 80) : (⟨d, n⟩ : TileId) ∈ tilesOf d := List.mem_map_of_mem (List.mem_finRange n)

theorem mem_allTiles (i : TileId) : i ∈ allTiles := List.mem_flatMap.mpr ⟨i.die, List.mem_finRange _, mem_tilesOf i.die i.site⟩

/-- The steps of a die fence up to the stop of its tiles. -/
def State.fenceStops (s : State) (d : Fin 8) : State :=
  ((tilesOf d).foldl State.fenceRecord ((tilesOf d).foldl State.sweepFirst s)).stopTiles (tilesOf d)

/-- The steps of a die fence after the stop of its tiles, but for the last. -/
def State.fenceEnds (s : State) (d : Fin 8) (src : Nat) : State :=
  let s := s.eachCopy s.copyCut fun s i c => s.copyFails i c.id .fencedStack
  let s := (s.launches.filter fun l => l.names d && !l.gone).foldl State.fenceLaunch s
  ((tilesOf d).foldl State.settleStopped s).logPlain 3 src d.val

theorem contained_fenceStops (s : State) (d : Fin 8) : s.Contained (s.fenceStops d) := by
  unfold State.fenceStops
  exact (contained_foldl contained_sweepFirst _ s).trans ((contained_foldl contained_fenceRecordOf _ _).trans (contained_stopTiles _ _))

theorem contained_fenceEnds (s : State) (d : Fin 8) (src : Nat) : s.Contained (s.fenceEnds d src) := by
  unfold State.fenceEnds
  exact (contained_eachCopy (fun s i c => contained_copyFails s i c.id .fencedStack) s).trans
    ((contained_foldl contained_fenceLaunch _ _).trans ((contained_foldl contained_settleStopped _ _).trans (contained_logPlain ..)))

/-- A die with its fence begun. -/
def State.fenceBegun (s : State) (d : Fin 8) : State := s.setDie d { s.die d with fenced := true, fencing := true }

theorem fenceDie_eq (s : State) (d : Fin 8) (src : Nat) :
    s.fenceDie d src = (((s.fenceBegun d).fenceStops d).fenceEnds d src).settleFences := rfl

/-- A die whose fence has been taken to its end: its tiles have stopped, and its last steps wait for the launches that name it. -/
def State.Fenced (s : State) (d : Fin 8) : Prop :=
  (s.die d).fenced = true ∧ (∀ n, (s.tile ⟨d, n⟩).Still) ∧
    ((s.launches.any fun l => l.names d) = true → (s.die d).fencing = true) ∧
    ((s.launches.any fun l => l.names d) = false → s.FenceTold d)

theorem fenced_of_steps {d : Fin 8} {v w t : State} (hstop : (s.fenceBegun d).Contained v) (hstill : ∀ n, (v.tile ⟨d, n⟩).Still)
    (hend : v.Contained w) (hlast : w.Contained t)
    (hsettled : (w.die d).fencing = true ∨ w.FenceTold d →
      ((t.launches.any fun l => l.names d) = true → (t.die d).fencing = true) ∧
        ((t.launches.any fun l => l.names d) = false → t.FenceTold d)) : t.Fenced d := by
  have hdie : (s.fenceBegun d).die d = { s.die d with fenced := true, fencing := true } := die_setDie ..
  refine ⟨?_, fun n => (hend.trans hlast).still _ (hstill n), hsettled ((hstop.trans hend).fencing d (by rw [hdie]))⟩
  rw [((hstop.trans hend).trans hlast).fenced d, hdie]

theorem fenceDie_fences (s : State) (d : Fin 8) (src : Nat) : (s.fenceDie d src).Fenced d := by
  rw [fenceDie_eq]
  exact fenced_of_steps (contained_fenceStops _ d) (fun n => stopTiles_still _ (mem_tilesOf d n)) (contained_fenceEnds _ d src)
    (contained_settleFences _) settleFences_settled

theorem dieFence_fences {d : Fin 8} (hv : s.regs.viral = false) (hf : (s.die d).fenced = false) :
    ∃ t, exec (.dieFence d) s = .next t ∧ t.Fenced d := by
  refine ⟨_, ?_, fenceDie_fences { s with draws := s.draws + 1 } d (Config.errorSource s.draws).toNat⟩
  show execDieFence d s = _
  simp only [execDieFence, hf, hv, Bool.or_self, Bool.false_eq_true, if_false]

/-- A package that became viral since a state: every tile has stopped, each port in use has told its peer, and a dump is held. -/
structure State.TurnedViral (s t : State) : Prop where
  viral : t.regs.viral = true
  still : ∀ i, (t.tile i).Still
  dump : t.regs.dump.isSome = true
  told : ∀ p, (s.port p).en = true → (s.port p).up = true → (s.port p).fenced = false → (t.port p).tx = (s.port p).tx ++ [.viral]

theorem takeDump_port (s : State) (c e : Nat) (p : Fin 12) : (s.takeDump c e).port p = s.port p := rfl
theorem takeDump_viral (s : State) (c e : Nat) : (s.takeDump c e).regs.viral = s.regs.viral := rfl
theorem takeDump_dump (s : State) (c e : Nat) : (s.takeDump c e).regs.dump.isSome = true := rfl

/-- A package that turns viral tells the peer of each port in use. -/
def State.tellViral (s : State) : State :=
  ({ s with ports := s.ports.map Port.tellViral } : State).setRegs { s.regs with viral := true }

theorem tellViral_port (s : State) (p : Fin 12) : s.tellViral.port p = (s.port p).tellViral := by
  simp [State.tellViral, State.port, State.setRegs]

theorem enterViral_eq (src unit : Nat) (hv : s.regs.viral = false) : s.enterViral src unit =
    ((s.tellViral.stopTiles allTiles).logPlain 4 src unit).takeDump 4 ((s.tellViral.stopTiles allTiles).logPlain 4 src unit).lastEntry := by
  unfold State.enterViral
  rw [if_neg (by rw [hv]; exact Bool.false_ne_true)]
  rfl

/-- The tiles stopped after the ports were told, and then the dump taken. -/
theorem takeDump_turns {v w : State} (hstill : ∀ i, (v.tile i).Still) (hstop : s.tellViral.Contained v) (hlog : v.Contained w) (c e : Nat) :
    s.TurnedViral (w.takeDump c e) where
  viral := (takeDump_viral w c e).trans ((hstop.trans hlog).viral.trans rfl)
  still i := hlog.still i (hstill i)
  dump := takeDump_dump w c e
  told p he hup hf := by
    have hp : w.port p = { s.tellViral.port p with pending := (w.port p).pending } := by rw [← (hstop.trans hlog).ports p]
    rw [takeDump_port, hp, tellViral_port]
    simp [Port.tellViral, he, hup, hf]

theorem enterViral_turns (src unit : Nat) (hv : s.regs.viral = false) : s.TurnedViral (s.enterViral src unit) := by
  rw [enterViral_eq src unit hv]
  exact takeDump_turns (fun i => stopTiles_still _ (mem_allTiles i)) (contained_stopTiles _ allTiles) (contained_logPlain ..) ..

/-- What containment leaves of the ports is told to the same peers. -/
theorem State.Contained.turned {t u : State} (h : s.Contained t) (g : t.TurnedViral u) : s.TurnedViral u where
  viral := g.viral
  still := g.still
  dump := g.dump
  told p he hu hf := by
    rw [← h.ports p] at he hu hf ⊢
    exact g.told p he hu hf

theorem viralEntry_turns (hv : s.regs.viral = false) : ∃ t, exec .viralEntry s = .next t ∧ s.TurnedViral t := by
  refine ⟨_, ?_, (contained_draw s).turned (enterViral_turns (Config.errorSource s.draws).toNat 0 hv)⟩
  show execViralEntry s = _
  simp only [execViralEntry, hv, Bool.false_eq_true, if_false]

/-- The last step of a die fence that takes too long. -/
def State.fenceTimedOut (s : State) (d : Fin 8) : State :=
  { s with draws := s.draws + 1 }.enterViral (Config.errorSource s.draws).toNat d.val

theorem dieFenceTimeout_turns {d : Fin 8} (hv : s.regs.viral = false) (hf : (s.die d).fenced = false) :
    ∃ t, exec (.dieFenceTimeout d) s = .next t ∧ s.TurnedViral t := by
  have hstop := (contained_foldl contained_sweepFirst (tilesOf d) s).trans (contained_stopTiles _ (tilesOf d))
  have hex : exec (.dieFenceTimeout d) s = .next ((((tilesOf d).foldl State.sweepFirst s).stopTiles (tilesOf d)).fenceTimedOut d) := by
    show execDieFenceTimeout d s = _
    simp only [execDieFenceTimeout, hf, hv, Bool.or_self, Bool.false_eq_true, if_false]
    rfl
  generalize ((tilesOf d).foldl State.sweepFirst s).stopTiles (tilesOf d) = u at hstop hex
  have hall := hstop.trans (contained_draw u)
  exact ⟨_, hex, hall.turned (enterViral_turns (Config.errorSource u.draws).toNat d.val (hall.viral.trans hv))⟩

end

end Sys2Proof.Machine
end

section
namespace Sys2Proof.Machine

/-! ## Bring-up (R384-R386, R406) -/

/-- A tile that bring-up has left without work. -/
structure Tile.Fresh (t : Tile) : Prop where
  idle : t.act = .idle
  bundle : t.inflight = none
  copies : t.copyq = []
  scal : t.scal = Vector.replicate 64 0
  spad : t.spad = []
  cox : t.cox.fresh = true

/-- A state with the parts that sensors and die fences may change taken from another one. -/
def State.over (r t : State) : State :=
  { t with
    tiles := r.tiles, sites := r.sites, dies := r.dies, errLog := r.errLog, draws := r.draws,
    regs := { t.regs with logNext := r.regs.logNext, tfence := r.regs.tfence, dfence := r.regs.dfence } }

/-- No die is past its critical threshold. -/
def State.Cool (s : State) : Prop := ∀ d, s.dieTemp d < s.regs.threshold 2

/-- A package on its way up from a state `r` in which nothing runs: the sensors have been read, and some dies fenced. -/
structure State.Booting (r : State) (F : Fin 8 → Bool) (t : State) : Prop where
  frame : r.over t = r
  fresh : ∀ i, (t.tile i).Fresh
  temps : ∀ i, (t.tile i).temp = (r.tile i).temp
  calm : ∀ d z, (t.zone d z).sprinting = false
  fenced : ∀ d, (t.die d).fenced = F d
  cool : (∀ d, F d = false) → r.Cool → ∀ d, (t.die d).crit = false
  log : (∀ d, F d = false) → r.Cool → t.errLog = r.errLog

section
variable {r t : State} {F : Fin 8 → Bool}

theorem State.Booting.dieTemp (h : r.Booting F t) (d : Fin 8) : t.dieTemp d = r.dieTemp d := by
  have hz : t.zoneTemp d = r.zoneTemp d := funext fun z => by simp only [State.zoneTemp, h.temps]
  rw [State.dieTemp, State.dieTemp, hz]

theorem State.Booting.threshold (h : r.Booting F t) (n : Nat) : t.regs.threshold n = r.regs.threshold n := by
  have hr : (r.over t).regs = r.regs := congrArg State.regs h.frame
  show (r.over t).regs.threshold n = _
  rw [hr]

theorem State.Booting.setTile (h : r.Booting F t) (i : TileId) {y : Tile} (hy : y.Fresh) (ht : y.temp = (t.tile i).temp) :
    r.Booting F (t.setTile i y) where
  frame := h.frame
  fresh j := by
    by_cases hj : j = i
    · rw [hj, tile_setTile]; exact hy
    · rw [tile_setTile_ne t y hj]; exact h.fresh j
  temps j := by
    by_cases hj : j = i
    · rw [hj, tile_setTile, ht]; exact h.temps i
    · rw [tile_setTile_ne t y hj]; exact h.temps j
  calm := h.calm
  fenced := h.fenced
  cool := h.cool
  log := h.log

theorem State.Booting.mapTiles {g : Tile → Tile} (hg : ∀ y : Tile, y.Fresh → (g y).Fresh) (ht : ∀ y : Tile, (g y).temp = y.temp) :
    ∀ (is : List TileId) {t : State}, r.Booting F t → r.Booting F (t.mapTiles g is)
  | [], _, h => h
  | i :: is, _, h => State.Booting.mapTiles hg ht is (h.setTile i (hg _ (h.fresh i)) (ht _))

/-- A die changed, and maybe fenced. -/
theorem State.Booting.setDie (h : r.Booting F t) (d : Fin 8) {x : Die} {G : Fin 8 → Bool}
    (hG : ∀ e, G e = if e = d then x.fenced else F e) (hz : ∀ z : Fin 4, (x.zones[z]).sprinting = false)
    (hF : (∀ e, G e = false) → ∀ e, F e = false) (hx : (∀ e, F e = false) → r.Cool → x.crit = false) : r.Booting G (t.setDie d x) where
  frame := h.frame
  fresh := h.fresh
  temps := h.temps
  calm e z := by
    by_cases he : e = d
    · rw [State.zone, he, die_setDie]; exact hz z
    · rw [State.zone, die_setDie_ne t x he]; exact h.calm e z
  fenced e := by
    rw [hG e]
    by_cases he : e = d
    · rw [he, die_setDie, if_pos rfl]
    · rw [die_setDie_ne t x he, if_neg he]; exact h.fenced e
  cool hn hc e := by
    by_cases he : e = d
    · rw [he, die_setDie]; exact hx (hF hn) hc
    · rw [die_setDie_ne t x he]; exact h.cool (hF hn) hc e
  log hn hc := h.log (hF hn) hc

/-- A die changed and not fenced. -/
theorem State.Booting.setDie_same (h : r.Booting F t) (d : Fin 8) {x : Die} (hf : x.fenced = (t.die d).fenced)
    (hz : ∀ z : Fin 4, (x.zones[z]).sprinting = false) (hx : (∀ e, F e = false) → r.Cool → x.crit = false) : r.Booting F (t.setDie d x) := by
  refine h.setDie d (fun e => ?_) hz id hx
  split
  · rename_i he
    rw [he, hf, h.fenced d]
  · rfl

theorem State.Booting.mapZone (h : r.Booting F t) (d : Fin 8) (z : Fin 4) {g : Zone → Zone} (hg : ∀ x, (g x).sprinting = x.sprinting) :
    r.Booting F (t.mapZone d z g) := by
  refine h.setDie_same d rfl (fun y => ?_) fun hn hc => h.cool hn hc d
  by_cases hy : y = z
  · subst hy
    simp only [Fin.getElem_fin, Vector.getElem_set_self, hg]
    exact h.calm d y
  · have hne : z.val ≠ y.val := fun e => hy (Fin.ext e.symm)
    simp only [Fin.getElem_fin, Vector.getElem_set_ne _ _ hne]
    exact h.calm d y

/-- An entry of the error log, where one is due. -/
theorem State.Booting.setLog (h : r.Booting F t) (log : Cells (BitVec 512)) (n k : Nat) (hot : (∀ e, F e = false) → ¬ r.Cool) :
    r.Booting F { t with errLog := log, draws := k, regs := { t.regs with logNext := n } } where
  frame := h.frame
  fresh := h.fresh
  temps := h.temps
  calm := h.calm
  fenced := h.fenced
  cool := h.cool
  log hn hc := absurd hc (hot hn)

theorem State.Booting.logPlain (h : r.Booting F t) (cls src unit : Nat) (hot : (∀ e, F e = false) → ¬ r.Cool) :
    r.Booting F (t.logPlain cls src unit) := by
  unfold State.logPlain State.logError
  generalize errEntry _ _ _ _ _ = entry
  exact h.setLog _ _ _ hot

theorem State.Booting.of_ite {c : Prop} [Decidable c] {u : State} (h : c → r.Booting F t) (g : ¬ c → r.Booting F u) :
    r.Booting F (if c then t else u) := by
  split
  · exact h ‹_›
  · exact g ‹_›

/-- Reading again what a sensor reads. -/
theorem State.Booting.readSensor (h : r.Booting F t) (i : TileId) : r.Booting F (t.readSensor i (t.tile i).temp) := by
  have hself : t.setTile i { t.tile i with temp := (t.tile i).temp } = t := setTile_self t i
  simp only [State.readSensor, hself]
  have hheat := h.mapZone i.die (zoneOf i.site.val) (g := fun x => x.heat t.time (t.zoneTemp i.die (zoneOf i.site.val))
    (t.regs.threshold 0) (t.regs.threshold 1)) fun _ => rfl
  generalize t.mapZone i.die (zoneOf i.site.val) _ = u at hheat ⊢
  have hfall : u.fallNow i.die (zoneOf i.site.val) = u := by
    rw [State.fallNow, if_neg (by rw [hheat.calm]; exact Bool.false_ne_true)]
  rw [hfall, ite_self]
  generalize hc : coolSince u.time _ _ _ = cool
  generalize hn : thermalNext (u.die i.die).crit u.time cool (u.dieTemp i.die) (u.regs.threshold 2) = crit
  have hcool (hF : ∀ e, F e = false) (hr : r.Cool) : crit = false := by
    rw [← hn, hheat.cool hF hr, hheat.dieTemp, hheat.threshold]
    have := hr i.die
    simp only [thermalNext, Bool.false_eq_true, if_false, decide_eq_false_iff_not]
    omega
  have hset : r.Booting F (u.setDie i.die { u.die i.die with crit := crit, critCool := cool }) :=
    hheat.setDie_same i.die rfl (hheat.calm i.die) hcool
  have hturn := State.Booting.of_ite (c := crit = (u.die i.die).crit) (fun _ => hset) fun _ =>
    hset.mapTiles (g := fun x => { x with movedAt := u.time, pipe := { x.pipe with loose := true } })
      (fun y hy => ⟨hy.idle, hy.bundle, hy.copies, hy.scal, hy.spad, hy.cox⟩) (fun _ => rfl) (tilesOf i.die)
  refine .of_ite (fun hhot => hturn.logPlain 0 4 i.die.val fun hF hr => ?_) fun _ => hturn
  rw [hcool hF hr] at hhot
  exact nomatch hhot

end

end Sys2Proof.Machine
end

section
namespace Sys2Proof.Machine

/-! ## Dies fenced at bring-up (R384) -/

section
variable {r t : State} {F : Fin 8 → Bool}

theorem State.Booting.launches (h : r.Booting F t) : t.launches = r.launches := by
  have hr : (r.over t).launches = r.launches := congrArg State.launches h.frame
  exact hr

theorem State.Booting.fctl (h : r.Booting F t) : t.regs.fctl = r.regs.fctl := by
  have hr : (r.over t).regs.fctl = r.regs.fctl := congrArg (fun s : State => s.regs.fctl) h.frame
  exact hr

theorem State.Booting.foldl {α : Type} {g : State → α → State} (hg : ∀ (t : State) (x : α), r.Booting F t → r.Booting F (g t x)) :
    ∀ (xs : List α) {t : State}, r.Booting F t → r.Booting F (xs.foldl g t)
  | [], _, h => h
  | x :: xs, _, h => State.Booting.foldl hg xs (hg _ x h)

theorem State.Booting.draw (h : r.Booting F t) : r.Booting F { t with draws := t.draws + 1 } where
  frame := h.frame
  fresh := h.fresh
  temps := h.temps
  calm := h.calm
  fenced := h.fenced
  cool := h.cool
  log := h.log

theorem State.Booting.setSite (h : r.Booting F t) (i : TileId) (x : Site) : r.Booting F (t.setSite i x) where
  frame := h.frame
  fresh := h.fresh
  temps := h.temps
  calm := h.calm
  fenced := h.fenced
  cool := h.cool
  log := h.log

/-- A change of the fence bits of FSTAT. -/
theorem State.Booting.setBits (h : r.Booting F t) (a b : Bool) : r.Booting F (t.setRegs { t.regs with tfence := a, dfence := b }) where
  frame := h.frame
  fresh := h.fresh
  temps := h.temps
  calm := h.calm
  fenced := h.fenced
  cool := h.cool
  log := h.log

/-- An FSTAT bit that raises no vector. -/
theorem setFstat_quiet {s : State} (hf : s.regs.fctl = 0) :
    s.setFstat 1 = s.setRegs { s.regs with dfence := true } ∧ s.setFstat 3 = s.setRegs { s.regs with tfence := true } := by
  constructor <;> simp [State.setFstat, State.setRegs, hf]

theorem State.Booting.setFstat (h : r.Booting F t) (hf : r.regs.fctl = 0) :
    r.Booting F (t.setFstat 1) ∧ r.Booting F (t.setFstat 3) := by
  obtain ⟨h1, h3⟩ := setFstat_quiet (h.fctl.trans hf)
  rw [h1, h3]
  exact ⟨h.setBits t.regs.tfence true, h.setBits true t.regs.dfence⟩

theorem State.Booting.fenceOut (h : r.Booting F t) (hf : r.regs.fctl = 0) (i : TileId) (c : BitVec 8) : r.Booting F (t.fenceOut i c) :=
  .of_ite (fun _ => (((((h.setSite i _).setSite i _).setSite i _) : r.Booting F (((t.mapSite i fun r =>
    { r.setState .fenced with fcause := c }).setVerify i false).writeSiteNow i)).setFstat hf).2) fun _ => h.setSite i _

theorem State.Booting.settleFence (h : r.Booting F t) (hf : r.regs.fctl = 0) (d : Fin 8) : r.Booting F (t.settleFence d) := by
  refine .of_ite (fun _ => ?_) fun _ => h
  rw [fenceSites_eq]
  have hset : r.Booting F (t.setDie d { t.die d with fencing := false }) := h.setDie_same d rfl (h.calm d) fun hn hc => h.cool hn hc d
  exact State.Booting.foldl (fun _ i hu => hu.fenceOut hf i _) _ (hset.setFstat hf).1.draw

theorem State.Booting.settleFences (h : r.Booting F t) (hf : r.regs.fctl = 0) : r.Booting F t.settleFences :=
  State.Booting.foldl (fun _ d hu => hu.settleFence hf d) _ h

theorem foldl_id {α β : Type} {g : β → α → β} {s : β} (h : ∀ x, g s x = s) : ∀ xs : List α, xs.foldl g s = s
  | [] => rfl
  | x :: xs => by rw [List.foldl_cons, h x, foldl_id h xs]

/-- Idle tiles have nothing to stop. -/
theorem fenceStops_fresh (h : ∀ i, (t.tile i).Fresh) (d : Fin 8) : t.fenceStops d = t := by
  have hsweep (i : TileId) : t.sweepFirst i = t := by simp [State.sweepFirst, (h i).bundle, (h i).idle]
  have hrec (i : TileId) : t.fenceRecord i = t := by simp [State.fenceRecord, (h i).idle]
  have hstop (xs : List TileId) : t.stopTiles xs = t :=
    foldl_id (g := fun (s : State) i => if (s.tile i).act = .idle ∨ (s.tile i).act = .stopped then s else s.stopTile i)
      (fun i => if_pos (.inl (h i).idle)) xs
  rw [State.fenceStops, foldl_id hsweep, foldl_id hrec, hstop]

/-- With no copy and no launch a die fence ends with its entry of the error log. -/
theorem fenceEnds_fresh (h : ∀ i, (t.tile i).Fresh) (hl : t.launches = []) (d : Fin 8) (src : Nat) :
    t.fenceEnds d src = t.logPlain 3 src d.val := by
  have hcopy (pick : TileId → CopyCmd → Bool) (f : State → TileId → CopyCmd → State) : t.eachCopy pick f = t :=
    foldl_id (fun i => by rw [(h i).copies]; rfl) _
  have hstop (i : TileId) : t.settleStopped i = t := by simp [State.settleStopped, Tile.ended, (h i).idle]
  unfold State.fenceEnds
  simp only [hcopy, hl, List.filter_nil, List.foldl_nil, foldl_id hstop]

/-- A die fenced as the package comes up. -/
theorem State.Booting.fenceDie (h : r.Booting F t) (hl : r.launches = []) (hf : r.regs.fctl = 0) (d : Fin 8) :
    r.Booting (fun e => decide (e = d) || F e) (t.fenceDie d 2) := by
  have hbegun : r.Booting (fun e => decide (e = d) || F e) (t.fenceBegun d) := by
    refine h.setDie d (fun e => ?_) (h.calm d) (fun hn e => (Bool.or_eq_false_iff.mp (hn e)).2) fun hn hc => h.cool hn hc d
    by_cases he : e = d <;> simp [he]
  rw [fenceDie_eq, fenceStops_fresh hbegun.fresh, fenceEnds_fresh hbegun.fresh (hbegun.launches.trans hl)]
  exact (hbegun.logPlain 3 2 d.val fun hn => absurd (hn d) (by simp)).settleFences hf

/-- The dies whose modules fail training are fenced. -/
theorem State.Booting.fenceDies (hl : r.launches = []) (hf : r.regs.fctl = 0) (u : Fin 8 → Bool) :
    ∀ (ds : List (Fin 8)) {F : Fin 8 → Bool} {t : State}, r.Booting F t →
      r.Booting (fun e => decide (e ∈ ds) && u e || F e) (ds.foldl (fun s d => if u d then s.fenceDie d 2 else s) t)
  | [], F, t, h => by simpa using h
  | d :: ds, F, t, h => by
    rw [List.foldl_cons]
    split
    · rename_i hu
      refine cast ?_ (State.Booting.fenceDies hl hf u ds (h.fenceDie hl hf d))
      congr 1
      funext e
      by_cases he : e = d <;> simp [he, hu]
    · rename_i hu
      refine cast ?_ (State.Booting.fenceDies hl hf u ds h)
      congr 1
      funext e
      by_cases he : e = d <;> simp [he, hu]

end

/-! ### From power to READY -/

/-- A package with a sound store as bring-up has powered its tiles. -/
def State.tilesUp (s : State) : State :=
  let s : State := { s with draws := s.draws + 1, sites := s.sites.map Site.checked, headers := checkedHeaders s.headers }
  let s := s.rebase
  let v1 := (s.headers[0]).vref[1]
  { s with tiles := Vector.ofFn fun n : Fin 640 => { bringUpTile s.sites[n] v1 with temp := (s.tiles[n]).temp } }

/-- The sensors read, and the dies fenced whose modules fail training. -/
def State.sensed (s : State) (untrained : BitVec 8) : State :=
  let s := allZones.foldl (fun s p => match zoneTiles p.1 p.2 with
    | i :: _ => s.readSensor i (s.tile i).temp
    | [] => s) s
  (List.finRange 8).foldl (fun s d => if untrained.getLsbD d.val then s.fenceDie d 2 else s) s

theorem bringUp_eq {s : State} (h : s.storeLost = false) : s.bringUp = (s.tilesUp.sensed (Config.untrained s.draws)).reserveDump := by
  have hlost : ({ s with draws := s.draws + 1 } : State).storeLost = false := h
  unfold State.bringUp
  dsimp only
  rw [hlost]
  rfl

end Sys2Proof.Machine
end

section
namespace Sys2Proof.Machine

/-! ## Resets and the loss of power (R385-R387) -/

section
variable {r t : State} {F : Fin 8 → Bool}

theorem State.Booting.sensed (h : r.Booting (fun _ => false) t) (hl : r.launches = []) (hf : r.regs.fctl = 0) (u : BitVec 8) :
    r.Booting (fun e => u.getLsbD e.val) (t.sensed u) := by
  have hread : r.Booting (fun _ => false) (allZones.foldl (fun s p => match zoneTiles p.1 p.2 with
      | i :: _ => s.readSensor i (s.tile i).temp
      | [] => s) t) :=
    State.Booting.foldl (fun s p hs => by
      split
      · exact hs.readSensor _
      · exact hs) allZones h
  refine cast ?_ (State.Booting.fenceDies hl hf (fun e => u.getLsbD e.val) (List.finRange 8) hread)
  simp only [List.mem_finRange, decide_true, Bool.true_and, Bool.or_false]
  rfl

/-- A state with the parts that bring-up may change taken from another one. -/
def State.overAll (k u : State) : State :=
  { u with
    tiles := k.tiles, sites := k.sites, headers := k.headers, dies := k.dies, errLog := k.errLog, draws := k.draws,
    regs := { u.regs with logNext := k.regs.logNext, tfence := k.regs.tfence, dfence := k.regs.dfence, dumpDie := k.regs.dumpDie,
                          headTear := k.regs.headTear } }

/-- What a package that has come up from a state in which nothing runs has of it, and of its tiles and dies. -/
structure State.CameUp (k u : State) (untrained : BitVec 8) : Prop where
  frame : k.overAll u = k
  fresh : ∀ i, (u.tile i).Fresh
  fenced : ∀ d, (u.die d).fenced = untrained.getLsbD d.val
  log : untrained = 0 → k.Cool → u.errLog = k.errLog

theorem bringUpTile_fresh (x : Site) (v1 : Nat) (temp : Int) : ({ bringUpTile x v1 with temp := temp } : Tile).Fresh :=
  ⟨rfl, rfl, rfl, rfl, rfl, rfl⟩

theorem tilesUp_tile (k : State) (i : TileId) : (k.tilesUp.tile i).Fresh ∧ (k.tilesUp.tile i).temp = (k.tile i).temp := by
  simp only [State.tile, State.tilesUp, State.rebase, State.writeHeader, Fin.getElem_fin, Vector.getElem_ofFn, and_true]
  exact bringUpTile_fresh _ _ _

theorem over_self (r : State) : r.over r = r := rfl

theorem tilesUp_dies (k : State) : k.tilesUp.dies = k.dies := by
  unfold State.tilesUp State.rebase State.writeHeader
  rfl

theorem tilesUp_threshold (k : State) (n : Nat) : k.tilesUp.regs.threshold n = k.regs.threshold n := by
  unfold State.tilesUp State.rebase State.writeHeader
  rfl

theorem tilesUp_idle (k : State) :
    k.tilesUp.launches = k.launches ∧ k.tilesUp.regs.fctl = k.regs.fctl ∧ k.tilesUp.errLog = k.errLog := by
  unfold State.tilesUp State.rebase State.writeHeader
  exact ⟨rfl, rfl, rfl⟩

theorem overAll_tilesUp (k : State) : k.overAll k.tilesUp = k := by
  unfold State.tilesUp State.rebase State.writeHeader
  rfl

theorem overAll_over (k r u : State) : k.overAll (r.over u) = k.overAll u := rfl

theorem overAll_reserveDump (k u : State) : k.overAll u.reserveDump = k.overAll u := rfl

theorem tilesUp_boots {k : State} (hd : k.dies = State.reset.dies) : k.tilesUp.Booting (fun _ => false) k.tilesUp := by
  have hdie (d : Fin 8) : k.tilesUp.die d = Die.reset := by
    rw [← die_reset d, State.die, State.die, tilesUp_dies, hd]
  exact
    { frame := over_self _
      fresh := fun i => (tilesUp_tile k i).1
      temps := fun _ => rfl
      calm := fun d z => by
        rw [State.zone, hdie]
        simp [Die.reset, Zone.reset]
      fenced := fun d => by rw [hdie]; rfl
      cool := fun _ _ d => by rw [hdie]; rfl
      log := fun _ _ => rfl }

theorem tilesUp_cool {k : State} (h : k.Cool) : k.tilesUp.Cool := fun d => by
  have hzone : k.tilesUp.zoneTemp d = k.zoneTemp d := funext fun z => by simp only [State.zoneTemp, tilesUp_tile]
  rw [State.dieTemp, hzone, tilesUp_threshold]
  exact h d

theorem bringUp_comesUp {k : State} (hs : k.storeLost = false) (hd : k.dies = State.reset.dies) (hl : k.launches = [])
    (hf : k.regs.fctl = 0) : k.CameUp k.bringUp (Config.untrained k.draws) := by
  obtain ⟨hlaunch, hfctl, hlog⟩ := tilesUp_idle k
  have hup := (tilesUp_boots hd).sensed (hlaunch.trans hl) (hfctl.trans hf) (Config.untrained k.draws)
  rw [bringUp_eq hs]
  generalize k.tilesUp.sensed (Config.untrained k.draws) = u at hup ⊢
  refine ⟨?_, hup.fresh, hup.fenced, fun hu hc => ?_⟩
  · rw [overAll_reserveDump, ← overAll_over k k.tilesUp u, hup.frame, overAll_tilesUp]
  · exact (hup.log (fun d => by rw [hu]; exact BitVec.getLsbD_zero) (tilesUp_cool hc)).trans hlog

end

/-- A state that agrees with another one in all that a reset of the package clears. -/
structure State.Cleared (t u : State) : Prop where
  ready : u.regs.ready = t.regs.ready
  powered : u.regs.powered = t.regs.powered
  viral : u.regs.viral = t.regs.viral
  gmem : u.gmem = t.gmem
  launches : u.launches = t.launches
  ghosts : u.ghosts = t.ghosts
  posts : u.posts = t.posts
  crew : u.crew = t.crew
  faults : u.faults = t.faults
  narrow : u.narrow = t.narrow
  queues : u.queues = t.queues
  keys : u.keys = t.keys
  ports : u.ports = t.ports
  imps : u.imps = t.imps
  exps : u.exps = t.exps
  dmws : u.dmws = t.dmws
  time : u.time = t.time

section
variable {s t u v : State} {w : BitVec 8}

theorem cleared_keepAll (s t : State) : t.Cleared (s.keepAll t) :=
  ⟨rfl, rfl, rfl, rfl, rfl, rfl, rfl, rfl, rfl, rfl, rfl, rfl, rfl, rfl, rfl, rfl, rfl⟩

theorem cleared_keepPackage (s t : State) : t.Cleared (s.keepPackage t) := by
  unfold State.keepPackage
  exact ⟨rfl, rfl, rfl, rfl, rfl, rfl, rfl, rfl, rfl, rfl, rfl, rfl, rfl, rfl, rfl, rfl, rfl⟩

theorem cleared_of_overAll (k u : State) : (k.overAll u).Cleared u :=
  ⟨rfl, rfl, rfl, rfl, rfl, rfl, rfl, rfl, rfl, rfl, rfl, rfl, rfl, rfl, rfl, rfl, rfl⟩

theorem State.Cleared.trans (h : t.Cleared u) (g : u.Cleared v) : t.Cleared v :=
  ⟨g.ready.trans h.ready, g.powered.trans h.powered, g.viral.trans h.viral, g.gmem.trans h.gmem, g.launches.trans h.launches,
    g.ghosts.trans h.ghosts, g.posts.trans h.posts, g.crew.trans h.crew, g.faults.trans h.faults, g.narrow.trans h.narrow,
    g.queues.trans h.queues, g.keys.trans h.keys, g.ports.trans h.ports, g.imps.trans h.imps, g.exps.trans h.exps,
    g.dmws.trans h.dmws, g.time.trans h.time⟩

/-- A package that has come up has of the state it started from what bring-up does not write. -/
theorem State.CameUp.kept {k : State} (h : k.CameUp u w) : k.Cleared u ∧ u.hostMem = k.hostMem ∧ u.regs.lastRst = k.regs.lastRst ∧
    u.regs.ocSticky = k.regs.ocSticky ∧ u.energy = k.energy ∧ u.regs.dump = k.regs.dump := by
  have hc := cleared_of_overAll k u
  have hk : (k.overAll u).hostMem = u.hostMem ∧ (k.overAll u).regs.lastRst = u.regs.lastRst ∧
    (k.overAll u).regs.ocSticky = u.regs.ocSticky ∧ (k.overAll u).energy = u.energy ∧ (k.overAll u).regs.dump = u.regs.dump :=
    ⟨rfl, rfl, rfl, rfl, rfl⟩
  rw [h.frame] at hc hk
  obtain ⟨hmem, hrst, hoc, hen, hdump⟩ := hk
  exact ⟨hc, hmem.symm, hrst.symm, hoc.symm, hen.symm, hdump.symm⟩

end

section
variable {s : State}

theorem coldReset_comesUp (hp : s.regs.powered = false) (hs : s.storeLost = false) :
    ∃ t, exec .coldReset s = .next t ∧ (s.keepAll State.reset).CameUp t (Config.untrained s.draws) := by
  refine ⟨_, ?_, bringUp_comesUp (k := s.keepAll State.reset) hs rfl rfl rfl⟩
  show execColdReset s = _
  simp only [execColdReset, hp, Bool.false_eq_true, if_false]

theorem coldReset_cleared {t : State} {w : BitVec 8} (h : (s.keepAll State.reset).CameUp t w) : State.reset.Cleared t :=
  (cleared_keepAll s State.reset).trans h.kept.1

theorem packageReset_cleared {t : State} {w : BitVec 8} (h : (s.keepPackage (s.keepAll State.reset)).CameUp t w) : State.reset.Cleared t :=
  ((cleared_keepAll s State.reset).trans (cleared_keepPackage s _)).trans h.kept.1

theorem packageReset_comesUp (hs : s.storeLost = false) :
    (s.keepPackage (s.keepAll State.reset)).CameUp s.resetPackage (Config.untrained s.draws) :=
  bringUp_comesUp (k := s.keepPackage (s.keepAll State.reset)) hs rfl rfl rfl

/-- A package brought up after a reset. -/
theorem State.Cleared.fresh {t : State} {w : BitVec 8} (h : State.reset.Cleared t) (hm : t.hostMem = s.hostMem)
    (hf : ∀ d, (t.die d).fenced = w.getLsbD d.val) (ht : ∀ i, (t.tile i).Fresh) :
    t.regs.ready = true ∧ t.regs.powered = true ∧ t.regs.viral = false ∧ t.gmem = [] ∧ t.launches = [] ∧ t.ghosts = [] ∧
      t.posts = [] ∧ t.crew = [] ∧ t.faults = [] ∧ t.narrow = [] ∧ t.queues = State.reset.queues ∧ t.keys = State.reset.keys ∧
      t.ports = State.reset.ports ∧ t.imps = State.reset.imps ∧ t.exps = State.reset.exps ∧ t.dmws = State.reset.dmws ∧ t.time = 0 ∧
      t.hostMem = s.hostMem ∧ (∀ k, (t.die k).fenced = w.getLsbD k.val) ∧
      ∀ i, (t.tile i).act = .idle ∧ (t.tile i).scal = Vector.replicate 64 0 ∧ (t.tile i).spad = [] ∧ (t.tile i).cox.fresh = true :=
  ⟨h.ready, h.powered, h.viral, h.gmem, h.launches, h.ghosts, h.posts, h.crew, h.faults, h.narrow, h.queues, h.keys, h.ports, h.imps,
    h.exps, h.dmws, h.time, hm, hf, fun i => ⟨(ht i).idle, (ht i).scal, (ht i).spad, (ht i).cox⟩⟩

/-- The highest of temperatures that are all zero. -/
theorem highest_zero : ∀ {xs : List Int}, (∀ x ∈ xs, x = 0) → highest xs = 0
  | [], _ => rfl
  | [x], h => h x List.mem_cons_self
  | x :: y :: xs, h => by
    rw [highest, h x List.mem_cons_self, highest_zero fun z hz => h z (List.mem_cons_of_mem _ hz)]
    · rfl
    · exact nofun

theorem keepAll_tile (s t : State) (i : TileId) : (s.keepAll t).tile i = t.tile i := rfl

/-- After a cold reset no sensor has read anything. -/
theorem keepAll_reset_cool (s : State) : (s.keepAll State.reset).Cool := by
  intro d
  have htile (i : TileId) : ((s.keepAll State.reset).tile i).temp = 0 := by rw [keepAll_tile, tile_reset]; rfl
  have hzone (z : Fin 4) : (s.keepAll State.reset).zoneTemp d z = 0 :=
    highest_zero fun x hx => by
      obtain ⟨i, -, rfl⟩ := List.mem_map.mp hx
      exact htile i
  rw [State.dieTemp, highest_zero fun x hx => by
    obtain ⟨z, -, rfl⟩ := List.mem_map.mp hx
    exact hzone z]
  show (0 : Int) < PkgRegs.reset.threshold 2
  decide

/-- What a package reset keeps of the sensors. -/
theorem keepPackage_dieTemp (s : State) (d : Fin 8) : (s.keepPackage (s.keepAll State.reset)).dieTemp d = s.dieTemp d := by
  have htile (i : TileId) : ((s.keepPackage (s.keepAll State.reset)).tile i).temp = (s.tile i).temp := by
    simp only [State.tile, State.keepPackage, Fin.getElem_fin, Vector.getElem_ofFn]
  have hzone : (s.keepPackage (s.keepAll State.reset)).zoneTemp d = s.zoneTemp d := funext fun z => by simp only [State.zoneTemp, htile]
  rw [State.dieTemp, State.dieTemp, hzone]

/-- Without power nothing but COLD_RESET acts (R386). -/
theorem step_powerOff {t : State} (hp : t.regs.powered = false) (hi : ∀ n, t.inbox.head? ≠ some (.event n .coldReset)) :
    step t = .fault .powerOff := by
  unfold step stepOnce
  split
  · rw [hp]; rfl
  · rename_i n rest h
    exact absurd (by rw [h]; rfl) (hi n)
  · rw [hp]; rfl

theorem powerRemoval_site {i : TileId} {old : SiteRec} {bad : Bool} (g : TornStage) (h : (s.site i).tear = some (s.time, old, bad)) :
    exec (.powerRemoval (some (.site i, g))) s = .next (s.powerOff.setSite i ((s.site i).torn old bad g)) := by
  show execPowerRemoval (some (.site i, g)) s = _
  simp only [execPowerRemoval, h, if_true]

theorem powerRemoval_header {old : MrsHeader} (g : TornStage) (h : s.regs.headTear = some (s.time, old)) :
    exec (.powerRemoval (some (.header, g))) s = .next { s.powerOff with headers := tornHeaders s.headers old g } := by
  show execPowerRemoval (some (.header, g)) s = _
  simp only [execPowerRemoval, h, if_true]

end

/-- Settles O54: what the die fence contains, how the package turns viral, and what each reset and the loss of power keep. -/
theorem fencesViralEntryAndResets : Obligations.FencesViralEntryAndResets := by
  unfold Obligations.FencesViralEntryAndResets
  intro s d
  refine ⟨fun hvir hf => ⟨?_, ?_⟩, fun hvir => ?_, fun hp hs => ?_, fun hs => ?_, rfl, ?_, fun i old bad g h => ?_, fun old g h => ?_⟩
  · obtain ⟨t, hex, hfenced, hstill, hwait, htold⟩ := dieFence_fences hvir hf
    refine ⟨t, hex, hfenced, hstill, ?_⟩
    split
    · exact hwait ‹_›
    · have ht := htold (Bool.eq_false_iff.mpr ‹_›)
      exact ⟨ht.dfence, ht.sites⟩
  · obtain ⟨t, hex, ht⟩ := dieFenceTimeout_turns hvir hf
    exact ⟨t, hex, ht.viral, ht.still, ht.dump, ht.told⟩
  · obtain ⟨t, hex, ht⟩ := viralEntry_turns hvir
    exact ⟨t, hex, ht.viral, ht.still, ht.dump, ht.told⟩
  · obtain ⟨t, hex, ht⟩ := coldReset_comesUp hp hs
    obtain ⟨-, hmem, hrst, hoc, -, -⟩ := ht.kept
    exact ⟨t, hex, (coldReset_cleared ht).fresh hmem ht.fenced ht.fresh, hrst, hoc, fun hu => ht.log hu (keepAll_reset_cool s)⟩
  · have ht := packageReset_comesUp hs
    obtain ⟨-, hmem, hrst, hoc, hen, hdump⟩ := ht.kept
    exact ⟨_, rfl, rfl, (packageReset_cleared ht).fresh hmem ht.fenced ht.fresh, hrst, hoc, hen, hdump,
      fun hu hc => ht.log hu fun d => by rw [keepPackage_dieTemp]; exact hc d⟩
  · exact ⟨_, rfl, rfl, rfl, rfl, step_powerOff rfl⟩
  · refine ⟨_, powerRemoval_site g h, rfl, fun j hj => site_setSite_ne _ _ hj, ?_, ?_⟩ <;> rw [site_setSite] <;> cases g <;> rfl
  · refine ⟨_, powerRemoval_header g h, rfl, rfl, ?_⟩
    cases g <;> rfl

end Sys2Proof.Machine
end

section
namespace Sys2Proof.Machine

/-! ## Numbers as bytes -/

theorem natOfBytes_bytesOfNat : ∀ n v : Nat, natOfBytes (bytesOfNat n v) = v % 256 ^ n
  | 0, v => by rw [Nat.pow_zero, Nat.mod_one]; rfl
  | n + 1, v => by
    rw [bytesOfNat, natOfBytes, natOfBytes_bytesOfNat n (v / 256), show 256 ^ (n + 1) = 256 * 256 ^ n from Nat.pow_succ', Nat.mod_mul]
    rfl

/-- A number's low bytes are those of its remainder. -/
theorem bytesOfNat_mod : ∀ n v : Nat, bytesOfNat n (v % 256 ^ n) = bytesOfNat n v
  | 0, _ => rfl
  | n + 1, v => by
    have hlow : BitVec.ofNat 8 (v % 256 ^ (n + 1)) = BitVec.ofNat 8 v := by
      apply BitVec.eq_of_toNat_eq
      rw [BitVec.toNat_ofNat, BitVec.toNat_ofNat]
      exact Nat.mod_mod_of_dvd _ (Dvd.intro_left _ rfl)
    rw [bytesOfNat, bytesOfNat, hlow, Nat.pow_succ, Nat.mul_comm, Nat.mod_mul_right_div_self, bytesOfNat_mod n]

theorem bytesOfNat_ofNat (v : Nat) : bytesOfNat 4 (BitVec.ofNat 32 v).toNat = bytesOfNat 4 v := bytesOfNat_mod 4 v

theorem field_bytesOfNat (n v : Nat) : field (bytesOfNat n v) 0 n = v % 256 ^ n := by
  rw [field, List.drop_zero, List.take_of_length_le (Nat.le_of_eq (Laws.length_bytesOfNat n v)), natOfBytes_bytesOfNat]

theorem field_append_right (a b : List Byte) (o n : Nat) : field (a ++ b) (a.length + o) n = field b o n := by
  rw [field, field, List.drop_append, List.drop_eq_nil_of_le (Nat.le_add_right ..), Nat.add_sub_cancel_left, List.nil_append]

/-- A word read from its own four bytes. -/
theorem word_field (v : Word) : BitVec.ofNat 32 (field (bytesOfNat 4 v.toNat) 0 4) = v := by
  rw [field_bytesOfNat, Nat.mod_eq_of_lt (show v.toNat < 256 ^ 4 from v.isLt), BitVec.ofNat_toNat, BitVec.setWidth_eq]

/-- Two words read from their eight bytes. -/
theorem word_field_pair (lo hi : Word) :
    BitVec.ofNat 32 (field (bytesOfNat 4 lo.toNat ++ bytesOfNat 4 hi.toNat) 0 4) = lo ∧
      BitVec.ofNat 32 (field (bytesOfNat 4 lo.toNat ++ bytesOfNat 4 hi.toNat) 4 4) = hi := by
  have hl := Laws.length_bytesOfNat 4 lo.toNat
  constructor
  · rw [Laws.field_append _ _ _ _ (by omega), word_field]
  · have h := field_append_right (bytesOfNat 4 lo.toNat) (bytesOfNat 4 hi.toNat) 0 4
    rw [hl] at h
    rw [h, word_field]

/-! ## The control space (R388, R389, R391) -/

section
variable {s : State} {off : Nat} {v lo hi : Word}

theorem ctlAligned_iff {size : Nat} : ctlAligned off size = true ↔ (size = 4 ∨ size = 8) ∧ off % size = 0 := by
  simp [ctlAligned]

/-- A word outside the energy counters. -/
theorem regRead_plain (h : ¬ (0x3100 ≤ off ∧ off < 0x3198)) (port : EnergyPort) :
    s.regRead port off = (s, BitVec.ofNat 32 (s.ctlRead off)) := if_neg h

theorem hostRead_viral {size : Nat} (hs : off + size ≤ 0x2000000) (hv : s.regs.viral = true) :
    exec (.hostRead off size) s = .next { s with reply := some ⟨1, List.replicate size 0xFF⟩ } := by
  show execHostRead off size s = _
  rw [execHostRead, if_neg (by unfold controlSize; omega), if_pos hv]
  rfl

theorem hostRead_counted {size : Nat} (hs : off + size ≤ 0x2000000) (hv : s.regs.viral = false)
    (ha : ¬ ((size = 4 ∨ size = 8) ∧ off % size = 0)) : exec (.hostRead off size) s = .next
      { s with regs := { s.regs with linkErr := satAdd32 s.regs.linkErr 1 }, reply := some ⟨0, List.replicate size 0xFF⟩ } := by
  have hn : ctlAligned off size = false := Bool.eq_false_iff.mpr fun h => ha (ctlAligned_iff.mp h)
  show execHostRead off size s = _
  rw [execHostRead, if_neg (by unfold controlSize; omega), if_neg (by rw [hv]; exact Bool.false_ne_true), if_pos (by rw [hn]; rfl)]
  rfl

theorem hostRead_word (hs : off + 4 ≤ 0x2000000) (hv : s.regs.viral = false) (ha : off % 4 = 0) (he : ¬ (0x3100 ≤ off ∧ off < 0x3198)) :
    exec (.hostRead off 4) s = .next { s with reply := some ⟨0, bytesOfNat 4 (s.ctlRead off)⟩ } := by
  have hn : ctlAligned off 4 = true := ctlAligned_iff.mpr ⟨.inl rfl, ha⟩
  show execHostRead off 4 s = _
  rw [execHostRead, if_neg (by unfold controlSize; omega), if_neg (by rw [hv]; exact Bool.false_ne_true),
    if_neg (by rw [hn]; exact Bool.false_ne_true), regRead_plain he]
  dsimp only
  rw [if_pos rfl, bytesOfNat_ofNat]
  rfl

/-- A pair of words: the energy counters begin and end at a pair. -/
theorem hostRead_pair (hs : off + 8 ≤ 0x2000000) (hv : s.regs.viral = false) (ha : off % 8 = 0) (he : ¬ (0x3100 ≤ off ∧ off < 0x3198)) :
    exec (.hostRead off 8) s = .next { s with reply := some ⟨0, bytesOfNat 4 (s.ctlRead off) ++ bytesOfNat 4 (s.ctlRead (off + 4))⟩ } := by
  have hn : ctlAligned off 8 = true := ctlAligned_iff.mpr ⟨.inr rfl, ha⟩
  have he' : ¬ (0x3100 ≤ off + 4 ∧ off + 4 < 0x3198) := by omega
  show execHostRead off 8 s = _
  rw [execHostRead, if_neg (by unfold controlSize; omega), if_neg (by rw [hv]; exact Bool.false_ne_true),
    if_neg (by rw [hn]; exact Bool.false_ne_true), regRead_plain he]
  dsimp only
  rw [regRead_plain he']
  dsimp only
  rw [if_neg (by decide), bytesOfNat_ofNat, bytesOfNat_ofNat]
  rfl

/-- The two ways to write a word of the control space. -/
theorem controlWrite_word (hs : off + 4 ≤ 0x2000000) :
    exec (.hostWrite .control off (bytesOfNat 4 v.toNat)) s = exec (.registerWrite off v) s := by
  have hl := Laws.length_bytesOfNat 4 v.toNat
  have hn : ctlAligned off 4 = decide (off % 4 = 0) := rfl
  show execHostWrite .control off (bytesOfNat 4 v.toNat) s = execRegisterWrite off v s
  have hc : ¬ controlSize < off + 4 := by unfold controlSize; omega
  simp only [execHostWrite, execRegisterWrite, hl, hn, word_field, hc, if_false]
  by_cases ha : off % 4 = 0
  · simp only [ha, decide_true, Bool.not_true, Bool.false_eq_true, if_false, if_true, show ¬ (4 : Nat) = 8 by decide]
  · simp only [ha, decide_false, Bool.not_false, if_false, if_true]

theorem registerWrite_viral (hs : off + 4 ≤ 0x2000000) (hv : s.regs.viral = true) : exec (.registerWrite off v) s = .next s := by
  show execRegisterWrite off v s = _
  rw [execRegisterWrite, if_neg (by unfold controlSize; omega), if_pos hv]

theorem registerWrite_live (hs : off + 4 ≤ 0x2000000) (hv : s.regs.viral = false) :
    exec (.registerWrite off v) s = .next (if off % 4 = 0 then s.ctlWrite off v else s.countLinkErr) := by
  show execRegisterWrite off v s = _
  rw [execRegisterWrite, if_neg (by unfold controlSize; omega), if_neg (by rw [hv]; exact Bool.false_ne_true)]

theorem ctlWrite_unready (h : off < 0x100000) (hr : s.regs.ready = false) : s.ctlWrite off v = s := by
  rw [State.ctlWrite, if_pos h, if_neg (by rw [hr]; exact Bool.false_ne_true)]

/-- FCTL keeps four bits. -/
theorem ctlWrite_fctl (hr : s.regs.ready = true) : s.ctlWrite 0x804 v = { s with regs := { s.regs with fctl := v.setWidth 4 } } := by
  rw [State.ctlWrite, if_pos (by decide), if_pos hr]
  rfl

/-- FRTOK is open before READY. -/
theorem ctlWrite_frtok (s : State) (v : Word) : s.ctlWrite 0x100230 v = { s with regs := { s.regs with frTok := v } } := rfl

theorem ctl_unassigned (s : State) (v : Word) (h : 0x200200 ≤ off) (h' : off < 0x300000) : s.ctlWrite off v = s ∧ s.ctlRead off = 0 := by
  constructor
  · rw [State.ctlWrite, if_neg (by omega), if_neg (by omega), if_neg (by omega), if_neg (by omega)]
  · rw [State.ctlRead, if_neg (by omega), if_neg (by omega), if_neg (by omega), if_neg (by omega), if_neg (by omega)]

theorem controlWrite_pair (hs : off + 8 ≤ 0x2000000) (ha : off % 8 = 0) (hv : s.regs.viral = false) :
    exec (.hostWrite .control off (bytesOfNat 4 lo.toNat ++ bytesOfNat 4 hi.toNat)) s =
      .next ((s.ctlWrite off lo).ctlWrite (off + 4) hi) := by
  have hl : (bytesOfNat 4 lo.toNat ++ bytesOfNat 4 hi.toNat).length = 8 := by simp [Laws.length_bytesOfNat]
  have hn : ctlAligned off 8 = true := ctlAligned_iff.mpr ⟨.inr rfl, ha⟩
  obtain ⟨hlo, hhi⟩ := word_field_pair lo hi
  show execHostWrite .control off _ s = _
  simp only [execHostWrite, hl, hn, hv, hlo, hhi, controlSize, show ¬ 0x2000000 < off + 8 by omega, Bool.not_true, Bool.false_eq_true,
    if_false, if_true]

/-! ## The host's memory and the vectors (R391, R392) -/

/-- A write of the host's memory moves narrow writes of the device out of its way and touches nothing else. -/
theorem settleAt_frame (s : State) (host : Bool) (a n : Nat) : s.settleAt host a n = { s with narrow := (s.settleAt host a n).narrow } := by
  unfold State.settleAt
  split <;> rfl

theorem hostWrite_mem (s : State) (a : Nat) (bs : List Byte) : ∃ t, exec (.hostWrite .hostMem a bs) s = .next t ∧
    t = { s with hostMem := t.hostMem, narrow := t.narrow } ∧
    ∀ j, Cells.get 0 t.hostMem j = if a ≤ j ∧ j < a + bs.length then bs.getD (j - a) 0 else Cells.get 0 s.hostMem j := by
  refine ⟨_, rfl, ?_, fun j => get_setRange_getD s.hostMem a bs j⟩
  rw [settleAt_frame]

/-- The message of a vector. -/
theorem hostStore_mem {a : Nat} {bs : List Byte} (hv : s.regs.viral = false) :
    s.hostStore a bs = { s with hostMem := (s.hostStore a bs).hostMem, narrow := (s.hostStore a bs).narrow } ∧
    ∀ j, Cells.get 0 (s.hostStore a bs).hostMem j = if a ≤ j ∧ j < a + bs.length then bs.getD (j - a) 0 else Cells.get 0 s.hostMem j := by
  have h : s.hostStore a bs = { s.settleAt true a bs.length with hostMem := Cells.setRange 0 s.hostMem a bs } :=
    if_neg (by rw [hv]; exact Bool.false_ne_true)
  rw [h, settleAt_frame]
  exact ⟨rfl, fun j => get_setRange_getD s.hostMem a bs j⟩

/-- A vector whose mask falls. -/
def State.unmasked (s : State) (v : Fin 32) : State :=
  { s with vecs := s.vecs.set v.val { s.vecs[v] with mask := false, pend := false } v.isLt }

theorem writeMask_false (s : State) (v : Fin 32) : s.writeMask v false =
    if (s.vecs[v]).pend = true then (s.unmasked v).hostStore ((s.vecs[v]).addr.toNat / 4 * 4) (bytesOfNat 4 (s.vecs[v]).data.toNat)
    else s.unmasked v := by
  have hraise : (s.unmasked v).raiseVector v.val =
      (s.unmasked v).hostStore ((s.vecs[v]).addr.toNat / 4 * 4) (bytesOfNat 4 (s.vecs[v]).data.toNat) := by
    simp [State.raiseVector, State.unmasked]
  rw [← hraise]
  simp only [State.writeMask, State.unmasked, Bool.and_false, Bool.not_false, Bool.and_true]

theorem vectorUnmask_sends {v : Fin 32} (hv : s.regs.viral = false) (hr : s.regs.ready = true) :
    ∃ t, exec (.vectorUnmask v) s = .next t ∧ t = { s with vecs := t.vecs, hostMem := t.hostMem, narrow := t.narrow } ∧
      (∀ u, u ≠ v → t.vecs[u] = s.vecs[u]) ∧ t.vecs[v] = { s.vecs[v] with mask := false, pend := false } ∧
      ∀ a, Cells.get 0 t.hostMem a =
        if (s.vecs[v]).pend = true ∧ (s.vecs[v]).addr.toNat / 4 * 4 ≤ a ∧ a < (s.vecs[v]).addr.toNat / 4 * 4 + 4
        then (bytesOfNat 4 (s.vecs[v]).data.toNat).getD (a - (s.vecs[v]).addr.toNat / 4 * 4) 0 else Cells.get 0 s.hostMem a := by
  have hex : exec (.vectorUnmask v) s = .next (s.writeMask v false) := by
    show execVectorUnmask v s = _
    simp only [execVectorUnmask, frontOpen_ready hr hv, Bool.not_true, Bool.false_eq_true, if_false]
  have hvecs (u : Fin 32) (hu : u ≠ v) : (s.unmasked v).vecs[u] = s.vecs[u] := by
    have hne : v.val ≠ u.val := fun e => hu (Fin.ext e.symm)
    simp [State.unmasked, Vector.getElem_set_ne _ _ hne]
  have hvec : (s.unmasked v).vecs[v] = { s.vecs[v] with mask := false, pend := false } := by simp [State.unmasked]
  refine ⟨_, hex, ?_⟩
  rw [writeMask_false]
  split
  · rename_i hp
    obtain ⟨hframe, hmem⟩ := hostStore_mem (s := s.unmasked v) (a := (s.vecs[v]).addr.toNat / 4 * 4)
      (bs := bytesOfNat 4 (s.vecs[v]).data.toNat) hv
    generalize (s.unmasked v).hostStore _ _ = t at hframe hmem ⊢
    have hsame : t.vecs = (s.unmasked v).vecs := (congrArg State.vecs hframe :)
    refine ⟨?_, fun u hu => by simp only [hsame]; exact hvecs u hu, by simp only [hsame]; exact hvec, fun a => ?_⟩
    · exact hframe.trans (by simp only [hsame]; rfl)
    · rw [hmem, Laws.length_bytesOfNat]
      simp only [hp, true_and]
      rfl
  · rename_i hp
    exact ⟨rfl, hvecs, hvec, fun a => by rw [if_neg fun h => hp h.1]; rfl⟩

theorem ebstatClear_clears (n : Fin 8) (hv : s.regs.viral = false) : exec (.ebstatClear n) s =
    .next (s.setStack n { s.stack n with ebValid := false, ebUe := false, ebOvf := false }) := by
  show execEbstatClear n s = _
  simp only [execEbstatClear, hv, Bool.false_eq_true, if_false]
  rfl

end

end Sys2Proof.Machine
end

section
namespace Sys2Proof.Machine

/-! ## The aperture (R390) -/

section
variable {s : State} {w : Fin 16} {f off : Nat}

/-- Whether an access of some bytes at an offset of a device memory window is served. -/
def State.apertureOpen (s : State) (w : Fin 16) (f n : Nat) : Prop :=
  s.regs.viral = false ∧ s.regs.ready = true ∧ (s.dmws[w]).en = true ∧ f + max 1 n ≤ 2 ^ (s.dmws[w]).size

theorem fin?_val {n : Nat} (w : Fin n) : fin? n w.val = some w := dif_pos w.isLt

/-- An offset of the aperture names a window and a place in it. -/
theorem aperture_window (ho : off = w.val * 2 ^ 32 + f) (hf : f < 2 ^ 32) : fin? 16 (off / 2 ^ 32) = some w ∧ off % 2 ^ 32 = f := by
  have hw : off / 2 ^ 32 = w.val := by omega
  rw [hw]
  exact ⟨fin?_val w, by omega⟩

theorem exec_aperture (ho : fin? 16 (off / 2 ^ 32) = some w ∧ off % 2 ^ 32 = f) (acc : ApertureOp) : exec (.apertureAccess off acc) s =
    .next (if !s.frontOpen then s.apertureError acc
      else if !(s.dmws[w]).en || decide (2 ^ (s.dmws[w]).size < f + Nat.max 1 (apertureLength acc)) then s.apertureError acc
      else if (s.dmws[w]).mode then s.hostVirt (s.dmws[w]).ctx (((s.dmws[w]).base.toNat + f) % 2 ^ 64) acc
      else s.hostPhys ((s.dmws[w]).base.toNat + f) acc) := by
  obtain ⟨hw, hf⟩ := ho
  show execApertureAccess off acc s = _
  simp only [execApertureAccess, hw, hf]
  split
  · rfl
  · split
    · rfl
    · split <;> rfl

theorem aperture_shut (ho : fin? 16 (off / 2 ^ 32) = some w ∧ off % 2 ^ 32 = f) (acc : ApertureOp)
    (h : ¬ s.apertureOpen w f (apertureLength acc)) :
    exec (.apertureAccess off acc) s = .next (s.apertureError acc) := by
  rw [exec_aperture ho]
  split
  · rfl
  · rename_i hopen
    rw [if_pos]
    by_contra hc
    simp only [State.frontOpen, Bool.not_eq_true', Bool.not_eq_false, Bool.and_eq_true] at hopen
    simp only [Bool.or_eq_true, Bool.not_eq_true', decide_eq_true_eq, not_or, Bool.not_eq_false, Nat.not_lt] at hc
    exact h ⟨hopen.2, hopen.1, hc.1, hc.2⟩

theorem aperture_serves (ho : fin? 16 (off / 2 ^ 32) = some w ∧ off % 2 ^ 32 = f) (acc : ApertureOp) (h : s.apertureOpen w f (apertureLength acc)) :
    exec (.apertureAccess off acc) s =
      .next (if (s.dmws[w]).mode then s.hostVirt (s.dmws[w]).ctx (((s.dmws[w]).base.toNat + f) % 2 ^ 64) acc
        else s.hostPhys ((s.dmws[w]).base.toNat + f) acc) := by
  obtain ⟨hv, hr, he, hn⟩ := h
  have hfit : decide (2 ^ (s.dmws[w]).size < f + Nat.max 1 (apertureLength acc)) = false := decide_eq_false (Nat.not_lt.mpr hn)
  rw [exec_aperture ho, frontOpen_ready hr hv, he, hfit]
  rfl

theorem aperture_physical (ho : fin? 16 (off / 2 ^ 32) = some w ∧ off % 2 ^ 32 = f) (acc : ApertureOp) (h : s.apertureOpen w f (apertureLength acc))
    (hm : (s.dmws[w]).mode = false) : exec (.apertureAccess off acc) s =
      .next (s.hostPhys ((s.dmws[w]).base.toNat + f) acc) := by
  rw [aperture_serves ho acc h, hm]
  rfl

theorem aperture_virtual (ho : fin? 16 (off / 2 ^ 32) = some w ∧ off % 2 ^ 32 = f) (acc : ApertureOp) (h : s.apertureOpen w f (apertureLength acc))
    (hm : (s.dmws[w]).mode = true) : exec (.apertureAccess off acc) s =
      .next (s.hostVirt (s.dmws[w]).ctx (((s.dmws[w]).base.toNat + f) % 2 ^ 64) acc) := by
  rw [aperture_serves ho acc h, hm]
  rfl

theorem hostPhys_read {t : State} {pa n : Nat} {bs : List Byte} (h : s.readDevBy .host pa n = (t, .ok bs)) :
    s.hostPhys pa (.read n) = { t with reply := some ⟨0, bs⟩ } := by
  simp only [State.hostPhys, h]
  rfl

theorem hostPhys_readFails {t : State} {pa n : Nat} {e : MemErr} (h : s.readDevBy .host pa n = (t, .error e)) :
    s.hostPhys pa (.read n) = { (if e = .unmapped then t.faultNow (frontEnd 0) .paErr false pa else t) with
      reply := some ⟨1, List.replicate n 0xFF⟩ } := by
  simp only [State.hostPhys, h]
  rfl

theorem hostPhys_write {t : State} {pa : Nat} {bs : List Byte} (h : s.writeDev pa bs = (t, .ok ())) :
    s.hostPhys pa (.write bs) =
      { t.logWrites hostWatch ((s.madeRanges pa bs.length).map fun y => (y.1, y.2, none)) with reply := some ⟨0, []⟩ } := by
  simp only [State.hostPhys, h]
  rfl

theorem hostPhys_writeFails {t : State} {pa : Nat} {bs : List Byte} {e : MemErr} (h : s.writeDev pa bs = (t, .error e)) :
    s.hostPhys pa (.write bs) = { (if e = .unmapped then
        (t.logWrites hostWatch ((s.madeRanges pa bs.length).map fun y => (y.1, y.2, none))).faultNow (frontEnd 0) .paErr true pa
      else t.logWrites hostWatch ((s.madeRanges pa bs.length).map fun y => (y.1, y.2, none))) with reply := some ⟨1, []⟩ } := by
  simp only [State.hostPhys, h]
  rfl

theorem hostVirt_write {t : State} {c : BitVec 16} {va : Nat} {bs : List Byte} {ok : Bool}
    (h : s.feWriteGo hostWatch (frontWriter c 4) false c bs (pagesOf va bs.length) = (t, ok)) :
    s.hostVirt c va (.write bs) = { t with reply := some ⟨if ok then 0 else 1, []⟩ } := by
  simp only [State.hostVirt, h]
  cases ok <;> rfl

theorem hostVirt_read {t : State} {c : BitVec 16} {va n : Nat} {r : Option (List Byte)} (h : s.feReadGo .host false c va n = (t, r)) :
    s.hostVirt c va (.read n) = match r with
      | some bs => { t with reply := some ⟨0, bs⟩ }
      | none => { t with reply := some ⟨1, List.replicate n 0xFF⟩ } := by
  simp only [State.hostVirt, h]
  cases r <;> rfl

end

/-- Settles O56: each host access by what stands before it, the viral state, READY, the alignment or the window. -/
theorem hostAccessesReachRegistersAndMemory : Obligations.HostAccessesReachRegistersAndMemory := by
  unfold Obligations.HostAccessesReachRegistersAndMemory
  intro s
  refine ⟨fun off size hs => ⟨hostRead_viral hs, hostRead_counted hs, fun hv ha he => ⟨?_, ?_⟩⟩,
    fun off v hs => ⟨fun hv => ?_, fun hv ha => ?_,
    fun hv ha => ?_⟩, fun off lo hi hs ha hv => ?_, hostWrite_mem s, fun v hv hr => vectorUnmask_sends hv hr,
    fun n hv => ebstatClear_clears n hv, fun w f hf => ?_⟩
  · rintro rfl
    exact hostRead_word hs hv ha he
  · rintro rfl
    exact hostRead_pair hs hv ha he
  · rw [controlWrite_word hs, registerWrite_viral hs hv]
    exact ⟨rfl, rfl⟩
  · rw [controlWrite_word hs, registerWrite_live hs hv, if_neg ha]
    exact ⟨rfl, rfl⟩
  · refine ⟨s.ctlWrite off v, ?_, ?_, ctlWrite_unready, ?_, ?_, fun h h' => ?_⟩
    · rw [controlWrite_word hs, registerWrite_live hs hv, if_pos ha]
    · rw [registerWrite_live hs hv, if_pos ha]
    · rintro rfl hr
      rw [ctlWrite_fctl hr]
      exact ⟨rfl, BitVec.toNat_setWidth 4 v⟩
    · rintro rfl
      exact ⟨ctlWrite_frtok s v, rfl⟩
    · obtain ⟨hw, hr⟩ := ctl_unassigned s v h h'
      rw [hw]
      exact ⟨rfl, hr⟩
  · refine ⟨s.ctlWrite off lo, (s.ctlWrite off lo).ctlWrite (off + 4) hi, ?_, fun ht => ⟨?_, controlWrite_pair hs ha hv⟩⟩
    · rw [registerWrite_live (by omega) hv, if_pos (by omega)]
    · rw [registerWrite_live (by omega) ht, if_pos (by omega)]
  · intro x off inside pa made
    have ho : fin? 16 (off / 2 ^ 32) = some w ∧ off % 2 ^ 32 = f := aperture_window rfl hf
    clear_value off
    refine ⟨fun n h => aperture_shut ho (.read n) h, fun bs h => aperture_shut ho (.write bs) h, fun n t bs h hm hr => ?_,
      fun n t e h hm hr => ?_, fun bs t h hm hw => ?_, fun bs t e h hm hw => ?_, fun bs t ok h hm hw => ?_, fun n t r h hm hr => ?_⟩
    · rw [aperture_physical ho (.read n) h hm, hostPhys_read hr]
    · rw [aperture_physical ho (.read n) h hm, hostPhys_readFails hr]
    · rw [aperture_physical ho (.write bs) h hm, hostPhys_write hw]
    · rw [aperture_physical ho (.write bs) h hm, hostPhys_writeFails hw]
    · rw [aperture_virtual ho (.write bs) h hm, hostVirt_write hw]
    · rw [aperture_virtual ho (.read n) h hm, hostVirt_read hr]
      cases r <;> rfl

end Sys2Proof.Machine
end

section
namespace Sys2Proof.Machine

/-! ## Ports that send (R393, R397) -/

section
variable {s t u : State} {p q : Fin 12}

theorem port_setPort_ne (s : State) (x : Port) (h : q ≠ p) : (s.setPort p x).port q = s.port q := by
  have hne : p.val ≠ q.val := fun e => h (Fin.ext e.symm)
  simp [State.port, State.setPort, Vector.getElem_set_ne _ _ hne]

@[simp] theorem setPort_self (s : State) (p : Fin 12) : s.setPort p (s.port p) = s := by simp [State.port, State.setPort]

@[simp] theorem setPort_setPort (s : State) (p : Fin 12) (x y : Port) : (s.setPort p x).setPort p y = s.setPort p y := by
  simp [State.setPort]

/-- A port that puts one for the other changes at most the vectors and the host's memory besides. -/
theorem putPort_port (s : State) (p : Fin 12) (x : Port) : (s.putPort p x).ports = (s.setPort p x).ports := by
  unfold State.putPort
  dsimp only
  split
  · exact (memFrame_raiseVector ..).ports
  · rfl

theorem port_putPort (s : State) (p : Fin 12) (x : Port) : (s.putPort p x).port p = x := by
  rw [State.port, putPort_port, ← State.port, port_setPort]

theorem port_putPort_ne (s : State) (x : Port) (h : q ≠ p) : (s.putPort p x).port q = s.port q := by
  rw [State.port, putPort_port, ← State.port, port_setPort_ne s x h]

theorem memFrame_putPort (s : State) (p : Fin 12) (x : Port) : MemFrame (s.setPort p x) (s.putPort p x) := by
  unfold State.putPort
  dsimp only
  split
  · exact memFrame_raiseVector ..
  · exact .refl _

/-- From one state to another, a port has sent: nothing changes but key slots, and what a port writes as it sends. -/
structure State.Sends (p : Fin 12) (s t : State) : Prop where
  frame : { t with ports := s.ports, keys := s.keys } = s
  others : ∀ q, q ≠ p → t.port q = s.port q
  port : { t.port p with
    tx := (s.port p).tx, owed := (s.port p).owed, credits := (s.port p).credits, pending := (s.port p).pending,
    replies := (s.port p).replies } = s.port p

theorem State.Sends.refl (p : Fin 12) (s : State) : State.Sends p s s := ⟨rfl, fun _ _ => rfl, rfl⟩

theorem State.Sends.trans (h : State.Sends p s t) (g : State.Sends p t u) : State.Sends p s u where
  frame := by
    have hf := congrArg (fun v : State => { v with ports := s.ports, keys := s.keys }) g.frame
    exact hf.trans h.frame
  others q hq := (g.others q hq).trans (h.others q hq)
  port := by
    have hf := congrArg (fun x : Port => { x with
      tx := (s.port p).tx, owed := (s.port p).owed, credits := (s.port p).credits, pending := (s.port p).pending,
      replies := (s.port p).replies }) g.port
    exact hf.trans h.port

/-- A port replaced in what it writes as it sends. -/
theorem sends_setPort {y : Port} (h : { y with
    tx := (s.port p).tx, owed := (s.port p).owed, credits := (s.port p).credits, pending := (s.port p).pending,
    replies := (s.port p).replies } = s.port p) : State.Sends p s (s.setPort p y) :=
  ⟨rfl, fun _ hq => port_setPort_ne s y hq, by rw [port_setPort]; exact h⟩

theorem sends_sendPacket {slot : Fin 8} {node : BitVec 16} {k : Packet} (h : s.sendPacket p slot node k = some t) :
    State.Sends p s t ∧ (t.port p).pending = (s.port p).pending := by
  unfold State.sendPacket at h
  split at h
  · cases h
  · split at h
    · cases h
    · cases h
      refine ⟨.trans (t := { s with keys := s.keys.set slot.val (some _) slot.isLt }) ⟨rfl, fun _ _ => rfl, rfl⟩ (sends_setPort rfl), ?_⟩
      rw [port_setPort]

theorem sends_pumpReplies (p : Fin 12) : ∀ (rs : List PeerReply) (s : State),
    State.Sends p s (s.pumpReplies p rs).1 ∧ ((s.pumpReplies p rs).1.port p).pending = (s.port p).pending
  | [], s => ⟨.refl p s, rfl⟩
  | r :: rs, s => by
    rw [State.pumpReplies]
    split
    next t ht =>
      obtain ⟨hs, hp⟩ := sends_sendPacket ht
      obtain ⟨hs', hp'⟩ := sends_pumpReplies p rs t
      have hset : State.Sends p s (s.setPort p { s.port p with owed := (s.port p).owed + 1 }) := sends_setPort rfl
      exact ⟨hset.trans (hs.trans hs'), by rw [hp', hp, port_setPort]⟩
    next => exact sends_pumpReplies p rs s

/-- Requests that are sent keep their windows. -/
theorem sends_pumpRequests (p : Fin 12) : ∀ (rs before : List PeerRequest) (s : State), State.Sends p s (s.pumpRequests p before rs) ∧
    ∀ r ∈ ((s.pumpRequests p before rs).port p).pending, ∃ x ∈ before ++ rs, r.win = x.win
  | [], before, s => by
    rw [State.pumpRequests, port_setPort]
    exact ⟨sends_setPort rfl, fun r hr => ⟨r, List.mem_append_left _ hr, rfl⟩⟩
  | r :: rs, before, s => by
    have hstay (t : State) (y : PeerRequest) (hy : y.win = r.win) (hs : State.Sends p s t) :
        State.Sends p s (t.pumpRequests p (before ++ [y]) rs) ∧
          ∀ z ∈ ((t.pumpRequests p (before ++ [y]) rs).port p).pending, ∃ x ∈ before ++ r :: rs, z.win = x.win := by
      obtain ⟨hs', hw⟩ := sends_pumpRequests p rs (before ++ [y]) t
      refine ⟨hs.trans hs', fun z hz => ?_⟩
      obtain ⟨x, hx, hzx⟩ := hw z hz
      rw [List.append_assoc, List.singleton_append] at hx
      rcases List.mem_append.mp hx with hx | hx
      · exact ⟨x, List.mem_append_left _ hx, hzx⟩
      · rcases List.mem_cons.mp hx with rfl | hx
        · exact ⟨r, List.mem_append_right _ List.mem_cons_self, hzx.trans hy⟩
        · exact ⟨x, List.mem_append_right _ (List.mem_cons_of_mem _ hx), hzx⟩
    simp only [State.pumpRequests]
    split
    · exact hstay s r rfl (.refl p s)
    · split
      · exact hstay s r rfl (.refl p s)
      · split
        next => exact hstay s r rfl (.refl p s)
        next t ht => exact hstay _ _ rfl ((sends_sendPacket ht).1.trans (sends_setPort rfl))

theorem sends_pump (s : State) (p : Fin 12) : State.Sends p s (s.pump p) ∧
    ∀ r ∈ ((s.pump p).port p).pending, ∃ x ∈ (s.port p).pending, r.win = x.win := by
  unfold State.pump
  split
  · obtain ⟨hs, hp⟩ := sends_pumpReplies p (s.port p).replies s
    dsimp only
    generalize hu : (s.pumpReplies p (s.port p).replies).1.setPort p _ = u
    have hset : State.Sends p (s.pumpReplies p (s.port p).replies).1 u := by
      rw [← hu]
      exact sends_setPort rfl
    have hpend : (u.port p).pending = (s.port p).pending := by rw [← hu, port_setPort, hp]
    obtain ⟨hs', hw⟩ := sends_pumpRequests p (u.port p).pending [] u
    exact ⟨hs.trans (hset.trans hs'), fun r hr => by
      obtain ⟨x, hx, hwin⟩ := hw r hr
      rw [List.nil_append, hpend] at hx
      exact ⟨x, hx, hwin⟩⟩
  · exact ⟨.refl p s, fun r hr => ⟨r, hr, rfl⟩⟩

/-- A port with no request waiting has none after it has sent. -/
theorem pump_pending (s : State) (p : Fin 12) (h : (s.port p).pending = []) : ((s.pump p).port p).pending = [] := by
  refine List.eq_nil_iff_forall_not_mem.mpr fun r hr => ?_
  obtain ⟨x, hx, -⟩ := (sends_pump s p).2 r hr
  rw [h] at hx
  exact List.not_mem_nil hx

/-- A port with nothing to send sends nothing. -/
theorem pump_quiet (h : (s.port p).pending = []) (hr : (s.port p).replies = []) : s.pump p = s := by
  unfold State.pump
  split
  · have hrep : s.setPort p { s.port p with replies := [] } = s := by rw [← hr]; exact setPort_self s p
    have hreq : s.setPort p { s.port p with pending := [] } = s := by rw [← h]; exact setPort_self s p
    rw [hr, State.pumpReplies]
    dsimp only
    rw [hrep, h, State.pumpRequests, hreq]
  · rfl

theorem noteDrained_ports (s : State) : s.noteDrained.ports = s.ports := by
  unfold State.noteDrained
  rfl

/-- What a port keeps as it sends. -/
theorem State.Sends.kept (h : State.Sends p s t) : (t.port p).rx = (s.port p).rx ∧ (t.port p).timeouts = (s.port p).timeouts ∧
    (t.port p).stale = (s.port p).stale :=
  ⟨(congrArg Port.rx h.port :), (congrArg Port.timeouts h.port :), (congrArg Port.stale h.port :)⟩

end

/-! ## Packets as bytes (R396) -/

theorem length_packetBytes (k : Packet) : (packetBytes k).length = 32 + packetRound k.data.length := by
  have hr : k.data.length ≤ packetRound k.data.length := by unfold packetRound; omega
  simp only [packetBytes, zeroFill, List.length_append, List.length_cons, List.length_nil, Laws.length_bytesOfNat, List.length_replicate]
  omega

end Sys2Proof.Machine
end

section
namespace Sys2Proof.Machine

/-! ## Flit groups as they arrive (R395, R399) -/

section
variable (k : Packet) (zs : List Byte)

/-- The bytes after a packet's header. -/
theorem packetBytes_drop : (packetBytes k ++ zs).drop 32 = zeroFill (packetRound k.data.length) k.data ++ zs := rfl

theorem packet_ids : BitVec.ofNat 16 (field (packetBytes k ++ zs) 2 2) = k.owntag ∧
    BitVec.ofNat 16 (field (packetBytes k ++ zs) 4 2) = k.node ∧ BitVec.ofNat 16 (field (packetBytes k ++ zs) 6 2) = k.rid := by
  have hread (x : BitVec 16) : BitVec.ofNat 16 (natOfBytes (bytesOfNat 2 x.toNat)) = x := by
    rw [natOfBytes_bytesOfNat, Nat.mod_eq_of_lt (show x.toNat < 256 ^ 2 from x.isLt), BitVec.ofNat_toNat, BitVec.setWidth_eq]
  exact ⟨hread k.owntag, hread k.node, hread k.rid⟩

theorem packet_extent (hl : k.len < 2 ^ 32) (ho : k.offset < 2 ^ 64) : field (packetBytes k ++ zs) 0x0C 4 = k.len ∧
    field (packetBytes k ++ zs) 0x10 8 = k.offset := by
  have hlen : field (packetBytes k ++ zs) 0x0C 4 = natOfBytes (bytesOfNat 4 k.len) := rfl
  have hoff : field (packetBytes k ++ zs) 0x10 8 = natOfBytes (bytesOfNat 8 k.offset) := rfl
  rw [hlen, hoff, natOfBytes_bytesOfNat, natOfBytes_bytesOfNat]
  exact ⟨Nat.mod_eq_of_lt hl, Nat.mod_eq_of_lt ho⟩

/-- A packet is read back from its bytes, whatever follows them. -/
theorem packetAt_packetBytes (hz : k.zeros = true) (hl : k.len < 2 ^ 32) (ho : k.offset < 2 ^ 64)
    (hd : k.data.length = packetExtent k.ptype k.len) : packetAt (packetBytes k ++ zs) = k := by
  obtain ⟨htag, hnode, hrid⟩ := packet_ids k zs
  obtain ⟨hlen, hoff⟩ := packet_extent k zs hl ho
  have htype : (packetBytes k ++ zs).getD 0 0 = k.ptype := rfl
  have hdata : ((packetBytes k ++ zs).drop 32).take (packetExtent k.ptype k.len) = k.data := by
    rw [packetBytes_drop, ← hd, zeroFill, List.append_assoc, List.take_left]
  unfold packetAt
  dsimp only
  rw [htype, hlen, hoff, htag, hnode, hrid, hdata]
  have hres : (field (packetBytes k ++ zs) 0x0A 2 == 0 && field (packetBytes k ++ zs) 0x18 8 == 0) = true := by
    have hlow : field (packetBytes k ++ zs) 0x0A 2 = natOfBytes (bytesOfNat 2 0) := rfl
    have hhigh : field (packetBytes k ++ zs) 0x18 8 = natOfBytes (bytesOfNat 8 0) := rfl
    rw [hlow, hhigh, natOfBytes_bytesOfNat, natOfBytes_bytesOfNat, Nat.zero_mod, Nat.zero_mod]
    rfl
  rw [hres, ← hz]
  rfl

end

section
variable {x : Port} {slot : Fin 8} {g : GroupHeader}

/-- Zeros after the packets of a group. -/
theorem takePackets_zeros (x : Port) (slot : Fin 8) (g : GroupHeader) (n : Nat) : ∀ m, x.takePackets slot g m (List.replicate n 0) = x
  | 0 => rfl
  | m + 1 => by
    have htype : (packetAt (List.replicate n 0)).ptype = 0 := by
      show (List.replicate n (0 : Byte)).getD 0 0 = 0
      cases n <;> rfl
    rw [Port.takePackets]
    exact if_pos (.inr htype)

/-- What a port has after a group with one packet. -/
theorem takePackets_one {k : Packet} {n m : Nat} (hz : k.zeros = true) (hl : k.len < 2 ^ 32) (ho : k.offset < 2 ^ 64)
    (hd : k.data.length = packetExtent k.ptype k.len) : x.takePackets slot g (m + 1) (packetBytes k ++ List.replicate n 0) = { x with
      rx := if (1 ≤ k.ptype.toNat ∧ k.ptype.toNat ≤ 6) ∧ k.owntag = g.owntag ∧ k.node = g.node then x.rx ++ [(slot, k)] else x.rx
      authDrop := if 7 ≤ k.ptype.toNat then satAdd32 x.authDrop 1 else x.authDrop
      tagDrop := if (1 ≤ k.ptype.toNat ∧ k.ptype.toNat ≤ 6) ∧ ¬ (k.owntag = g.owntag ∧ k.node = g.node) then satAdd32 x.tagDrop 1
        else x.tagDrop } := by
  have hlen := length_packetBytes k
  have hsize : (packetBytes k ++ List.replicate n 0).length = 32 + packetRound k.data.length + n := by
    rw [List.length_append, hlen, List.length_replicate]
  have hrest : (packetBytes k ++ List.replicate n (0 : Byte)).drop (32 + packetRound k.data.length) = List.replicate n 0 :=
    List.drop_left' hlen
  have hzero : k.ptype = 0 ↔ k.ptype.toNat = 0 := ⟨fun h => by rw [h]; rfl, fun h => BitVec.eq_of_toNat_eq h⟩
  rw [Port.takePackets, packetAt_packetBytes k _ hz hl ho hd, ← hd, hsize, hrest]
  by_cases h0 : k.ptype.toNat = 0
  · rw [if_pos (.inr (hzero.mpr h0))]
    simp [h0]
  · rw [if_neg (by rw [hzero]; omega)]
    by_cases h7 : 7 ≤ k.ptype.toNat
    · rw [if_pos (.inl h7)]
      simp [h7, show ¬ k.ptype.toNat ≤ 6 by omega]
      rfl
    · have hknown : 1 ≤ k.ptype.toNat ∧ k.ptype.toNat ≤ 6 := by omega
      rw [if_neg (by omega)]
      by_cases hown : k.owntag = g.owntag ∧ k.node = g.node
      · rw [if_neg (by simp [hown]), takePackets_zeros, if_neg (fun h => h.2 hown), if_neg h7, if_pos ⟨hknown, hown⟩]
      · rw [if_pos (by simpa only [ne_eq, ← not_and_or] using hown), takePackets_zeros, if_pos ⟨hknown, hown⟩, if_neg h7,
          if_neg (fun h => hown h.2)]
        rfl

/-- What packets leave of a port. -/
theorem takePackets_keeps : ∀ (n : Nat) (x : Port) (bs : List Byte),
    (x.takePackets slot g n bs).pending = x.pending ∧ (x.takePackets slot g n bs).replies = x.replies
  | 0, _, _ => ⟨rfl, rfl⟩
  | n + 1, x, bs => by
    rw [Port.takePackets]
    split
    · exact ⟨rfl, rfl⟩
    · split
      · exact ⟨rfl, rfl⟩
      · split
        · exact takePackets_keeps n _ _
        · exact takePackets_keeps n _ _

end

section
variable {s : State} {p : Fin 12} {sender : Fin 12} {bytes : List Byte}

theorem flitGroup_ignored (he : (s.port p).en = true) (hu : (s.port p).up = true) (h : (s.port p).fenced = true ∨ s.regs.viral = true) :
    exec (.flitGroupReceive p ⟨sender, bytes⟩) s = .next s := by
  have h : ((s.port p).fenced || s.regs.viral) = true := by simpa using h
  show execFlitGroupReceive p ⟨sender, bytes⟩ s = _
  simp only [execFlitGroupReceive, he, hu, h, Bool.not_true, Bool.or_self, Bool.false_eq_true, if_false, if_true]

theorem logPlain_ports (s : State) (cls src unit : Nat) : (s.logPlain cls src unit).ports = s.ports := by
  unfold State.logPlain State.logError
  rfl

/-- A port that takes groups. -/
def Port.takes (x : Port) : Prop := x.en = true ∧ x.up = true ∧ x.fenced = false

theorem flitGroup_unbounded (h : (s.port p).takes) (hv : s.regs.viral = false)
    (hn : (groupHeader bytes).nflit = 0 ∨ 16 < (groupHeader bytes).nflit) :
    ∃ t, exec (.flitGroupReceive p ⟨sender, bytes⟩) s = .next t ∧
      t.port p = { s.port p with fenced := true, authDrop := satAdd32 (s.port p).authDrop 1 } := by
  obtain ⟨he, hu, hf⟩ := h
  refine ⟨s.fenceBadGroup p, ?_, ?_⟩
  · show execFlitGroupReceive p ⟨sender, bytes⟩ s = _
    simp only [execFlitGroupReceive, he, hu, hf, hv, hn, Bool.not_true, Bool.or_self, Bool.false_eq_true, if_false, if_true]
  · have hport : (s.putPort p { s.port p with fenced := true, authDrop := satInc (s.port p).authDrop }).port p =
        { s.port p with fenced := true, authDrop := satAdd32 (s.port p).authDrop 1 } := port_putPort ..
    unfold State.fenceBadGroup
    rw [State.port, logPlain_ports]
    exact hport

/-- A group opened under a key slot: its count is noted, and its packets and credits are taken. -/
def State.groupOpened (s : State) (p : Fin 12) (k : Fin 8) (key : KeySlot) (g : GroupHeader) (payload : List Byte) : State :=
  let key := { key with lastIn := key.lastIn.set p.val (some g.gcnt) p.isLt }
  let x := { s.port p with credits := Nat.min 64 ((s.port p).credits + g.rcred) }
  { s with keys := s.keys.set k.val (some key) k.isLt }.setPort p (x.takePackets k g 128 payload)

/-- Whether a group comes after the last one under its key, to this node. -/
def KeySlot.follows (key : KeySlot) (p : Fin 12) (node : BitVec 16) (g : GroupHeader) : Bool :=
  (match key.lastIn[p] with
    | some n => decide (n < g.gcnt)
    | none => true) && g.dnode == node

theorem flitGroup_untagged (h : (s.port p).takes) (hv : s.regs.viral = false)
    (hn : ¬ ((groupHeader bytes).nflit = 0 ∨ 16 < (groupHeader bytes).nflit)) (hk : s.slotFor p (groupHeader bytes).owntag = none) :
    exec (.flitGroupReceive p ⟨sender, bytes⟩) s =
      .next (s.setPort p { s.port p with tagDrop := satAdd32 (s.port p).tagDrop 1 }) := by
  obtain ⟨he, hu, hf⟩ := h
  show execFlitGroupReceive p ⟨sender, bytes⟩ s = _
  simp only [execFlitGroupReceive, he, hu, hf, hv, hn, hk, Bool.not_true, Bool.or_self, Bool.false_eq_true, if_false, satInc]

section
variable {k : Fin 8} {key : KeySlot}

theorem flitGroup_dropped (h : (s.port p).takes) (hv : s.regs.viral = false)
    (hn : ¬ ((groupHeader bytes).nflit = 0 ∨ 16 < (groupHeader bytes).nflit)) (hs : s.slotFor p (groupHeader bytes).owntag = some k)
    (hk : s.keys[k] = some key)
    (ho : (if key.follows p s.regs.nodeId (groupHeader bytes) then openGroup key.key sender bytes else none) = none) :
    exec (.flitGroupReceive p ⟨sender, bytes⟩) s =
      .next (s.setPort p { s.port p with authDrop := satAdd32 (s.port p).authDrop 1 }) := by
  obtain ⟨he, hu, hf⟩ := h
  show execFlitGroupReceive p ⟨sender, bytes⟩ s = _
  simp only [execFlitGroupReceive, he, hu, hf, hv, hn, hs, hk, Bool.not_true, Bool.or_self, Bool.false_eq_true, if_false, satInc]
  split
  · rfl
  · rename_i payload hp
    exact absurd (hp.symm.trans ho) (Option.some_ne_none payload)

theorem flitGroup_opened {payload : List Byte} (h : (s.port p).takes) (hv : s.regs.viral = false)
    (hn : ¬ ((groupHeader bytes).nflit = 0 ∨ 16 < (groupHeader bytes).nflit)) (hs : s.slotFor p (groupHeader bytes).owntag = some k)
    (hk : s.keys[k] = some key)
    (ho : (if key.follows p s.regs.nodeId (groupHeader bytes) then openGroup key.key sender bytes else none) = some payload) :
    exec (.flitGroupReceive p ⟨sender, bytes⟩) s =
      .next ((s.groupOpened p k key (groupHeader bytes) payload).noteDrained.pump p) := by
  obtain ⟨he, hu, hf⟩ := h
  show execFlitGroupReceive p ⟨sender, bytes⟩ s = _
  simp only [execFlitGroupReceive, he, hu, hf, hv, hn, hs, hk, Bool.not_true, Bool.or_self, Bool.false_eq_true, if_false, State.groupOpened]
  split
  · rename_i hp
    exact absurd (ho.symm.trans hp) (Option.some_ne_none payload)
  · rename_i opened hp
    obtain rfl : opened = payload := Option.some.inj (hp.symm.trans ho)
    rfl

theorem follows_eq_false {node : BitVec 16} {g : GroupHeader} (h : g.dnode ≠ node ∨ ∃ n, key.lastIn[p] = some n ∧ g.gcnt ≤ n) :
    key.follows p node g = false := by
  unfold KeySlot.follows
  rcases h with h | ⟨n, hn, hg⟩
  · rw [beq_eq_false_iff_ne.mpr h, Bool.and_false]
  · simp only [hn, decide_eq_false (Nat.not_lt.mpr hg), Bool.false_and]

theorem follows_eq_true {node : BitVec 16} {g : GroupHeader} (hd : g.dnode = node) (h : ∀ n, key.lastIn[p] = some n → n < g.gcnt) :
    key.follows p node g = true := by
  unfold KeySlot.follows
  rw [beq_iff_eq.mpr hd, Bool.and_true]
  split
  · exact decide_eq_true (h _ ‹_›)
  · rfl

/-- A port with nothing to send after a group was opened. -/
theorem groupOpened_quiet {g : GroupHeader} {payload : List Byte} (hp : (s.port p).pending = []) (hr : (s.port p).replies = []) :
    ((s.groupOpened p k key g payload).noteDrained.pump p).keys[k] =
        some { key with lastIn := key.lastIn.set p.val (some g.gcnt) p.isLt } ∧
      ((s.groupOpened p k key g payload).noteDrained.pump p).port p =
        Port.takePackets { s.port p with credits := min 64 ((s.port p).credits + g.rcred) } k g 128 payload := by
  have hport : (s.groupOpened p k key g payload).noteDrained.port p =
      Port.takePackets { s.port p with credits := min 64 ((s.port p).credits + g.rcred) } k g 128 payload := by
    rw [State.port, noteDrained_ports]
    exact port_setPort ..
  obtain ⟨hpend, hrep⟩ := takePackets_keeps (slot := k) (g := g) 128
    { s.port p with credits := min 64 ((s.port p).credits + g.rcred) } payload
  rw [pump_quiet (by rw [hport, hpend]; exact hp) (by rw [hport, hrep]; exact hr)]
  refine ⟨?_, hport⟩
  unfold State.noteDrained State.groupOpened
  simp

end

/-- No key slot has a tag on a port. -/
theorem slotFor_eq_none {tag : BitVec 16} (h : ∀ (k : Fin 8) y, s.keys[k] = some y → ¬ (y.tag = tag ∧ y.ports.getLsbD p.val = true)) :
    s.slotFor p tag = none := by
  refine List.find?_eq_none.mpr fun k _ => ?_
  split
  · rename_i y hy
    have := h k y hy
    simpa using this
  · exact Bool.false_ne_true

/-! ### Flits that are no group (R322, R394) -/

theorem viralFlit_fences (he : (s.port p).en = true) (hu : (s.port p).up = true) : ∃ t, exec (.viralFlitReceive p) s = .next t ∧
    t.port p = { s.port p with viralIn := true, fenced := true } ∧ ∀ q, q ≠ p → t.port q = s.port q := by
  refine ⟨s.putPort p { s.port p with viralIn := true, fenced := true }, ?_, port_putPort .., fun q hq => port_putPort_ne s _ hq⟩
  show execViralFlitReceive p s = _
  simp only [execViralFlitReceive, he, hu, Bool.and_self, if_true]

theorem invalidFlit_drops {ty : Byte} (he : (s.port p).en = true) (hu : (s.port p).up = true) (h : 3 ≤ ty.toNat) :
    exec (.invalidFlit p ty) s =
      .next (if (s.port p).fenced then s else s.setPort p { s.port p with authDrop := satAdd32 (s.port p).authDrop 1 }) := by
  show execInvalidFlit p ty s = _
  simp only [execInvalidFlit, he, hu, h, decide_true, Bool.and_self, if_true, satInc]

end

end Sys2Proof.Machine
end

section
namespace Sys2Proof.Machine

/-! ## Requests of a peer (R396, R397, R400) -/

section
variable {s t u : State} {p : Fin 12} {slot : Fin 8} {k : Packet} {rest : List (Fin 8 × Packet)}

/-- A state in which the first packet of a port has been taken. -/
def State.rxTaken (s : State) (p : Fin 12) (rest : List (Fin 8 × Packet)) : State := s.setPort p { s.port p with rx := rest }

theorem takeRx_first {ty : Byte} (hr : (s.port p).rx = (slot, k) :: rest) (hf : (s.port p).fenced = false) (hv : s.regs.viral = false)
    (ht : k.ptype = ty) : s.takeRx p ty k = some (s.rxTaken p rest, slot) := by
  subst ht
  simp [State.takeRx, hr, hf, hv, State.rxTaken]

/-- The answer to a request, and what the port sends then. -/
def State.answered (t : State) (p : Fin 12) (slot : Fin 8) (k : Packet) (st : Byte) (data : List Byte) : State :=
  (t.answer p slot k st data).noteDrained.pump p

theorem request_answered {mn : String} {ty st : Byte} {data : List Byte} (h : s.takeRx p ty k = some (u, slot))
    (hs : u.serve p k = (t, st, data)) : s.request mn p ty k = .next (t.answered p slot k st data) := by
  simp only [State.request, h, hs]
  rfl

/-! ### The window (R400) -/

theorem windowStatus_revoked (hk : k.xw.toNat < 32) (he : (s.exps[winOf k.xw.toNat]).en = false) : s.windowStatus k = 1 := by
  simp only [State.windowStatus, hk, he, Bool.not_false, and_self, if_true]
  rfl

theorem requestOk_window (h : 32 ≤ k.xw.toNat) : requestOk k = false := by
  simp [requestOk, Nat.not_lt.mpr h]

theorem windowStatus_noAccess (h : 32 ≤ k.xw.toNat ∨ (s.exps[winOf k.xw.toNat]).en = true ∧
    ((s.exps[winOf k.xw.toNat]).size * 0x10000 < k.offset + reachOf k ∨ ((s.exps[winOf k.xw.toNat]).w = false ∧ k.ptype ≠ 1) ∨
      requestOk k = false)) : s.windowStatus k = 2 := by
  unfold State.windowStatus
  dsimp only
  generalize s.exps[winOf k.xw.toNat] = x at h ⊢
  rw [if_neg, if_neg]
  · rfl
  · intro hc
    simp only [Bool.and_eq_true, Bool.or_eq_true, decide_eq_true_eq, beq_iff_eq] at hc
    obtain ⟨⟨⟨hok, -⟩, hfit⟩, hw⟩ := hc
    rcases h with h | ⟨-, h | ⟨hx, hp⟩ | h⟩
    · rw [requestOk_window h] at hok
      exact nomatch hok
    · exact absurd hfit (Nat.not_le.mpr h)
    · rcases hw with hw | hw
      · exact hp hw
      · rw [hx] at hw
        exact nomatch hw
    · rw [h] at hok
      exact nomatch hok
  · rintro ⟨hk, he⟩
    rcases h with h | ⟨hx, -⟩
    · omega
    · rw [hx] at he
      exact nomatch he

/-! ### Requests performed (R397) -/

/-- The data of the answer to a request that was not performed. -/
def emptyAnswer (k : Packet) : List Byte := if k.ptype = 3 then List.replicate 32 0 else []

theorem serve_refused (h : s.windowStatus k ≠ 0) : s.serve p k = (s, s.windowStatus k, emptyAnswer k) := by
  unfold State.serve
  exact if_pos h

/-- What a request leaves that met a memory error. -/
def State.peerNoted (t : State) (e : MemErr) (write : Bool) (pa : Nat) : State :=
  if e = .unmapped then t.faultNow peerAccessor .paErr write pa else t

theorem peerError_eq (t : State) (e : MemErr) (write : Bool) (pa : Nat) :
    t.peerError e write pa = (t.peerNoted e write pa, if e = .fenced then 4 else 3) := by
  cases e <;> rfl

theorem serve_rd {bs : List Byte} (hw : s.windowStatus k = 0) (hk : k.ptype = 1)
    (hr : s.readDevBy (.peer p) (s.windowPa k) k.len = (t, .ok bs)) : s.serve p k = (t, 0, bs) := by
  simp only [State.serve, hw, hk, hr, show stOk = 0 from rfl, show ptRd = 1 from rfl, ne_eq, not_true_eq_false, if_false, if_true]

theorem serve_rdFails {e : MemErr} (hw : s.windowStatus k = 0) (hk : k.ptype = 1)
    (hr : s.readDevBy (.peer p) (s.windowPa k) k.len = (t, .error e)) :
    s.serve p k = (t.peerNoted e false (s.windowPa k), if e = .fenced then 4 else 3, emptyAnswer k) := by
  simp only [State.serve, hw, hk, hr, peerError_eq, emptyAnswer, show stOk = 0 from rfl, show ptRd = 1 from rfl, ne_eq, not_true_eq_false, if_false,
    if_true, show ¬ ((1 : Byte) = 3) by decide]

/-- The ranges that a peer's write made, as its watch sees them. -/
def State.peerLogged (t : State) (p : Fin 12) (k : Packet) (made : List (Nat × Nat)) : State :=
  t.logWrites (peerWatch p k) (made.map fun y => (y.1, y.2, none))

theorem serve_wr (hw : s.windowStatus k = 0) (hk : k.ptype = 2) (hr : s.writeDev (s.windowPa k) k.data = (t, .ok ())) :
    s.serve p k = (t.peerLogged p k (s.madeRanges (s.windowPa k) k.len), 0, []) := by
  simp only [State.serve, hw, hk, hr, show stOk = 0 from rfl, show ptRd = 1 from rfl, show ptWr = 2 from rfl, ne_eq, not_true_eq_false,
    if_false, if_true, show ¬ ((2 : Byte) = 1) by decide]
  rfl

theorem serve_wrFails {e : MemErr} (hw : s.windowStatus k = 0) (hk : k.ptype = 2)
    (hr : s.writeDev (s.windowPa k) k.data = (t, .error e)) : s.serve p k =
      ((t.peerLogged p k (s.madeRanges (s.windowPa k) k.len)).peerNoted e true (s.windowPa k), if e = .fenced then 4 else 3, emptyAnswer k) := by
  simp only [State.serve, hw, hk, hr, peerError_eq, emptyAnswer, show stOk = 0 from rfl, show ptRd = 1 from rfl, show ptWr = 2 from rfl, ne_eq,
    not_true_eq_false, if_false, if_true, show ¬ ((2 : Byte) = 1) by decide, show ¬ ((2 : Byte) = 3) by decide]
  rfl

theorem serve_amo {bs : List Byte} {op : AtomOp} (hw : s.windowStatus k = 0) (hk : k.ptype = 3)
    (hr : s.readDev .agent (s.windowPa k) (reachOf k) = (t, .ok bs)) (ho : Machine.atomOf (k.aop.toNat % 16) = some op) :
    s.serve p k = ((t.writeDev (s.windowPa k) (bytesOfNat (reachOf k)
      (atomNew (8 * reachOf k) op (natOfBytes bs) (field k.data 0 (reachOf k)) (field k.data 8 (reachOf k))))).1.peerLogged p k
        [(s.windowPa k, reachOf k)], 0, bytesOfNat 32 (natOfBytes bs)) := by
  simp only [State.serve, hw, hk, hr, ho, Option.getD_some, show stOk = 0 from rfl, show ptRd = 1 from rfl, show ptWr = 2 from rfl, ne_eq,
    not_true_eq_false, if_false, show ¬ ((3 : Byte) = 1) by decide, show ¬ ((3 : Byte) = 2) by decide]
  rfl

theorem serve_amoFails {e : MemErr} (hw : s.windowStatus k = 0) (hk : k.ptype = 3)
    (hr : s.readDev .agent (s.windowPa k) (reachOf k) = (t, .error e)) :
    s.serve p k = (t.peerNoted e true (s.windowPa k), if e = .fenced then 4 else 3, emptyAnswer k) := by
  simp only [State.serve, hw, hk, hr, peerError_eq, emptyAnswer, show stOk = 0 from rfl, show ptRd = 1 from rfl, show ptWr = 2 from rfl,
    show ptAmo = 3 from rfl, ne_eq, not_true_eq_false, if_false, if_true, show ¬ ((3 : Byte) = 1) by decide,
    show ¬ ((3 : Byte) = 2) by decide]

/-! ### The answer as it is sent -/

/-- A packet sent under a key that is not exhausted. -/
theorem sendPacket_eq {node : BitVec 16} {key : KeySlot} (hk : s.keys[slot] = some key) (hs : key.sent[p] < 2 ^ 48) :
    ∃ v, s.sendPacket p slot node k = some v ∧ v.port p = { s.port p with
      tx := (s.port p).tx ++ [.group (groupBytes key.key p ⟨flitsFor k, key.tag, s.regs.nodeId, node, key.sent[p], min (s.port p).owed 64⟩
        (packetBytes { k with owntag := key.tag, node := s.regs.nodeId }))]
      owed := (s.port p).owed - min (s.port p).owed 64 } := by
  have hlim : ¬ keyLimit ≤ key.sent[p] := Nat.not_le.mpr hs
  unfold State.sendPacket
  rw [hk]
  dsimp only
  rw [if_neg hlim]
  exact ⟨_, rfl, port_setPort ..⟩

/-- A port with one answer waiting, and nothing else, sends it. -/
theorem pump_reply {v : State} {r : PeerReply} (hc : u.carries p = true) (hr : (u.port p).replies = [r])
    (hv : (u.setPort p { u.port p with owed := (u.port p).owed + 1 }).sendPacket p r.slot r.node r.pkt = some v)
    (hp : (v.port p).pending = []) : ((u.pump p).port p).tx = (v.port p).tx := by
  have hrep : u.pumpReplies p [r] = (v, []) := by
    rw [State.pumpReplies, hv]
    rfl
  unfold State.pump
  rw [if_pos hc, hr, hrep]
  dsimp only
  rw [port_setPort]
  dsimp only
  rw [hp, State.pumpRequests, port_setPort, port_setPort]

theorem answered_tx {st : Byte} {data : List Byte} {key : KeySlot} (hk : t.keys[slot] = some key) (hs : key.sent[p] < 2 ^ 48)
    (hc : t.carries p = true) (hr : (t.port p).replies = []) (hp : (t.port p).pending = []) :
    ((t.answered p slot k st data).port p).tx = (t.port p).tx ++
      [.group (groupBytes key.key p ⟨flitsFor (responseTo k st data), key.tag, t.regs.nodeId, k.node, key.sent[p],
        min ((t.port p).owed + 1) 64⟩ (packetBytes { responseTo k st data with owntag := key.tag, node := t.regs.nodeId }))] := by
  have hport : (t.answer p slot k st data).noteDrained.port p =
      { t.port p with replies := [⟨slot, k.node, responseTo k st data⟩] } := by
    rw [State.port, noteDrained_ports, State.answer]
    dsimp only
    rw [hr]
    exact port_setPort ..
  have hkeys : (t.answer p slot k st data).noteDrained.keys = t.keys := by
    unfold State.noteDrained
    rfl
  have hregs : (t.answer p slot k st data).noteDrained.regs = t.regs := by
    unfold State.noteDrained
    rfl
  unfold State.answered
  generalize (t.answer p slot k st data).noteDrained = u at hport hkeys hregs ⊢
  have hcu : u.carries p = true := by
    rw [← hc]
    simp only [State.carries, hport, hregs]
  obtain ⟨v, hv, hvp⟩ := sendPacket_eq (s := u.setPort p { u.port p with owed := (u.port p).owed + 1 }) (p := p) (node := k.node)
    (k := responseTo k st data) (by rw [setPort_keys, hkeys]; exact hk) hs
  rw [port_setPort, hport, setPort_regs, hregs] at hvp
  rw [pump_reply (v := v) hcu (r := ⟨slot, k.node, responseTo k st data⟩) (by rw [hport]) hv (by rw [hvp]; exact hp), hvp]

end

end Sys2Proof.Machine
end

section
namespace Sys2Proof.Machine

/-! ## Requests of this package that fail (R198, R397, R402) -/

/-- Every copy that a request is part of has failed for its window. -/
def State.CopyFailing (t : State) (r : PeerRequest) : Prop := ∀ c ∈ (t.tile r.tile).copyq, c.id = r.copy → c.stage = .failing .window

/-- Between two states requests have failed: what has failed stays so, no answer is given to a command, and no window is opened or
revoked. -/
structure State.Fails (s t : State) : Prop where
  failing : ∀ r, s.CopyFailing r → t.CopyFailing r
  reply : t.reply = s.reply
  revoking : t.regs.revoking = s.regs.revoking
  en : ∀ w : Fin 32, (t.imps[w]).en = (s.imps[w]).en

section
variable {s t u : State} {p q : Fin 12} {r : PeerRequest}

theorem State.Fails.refl (s : State) : s.Fails s := ⟨fun _ h => h, rfl, rfl, fun _ => rfl⟩

theorem State.Fails.trans (h : s.Fails t) (g : t.Fails u) : s.Fails u where
  failing r hr := g.failing r (h.failing r hr)
  reply := g.reply.trans h.reply
  revoking := g.revoking.trans h.revoking
  en w := (g.en w).trans (h.en w)

theorem fails_of_frame (ht : t.tiles = s.tiles) (hr : t.reply = s.reply) (hv : t.regs.revoking = s.regs.revoking) (hi : t.imps = s.imps) :
    s.Fails t where
  failing r h c hc := h c (by simpa only [State.tile, ht] using hc)
  reply := hr
  revoking := hv
  en w := by simp only [hi]

theorem fails_foldl {α : Type} {g : State → α → State} (h : ∀ (s : State) (x : α), s.Fails (g s x)) :
    ∀ (xs : List α) (s : State), s.Fails (xs.foldl g s)
  | [], s => .refl s
  | x :: xs, s => (h s x).trans (fails_foldl h xs _)

theorem MemFrame.fails (h : MemFrame s t) : s.Fails t :=
  fails_of_frame h.tiles h.reply (congrArg PkgRegs.revoking h.regs :) h.imps

theorem State.Sends.fails (h : State.Sends p s t) : s.Fails t :=
  fails_of_frame (congrArg State.tiles h.frame :) (congrArg State.reply h.frame :) (congrArg (fun v : State => v.regs.revoking) h.frame :)
    (congrArg State.imps h.frame :)

theorem fails_setPort (s : State) (p : Fin 12) (x : Port) : s.Fails (s.setPort p x) := fails_of_frame rfl rfl rfl rfl

/-! ### One copy fails -/

theorem faultCode_ports (s : State) (a : Accessor) (kind : Nat) (write : Bool) (addr : Nat) :
    s.Fails (s.faultCode a kind write addr) ∧ (s.faultCode a kind write addr).ports = s.ports := by
  unfold State.faultCode
  split
  · exact ⟨fails_of_frame rfl rfl rfl rfl, rfl⟩
  · have h := memFrame_pushFault s (faultBytes a kind write true addr 0 s.time)
    exact ⟨h.fails, h.ports⟩

theorem streamRecord_ports (s : State) (i : TileId) (c : CopyCmd) (e : CopyFailCause) :
    s.Fails (s.streamRecord i c e) ∧ (s.streamRecord i c e).ports = s.ports := by
  unfold State.streamRecord
  split
  · obtain ⟨hf, hp⟩ := faultCode_ports { s with draws := s.draws + 1 } (({ s with draws := s.draws + 1 } : State).copyAccessor i true)
      (Config.streamFault s.draws).toNat false (field c.desc 0x0C 8)
    exact ⟨.trans (t := { s with draws := s.draws + 1 }) (fails_of_frame rfl rfl rfl rfl) hf, hp⟩
  · exact ⟨.refl s, rfl⟩

theorem winEnded_ports (s : State) (w : Fin 32) : s.Fails (s.winEnded w) ∧ (s.winEnded w).ports = s.ports := by
  unfold State.winEnded
  dsimp only
  split
  · refine ⟨⟨fun _ h => h, rfl, rfl, fun v => ?_⟩, rfl⟩
    by_cases hv : v = w
    · subst hv
      simp
    · have hne : w.val ≠ v.val := fun e => hv (Fin.ext e.symm)
      simp [Vector.getElem_set_ne _ _ hne]
  · exact ⟨.refl s, rfl⟩

/-- The requests that a failed copy leaves. -/
def PeerRequest.stays (i : TileId) (id : Nat) (r : PeerRequest) : Bool := !(r.tile == i && r.copy == id && !r.sent)

theorem dropRequests_ports (s : State) (pick : PeerRequest → Bool) : s.Fails (s.dropRequests pick) ∧
    (s.dropRequests pick).ports = s.ports.map fun (x : Port) => { x with pending := x.pending.filter fun r => !pick r } := by
  unfold State.dropRequests State.winsEnded
  dsimp only
  generalize hu : ({ s with ports := s.ports.map fun (x : Port) => { x with pending := x.pending.filter fun r => !pick r } } : State) = u
  have hs : s.Fails u := by
    rw [← hu]
    exact fails_of_frame rfl rfl rfl rfl
  have hp : u.ports = s.ports.map fun (x : Port) => { x with pending := x.pending.filter fun r => !pick r } := by rw [← hu]
  have hfold : ∀ (rs : List PeerRequest) (v : State), (rs.foldl (fun s r => s.winEnded r.win) v).ports = v.ports := by
    intro rs
    induction rs with
    | nil => exact fun _ => rfl
    | cons r rs ih => exact fun v => (ih _).trans (winEnded_ports v r.win).2
  exact ⟨hs.trans (fails_foldl (fun s (r : PeerRequest) => (winEnded_ports s r.win).1) _ u), (hfold _ u).trans hp⟩

theorem mapCopy_failing (y : Tile) (id : Nat) (n : Nat) (h : n = id ∨ ∀ c ∈ y.copyq, c.id = n → c.stage = .failing .window) :
    ∀ c ∈ (y.mapCopy id fun c => { c with stage := .failing .window }).copyq, c.id = n → c.stage = .failing .window := by
  intro c hc hid
  obtain ⟨x, hx, rfl⟩ := List.mem_map.mp hc
  by_cases hi : x.id = id
  · simp only [hi, beq_self_eq_true, if_true]
  · have hn : (x.id == id) = false := beq_eq_false_iff_ne.mpr hi
    simp only [hn, Bool.false_eq_true, if_false] at hid ⊢
    rcases h with rfl | h
    · exact absurd hid hi
    · exact h x hx hid

/-- A state with a copy marked as failed, and without the requests that it leaves. -/
theorem copyFailed {v : State} {i : TileId} {id : Nat} (hf : s.Fails v) (hp : v.ports = s.ports.map fun (x : Port) =>
    { x with pending := x.pending.filter (PeerRequest.stays i id) }) :
    let t := v.setTile i ((v.tile i).mapCopy id fun c => { c with stage := .failing .window })
    s.Fails t ∧ (∀ r : PeerRequest, r.tile = i → r.copy = id → t.CopyFailing r) ∧
      ∀ q, t.port q = { s.port q with pending := (s.port q).pending.filter (PeerRequest.stays i id) } := by
  intro t
  have hset : v.Fails t :=
    { failing := fun r hr => by
        unfold State.CopyFailing
        by_cases hi : r.tile = i
        · rw [hi, tile_setTile]
          refine mapCopy_failing _ id _ (.inr ?_)
          rw [← hi]
          exact hr
        · rw [tile_setTile_ne _ _ hi]
          exact hr
      reply := rfl
      revoking := rfl
      en := fun _ => rfl }
  refine ⟨hf.trans hset, fun r hi hc => ?_, fun q => ?_⟩
  · unfold State.CopyFailing
    rw [hi, tile_setTile]
    exact mapCopy_failing _ id _ (.inl hc)
  · show v.ports[q] = _
    rw [hp]
    simp only [Fin.getElem_fin, Vector.getElem_map]
    rfl

/-- A copy that fails for its window: what it leaves of the ports, and that it has failed. -/
theorem copyFails_window (s : State) (i : TileId) (id : Nat) : s.Fails (s.copyFails i id .window) ∧
    (∀ r : PeerRequest, r.tile = i → r.copy = id → (s.copyFails i id .window).CopyFailing r) ∧
    ∀ q, (s.copyFails i id .window).port q = { s.port q with pending := (s.port q).pending.filter (PeerRequest.stays i id) } := by
  unfold State.copyFails
  obtain ⟨hd, hdp⟩ := dropRequests_ports s fun r => r.tile == i && r.copy == id && !r.sent
  generalize s.dropRequests _ = u at hd hdp ⊢
  dsimp only
  split
  · rename_i c _
    obtain ⟨hf, hp⟩ := streamRecord_ports u i c .window
    exact copyFailed (hd.trans hf) (hp.trans hdp)
  · exact copyFailed hd hdp

/-! ### One request, and many -/

/-- A request of a port fails, and its copy with it. -/
def State.failRequest (s : State) (p : Fin 12) (r : PeerRequest) : State := (s.endRequest p r).copyFails r.tile r.copy .window

theorem failRequests_eq (s : State) (p : Fin 12) (rs : List PeerRequest) : s.failRequests p rs = rs.foldl (fun s r => s.failRequest p r) s := rfl

theorem endRequest_ports (s : State) (p : Fin 12) (r : PeerRequest) : s.Fails (s.endRequest p r) ∧
    (s.endRequest p r).ports = (s.setPort p { s.port p with pending := (s.port p).pending.erase r }).ports ∧
    (s.endRequest p r).tiles = s.tiles := by
  obtain ⟨hf, hp⟩ := winEnded_ports (s.setPort p { s.port p with pending := (s.port p).pending.erase r }) r.win
  have ht : ((s.setPort p { s.port p with pending := (s.port p).pending.erase r }).winEnded r.win).tiles = s.tiles := by
    unfold State.winEnded
    dsimp only
    split <;> rfl
  exact ⟨(fails_setPort ..).trans hf, hp, ht⟩

theorem endRequest_port (s : State) (p : Fin 12) (r : PeerRequest) :
    (s.endRequest p r).port p = { s.port p with pending := (s.port p).pending.erase r } := by
  rw [State.port, (endRequest_ports s p r).2.1, ← State.port, port_setPort]

theorem endRequest_port_ne (s : State) (r : PeerRequest) (h : q ≠ p) : (s.endRequest p r).port q = s.port q := by
  rw [State.port, (endRequest_ports s p r).2.1, ← State.port, port_setPort_ne _ _ h]

theorem fails_failRequest (s : State) (p : Fin 12) (r : PeerRequest) : s.Fails (s.failRequest p r) :=
  (endRequest_ports s p r).1.trans (copyFails_window _ r.tile r.copy).1

theorem failRequest_failing (s : State) (p : Fin 12) (r : PeerRequest) : (s.failRequest p r).CopyFailing r :=
  (copyFails_window _ r.tile r.copy).2.1 r rfl rfl

theorem failRequest_port (s : State) (p : Fin 12) (r : PeerRequest) : (s.failRequest p r).port p =
    { s.port p with pending := ((s.port p).pending.erase r).filter (PeerRequest.stays r.tile r.copy) } := by
  rw [State.failRequest, (copyFails_window _ r.tile r.copy).2.2 p, endRequest_port]

theorem failRequest_port_ne (s : State) (r : PeerRequest) (h : q ≠ p) : (s.failRequest p r).port q =
    { s.port q with pending := (s.port q).pending.filter (PeerRequest.stays r.tile r.copy) } := by
  rw [State.failRequest, (copyFails_window _ r.tile r.copy).2.2 q, endRequest_port_ne s r h]

theorem fails_failRequests (s : State) (p : Fin 12) (rs : List PeerRequest) : s.Fails (s.failRequests p rs) :=
  fails_foldl (fun s r => fails_failRequest s p r) rs s

/-- Requests that have failed leave of a port all but themselves. -/
theorem failRequests_ports (p q : Fin 12) : ∀ (rs : List PeerRequest) (s : State),
    { (s.failRequests p rs).port q with pending := (s.port q).pending } = s.port q ∧
      ((s.failRequests p rs).port q).pending.Sublist (s.port q).pending
  | [], s => ⟨rfl, .refl _⟩
  | r :: rs, s => by
    obtain ⟨hk, hs⟩ := failRequests_ports p q rs (s.failRequest p r)
    have hone : { (s.failRequest p r).port q with pending := (s.port q).pending } = s.port q ∧
        ((s.failRequest p r).port q).pending.Sublist (s.port q).pending := by
      by_cases h : q = p
      · subst h
        rw [failRequest_port]
        exact ⟨rfl, List.filter_sublist.trans List.erase_sublist⟩
      · rw [failRequest_port_ne s r h]
        exact ⟨rfl, List.filter_sublist⟩
    have hk := congrArg (fun x : Port => { x with pending := (s.port q).pending }) hk
    exact ⟨hk.trans hone.1, hs.trans hone.2⟩

theorem failRequests_failing {rs : List PeerRequest} (s : State) (p : Fin 12) (h : r ∈ rs) : (s.failRequests p rs).CopyFailing r :=
  foldl_made (P := fun s r => s.CopyFailing r) (g := fun s r => s.failRequest p r) (fun s _ x h => (fails_failRequest s p x).failing _ h)
    (fun s r => failRequest_failing s p r) rs s (.inr h)

/-- Of the requests with a property none is left once each has failed. -/
theorem filter_erase {pick : PeerRequest → Bool} (hr : pick r = true) : ∀ xs : List PeerRequest,
    (xs.erase r).filter pick = (xs.filter pick).erase r
  | [] => rfl
  | x :: xs => by
    by_cases hx : x = r
    · subst hx
      rw [List.erase_cons_head, List.filter_cons_of_pos hr, List.erase_cons_head]
    · have hne : ¬ (x == r) = true := by simpa using hx
      rw [List.erase_cons_tail hne]
      by_cases hp : pick x = true
      · rw [List.filter_cons_of_pos hp, List.filter_cons_of_pos hp, List.erase_cons_tail hne, filter_erase hr xs]
      · rw [List.filter_cons_of_neg hp, List.filter_cons_of_neg hp, filter_erase hr xs]

theorem failRequests_none (p : Fin 12) {pick : PeerRequest → Bool} : ∀ (rs : List PeerRequest) (s : State), (∀ r ∈ rs, pick r = true) →
    ((s.port p).pending.filter pick).Sublist rs → ((s.failRequests p rs).port p).pending.filter pick = []
  | [], s, _, h => List.sublist_nil.mp h
  | r :: rs, s, hp, h => by
    refine failRequests_none p rs (s.failRequest p r) (fun x hx => hp x (List.mem_cons_of_mem _ hx)) ?_
    rw [failRequest_port]
    have herase := h.erase r
    rw [List.erase_cons_head, ← filter_erase (hp r List.mem_cons_self)] at herase
    exact (List.filter_sublist.filter pick).trans herase

end

end Sys2Proof.Machine
end

section
namespace Sys2Proof.Machine

/-! ## Responses and timeouts (R397, R399, R402) -/

section
variable {s t u : State} {p q : Fin 12} {r : PeerRequest} {k : Packet} {slot : Fin 8} {mn : String} {ty req : Byte}

/-- A response whose request was given up before. -/
theorem response_late (h : s.takeRx p ty k = some (u, slot)) (hl : ∃ n ∈ (u.port p).stale, n.setWidth 16 = k.rid) :
    s.response mn p ty req k = .next (u.setPort p { u.port p with stale := (u.port p).stale.erase (k.rid.setWidth 12) }) := by
  have hany : ((u.port p).stale.any fun n => n.setWidth 16 == k.rid) = true := by simpa using hl
  simp only [State.response, h, hany, if_true]

theorem response_unmatched (h : s.takeRx p ty k = some (u, slot)) (hl : ¬ ∃ n ∈ (u.port p).stale, n.setWidth 16 = k.rid)
    (hp : (u.port p).pending = []) : s.response mn p ty req k = .next u := by
  have hany : ((u.port p).stale.any fun n => n.setWidth 16 == k.rid) = false := Bool.eq_false_iff.mpr fun h => hl (by simpa using h)
  simp only [State.response, h, hany, hp, List.find?_nil, Bool.false_eq_true, if_false]

/-- A response that answers the one request of its port. -/
structure Answers (s u : State) (p : Fin 12) (ty req : Byte) (k : Packet) (r : PeerRequest) : Prop where
  taken : ∃ slot, s.takeRx p ty k = some (u, slot)
  prompt : ¬ ∃ n ∈ (u.port p).stale, n.setWidth 16 = k.rid
  pending : (u.port p).pending = [r]
  sent : r.sent = true
  rid : r.rid.setWidth 16 = k.rid
  kind : r.pkt.ptype = req

/-- What is made of the answer to a request. -/
theorem response_answers (h : Answers s u p ty req k r) : s.response mn p ty req k =
    if k.status ≠ 0 then .next ((u.failRequest p r).pump p)
    else if req = ptRd ∧ k.data.length ≠ (if req = ptAmo then reachOf r.pkt else r.pkt.len) then .next u
    else .next ((if req = ptWr then (u.endRequest p r).logOutside (copyWatch r.tile r.copy) [(r.pkt.offset, reachOf r.pkt, r.page)]
      else (if req = ptRd then u.endRequest p r
        else (u.endRequest p r).logOutside (copyWatch r.tile r.copy) [(r.pkt.offset, reachOf r.pkt, r.page)]).fillImage r.tile r.copy r.off
          (k.data.take (if req = ptAmo then reachOf r.pkt else r.pkt.len))).pump p) := by
  obtain ⟨⟨slot, ht⟩, hl, hp, hs, hid, hk⟩ := h
  have hany : ((u.port p).stale.any fun n => n.setWidth 16 == k.rid) = false := Bool.eq_false_iff.mpr fun h => hl (by simpa using h)
  have hfind : ([r] : List PeerRequest).find? (fun r => r.sent && r.rid.setWidth 16 == k.rid && r.pkt.ptype == req) = some r := by
    simp [hs, hid, hk]
  simp only [State.response, ht, hany, hp, hfind, Bool.false_eq_true, if_false]
  by_cases hst : k.status ≠ 0
  · rw [if_pos hst, if_pos hst]
    rfl
  · rw [if_neg hst, if_neg hst]
    by_cases hw : req = ptWr
    · have hr : ¬ req = ptRd := by rw [hw]; decide
      simp only [if_pos hw, if_neg hr]
    · simp only [if_neg hw]

/-- A port with one request, after that request has failed. -/
theorem failRequest_last (hp : (u.port p).pending = [r]) : (((u.failRequest p r).pump p).port p).pending = [] ∧
    ((u.failRequest p r).pump p).CopyFailing r := by
  have hpend : ((u.failRequest p r).port p).pending = [] := by
    rw [failRequest_port, hp, List.erase_cons_head]
    rfl
  exact ⟨pump_pending _ p hpend, (sends_pump _ p).1.fails.failing r (failRequest_failing u p r)⟩

theorem response_fails (h : Answers s u p ty req k r) (hk : k.status ≠ 0) :
    ∃ t, s.response mn p ty req k = .next t ∧ (t.port p).pending = [] ∧ t.CopyFailing r := by
  refine ⟨_, ?_, failRequest_last h.pending⟩
  rw [response_answers h, if_pos hk]

/-- A copy of a tile replaced by one of its number. -/
theorem copy?_mapCopy {y : Tile} {id : Nat} {c d : CopyCmd} (h : y.copy? id = some c) (hd : d.id = id) :
    (y.mapCopy id fun _ => d).copy? id = some d := by
  unfold Tile.copy? Tile.mapCopy at *
  dsimp only
  generalize y.copyq = xs at h ⊢
  induction xs with
  | nil => cases h
  | cons x xs ih =>
    by_cases hx : (x.id == id) = true
    · rw [List.map_cons, if_pos hx, List.find?_cons_of_pos (by simpa using hd)]
    · rw [List.map_cons, if_neg hx]
      simp only [List.find?_cons, hx] at h ⊢
      exact ih h

/-- Bytes put into a copy's image. -/
theorem fillImage_fills {i : TileId} {id off : Nat} {bs : List Byte} {c : CopyCmd} (hc : (s.tile i).copy? id = some c) :
    (s.fillImage i id off bs).ports = s.ports ∧ ∃ d, ((s.fillImage i id off bs).tile i).copy? id = some d ∧
      d.image = c.image.take off ++ bs ++ c.image.drop (off + bs.length) := by
  simp only [State.fillImage, hc]
  have hid : c.id = id := copy?_id hc
  refine ⟨rfl, ?_⟩
  rw [tile_setTile]
  exact ⟨_, copy?_mapCopy hc hid, rfl⟩

/-- Where a request of a port has ended. -/
theorem endRequest_last (hp : (u.port p).pending = [r]) : ((u.endRequest p r).port p).pending = [] := by
  rw [endRequest_port, hp, List.erase_cons_head]

/-- The bytes of an answer in the image of its copy, and the port with nothing left to wait for. -/
theorem pump_fillImage {c : CopyCmd} {off : Nat} {bs : List Byte} (hp : (u.port p).pending = []) (hc : (u.tile r.tile).copy? r.copy = some c) :
    (((u.fillImage r.tile r.copy off bs).pump p).port p).pending = [] ∧
      ∃ d, (((u.fillImage r.tile r.copy off bs).pump p).tile r.tile).copy? r.copy = some d ∧
        d.image = c.image.take off ++ bs ++ c.image.drop (off + bs.length) := by
  obtain ⟨hport, d, hd, himg⟩ := fillImage_fills (off := off) (bs := bs) hc
  refine ⟨pump_pending _ p (by rw [State.port, hport]; exact hp), d, ?_, himg⟩
  rw [State.tile, pump_tiles]
  exact hd

theorem response_reads {c : CopyCmd} (h : Answers s u p ty 1 k r) (hk : k.status = 0) (hn : k.data.length = r.pkt.len)
    (hc : (u.tile r.tile).copy? r.copy = some c) : ∃ t, s.response mn p ty 1 k = .next t ∧ (t.port p).pending = [] ∧
      ∃ d, (t.tile r.tile).copy? r.copy = some d ∧ d.image = c.image.take r.off ++ k.data.take r.pkt.len ++
        c.image.drop (r.off + (k.data.take r.pkt.len).length) := by
  refine ⟨_, ?_, pump_fillImage (u := u.endRequest p r) (endRequest_last h.pending) ?_⟩
  · rw [response_answers h, if_neg (not_not.mpr hk)]
    simp only [show ptAmo = 3 from rfl, show ptRd = 1 from rfl, show ptWr = 2 from rfl, show ¬ ((1 : Byte) = 3) by decide,
      show ¬ ((1 : Byte) = 2) by decide, hn, ne_eq, not_true_eq_false, and_false, if_false, if_true]
  · rw [State.tile, (endRequest_ports u p r).2.2]
    exact hc

theorem logOutside_endRequest (u : State) (p : Fin 12) (r : PeerRequest) (w : WatchSrc) (ws : List (Nat × Nat × Option Nat)) :
    ((u.endRequest p r).logOutside w ws).port p = (u.endRequest p r).port p ∧ ((u.endRequest p r).logOutside w ws).tiles = u.tiles := by
  have hm := memFrame_logOutside (u.endRequest p r) w ws
  exact ⟨by rw [State.port, hm.ports]; rfl, hm.tiles.trans (endRequest_ports u p r).2.2⟩

theorem response_writes (h : Answers s u p ty 2 k r) (hk : k.status = 0) :
    ∃ t, s.response mn p ty 2 k = .next t ∧ (t.port p).pending = [] ∧ t.tiles = u.tiles := by
  obtain ⟨hport, htile⟩ := logOutside_endRequest u p r (copyWatch r.tile r.copy) [(r.pkt.offset, reachOf r.pkt, r.page)]
  refine ⟨_, ?_, pump_pending _ p (by rw [hport]; exact endRequest_last h.pending), (pump_tiles _ p).trans htile⟩
  rw [response_answers h, if_neg (not_not.mpr hk)]
  simp only [show ptRd = 1 from rfl, show ptWr = 2 from rfl, show ¬ ((2 : Byte) = 1) by decide, false_and, if_false, if_true]

theorem response_atomic {c : CopyCmd} (h : Answers s u p ty 3 k r) (hk : k.status = 0)
    (hc : (u.tile r.tile).copy? r.copy = some c) : ∃ t, s.response mn p ty 3 k = .next t ∧ (t.port p).pending = [] ∧
      ∃ d, (t.tile r.tile).copy? r.copy = some d ∧ d.image = c.image.take r.off ++ k.data.take (reachOf r.pkt) ++
        c.image.drop (r.off + (k.data.take (reachOf r.pkt)).length) := by
  obtain ⟨hport, htile⟩ := logOutside_endRequest u p r (copyWatch r.tile r.copy) [(r.pkt.offset, reachOf r.pkt, r.page)]
  refine ⟨_, ?_, pump_fillImage
    (u := (u.endRequest p r).logOutside (copyWatch r.tile r.copy) [(r.pkt.offset, reachOf r.pkt, r.page)]) ?_ ?_⟩
  · rw [response_answers h, if_neg (not_not.mpr hk)]
    simp only [show ptAmo = 3 from rfl, show ptRd = 1 from rfl, show ptWr = 2 from rfl, show ¬ ((3 : Byte) = 1) by decide,
      show ¬ ((3 : Byte) = 2) by decide, false_and, if_false, if_true]
  · rw [hport]
    exact endRequest_last h.pending
  · rw [State.tile, htile]
    exact hc

theorem peerRequestTimeout_fails (hp : (s.port p).pending = [r]) (hs : r.sent = true ∨ s.stuck p r = true) (ht : r.at' + 20000 ≤ s.time) :
    ∃ t, exec (.peerRequestTimeout p r.rid) s = .next t ∧ (t.port p).pending = [] ∧
      (t.port p).timeouts = satAdd32 (s.port p).timeouts 1 ∧
      (t.port p).stale = (if r.sent then (s.port p).stale ++ [r.rid] else (s.port p).stale) ∧ t.CopyFailing r := by
  have hfind : ([r] : List PeerRequest).find? (fun y => y.rid == r.rid && (y.sent || s.stuck p y) && decide (y.at' + 20000 ≤ s.time)) =
      some r := by
    have hor : (r.sent || s.stuck p r) = true := by simpa using hs
    simp [hor, ht]
  generalize hu : s.setPort p { s.port p with
    timeouts := satAdd32 (s.port p).timeouts 1, stale := if r.sent then (s.port p).stale ++ [r.rid] else (s.port p).stale } = u
  have hport : u.port p = { s.port p with
      timeouts := satAdd32 (s.port p).timeouts 1, stale := if r.sent then (s.port p).stale ++ [r.rid] else (s.port p).stale } := by
    rw [← hu, port_setPort]
  obtain ⟨hpend, hfail⟩ := failRequest_last (u := u) (p := p) (r := r) (by rw [hport]; exact hp)
  obtain ⟨-, htime, hstale⟩ := (sends_pump (u.failRequest p r) p).1.kept
  refine ⟨(u.failRequest p r).pump p, ?_, hpend, ?_, ?_, hfail⟩
  · show execPeerRequestTimeout p r.rid s = _
    simp only [execPeerRequestTimeout, hp, hfind, satInc, ← hu]
    rfl
  · rw [htime, failRequest_port, hport]
  · rw [hstale, failRequest_port, hport]

/-! ## Links going down and up (R394, R397) -/

theorem fails_noteDrained (s : State) : s.Fails s.noteDrained := by
  unfold State.noteDrained
  exact fails_of_frame rfl rfl rfl rfl

theorem linkDown_drops (h : (s.port p).up = true) : ∃ t, exec (.linkDown p) s = .next t ∧ (∀ r ∈ (s.port p).pending, t.CopyFailing r) ∧
    t.port p = { s.port p with up := false, credits := 0, owed := 0, rx := [], replies := [], pending := [], stale := [],
                               timeouts := satAdd32 (s.port p).timeouts (s.port p).pending.length } := by
  generalize hy : ({ s.port p with
    up := false, credits := 0, owed := 0, rx := [], replies := [], stale := [],
    timeouts := satAdd32 (s.port p).timeouts (s.port p).pending.length } : Port) = y
  have hyp : y.pending = (s.port p).pending := by rw [← hy]
  have hport : (s.putPort p y).port p = y := port_putPort ..
  have hex : exec (.linkDown p) s = .next ((s.putPort p y).failRequests p (s.port p).pending).noteDrained := by
    show execLinkDown p s = _
    simp only [execLinkDown, State.dropLink, h, if_true, hy]
  refine ⟨_, hex, fun r hr => ?_, ?_⟩
  · exact (fails_noteDrained _).failing r (failRequests_failing (s.putPort p y) p hr)
  · rw [State.port, noteDrained_ports, ← State.port]
    obtain ⟨hk, -⟩ := failRequests_ports p p (s.port p).pending (s.putPort p y)
    have hnone := failRequests_none p (pick := fun _ => true) (s.port p).pending (s.putPort p y) (fun _ _ => rfl)
      (by rw [hport, hyp]; exact List.filter_sublist)
    rw [List.filter_true] at hnone
    generalize ((s.putPort p y).failRequests p (s.port p).pending).port p = z at hk hnone ⊢
    rw [hport] at hk
    calc z = { z with pending := [] } := by rw [← hnone]
      _ = { y with pending := [] } := congrArg (fun x : Port => { x with pending := [] }) hk
      _ = _ := by rw [← hy]

theorem linkUp_trains (he : (s.port p).en = true) (hu : (s.port p).up = false) (hp : (s.port p).pending = [])
    (hr : (s.port p).replies = []) : ∃ t, exec (.linkUp p) s = .next t ∧
      t.port p = { s.port p with
        up := true, credits := 64, owed := 0,
        tx := if s.regs.viral = true ∧ (s.port p).fenced = false then (s.port p).tx ++ [.viral] else (s.port p).tx } ∧ t.tiles = s.tiles := by
  have hy : (if s.regs.viral = true then Port.tellViral { s.port p with up := true, credits := 64, owed := 0 }
      else { s.port p with up := true, credits := 64, owed := 0 }) = { s.port p with
        up := true, credits := 64, owed := 0,
        tx := if s.regs.viral = true ∧ (s.port p).fenced = false then (s.port p).tx ++ [.viral] else (s.port p).tx } := by
    by_cases hv : s.regs.viral = true <;> by_cases hf : (s.port p).fenced = false <;> simp [Port.tellViral, hv, hf, he]
  have hex : exec (.linkUp p) s = .next ((s.putPort p (if s.regs.viral = true then
      Port.tellViral { s.port p with up := true, credits := 64, owed := 0 }
      else { s.port p with up := true, credits := 64, owed := 0 })).pump p) := by
    show execLinkUp p s = _
    simp only [execLinkUp, he, hu, Bool.not_false, Bool.and_self, if_true]
  rw [hy] at hex
  generalize hz : ({ s.port p with
    up := true, credits := 64, owed := 0,
    tx := if s.regs.viral = true ∧ (s.port p).fenced = false then (s.port p).tx ++ [.viral] else (s.port p).tx } : Port) = z at hex ⊢
  have hport : (s.putPort p z).port p = z := port_putPort ..
  rw [pump_quiet (by rw [hport, ← hz]; exact hp) (by rw [hport, ← hz]; exact hr)] at hex
  exact ⟨_, hex, hport, (memFrame_putPort s p z).tiles⟩

theorem keyExhausted_told {slot : Fin 8} {key : KeySlot} (hk : s.keys[slot] = some key) (hs : 2 ^ 48 ≤ key.sent[p])
    (hx : (s.port p).keyExh = false) : exec (.keyExhausted p slot) s = .next (s.setPort p { s.port p with keyExh := true }) := by
  have hlim : keyLimit ≤ key.sent[p] := hs
  show execKeyExhausted p slot s = _
  simp only [execKeyExhausted, hk, hlim, hx, Bool.not_false, and_self, if_true]

end

end Sys2Proof.Machine
end

section
namespace Sys2Proof.Machine

/-! ## Windows revoked and drained (R402, R404) -/

section
variable {s t : State} {p q : Fin 12} {r : PeerRequest} {w : Fin 32} {pick : PeerRequest → Bool} {kind : WindowKind}

/-! ### The requests of an import window fail -/

/-- What failing a window's requests does at one port. -/
def State.failWindowAt (s : State) (w : Fin 32) (pick : PeerRequest → Bool) (p : Fin 12) : State :=
  let x := s.port p
  let rs := x.pending.filter fun r => r.win == w && pick r
  ((s.setPort p { x with stale := x.stale ++ (rs.filter PeerRequest.sent).map PeerRequest.rid }).failRequests p rs).pump p

theorem failWindow_eq (s : State) (w : Fin 32) (pick : PeerRequest → Bool) :
    s.failWindow w pick = (List.finRange 12).foldl (fun s p => s.failWindowAt w pick p) s := rfl

theorem fails_failWindowAt (s : State) (w : Fin 32) (pick : PeerRequest → Bool) (p : Fin 12) : s.Fails (s.failWindowAt w pick p) :=
  ((fails_setPort ..).trans (fails_failRequests ..)).trans (sends_pump _ p).1.fails

theorem fails_failWindow (s : State) (w : Fin 32) (pick : PeerRequest → Bool) : s.Fails (s.failWindow w pick) :=
  fails_foldl (fun s p => fails_failWindowAt s w pick p) _ s

/-- A request at another port stays there, or its copy has failed. -/
theorem failRequests_keeps (h : q ≠ p) : ∀ (rs : List PeerRequest) (s : State), r ∈ (s.port q).pending →
    r ∈ ((s.failRequests p rs).port q).pending ∨ (s.failRequests p rs).CopyFailing r
  | [], _, hr => .inl hr
  | x :: rs, s, hr => by
    by_cases hx : r.stays x.tile x.copy = true
    · refine failRequests_keeps h rs (s.failRequest p x) ?_
      rw [failRequest_port_ne s x h]
      exact List.mem_filter.mpr ⟨hr, hx⟩
    · have hsame : (r.tile = x.tile ∧ r.copy = x.copy) ∧ r.sent = false := by simpa [PeerRequest.stays] using hx
      exact .inr ((fails_failRequests (s.failRequest p x) p rs).failing r ((copyFails_window _ x.tile x.copy).2.1 r hsame.1.1 hsame.1.2))

theorem failWindowAt_keeps (h : q ≠ p) (hr : r ∈ (s.port q).pending) :
    r ∈ ((s.failWindowAt w pick p).port q).pending ∨ (s.failWindowAt w pick p).CopyFailing r := by
  unfold State.failWindowAt
  dsimp only
  generalize (s.port p).pending.filter _ = rs
  generalize hu : s.setPort p _ = u
  have hru : r ∈ (u.port q).pending := by rw [← hu, port_setPort_ne _ _ h]; exact hr
  have hs := (sends_pump (u.failRequests p rs) p).1
  rw [hs.others q h]
  exact (failRequests_keeps h rs u hru).imp_right (hs.fails.failing r)

theorem failWindowAt_failing (hr : r ∈ (s.port p).pending) (hw : r.win = w) (hp : pick r = true) :
    (s.failWindowAt w pick p).CopyFailing r := by
  have hmem : r ∈ (s.port p).pending.filter fun r => r.win == w && pick r := List.mem_filter.mpr ⟨hr, by simp [hw, hp]⟩
  exact (sends_pump _ p).1.fails.failing r (failRequests_failing _ p hmem)

/-- The copy of every request of the window that the test picks fails. -/
theorem failWindow_failing (hr : r ∈ (s.port q).pending) (hw : r.win = w) (hp : pick r = true) : (s.failWindow w pick).CopyFailing r := by
  have hfold : ∀ (xs : List (Fin 12)) (s : State), (r ∈ (s.port q).pending ∧ q ∈ xs) ∨ s.CopyFailing r →
      (xs.foldl (fun s p => s.failWindowAt w pick p) s).CopyFailing r := by
    intro xs
    induction xs with
    | nil => exact fun s h => h.elim (fun h => nomatch h.2) id
    | cons p xs ih =>
      refine fun s h => ih _ ?_
      rcases h with ⟨hr, hq⟩ | h
      · by_cases hqp : q = p
        · subst hqp
          exact .inr (failWindowAt_failing hr hw hp)
        · exact (failWindowAt_keeps hqp hr).imp_left fun hm => ⟨hm, (List.mem_cons.mp hq).resolve_left hqp⟩
      · exact .inr ((fails_failWindowAt s w pick p).failing r h)
  rw [failWindow_eq]
  exact hfold _ s (.inl ⟨hr, List.mem_finRange q⟩)

theorem failWindowAt_sublist (s : State) (w : Fin 32) (pick : PeerRequest → Bool) (h : q ≠ p) :
    ((s.failWindowAt w pick p).port q).pending.Sublist (s.port q).pending := by
  unfold State.failWindowAt
  dsimp only
  generalize (s.port p).pending.filter _ = rs
  generalize hu : s.setPort p _ = u
  have hru : u.port q = s.port q := by rw [← hu, port_setPort_ne _ _ h]
  rw [(sends_pump (u.failRequests p rs) p).1.others q h, ← hru]
  exact (failRequests_ports p q rs u).2

theorem failWindowAt_none (s : State) (w : Fin 32) (p : Fin 12) : ∀ r ∈ ((s.failWindowAt w (fun _ => true) p).port p).pending, r.win ≠ w := by
  intro r hr hw
  obtain ⟨x, hx, hwin⟩ := (sends_pump _ p).2 r hr
  have hnone := failRequests_none p (pick := fun r => r.win == w && true)
    ((s.port p).pending.filter fun r => r.win == w && true)
    (s.setPort p { s.port p with stale := (s.port p).stale ++
      (((s.port p).pending.filter fun r => r.win == w && true).filter PeerRequest.sent).map PeerRequest.rid })
    (fun r hr => (List.mem_filter.mp hr).2) (by rw [port_setPort])
  have hmem := List.mem_filter (p := fun r : PeerRequest => r.win == w && true).mpr ⟨hx, by simp [← hwin, hw]⟩
  rw [hnone] at hmem
  exact nomatch hmem

/-- No request of the window is left. -/
theorem failWindow_none (s : State) (w : Fin 32) (q : Fin 12) : ∀ r ∈ ((s.failWindow w fun _ => true).port q).pending, r.win ≠ w := by
  rw [failWindow_eq]
  refine foldl_made (P := fun (s : State) q => ∀ r ∈ (s.port q).pending, r.win ≠ w) (fun s i j h r hr => ?_)
    (fun s i => failWindowAt_none s w i) _ s (.inr (List.mem_finRange q))
  by_cases hij : i = j
  · subst hij
    exact failWindowAt_none s w i r hr
  · exact h r ((failWindowAt_sublist s w _ hij).subset hr)

theorem windowEnClear_imp (hv : s.regs.viral = false) (he : (s.imps[w]).en = true) :
    ∃ t, exec (.windowEnClear .imp w) s = .next t ∧ (t.imps[w]).en = false ∧
      ∀ q, ∀ r ∈ (s.port q).pending, r.win = w → r.sent = false → t.CopyFailing r := by
  have hex : exec (.windowEnClear .imp w) s = .next (s.revoke .imp w) := by
    show execWindowEnClear .imp w s = _
    simp only [execWindowEnClear, State.windowBits, he, hv, Bool.not_false, Bool.and_self, if_true]
  unfold State.revoke at hex
  dsimp only at hex
  rw [if_pos he] at hex
  generalize hu : ({ s with imps := s.imps.set w.val { s.imps[w] with en := false } w.isLt } : State) = u at hex
  have hport (q : Fin 12) : u.port q = s.port q := by rw [← hu]; rfl
  have hen : (u.imps[w]).en = false := by
    rw [← hu]
    simp
  have hfails := fails_failWindow u w fun r => !r.sent
  have hfailing (q : Fin 12) (r : PeerRequest) (hr : r ∈ (s.port q).pending) (hw : r.win = w) (hsent : r.sent = false) :=
    failWindow_failing (s := u) (q := q) (pick := fun r => !r.sent) (by rw [hport]; exact hr) hw (by rw [hsent]; rfl)
  generalize u.failWindow w _ = v at hex hfails hfailing
  refine ⟨_, hex, ?_, hfailing⟩
  simp only [Fin.getElem_fin, Vector.getElem_set_self]
  exact (hfails.en w).trans hen

theorem windowEnClear_exp (hv : s.regs.viral = false) (he : (s.exps[w]).en = true) :
    ∃ t, exec (.windowEnClear .exp w) s = .next t ∧ t = { s with exps := t.exps } ∧
      t.exps[w] = { s.exps[w] with en := false, drained := !s.expBusy w } := by
  have hex : exec (.windowEnClear .exp w) s = .next (s.revoke .exp w) := by
    show execWindowEnClear .exp w s = _
    simp only [execWindowEnClear, State.windowBits, he, hv, Bool.not_false, Bool.and_self, if_true]
  refine ⟨_, hex, ?_⟩
  simp only [State.revoke, he, if_true]
  refine ⟨trivial, ?_⟩
  simp only [Fin.getElem_fin, Vector.getElem_set_self]

/-! ### The requests that wait for an export window are refused -/

/-- A request that a packet makes of a window. -/
def asksWindow (w : Fin 32) (k : Packet) : Bool := isRequest k && k.xw.toNat == w.val

theorem sends_answer (s : State) (p : Fin 12) (slot : Fin 8) (k : Packet) (st : Byte) (data : List Byte) :
    State.Sends p s (s.answer p slot k st data) := sends_setPort rfl

theorem sends_foldl {α : Type} {g : State → α → State} (hg : ∀ s x, State.Sends p s (g s x)) :
    ∀ (xs : List α) (s : State), State.Sends p s (xs.foldl g s)
  | [], s => .refl p s
  | x :: xs, s => (hg s x).trans (sends_foldl hg xs _)

theorem sends_refuseRequests (s : State) (w : Fin 32) (p : Fin 12) :
    State.Sends p (s.setPort p { s.port p with rx := (s.port p).rx.filter fun r => !asksWindow w r.2 }) (s.refuseRequests w p) := by
  unfold State.refuseRequests asksWindow
  dsimp only
  generalize s.setPort p _ = u
  exact (sends_foldl (fun _ _ => sends_answer ..) _ u).trans (sends_pump _ p).1

theorem fails_refuseRequests (s : State) (w : Fin 32) (p : Fin 12) : s.Fails (s.refuseRequests w p) :=
  (fails_setPort ..).trans (sends_refuseRequests s w p).fails

theorem refuseRequests_rx (s : State) (w : Fin 32) (p q : Fin 12) : ((s.refuseRequests w p).port q).rx =
    if q = p then (s.port q).rx.filter fun r => !asksWindow w r.2 else (s.port q).rx := by
  have hs := sends_refuseRequests s w p
  split
  · rename_i h
    subst h
    rw [hs.kept.1, port_setPort]
  · rename_i h
    rw [hs.others q h, port_setPort_ne _ _ h]

theorem foldl_refuseRequests_rx (w : Fin 32) (q : Fin 12) : ∀ (xs : List (Fin 12)) (s : State),
    ((xs.foldl (fun s p => s.refuseRequests w p) s).port q).rx =
      if q ∈ xs then (s.port q).rx.filter fun r => !asksWindow w r.2 else (s.port q).rx
  | [], s => rfl
  | p :: xs, s => by
    rw [List.foldl_cons, foldl_refuseRequests_rx w q xs, refuseRequests_rx]
    by_cases hp : q = p <;> by_cases hx : q ∈ xs <;> simp [hp, hx, List.filter_filter]

/-! ### The end of a revocation -/

/-- A state after a revocation, with the answer to the command that asked for it. -/
def State.revokeTold (s t : State) (kind : WindowKind) (w : Fin 32) : State :=
  if s.regs.revoking == some (kind, w) then { t with regs := { t.regs with revoking := none }, reply := some ⟨0, []⟩ } else t

theorem exec_windowDrained (h : s.windowBits kind w = (false, false)) :
    exec (.windowDrained kind w) s = .next (s.revokeTold (s.drain kind w) kind w) := by
  show execWindowDrained kind w s = _
  simp only [execWindowDrained, h, Bool.not_false, Bool.and_true, Bool.false_and, Bool.or_self, Bool.false_eq_true, if_false]
  rfl

theorem revokeTold_frame (s t : State) (kind : WindowKind) (w : Fin 32) : (s.revokeTold t kind w).ports = t.ports ∧
    (s.revokeTold t kind w).tiles = t.tiles ∧ (s.revokeTold t kind w).imps = t.imps ∧ (s.revokeTold t kind w).exps = t.exps := by
  unfold State.revokeTold
  split <;> exact ⟨rfl, rfl, rfl, rfl⟩

/-- Whether the command that waits for a revocation has its answer. -/
theorem revokeTold_asked (hv : t.regs.revoking = s.regs.revoking) (hy : t.reply = s.reply) (kind : WindowKind) (w : Fin 32) :
    if s.regs.revoking = some (kind, w) then (s.revokeTold t kind w).regs.revoking = none ∧ (s.revokeTold t kind w).reply = some ⟨0, []⟩
    else (s.revokeTold t kind w).regs.revoking = s.regs.revoking ∧ (s.revokeTold t kind w).reply = s.reply := by
  unfold State.revokeTold
  by_cases hr : s.regs.revoking = some (kind, w)
  · rw [if_pos hr, if_pos (beq_iff_eq.mpr hr)]
    exact ⟨rfl, rfl⟩
  · rw [if_neg hr, if_neg (fun hc => hr (beq_iff_eq.mp hc))]
    exact ⟨hv, hy⟩

theorem windowDrained_exp (he : (s.exps[w]).en = false) (hd : (s.exps[w]).drained = false) :
    ∃ t, exec (.windowDrained .exp w) s = .next t ∧ (t.exps[w]).drained = true ∧
      (if s.regs.revoking = some (.exp, w) then t.regs.revoking = none ∧ t.reply = some ⟨0, []⟩
        else t.regs.revoking = s.regs.revoking ∧ t.reply = s.reply) ∧
      ∀ q, (t.port q).rx = (s.port q).rx.filter fun r => !(isRequest r.2 && r.2.xw.toNat == w.val) := by
  have hex := exec_windowDrained (s := s) (kind := .exp) (w := w) (by simp only [State.windowBits, he, hd])
  have hfails : s.Fails ((List.finRange 12).foldl (fun s p => s.refuseRequests w p) s) :=
    fails_foldl (fun s p => fails_refuseRequests s w p) _ s
  have hrx (q : Fin 12) := foldl_refuseRequests_rx w q (List.finRange 12) s
  unfold State.drain at hex
  dsimp only at hex
  generalize (List.finRange 12).foldl _ s = u at hex hfails hrx
  generalize hv : ({ u with exps := u.exps.set w.val { u.exps[w] with drained := true } w.isLt } : State) = v at hex
  obtain ⟨hports, -, -, hexps⟩ := revokeTold_frame s v .exp w
  have hasked := revokeTold_asked (s := s) (t := v) (by rw [← hv]; exact hfails.revoking) (by rw [← hv]; exact hfails.reply) .exp w
  refine ⟨_, hex, ?_, hasked, fun q => ?_⟩
  · rw [hexps, ← hv]
    simp only [Fin.getElem_fin, Vector.getElem_set_self]
  · rw [State.port, hports, ← hv]
    exact (hrx q).trans (if_pos (List.mem_finRange q))

theorem windowDrained_imp (he : (s.imps[w]).en = false) (hd : (s.imps[w]).drained = false) :
    ∃ t, exec (.windowDrained .imp w) s = .next t ∧ (t.imps[w]).drained = true ∧
      (if s.regs.revoking = some (.imp, w) then t.regs.revoking = none ∧ t.reply = some ⟨0, []⟩
        else t.regs.revoking = s.regs.revoking ∧ t.reply = s.reply) ∧
      ∀ q, (∀ r ∈ (t.port q).pending, ¬ r.win = w) ∧ ∀ r ∈ (s.port q).pending, r.win = w → t.CopyFailing r := by
  have hex := exec_windowDrained (s := s) (kind := .imp) (w := w) (by simp only [State.windowBits, he, hd])
  have hfails := fails_failWindow s w fun _ => true
  have hnone := failWindow_none s w
  have hfailing (q : Fin 12) (r : PeerRequest) (hr : r ∈ (s.port q).pending) (hw : r.win = w) :=
    failWindow_failing (pick := fun _ => true) hr hw rfl
  unfold State.drain at hex
  dsimp only at hex
  generalize s.failWindow w _ = u at hex hfails hnone hfailing
  generalize hv : ({ u with imps := u.imps.set w.val { u.imps[w] with drained := true } w.isLt } : State) = v at hex
  have htiles : v.tiles = u.tiles := by rw [← hv]
  obtain ⟨hports, ht, himps, -⟩ := revokeTold_frame s v .imp w
  have hasked := revokeTold_asked (s := s) (t := v) (by rw [← hv]; exact hfails.revoking) (by rw [← hv]; exact hfails.reply) .imp w
  refine ⟨_, hex, ?_, hasked, fun q => ⟨?_, fun r hr hw c hc => ?_⟩⟩
  · rw [himps, ← hv]
    simp only [Fin.getElem_fin, Vector.getElem_set_self]
  · rw [State.port, hports, ← hv]
    exact hnone q
  · rw [State.tile, ht, htiles] at hc
    exact hfailing q r hr hw c hc

end

end Sys2Proof.Machine
end

section
namespace Sys2Proof.Machine

/-! ## The first packet of a port (R396, R397) -/

section
variable {s t : State} {p : Fin 12} {slot : Fin 8} {k : Packet} {rest : List (Fin 8 × Packet)} {r : PeerRequest} {mn : String} {ty req : Byte}

/-- A packet that is the first of a port that takes packets. -/
structure FirstRx (s : State) (p : Fin 12) (slot : Fin 8) (k : Packet) (rest : List (Fin 8 × Packet)) : Prop where
  rx : (s.port p).rx = (slot, k) :: rest
  fenced : (s.port p).fenced = false
  viral : s.regs.viral = false

theorem FirstRx.taken (h : FirstRx s p slot k rest) (ht : k.ptype = ty) : s.takeRx p ty k = some (s.rxTaken p rest, slot) :=
  takeRx_first h.rx h.fenced h.viral ht

/-! ### Requests -/

theorem FirstRx.answered (h : FirstRx s p slot k rest) (ht : k.ptype = ty) {st : Byte} {data : List Byte}
    (hs : (s.rxTaken p rest).serve p k = (t, st, data)) : s.request mn p ty k = .next (t.answered p slot k st data) :=
  request_answered (h.taken ht) hs

theorem FirstRx.refused (h : FirstRx s p slot k rest) (ht : k.ptype = ty) (hw : s.windowStatus k ≠ 0) :
    s.request mn p ty k = .next ((s.rxTaken p rest).answered p slot k (s.windowStatus k) (emptyAnswer k)) :=
  h.answered ht (serve_refused hw)

/-! ### Responses -/

theorem rxTaken_port (s : State) (p : Fin 12) (rest : List (Fin 8 × Packet)) : (s.rxTaken p rest).port p = { s.port p with rx := rest } :=
  port_setPort ..

theorem FirstRx.late (h : FirstRx s p slot k rest) (ht : k.ptype = ty) (hl : ∃ n ∈ (s.port p).stale, n.setWidth 16 = k.rid) :
    s.response mn p ty req k =
      .next (s.setPort p { s.port p with rx := rest, stale := (s.port p).stale.erase (k.rid.setWidth 12) }) := by
  rw [response_late (h.taken ht) (by rw [rxTaken_port]; exact hl), rxTaken_port, State.rxTaken, setPort_setPort]

theorem FirstRx.unmatched (h : FirstRx s p slot k rest) (ht : k.ptype = ty) (hl : ¬ ∃ n ∈ (s.port p).stale, n.setWidth 16 = k.rid)
    (hp : (s.port p).pending = []) : s.response mn p ty req k = .next (s.rxTaken p rest) :=
  response_unmatched (h.taken ht) (by rw [rxTaken_port]; exact hl) (by rw [rxTaken_port]; exact hp)

theorem FirstRx.answers (h : FirstRx s p slot k rest) (ht : k.ptype = ty) (hl : ¬ ∃ n ∈ (s.port p).stale, n.setWidth 16 = k.rid)
    (hp : (s.port p).pending = [r]) (hs : r.sent = true) (hid : r.rid.setWidth 16 = k.rid) (hk : r.pkt.ptype = req) :
    Answers s (s.rxTaken p rest) p ty req k r where
  taken := ⟨slot, h.taken ht⟩
  prompt := by rw [rxTaken_port]; exact hl
  pending := by rw [rxTaken_port]; exact hp
  sent := hs
  rid := hid
  kind := hk

end

/-! ## The obligation -/

/-- Settles O58: each port, packet and window event by its own lemma, the requests of a failed window by an induction over the ports. -/
theorem peerLinksCarryRequestsAndAnswers : Obligations.PeerLinksCarryRequestsAndAnswers := by
  unfold Obligations.PeerLinksCarryRequestsAndAnswers
  intro s p x put quiet failing
  refine ⟨fun sender bytes he hu => ?_, fun he hu => ⟨viralFlit_fences he hu, fun ty => invalidFlit_drops he hu⟩,
    fun slot k rest hrx hf hv => ?_, fun r hp hs ht => peerRequestTimeout_fails hp hs ht, linkDown_drops,
    fun he hu ⟨hp, hr⟩ => linkUp_trains he hu hp hr, fun slot key => keyExhausted_told,
    fun w => ⟨windowEnClear_exp, windowEnClear_imp, windowDrained_exp, windowDrained_imp⟩⟩
  · intro g
    refine ⟨flitGroup_ignored he hu, fun hf hv => ⟨flitGroup_unbounded ⟨he, hu, hf⟩ hv, fun hlow hhigh => ?_⟩⟩
    have hn : ¬ (g.nflit = 0 ∨ 16 < g.nflit) := by omega
    refine ⟨fun hk => flitGroup_untagged ⟨he, hu, hf⟩ hv hn (slotFor_eq_none hk), fun k y hs hk => ⟨fun hbad => ?_, ?_⟩⟩
    · refine flitGroup_dropped ⟨he, hu, hf⟩ hv hn hs hk ?_
      rcases hbad with ho | hbad
      · rw [ho, ite_self]
      · exact if_neg (by rw [follows_eq_false hbad]; exact Bool.false_ne_true)
    · intro payload ho hd hc hq
      have hopen : (if y.follows p s.regs.nodeId g then openGroup y.key sender bytes else none) = some payload := by
        rw [if_pos (follows_eq_true hd hc), ho]
      obtain ⟨hkeys, hport⟩ := groupOpened_quiet (s := s) (k := k) (key := y) (g := g) (payload := payload) hq.1 hq.2
      refine ⟨_, _, flitGroup_opened ⟨he, hu, hf⟩ hv hn hs hk hopen, hkeys, ?_, fun pk n hpay hz hl hoff hdata => ?_⟩
      · simp
      · rw [hport, hpay]
        exact takePackets_one hz hl hoff hdata
  · intro s1 pa w none' answered status noted logged n
    have hrx : FirstRx s p slot k rest := ⟨hrx, hf, hv⟩
    refine ⟨windowStatus_revoked, windowStatus_noAccess,
      ⟨fun ht => hrx.refused ht, fun ht => hrx.refused ht, fun ht => hrx.refused ht⟩, fun hw => ?_,
      fun t st data key hk hs hc hr hp => answered_tx hk hs hc hr hp, ?_⟩
    · exact ⟨fun t bs ht hr => hrx.answered ht (serve_rd hw ht hr),
        fun t e ht hr => hrx.answered ht (serve_rdFails hw ht hr),
        fun t ht hr => hrx.answered ht (serve_wr hw ht hr),
        fun t e ht hr => hrx.answered ht (serve_wrFails hw ht hr),
        fun t bs op ht hr ho => hrx.answered ht (serve_amo hw ht hr ho),
        fun t e ht hr => hrx.answered ht (serve_amoFails hw ht hr)⟩
    · intro late gone
      refine ⟨fun hl => ⟨fun ht => hrx.late ht hl, fun ht => hrx.late ht hl, fun ht => hrx.late ht hl⟩,
        fun hl hp => ⟨fun ht => hrx.unmatched ht hl hp, fun ht => hrx.unmatched ht hl hp, fun ht => hrx.unmatched ht hl hp⟩,
        fun r c hl hp hs hid hc => ⟨fun ht hk => ?_, fun ht hk => ?_, fun ht hk => ?_⟩⟩
      · have ha := hrx.answers ht hl hp hs hid hk
        exact ⟨response_fails ha, fun hst hn => response_reads ha hst hn hc⟩
      · have ha := hrx.answers ht hl hp hs hid hk
        exact ⟨response_fails ha, fun hst => response_writes (u := s.rxTaken p rest) ha hst⟩
      · have ha := hrx.answers ht hl hp hs hid hk
        exact ⟨response_fails ha, fun hst => response_atomic ha hst hc⟩

end Sys2Proof.Machine
end
